-- ==== Sys2Proof/Word.lean ====
section
/-! DEFINITION. The words of the KTD-256: bytes, 32-bit words (parcels, registers), 64-bit words (R4, R6). -/
namespace Sys2Proof

/-- A byte. -/
abbrev Byte := BitVec 8

/-- A 32-bit word: one register or one parcel (R7, R155). -/
abbrev Word := BitVec 32

/-- A 64-bit word: a d-register, a system register, a code pointer (R166, R195). -/
abbrev DWord := BitVec 64

/-- The pair of a low and a high word (R109, R166: the low word is the least significant). -/
abbrev pair (lo hi : Word) : DWord := hi ++ lo

/-- The low word of a pair. -/
abbrev loWord (v : DWord) : Word := v.extractLsb' 0 32

/-- The high word of a pair. -/
abbrev hiWord (v : DWord) : Word := v.extractLsb' 32 32

/-- Division rounded up, for sizes. -/
abbrev ceilDiv (n d : Nat) : Nat := (n + d - 1) / d

end Sys2Proof
end

