-- ==== Sys2Proof/Machine/Table.lean ====
section
/-! DEFINITION. Sparse tables with keys in rising order: the one representation of everything the machine holds many of. -/
namespace Sys2Proof

/-- A table: pairs of key and content, keys strictly rising. -/
abbrev Tbl (α : Type) := List (Nat × α)

/-- The content at a key. -/
def Tbl.find {α : Type} : Tbl α → Nat → Option α
  | [], _ => none
  | (j, v) :: rest, k => if j = k then some v else Tbl.find rest k

/-- The content at a key, or a default. -/
def Tbl.get {α : Type} (t : Tbl α) (k : Nat) (d : α) : α := (t.find k).getD d

/-- Put a content at a key, in its place. -/
def Tbl.put {α : Type} : Tbl α → Nat → α → Tbl α
  | [], k, v => [(k, v)]
  | (j, w) :: rest, k, v =>
    if k < j then (k, v) :: (j, w) :: rest
    else if k = j then (k, v) :: rest
    else (j, w) :: Tbl.put rest k v

/-- Take away the content at a key. -/
def Tbl.del {α : Type} : Tbl α → Nat → Tbl α
  | [], _ => []
  | (j, w) :: rest, k => if j = k then rest else (j, w) :: Tbl.del rest k

/-- Put a content, or take the key away. -/
def Tbl.set {α : Type} (t : Tbl α) (k : Nat) : Option α → Tbl α
  | some v => t.put k v
  | none => t.del k

/-- Change the content at a key where there is one. -/
def Tbl.modify {α : Type} (t : Tbl α) (k : Nat) (f : α → α) : Tbl α :=
  match t.find k with
  | some v => t.put k (f v)
  | none => t

/-- Change every content. -/
def Tbl.mapVals {α β : Type} (t : Tbl α) (f : Nat → α → β) : Tbl β := t.map fun p => (p.1, f p.1 p.2)

/-- The entries that meet a test. -/
def Tbl.select {α : Type} (t : Tbl α) (p : Nat → α → Bool) : Tbl α := t.filter fun e => p e.1 e.2

/-- The first entry that meets a test. -/
def Tbl.first {α : Type} (t : Tbl α) (p : Nat → α → Bool) : Option (Nat × α) := t.find? fun e => p e.1 e.2

/-- The lowest key from `k` on, among `n` keys, that the table does not hold. -/
def Tbl.freeFrom {α : Type} (t : Tbl α) (k : Nat) : Nat → Option Nat
  | 0 => none
  | n + 1 => if (t.find k).isNone then some k else Tbl.freeFrom t (k + 1) n

end Sys2Proof
end

