-- ==== Sys2Proof/Syntax.lean ====
section
/-! DEFINITION. The instructions and events of the KTD-256: one constructor for each row of the opcode table
(spec/opcode_table.json), with the fields of the formats of R156 to R162. -/
namespace Sys2Proof

/-- The guard predicate and run mark of every instruction's parcel 0 (R156, R157, R158). -/
structure Header where
  pred : BitVec 3
  rb : BitVec 2
  deriving DecidableEq, Repr

/-- Format Q (R159): operand codes A and B and the last-use bit of B. -/
structure FormQ where
  hdr : Header
  a : BitVec 8
  b : BitVec 8
  lb : Bool
  deriving DecidableEq, Repr

/-- Format QI (R159): operand code A and the 9-bit immediate. -/
structure FormQI where
  hdr : Header
  a : BitVec 8
  imm : BitVec 9
  deriving DecidableEq, Repr

/-- Format QB (R159): the 16-bit offset in 4-byte units and the spare bit. -/
structure FormQB where
  hdr : Header
  off : BitVec 16
  spare : Bool
  deriving DecidableEq, Repr

/-- Format W (R160), and the first two parcels of format X (R162): four operand codes, last-use bits, trap bits,
MOD6 and SUB5. -/
structure FormW where
  hdr : Header
  a : BitVec 8
  b : BitVec 8
  c : BitVec 8
  d : BitVec 8
  lb : Bool
  lc : Bool
  ld : Bool
  tb : Bool
  tc : Bool
  td : Bool
  mod : BitVec 6
  sub : BitVec 5
  deriving DecidableEq, Repr

/-- Format WI (R161): operand codes A and B, SUB5, MOD3 and the 24-bit immediate. -/
structure FormWI where
  hdr : Header
  a : BitVec 8
  b : BitVec 8
  lb : Bool
  sub : BitVec 5
  mod : BitVec 3
  imm : BitVec 24
  deriving DecidableEq, Repr

/-- The two host ports (R361). -/
inductive HostPort where
  | a
  | b
  deriving DecidableEq, Repr

/-- The register space a REGISTER_WRITE reaches (R8): the PF's management window, the BAR 0 of a function written by
its host through a port, or the system registers of a core written through the PF's management window. -/
inductive RegSpace where
  | mgmt (port : HostPort)
  | bar0 (port : HostPort) (vf : Nat)
  | core (core : Nat)
  deriving DecidableEq, Repr

/-- The ways of out-of-band management (R373). -/
inductive MctpPath where
  | i3c
  | pcie (port : HostPort)
  deriving DecidableEq, Repr

/-- The reset levels above the crew kill (R370), with what each names. -/
inductive ResetLevel where
  | flr (vf : Nat)
  | partition (n : Nat)
  | core (core : Nat)
  | die (die : Nat)
  | warm
  | cold (image : List Byte)
  deriving DecidableEq, Repr

/-- What the responder of R375 is asked for, as far as the rules tell requests apart: algorithms, measurements, the
key exchange that opens a session, its end, or any other request by its code. -/
inductive SpdmRequest where
  | algorithms
  | measurements (block : Nat)
  | openSession
  | endSession
  | other (code : Nat)
  deriving DecidableEq, Repr

/-- Where a storage error lies (R136). -/
inductive EccLocation where
  | scratch (core granule : Nat)
  | weight (core granule : Nat)
  | frame (tenant segment : Nat)
  | cacheClean (core line : Nat)
  | cacheDirty (core line : Nat)
  | l2Copy (die line : Nat)
  | home (line : Nat)
  | accumulator (core ctx : Nat)
  | sluice (io : Nat)
  deriving DecidableEq, Repr

/-- A Porong packet (R333): the fields of the 48-byte header and the fragment data. -/
structure Packet where
  type : Nat
  ver : Nat
  k : Nat
  m : Nat
  msgId : Nat
  stripe : Nat
  index : Nat
  flen : Nat
  round : Nat
  epoch : Nat
  op : Nat
  msgLen : Nat
  immv : Word
  rkey : Word
  dcore : Nat
  dvf : Nat
  dstDev : Nat
  srcDev : Nat
  srcVf : Nat
  roff : Nat
  atomWide : Bool
  aop : Nat
  data : List Byte
  deriving DecidableEq, Repr

/-- A flit of the die links (R340): stripe number, index within the stripe, code k and m, and 64 bytes. -/
structure Flit where
  stripe : Nat
  index : Nat
  group : Nat
  k : Nat
  m : Nat
  data : List Byte
  deriving DecidableEq, Repr

/-- The steps of the machine: one constructor for each row of spec/opcode_table.json. The instructions come first, with
the fields of their format. The events follow, with what they act on. -/
inductive Instr where
  /-- NOP in format Q, opcode 0x00 (R206). -/
  | nopQ (f : FormQ)
  /-- NOP in format W, opcode 0x00 (R206). -/
  | nopW (f : FormW)
  /-- NOP in format X, opcode 0x00 (R206). -/
  | nopX (f : FormW) (lit : Word)
  /-- BRA in format QB, opcode 0x01 (R207). -/
  | braQb (f : FormQB)
  /-- BRA in format WI, opcode 0x01 (R207). -/
  | braWi (f : FormWI)
  /-- CALL in format WI, opcode 0x02 (R208). -/
  | call (f : FormWI)
  /-- CALLI in format W, opcode 0x03 (R208). -/
  | calli (f : FormW)
  /-- JMPI in format Q, opcode 0x04 (R209). -/
  | jmpi (f : FormQ)
  /-- RET in format QI, opcode 0x05 (R210). -/
  | ret (f : FormQI)
  /-- REFORM in format Q, opcode 0x06 (R211). -/
  | reform (f : FormQ)
  /-- CONVENE in format QI, opcode 0x07 (R213). -/
  | convene (f : FormQI)
  /-- DISBAND in format Q, opcode 0x08 (R213). -/
  | disband (f : FormQ)
  /-- BAR in format Q, opcode 0x09 (R214). -/
  | bar (f : FormQ)
  /-- EXIT in format Q, opcode 0x0A (R215). -/
  | exit (f : FormQ)
  /-- SPAWN in format W, opcode 0x0B (R216). -/
  | spawn (f : FormW)
  /-- HINST in format W, opcode 0x0C (R218). -/
  | hinst (f : FormW)
  /-- HPOP in format Q, opcode 0x0D (R219). -/
  | hpop (f : FormQ)
  /-- PERFORM in format WI, opcode 0x0E (R220). -/
  | perform (f : FormWI)
  /-- PERFORMV in format WI, opcode 0x0F (R220). -/
  | performv (f : FormWI)
  /-- RESUME in format W, opcode 0x10 (R223). -/
  | resume (f : FormW)
  /-- DROP in format Q, opcode 0x11 (R224). -/
  | drop (f : FormQ)
  /-- KSEND in format W, opcode 0x12 (R224). -/
  | ksend (f : FormW)
  /-- KRECV in format Q, opcode 0x13 (R225). -/
  | krecv (f : FormQ)
  /-- KINFO in format W, opcode 0x14 (R226). -/
  | kinfo (f : FormW)
  /-- YIELD in format Q, opcode 0x15 (R220). -/
  | yield (f : FormQ)
  /-- SAFE in format QI, opcode 0x16 (R217). -/
  | safe (f : FormQI)
  /-- PAUSE in format QI, opcode 0x17 (R212). -/
  | pause (f : FormQI)
  /-- TRAP in format QI, opcode 0x18 (R222). -/
  | trap (f : FormQI)
  /-- IADD in format Q, opcode 0x20 (R227). -/
  | iaddQ (f : FormQ)
  /-- IADD in format W, opcode 0x20 (R227). -/
  | iaddW (f : FormW)
  /-- IADD in format X, opcode 0x20 (R227). -/
  | iaddX (f : FormW) (lit : Word)
  /-- ISUB in format Q, opcode 0x21 (R227). -/
  | isubQ (f : FormQ)
  /-- ISUB in format W, opcode 0x21 (R227). -/
  | isubW (f : FormW)
  /-- ISUB in format X, opcode 0x21 (R227). -/
  | isubX (f : FormW) (lit : Word)
  /-- IMUL in format Q, opcode 0x22 (R227). -/
  | imulQ (f : FormQ)
  /-- IMUL in format W, opcode 0x22 (R227). -/
  | imulW (f : FormW)
  /-- IMUL in format X, opcode 0x22 (R227). -/
  | imulX (f : FormW) (lit : Word)
  /-- IMULH in format Q, opcode 0x23 (R227). -/
  | imulhQ (f : FormQ)
  /-- IMULH in format W, opcode 0x23 (R227). -/
  | imulhW (f : FormW)
  /-- IMULH in format X, opcode 0x23 (R227). -/
  | imulhX (f : FormW) (lit : Word)
  /-- IMAD in format W, opcode 0x24 (R227). -/
  | imadW (f : FormW)
  /-- IMAD in format X, opcode 0x24 (R227). -/
  | imadX (f : FormW) (lit : Word)
  /-- IDIV in format Q, opcode 0x25 (R228). -/
  | idivQ (f : FormQ)
  /-- IDIV in format W, opcode 0x25 (R228). -/
  | idivW (f : FormW)
  /-- IDIV in format X, opcode 0x25 (R228). -/
  | idivX (f : FormW) (lit : Word)
  /-- IREM in format Q, opcode 0x26 (R228). -/
  | iremQ (f : FormQ)
  /-- IREM in format W, opcode 0x26 (R228). -/
  | iremW (f : FormW)
  /-- IREM in format X, opcode 0x26 (R228). -/
  | iremX (f : FormW) (lit : Word)
  /-- IMIN in format Q, opcode 0x27 (R227). -/
  | iminQ (f : FormQ)
  /-- IMIN in format W, opcode 0x27 (R227). -/
  | iminW (f : FormW)
  /-- IMIN in format X, opcode 0x27 (R227). -/
  | iminX (f : FormW) (lit : Word)
  /-- IMAX in format Q, opcode 0x28 (R227). -/
  | imaxQ (f : FormQ)
  /-- IMAX in format W, opcode 0x28 (R227). -/
  | imaxW (f : FormW)
  /-- IMAX in format X, opcode 0x28 (R227). -/
  | imaxX (f : FormW) (lit : Word)
  /-- IABS in format Q, opcode 0x29 (R229). -/
  | iabsQ (f : FormQ)
  /-- IABS in format W, opcode 0x29 (R229). -/
  | iabsW (f : FormW)
  /-- AND in format Q, opcode 0x2A (R229). -/
  | andQ (f : FormQ)
  /-- AND in format W, opcode 0x2A (R229). -/
  | andW (f : FormW)
  /-- AND in format X, opcode 0x2A (R229). -/
  | andX (f : FormW) (lit : Word)
  /-- OR in format Q, opcode 0x2B (R229). -/
  | orQ (f : FormQ)
  /-- OR in format W, opcode 0x2B (R229). -/
  | orW (f : FormW)
  /-- OR in format X, opcode 0x2B (R229). -/
  | orX (f : FormW) (lit : Word)
  /-- XOR in format Q, opcode 0x2C (R229). -/
  | xorQ (f : FormQ)
  /-- XOR in format W, opcode 0x2C (R229). -/
  | xorW (f : FormW)
  /-- XOR in format X, opcode 0x2C (R229). -/
  | xorX (f : FormW) (lit : Word)
  /-- ANDN in format Q, opcode 0x2D (R229). -/
  | andnQ (f : FormQ)
  /-- ANDN in format W, opcode 0x2D (R229). -/
  | andnW (f : FormW)
  /-- ANDN in format X, opcode 0x2D (R229). -/
  | andnX (f : FormW) (lit : Word)
  /-- NOT in format Q, opcode 0x2E (R229). -/
  | notQ (f : FormQ)
  /-- NOT in format W, opcode 0x2E (R229). -/
  | notW (f : FormW)
  /-- SHL in format QI, opcode 0x2F (R230). -/
  | shlQi (f : FormQI)
  /-- SHL in format W, opcode 0x2F (R230). -/
  | shlW (f : FormW)
  /-- SHR in format QI, opcode 0x30 (R230). -/
  | shrQi (f : FormQI)
  /-- SHR in format W, opcode 0x30 (R230). -/
  | shrW (f : FormW)
  /-- SAR in format QI, opcode 0x31 (R230). -/
  | sarQi (f : FormQI)
  /-- SAR in format W, opcode 0x31 (R230). -/
  | sarW (f : FormW)
  /-- ROT in format QI, opcode 0x32 (R230). -/
  | rotQi (f : FormQI)
  /-- ROT in format W, opcode 0x32 (R230). -/
  | rotW (f : FormW)
  /-- BFX in format W, opcode 0x33 (R231). -/
  | bfxW (f : FormW)
  /-- BFX in format X, opcode 0x33 (R231). -/
  | bfxX (f : FormW) (lit : Word)
  /-- BFI in format W, opcode 0x34 (R231). -/
  | bfiW (f : FormW)
  /-- BFI in format X, opcode 0x34 (R231). -/
  | bfiX (f : FormW) (lit : Word)
  /-- POPC in format Q, opcode 0x35 (R229). -/
  | popcQ (f : FormQ)
  /-- POPC in format W, opcode 0x35 (R229). -/
  | popcW (f : FormW)
  /-- CLZ in format Q, opcode 0x36 (R229). -/
  | clzQ (f : FormQ)
  /-- CLZ in format W, opcode 0x36 (R229). -/
  | clzW (f : FormW)
  /-- BREV in format Q, opcode 0x37 (R229). -/
  | brevQ (f : FormQ)
  /-- BREV in format W, opcode 0x37 (R229). -/
  | brevW (f : FormW)
  /-- PRM8 in format W, opcode 0x38 (R232). -/
  | prm8W (f : FormW)
  /-- PRM8 in format X, opcode 0x38 (R232). -/
  | prm8X (f : FormW) (lit : Word)
  /-- MOV in format Q, opcode 0x39 (R233). -/
  | movQ (f : FormQ)
  /-- MOV in format W, opcode 0x39 (R233). -/
  | movW (f : FormW)
  /-- MOVI in format QI, opcode 0x3A (R233). -/
  | moviQi (f : FormQI)
  /-- MOVI in format WI, opcode 0x3A (R233). -/
  | moviWi (f : FormWI)
  /-- MOVI in format X, opcode 0x3A (R233). -/
  | moviX (f : FormW) (lit : Word)
  /-- LEA in format W, opcode 0x3B (R234). -/
  | leaW (f : FormW)
  /-- LEA in format X, opcode 0x3B (R234). -/
  | leaX (f : FormW) (lit : Word)
  /-- SEL in format W, opcode 0x3C (R235). -/
  | sel (f : FormW)
  /-- HADD2 in format Q, opcode 0x3D (R236). -/
  | hadd2Q (f : FormQ)
  /-- HADD2 in format W, opcode 0x3D (R236). -/
  | hadd2W (f : FormW)
  /-- HMNX2 in format Q, opcode 0x3E (R236). -/
  | hmnx2Q (f : FormQ)
  /-- HMNX2 in format W, opcode 0x3E (R236). -/
  | hmnx2W (f : FormW)
  /-- HMAXD2 in format W, opcode 0x3F (R237). -/
  | hmaxd2 (f : FormW)
  /-- ICMP in format W, opcode 0x40 (R238). -/
  | icmpW (f : FormW)
  /-- ICMP in format X, opcode 0x40 (R238). -/
  | icmpX (f : FormW) (lit : Word)
  /-- FCMP in format W, opcode 0x41 (R239). -/
  | fcmpW (f : FormW)
  /-- FCMP in format X, opcode 0x41 (R239). -/
  | fcmpX (f : FormW) (lit : Word)
  /-- PLOG in format W, opcode 0x42 (R240). -/
  | plog (f : FormW)
  /-- PNOT in format Q, opcode 0x43 (R241). -/
  | pnot (f : FormQ)
  /-- P2G in format Q, opcode 0x44 (R241). -/
  | p2g (f : FormQ)
  /-- G2P in format Q, opcode 0x45 (R241). -/
  | g2p (f : FormQ)
  /-- VOTE in format W, opcode 0x46 (R242). -/
  | vote (f : FormW)
  /-- CVT in format W, opcode 0x50 (R244). -/
  | cvt (f : FormW)
  /-- CVTPK in format W, opcode 0x51 (R245). -/
  | cvtpk (f : FormW)
  /-- QPACK in format W, opcode 0x52 (R246). -/
  | qpack (f : FormW)
  /-- QUNPK in format W, opcode 0x53 (R247). -/
  | qunpk (f : FormW)
  /-- SCALEX in format W, opcode 0x54 (R248). -/
  | scalex (f : FormW)
  /-- LD in format W, opcode 0x60 (R251). -/
  | ldW (f : FormW)
  /-- LD in format X, opcode 0x60 (R251). -/
  | ldX (f : FormW) (lit : Word)
  /-- ST in format W, opcode 0x61 (R252). -/
  | stW (f : FormW)
  /-- ST in format X, opcode 0x61 (R252). -/
  | stX (f : FormW) (lit : Word)
  /-- LDQ in format W, opcode 0x62 (R253). -/
  | ldq (f : FormW)
  /-- STQ in format W, opcode 0x63 (R253). -/
  | stq (f : FormW)
  /-- ATOM in format W, opcode 0x64 (R255). -/
  | atom (f : FormW)
  /-- ATOMN in format W, opcode 0x65 (R255). -/
  | atomn (f : FormW)
  /-- ACQ in format W, opcode 0x66 (R256). -/
  | acq (f : FormW)
  /-- REL in format W, opcode 0x67 (R257). -/
  | rel (f : FormW)
  /-- ACQREL in format W, opcode 0x68 (R258). -/
  | acqrel (f : FormW)
  /-- FENCE in format QI, opcode 0x69 (R144). -/
  | fence (f : FormQI)
  /-- PREF in format W, opcode 0x6A (R260). -/
  | pref (f : FormW)
  /-- WB in format W, opcode 0x6B (R261). -/
  | wb (f : FormW)
  /-- INV in format W, opcode 0x6C (R261). -/
  | inv (f : FormW)
  /-- DLEASE in format W, opcode 0x6D (R262). -/
  | dlease (f : FormW)
  /-- OBJOPEN in format W, opcode 0x6E (R263). -/
  | objopen (f : FormW)
  /-- OBJCLOSE in format Q, opcode 0x6F (R264). -/
  | objclose (f : FormQ)
  /-- OBJSET in format W, opcode 0x70 (R264). -/
  | objset (f : FormW)
  /-- CPY in format W, opcode 0x80 (R266). -/
  | cpy (f : FormW)
  /-- CPY2D in format W, opcode 0x81 (R267). -/
  | cpy2d (f : FormW)
  /-- CPYW in format W, opcode 0x82 (R268). -/
  | cpyw (f : FormW)
  /-- GATH in format W, opcode 0x83 (R269). -/
  | gath (f : FormW)
  /-- SCAT in format W, opcode 0x84 (R269). -/
  | scat (f : FormW)
  /-- WAITC in format WI, opcode 0x85 (R271). -/
  | waitc (f : FormWI)
  /-- WAITA in format W, opcode 0x86 (R272). -/
  | waita (f : FormW)
  /-- QSEND in format W, opcode 0x87 (R276). -/
  | qsend (f : FormW)
  /-- QSTAT in format Q, opcode 0x88 (R277). -/
  | qstat (f : FormQ)
  /-- MBAR in format QI, opcode 0x89 (R278). -/
  | mbar (f : FormQI)
  /-- CNTRD in format QI, opcode 0x8A (R273). -/
  | cntrd (f : FormQI)
  /-- FADD in format Q, opcode 0xA0 (R279). -/
  | faddQ (f : FormQ)
  /-- FADD in format W, opcode 0xA0 (R279). -/
  | faddW (f : FormW)
  /-- FADD in format X, opcode 0xA0 (R279). -/
  | faddX (f : FormW) (lit : Word)
  /-- FSUB in format Q, opcode 0xA1 (R279). -/
  | fsubQ (f : FormQ)
  /-- FSUB in format W, opcode 0xA1 (R279). -/
  | fsubW (f : FormW)
  /-- FSUB in format X, opcode 0xA1 (R279). -/
  | fsubX (f : FormW) (lit : Word)
  /-- FMUL in format Q, opcode 0xA2 (R279). -/
  | fmulQ (f : FormQ)
  /-- FMUL in format W, opcode 0xA2 (R279). -/
  | fmulW (f : FormW)
  /-- FMUL in format X, opcode 0xA2 (R279). -/
  | fmulX (f : FormW) (lit : Word)
  /-- FMA in format W, opcode 0xA3 (R279). -/
  | fmaW (f : FormW)
  /-- FMA in format X, opcode 0xA3 (R279). -/
  | fmaX (f : FormW) (lit : Word)
  /-- FMIN in format Q, opcode 0xA4 (R281). -/
  | fminQ (f : FormQ)
  /-- FMIN in format W, opcode 0xA4 (R281). -/
  | fminW (f : FormW)
  /-- FMIN in format X, opcode 0xA4 (R281). -/
  | fminX (f : FormW) (lit : Word)
  /-- FMAX in format Q, opcode 0xA5 (R281). -/
  | fmaxQ (f : FormQ)
  /-- FMAX in format W, opcode 0xA5 (R281). -/
  | fmaxW (f : FormW)
  /-- FMAX in format X, opcode 0xA5 (R281). -/
  | fmaxX (f : FormW) (lit : Word)
  /-- FMOV in format Q, opcode 0xA6 (R282). -/
  | fmovQ (f : FormQ)
  /-- FMOV in format W, opcode 0xA6 (R282). -/
  | fmovW (f : FormW)
  /-- FRCP in format Q, opcode 0xA7 (R280). -/
  | frcpQ (f : FormQ)
  /-- FRCP in format W, opcode 0xA7 (R280). -/
  | frcpW (f : FormW)
  /-- FRSQ in format Q, opcode 0xA8 (R280). -/
  | frsqQ (f : FormQ)
  /-- FRSQ in format W, opcode 0xA8 (R280). -/
  | frsqW (f : FormW)
  /-- FSQRT in format Q, opcode 0xA9 (R279). -/
  | fsqrtQ (f : FormQ)
  /-- FSQRT in format W, opcode 0xA9 (R279). -/
  | fsqrtW (f : FormW)
  /-- FDIV in format Q, opcode 0xAA (R279). -/
  | fdivQ (f : FormQ)
  /-- FDIV in format W, opcode 0xAA (R279). -/
  | fdivW (f : FormW)
  /-- FDIV in format X, opcode 0xAA (R279). -/
  | fdivX (f : FormW) (lit : Word)
  /-- FEXP2 in format Q, opcode 0xAB (R280). -/
  | fexp2Q (f : FormQ)
  /-- FEXP2 in format W, opcode 0xAB (R280). -/
  | fexp2W (f : FormW)
  /-- FLOG2 in format Q, opcode 0xAC (R280). -/
  | flog2Q (f : FormQ)
  /-- FLOG2 in format W, opcode 0xAC (R280). -/
  | flog2W (f : FormW)
  /-- FSIN in format Q, opcode 0xAD (R280). -/
  | fsinQ (f : FormQ)
  /-- FSIN in format W, opcode 0xAD (R280). -/
  | fsinW (f : FormW)
  /-- FCOS in format Q, opcode 0xAE (R280). -/
  | fcosQ (f : FormQ)
  /-- FCOS in format W, opcode 0xAE (R280). -/
  | fcosW (f : FormW)
  /-- FTANH in format Q, opcode 0xAF (R280). -/
  | ftanhQ (f : FormQ)
  /-- FTANH in format W, opcode 0xAF (R280). -/
  | ftanhW (f : FormW)
  /-- FRND in format Q, opcode 0xB0 (R283). -/
  | frndQ (f : FormQ)
  /-- FRND in format W, opcode 0xB0 (R283). -/
  | frndW (f : FormW)
  /-- FCLASS in format Q, opcode 0xB1 (R284). -/
  | fclassQ (f : FormQ)
  /-- FCLASS in format W, opcode 0xB1 (R284). -/
  | fclassW (f : FormW)
  /-- FSCALE in format Q, opcode 0xB2 (R285). -/
  | fscaleQ (f : FormQ)
  /-- FSCALE in format W, opcode 0xB2 (R285). -/
  | fscaleW (f : FormW)
  /-- FSCALE in format X, opcode 0xB2 (R285). -/
  | fscaleX (f : FormW) (lit : Word)
  /-- HFADD2 in format Q, opcode 0xB3 (R286). -/
  | hfadd2Q (f : FormQ)
  /-- HFADD2 in format W, opcode 0xB3 (R286). -/
  | hfadd2W (f : FormW)
  /-- HFMUL2 in format Q, opcode 0xB4 (R286). -/
  | hfmul2Q (f : FormQ)
  /-- HFMUL2 in format W, opcode 0xB4 (R286). -/
  | hfmul2W (f : FormW)
  /-- HFMA2 in format W, opcode 0xB5 (R286). -/
  | hfma2 (f : FormW)
  /-- DOT4F8 in format W, opcode 0xB6 (R287). -/
  | dot4f8 (f : FormW)
  /-- DOT8F4 in format W, opcode 0xB7 (R287). -/
  | dot8f4 (f : FormW)
  /-- FSTAT in format W, opcode 0xB8 (R288). -/
  | fstat (f : FormW)
  /-- PSET in format W, opcode 0xC0 (R291). -/
  | pset (f : FormW)
  /-- PERM in format W, opcode 0xC1 (R292). -/
  | perm (f : FormW)
  /-- SHFL in format W, opcode 0xC2 (R292). -/
  | shfl (f : FormW)
  /-- BCAST in format W, opcode 0xC3 (R292). -/
  | bcast (f : FormW)
  /-- REDUCE in format W, opcode 0xC4 (R293). -/
  | reduce (f : FormW)
  /-- SCAN in format W, opcode 0xC5 (R293). -/
  | scan (f : FormW)
  /-- MMA in format W, opcode 0xD0 (R302). -/
  | mma (f : FormW)
  /-- MZERO in format QI, opcode 0xD1 (R303). -/
  | mzero (f : FormQI)
  /-- MDRAIN in format W, opcode 0xD2 (R304). -/
  | mdrain (f : FormW)
  /-- MACC in format W, opcode 0xD3 (R305). -/
  | macc (f : FormW)
  /-- MSTAT in format QI, opcode 0xD4 (R307). -/
  | mstat (f : FormQI)
  /-- SRD in format WI, opcode 0xE0 (R314). -/
  | srd (f : FormWI)
  /-- SWR in format WI, opcode 0xE1 (R314). -/
  | swr (f : FormWI)
  /-- SRET in format W, opcode 0xE2 (R317). -/
  | sret (f : FormW)
  /-- IFENCE in format Q, opcode 0xE3 (R318). -/
  | ifence (f : FormQ)
  /-- CODEX in format W, opcode 0xE4 (R319). -/
  | codex (f : FormW)
  /-- NPOST in format W, opcode 0xE5 (R326). -/
  | npost (f : FormW)
  /-- NPOLL in format W, opcode 0xE6 (R328). -/
  | npoll (f : FormW)
  /-- TMARK in format WI, opcode 0xE7 (R322). -/
  | tmark (f : FormWI)
  /-- TRD in format WI, opcode 0xE8 (R323). -/
  | trd (f : FormWI)
  /-- HALT in format Q, opcode 0xE9 (R320). -/
  | halt (f : FormQ)
  /-- KILL in format W, opcode 0xEA (R321). -/
  | kill (f : FormW)
  /-- Event (R36): Grants a free aligned lane range of a port to a gang drawn by rank and tenant choice. -/
  | issueOpportunity (core port : Nat)
  /-- Event (R33): When the oldest overflow fibre reaches STALL_AGE the most recently assigned stall is released to its key. -/
  | stallAgeRelease (core : Nat)
  /-- Event (R33): An overflow fibre reaching the overdue threshold claims a stall at once. -/
  | overdueClaim (core : Nat)
  /-- Event (R212): A paused fibre becomes drawable when its age reaches its hold bound. -/
  | pauseRelease (core fibre : Nat)
  /-- Event (R31): A COLD fibre's top segment is reloaded in request order and the fibre becomes STALLED or PARKED. -/
  | segmentReload (core : Nat)
  /-- Event (R51): A crew kill ordered with a deadline takes effect at the deadline in any state. -/
  | killDeadline (crew : Nat)
  /-- Event (R171): A long-latency result is written whole into its destination, marking it full and waking fibres parked on it. -/
  | landingWrite (id : Nat)
  /-- Event (R79): At a safe point a fibre searches its handler chain, captures a continuation and enters the handler or
  applies the default disposition. -/
  | performEffect (core fibre : Nat)
  /-- Event (R81): A fibre held PERFORMING on a full mailbox posts its record when a slot frees. -/
  | mailboxDeferredPost (core : Nat)
  /-- Event (R56): A write to QTAIL replaces the queue's tail and lets the device read the new slots. -/
  | doorbell (port : HostPort) (vf queue : Nat) (value : BitVec 64)
  /-- Event (R54): While HALT is set, software moves the queue head past slots. -/
  | qheadWrite (port : HostPort) (vf queue : Nat) (value : BitVec 64)
  /-- Event (R54): Clearing QSTAT.HALT revalidates the same slot and resumes consumption. -/
  | qstatHaltClear (port : HostPort) (vf queue : Nat) (value : BitVec 64)
  /-- Event (R57): Clearing QCFG.EN stops consumption after the record in progress. -/
  | queueDisable (port : HostPort) (vf queue : Nat) (value : BitVec 64)
  /-- Event (R58): The head record becomes ready when its dependence value and timing conditions are met. -/
  | launchReady (vf queue : Nat)
  /-- Event (R58): Every DEPPOLL µs the I/O die re-reads a host-homed dependence word as a .sys acquire. -/
  | deppollRead (vf queue : Nat)
  /-- Event (R120): A core changes its pitch split once the granules given up are free, releasing the waiting launch. -/
  | repartition (core : Nat)
  /-- Event (R60): A placed crew loads ARGS into s0–s63, takes root segments and starts, at START for a timed launch. -/
  | crewStart (crew : Nat)
  /-- Event (R61): A crew running longer than RUNLIM is killed with a grace deadline. -/
  | runlimExpiry (crew : Nat)
  /-- Event (R62): When every fibre has ended, cores write back, DONEVAL is released and interrupts are raised. -/
  | launchComplete (launch : Nat)
  /-- Event (R137): A crew of an IDEMP launch killed by a SCRATCH or WEIGHT error is relaunched whole, at most twice. -/
  | crewRelaunch (crew : Nat)
  /-- Event (R66): At each TOKEN_PERIOD boundary every account is refilled and debts repaid to lenders. -/
  | tokenRefill
  /-- Event (R127): A write waiting at its home is applied once GTC passes the line's EXP, in arrival order. -/
  | homeWriteApply (line : Nat)
  /-- Event (R272): A WAITA on a host-homed word is re-evaluated every DEPPOLL µs. -/
  | waitaHostPoll (id : Nat)
  /-- Event (R130): A core receiving RECALL(seq) writes back its dirty lines stamped at or before seq, then the sync line. -/
  | recallLine (core line : Nat)
  /-- Event (R142): An ACQ, REL, ACQREL or FENCE completes and its parked fibre is filed at its next PC. -/
  | orderingComplete (id : Nat)
  /-- Event (R134): Before power-gating, a cluster writes back dirty and RETAINED lines and drops every lease. -/
  | clusterGate (cluster : Nat)
  /-- Event (R133): The host-line filter receives a host snoop and answers at once if the expiry has passed. -/
  | hostSnoop (port : HostPort) (line : Nat)
  /-- Event (R133): A waiting snoop is answered when GTC passes the line's expiry. -/
  | hostSnoopAnswer (port : HostPort) (line : Nat)
  /-- Event (R133): A host atomic read of a device word acts as ACQ.sys by agent HOST. -/
  | hostAtomicRead (port : HostPort) (vf addr : Nat) (wide : Bool)
  /-- Event (R127): A host write to device memory is applied at the home, or dropped or errored on a sealed line. -/
  | hostWrite (port : HostPort) (cxlMem : Bool) (vf addr : Nat) (data : List Byte)
  /-- Event (R361): A host CXL.mem or PCIe read of device memory completes normally. -/
  | hostMemoryRead (port : HostPort) (vf addr len : Nat)
  /-- Event (R146): A copy finishes, a CPYW writes its completion word, and the COPY counter falls in issue order. -/
  | copyComplete (op : Nat)
  /-- Event (R269): A gather or scatter finishes and the GS counter falls in issue order. -/
  | gsComplete (op : Nat)
  /-- Event (R296): The sequencer finishes a matrix command of a context and the MTX counter falls. -/
  | mtxCommandComplete (core ctx : Nat)
  /-- Event (R261): A WB or INV range is performed and the WB counter falls. -/
  | wbComplete (op : Nat)
  /-- Event (R270): An engine operation meeting a failure stops at the failing page or element and holds its counter. -/
  | engineStop (op : Nat) (hostError : Option Nat)
  /-- Event (R198): Takes a free code-table entry of the VF and returns its handle. -/
  | codexReserve (op index : Nat)
  /-- Event (R199): Validates a relocated image, copies and seals TEXT and CONST, fills the entry and sets VALID. -/
  | codexSeal (op place : Nat)
  /-- Event (R198): Replaces bytes of TEXT instruction by instruction and removes any twin. -/
  | codexPatch (op : Nat)
  /-- Event (R201): Validates and installs a cured twin, or removes it. -/
  | codexSwap (op place : Nat)
  /-- Event (R198): Clears VALID, increments GEN and frees the sealed lines. -/
  | codexFree (op : Nat)
  /-- Event (R319): The CODEX status is written when the operation has completed, for SWAP after replaced-twin runs end. -/
  | codexCompletion (op : Nat)
  /-- Event (R336): A data fragment is admitted with its stripe if room exists and placed; a stripe with k fragments
  completes or is rebuilt. -/
  | dataFragmentReceive (io : Nat) (packet : Packet)
  /-- Event (R336): A parity fragment is kept in the sluice and may complete a stripe by rebuild. -/
  | parityFragmentReceive (io : Nat) (packet : Packet)
  /-- Event (R327): The sender records a stripe acknowledgement; a fully acknowledged operation ends DONE. -/
  | stripeAckReceive (io : Nat) (packet : Packet)
  /-- Event (R337): The sender recomputes the requested fragments and resends them in the next round. -/
  | retransmitRequestReceive (io : Nat) (packet : Packet)
  /-- Event (R338): The receiver answers a probe with acknowledgements of completed stripes. -/
  | probeReceive (io : Nat) (packet : Packet)
  /-- Event (R338): The receiver abandons the message's open stripes and ends it as partial. -/
  | abortReceive (io : Nat) (packet : Packet)
  /-- Event (R343): Operations to the reset peer end PEER_RESET, PEER counter words get bit 63, and waiting fibres perform
  NET_PEER_RESET. -/
  | targetResetIndication (io : Nat) (packet : Packet)
  /-- Event (R330): The old value returned by a remote atomic is written at LADDR. -/
  | atomicReplyReceive (io : Nat) (packet : Packet)
  /-- Event (R335): A resource NACK is taken by NSCC as congestion and the stripe is scheduled for resend. -/
  | pdsNackReceive (io : Nat) (packet : Packet)
  /-- Event (R335): A refused stripe is sent again after the NSCC backoff. -/
  | stripeResend (op stripe : Nat)
  /-- Event (R324): A packet asking for an unsupported UET part is answered with a PDS NACK and not acted on. -/
  | unsupportedPacket (io : Nat) (source : Nat)
  /-- Event (R337): A stripe lacking fragments STRIPE_WAIT after its last arrival sends a retransmit request. -/
  | stripeWaitExpiry (message stripe : Nat)
  /-- Event (R338): A message with no acknowledgement for NTIMEOUT sends one probe. -/
  | ntimeoutExpiry (op : Nat)
  /-- Event (R338): Without a useful probe answer in STRIPE_WAIT the message is lost and an abort is sent. -/
  | probeWaitExpiry (op : Nat)
  /-- Event (R339): A receiver drops a message's record NTIMEOUT after the message ends. -/
  | messageRecordExpiry (message : Nat)
  /-- Event (R340): A die-link flit is received and its stripe delivered in order or rebuilt. -/
  | dieLinkFlitReceive (src dst : Nat) (flit : Flit)
  /-- Event (R340): A die-link stripe lacking flits asks again after 64 ns; after 15 rounds the group leaves service. -/
  | dieLinkRetryExpiry (src dst : Nat) (group : Nat)
  /-- Event (R14): Loss of a die-link group lowers the pair's bandwidth while traffic continues. -/
  | dieLinkGroupFailure (src dst : Nat) (group : Nat)
  /-- Event (R348): The bittern takes an event from its tap and runs each matching attachment's filter within budget. -/
  | filterRun (die : Nat)
  /-- Event (R355): At each 1 µs boundary used budgets are reduced by the budget, carrying excess. -/
  | bitternPeriod
  /-- Event (R346): Each µs a SLUICE_OCC event is raised for each VF holding stripes. -/
  | sluiceOcc
  /-- Event (R352): Writing 1 to FCTL.EN validates the filter slot and sets EN or ERR. -/
  | fctlEnable (port : HostPort) (vf die slot : Nat) (value : BitVec 64)
  /-- Event (R357): Swaps live histogram bins into the snapshot buffer and restarts them. -/
  | hsnap (port : HostPort) (vf die : Nat) (value : BitVec 64)
  /-- Event (R350): Clears one bittern item or the trace ring. -/
  | iclr (port : HostPort) (vf die : Nat) (value : BitVec 64)
  /-- Event (R349): A change of a bittern owner byte clears the group's items and enables. -/
  | btOwnerWrite (offset : Nat) (value : BitVec 64)
  /-- Event (R315): Removes the head record of the clerk mailbox. -/
  | mboxPop (core : Nat)
  /-- Event (R315): An SRD .wait on MBOX_STAT returns after HB_PERIOD ÷ 2 µs with no record. -/
  | mboxWaitTimeout (core : Nat)
  /-- Event (R320): An SWR to HALTED stops or restarts issue to every gang but the clerk. -/
  | haltedWrite (core : Nat) (value : BitVec 64)
  /-- Event (R367): The clerk's core register write invalidates cached translations and waits for engine holders. -/
  | xlinvC (core : Nat) (value : BitVec 64)
  /-- Event (R367): A write of the management XLINV register starts a translation invalidation. -/
  | xlinv (vf : Nat) (value : BitVec 64)
  /-- Event (R68): A partition register write is applied, or ignored with CFGERR when it conflicts. -/
  | hpartWrite (offset : Nat) (value : BitVec 64)
  /-- Event (R8): A write to a register with no row of its own stores, clears or is ignored per its access type. -/
  | registerWrite (space : RegSpace) (offset : Nat) (value : BitVec 64)
  /-- Event (R362): The active host renews its lease with the current GEN. -/
  | hlRenew (port : HostPort) (value : BitVec 64)
  /-- Event (R363): A claim through the non-active port while EXPIRED performs the takeover at once. -/
  | hlClaim (port : HostPort) (value : BitVec 64)
  /-- Event (R362): Without renewal for HL_PERIOD the device fails over to the other port, or sets EXPIRED. -/
  | hostLeaseExpiry
  /-- Event (R377): Replaces PTP_OFS and clears the trim accumulator, stepping PTP time. -/
  | ptpOfsWrite (value : BitVec 64)
  /-- Event (R377): Folds the accumulator into PTP_OFS and sets a new trim without a step. -/
  | ptpTrimWrite (value : BitVec 64)
  /-- Event (R378): A port timestamps a PTP event message in hardware in PTP time. -/
  | ptpEventTimestamp (ethPort message : Nat)
  /-- Event (R372): Each HB_PERIOD the active controller reads every CLERK_HB and resets cores missed HB_MISS times. -/
  | heartbeatCheck
  /-- Event (R372): Each management controller writes its own beat every HB_PERIOD. -/
  | mcBeat (controller : Nat)
  /-- Event (R372): The standby controller takes over when the active beat is unchanged for HB_MISS periods. -/
  | mcTakeover
  /-- Event (R370): Kills every fibre of the core, gives new incarnations and resets core registers, queues and slots. -/
  | coreReset (core : Nat)
  /-- Event (R370): Resets every core of the die and writes back or poisons its home L2. -/
  | dieReset (die : Nat)
  /-- Event (R370): An FLR of every function of the partition, then a core reset of its cores. -/
  | partitionReset (partition : Nat)
  /-- Event (R370): Every die reset and warm-reset registers return, while GTC keeps counting. -/
  | packageWarmReset
  /-- Event (R370): Resets everything, zeroes GTC and boots. -/
  | coldReset (image : List Byte)
  /-- Event (R371): Stops the VF's queues, ends its network state, kills its fibres and frees its resources. -/
  | vfFlr (vf : Nat)
  /-- Event (R371): RESET_GRACE after an FLR began, remaining fibres of the VF are killed in any state. -/
  | resetGraceExpiry (vf : Nat)
  /-- Event (R373): An out-of-band status or log read over MCTP. -/
  | mctpStatusRead (via : MctpPath) (offset : Nat)
  /-- Event (R373): An out-of-band order of a reset level, accepted from I3C or the permitted port. -/
  | mctpResetOrder (via : MctpPath) (level : ResetLevel)
  /-- Event (R374): In recovery, a firmware load by MCTP is the only accepted command. -/
  | mctpFirmwareLoad (image : List Byte)
  /-- Event (R375): The security engine answers an SPDM 1.3 request as responder. -/
  | spdmRequest (port : HostPort) (request : SpdmRequest)
  /-- Event (R375): IDE keys of a VF's stream are programmed inside an SPDM session. -/
  | ideKm (vf : Nat) (key : BitVec 256)
  /-- Event (R376): Moves a VF from CONFIG_UNLOCKED to CONFIG_LOCKED and freezes its report. -/
  | lockInterfaceRequest (vf : Nat)
  /-- Event (R376): Moves a locked VF to RUN. -/
  | startInterfaceRequest (vf : Nat)
  /-- Event (R376): Returns a VF to CONFIG_UNLOCKED after an FLR. -/
  | stopInterfaceRequest (vf : Nat)
  /-- Event (R376): A write to a frozen register or BAR address of a locked VF puts it in ERROR. -/
  | tdispFrozenWrite (port : HostPort) (vf offset : Nat) (value : BitVec 64)
  /-- Event (R376): An IDE integrity failure on a locked VF's stream puts it in ERROR. -/
  | ideIntegrityFailure (vf : Nat)
  /-- Event (R136): An uncorrectable storage error kills, invalidates or poisons as its location dictates. -/
  | eccUncorrectable (location : EccLocation)
  /-- Event (R136): A corrected error is counted as a bittern event only. -/
  | eccCorrected (location : EccLocation)
  /-- Event (R379): The thermal sensors change the throttling step and the arithmetic clock. -/
  | thermalStepChange (sensor step : Nat) (temperature : Word)
  /-- Event (R362): The link of a host port goes down or comes up. -/
  | hostPortLinkChange (port : HostPort) (up : Bool)
  /-- Event (R331): The network engine takes a posted operation out of waiting and sends its stripes' fragments over the
  path entries in round 0. -/
  | stripeSend (op stripe : Nat)
  /-- Event (R144): A host port acknowledges a write-through store to a host-homed line. -/
  | hostWriteAcknowledgement (id : Nat)
  /-- Event (R369): The host unmasks an MSI-X vector whose pending bit is set, and the held message is sent. -/
  | msixVectorUnmask (vf vector : Nat)
  /-- Event (R134): A power-gated cluster is brought back into service. -/
  | clusterUngate (cluster : Nat)
  deriving DecidableEq, Repr

end Sys2Proof
end

