-- ==== Sys2Proof/Machine/State.lean ====
section
/-! DEFINITION. The state of the KTD-256, as plain data: everything the specification gives the machine, with the plain
bookkeeping of the model named as such. Keys of tables: a fibre is core × 4096 + descriptor index; a segment is
tenant × 2^48 + segment address; a K object is tenant × 2^22 + slot; a line of a core or die is number × 2^58 + line
address; a physical address is TARGET × 2^52 + address (R365). -/
namespace Sys2Proof.Machine

/-- Bytes of memory in canonical form: addresses strictly rising, no entry equal to 0, which an unlisted address reads
as. -/
abbrev Memory := List Host.Cell

/-- The marks of a register (R168): the full/empty bit, and the poisoned mark with the fibre whose deferred load set it
(R169), and the orphaned mark. -/
inductive Mark where
  | full
  | empty
  | poisoned (fibre : Nat)
  | orphaned
  deriving DecidableEq, Repr

/-- A register: its value, the value its frame word held before (R172), whether the value has had its last use, and its
marks. -/
structure RegCell where
  val : Word
  back : Word
  lastUsed : Bool
  mark : Mark
  deriving DecidableEq, Repr

/-- A register at fibre creation or crew start: zero and full (R60, R168). -/
def RegCell.zero : RegCell := { val := 0, back := 0, lastUsed := false, mark := .full }

/-- Where the result of a long-latency producer goes (R168, R171): a frame word, an s-register, a reserved place of a q
register, or a predicate. -/
inductive Loc where
  | frame (seg word : Nat)
  | shared (crew index : Nat)
  | queue (core q place : Nat)
  | pred (fibre index : Nat)
  deriving DecidableEq, Repr

/-- A value on its way to its destinations through the landing buffer (R171); `fibre` produced it. -/
structure Landing where
  fibre : Nat
  writes : List (Loc × Word)
  deriving DecidableEq, Repr

/-- A program counter (R203): a canonical code pointer, and the cured offset with the twin generation when the fibre
runs in the twin. -/
structure Pc where
  handle : Word
  off : Word
  twin : Option (Nat × Nat)
  deriving DecidableEq, Repr

/-- What a fibre parked on REGISTER waits for (R169, R170, R225, R275, R276, R301, R315). -/
inductive RegWait where
  | cells (locs : List Loc)
  | queueWord (q : Nat)
  | queueRoom (q : Nat)
  | room (consumer bits : Nat)
  | feed (second : Bool)
  | mailbox
  deriving DecidableEq, Repr

/-- What a fibre parked on COUNTER waits for (R146, R148, R50, R295); `xlinv` is a clerk whose SWR of XLINV_C completes
when the engine operations that hold the translations have (R367), and `patches` one whose IFENCE waits for its PATCHes
(R200). -/
inductive CounterWait where
  | waitc (cls n : Nat)
  | room (cls : Nat)
  | drain
  | context (ctx : Nat)
  | xlinv
  | patches
  deriving DecidableEq, Repr

/-- Where a fibre parked on BARRIER waits (R44, R45, R278). -/
inductive BarrierWait where
  | bar
  | convene (level : Nat)
  | crossLane
  | band (k : Nat)
  deriving DecidableEq, Repr

/-- The reasons of PARKED (R29), each with what satisfies it. -/
inductive Park where
  | register (w : RegWait)
  | address (op : Nat)
  | counter (w : CounterWait)
  | barrier (w : BarrierWait)
  deriving DecidableEq, Repr

/-- The states of a fibre (R29). COLD keeps the park reason, and whether that reason has been satisfied. -/
inductive FibreState where
  | created
  | stalled
  | issuing
  | parked (why : Park)
  | cold (kept : Option Park)
  | performing
  | suspended
  | killed
  | retired
  deriving DecidableEq, Repr

/-- An access that took a translation fault and waits for its delivery (R88), or a store held behind one (R89); also an
entry of the replay block (R91). `locs` are the registers that a deferred load left poisoned, which keep their place when
the frame base moves; an entry that has only its bytes has none. `m0` says that the access was made in M0 code (R141, R153). -/
structure Deferred where
  addr : Nat
  data : DWord
  pcOff : Word
  kind : Nat
  size : Nat
  reg : Nat
  locs : List Loc := []
  m0 : Bool := false
  deriving DecidableEq, Repr

/-- An effect to perform (R79): its tag, payload, the address and information of its record, the canonical PC of its
continuation, the result register of K.FLAGS, and the record at which the search stands while a segment reloads. -/
structure Effect where
  tag : Nat
  payload : DWord
  addr : DWord
  info : DWord
  pc : Pc
  result : Nat
  wide : Bool
  cursor : Option Nat := none
  deriving DecidableEq, Repr

/-- What an instruction asks for at the run end that it makes (R220, R223). -/
inductive Request where
  | perform (e : Effect)
  | resume (handle value : DWord) (wide : Bool)
  deriving DecidableEq, Repr

/-- How far a stopped operation got, and the effect that the WAITC reaching it performs (R148, R270, R327). -/
structure Stopped where
  tag : Nat
  addr : DWord
  info : DWord
  deriving DecidableEq, Repr

/-- One operation counted in a fibre's outstanding-operation counters (R146), in issue order: its class, its number
among the fibre's operations of the class (R270), and whether it has completed or stopped. -/
structure Counted where
  cls : Nat
  op : Nat
  num : Nat
  done : Bool
  stopped : Option Stopped
  deriving DecidableEq, Repr

/-- An effect record (R82). -/
structure EffectRecord where
  tag : Nat
  vf : Nat
  core : Nat
  fibre : Nat
  handle : DWord
  payload : DWord
  pc : DWord
  addr : DWord
  info : DWord
  gtc : Nat
  seq : Nat
  deriving DecidableEq, Repr

/-- A fibre descriptor in use (R28, R29). `core` and the descriptor index are its key. `replays` are the accesses of a
continuation that are still to be replayed before its next instruction, for want of room in a q register (R91, R253,
R275), and `notice` is the record of an effect whose KILL disposition waits for a slot of the mailbox (R81). -/
structure Fibre where
  tenant : Nat
  launch : Nat
  crew : Option Nat
  workId : DWord
  state : FibreState
  pc : Pc
  fbSeg : Nat
  fbWord : Nat
  hchain : Nat
  live : Nat
  fsr : DWord
  heldPc : Option DWord
  preds : BitVec 8
  counted : List Counted
  issued : Tbl Nat
  pending : List Deferred
  heldStores : List Deferred
  lane : Nat
  conv : Option Nat
  spawned : Bool
  reform : Bool
  pause : Option Nat
  fsm : Bool
  request : Option Request
  effect : Option Effect
  kh : Option DWord
  replays : List Deferred := []
  notice : Option EffectRecord := none
  qsent : Nat
  killOrdered : Bool
  killCause : Option Nat
  coldSince : Nat
  postedTag : Nat := 0
  deriving DecidableEq, Repr

/-- A frame segment (R70): its link record, its words (an unlisted word is zero and full), the core whose heap holds it,
and when it was last touched (R75). -/
structure Segment where
  next : Nat
  hchain : Nat
  savedFbw : Nat
  slide : Nat
  retpc : DWord
  words : Tbl RegCell
  resident : Option Nat
  touched : Nat
  deriving DecidableEq, Repr

/-- A K slot (R82): the header fields, the effect record, the replay block, and the stores held behind it (R89). `free`
says that the slot may be taken again; its header stays (R84). `ofCrew` is the crew that CREW names, by the model's number
of it. -/
structure KObject where
  magic : Nat
  ver : Nat
  state : Nat
  owner : Nat
  tag : Nat
  pc : DWord
  top : Nat
  nseg : Nat
  live : Nat
  feat : Word
  hrec : Nat
  wid : DWord
  crew : Word
  flags : Word
  gen : DWord
  record : EffectRecord
  replay : List Deferred
  heldStores : List Deferred
  free : Bool
  ofCrew : Option Nat := none
  deriving DecidableEq, Repr

/-- A result of a gang's recent instructions (R174 to R176): the code written, its producer's position and canonical PC,
and the distance a reader must keep. -/
structure Recent where
  code : Nat
  pos : Nat
  distance : Nat
  pc : DWord
  deriving DecidableEq, Repr

/-- A gang that holds lanes of a port (R35 to R39), with what its run has shown: instructions so far, a REFORM, the PC at
its start, whether it may still be a spin run (R48). `stall` is the resume address of the stall from which it was drawn, which
stays as long as it persists (R48). `leaving` is set of a gang that has ended its run at a safe point and
keeps its lanes until the returns aimed at its registers are written (R43): the RB field of its last instruction, and
whether that was a taken backward branch. -/
structure Gang where
  core : Nat
  port : Nat
  base : Nat
  width : Nat
  tenant : Nat
  launch : Nat
  members : List (Nat × Nat)
  runLen : Nat
  runStart : Pc
  pos : Nat
  recent : List Recent
  reform : Bool
  spinning : Bool
  before : Tbl RegCell
  leaving : Option (Nat × Bool) := none
  stall : Pc := { handle := 0, off := 0, twin := none }
  deriving DecidableEq, Repr

/-- The key of a stall (R32). -/
structure StallKey where
  tenant : Nat
  launch : Nat
  pc : Pc
  deriving DecidableEq, Repr

/-- A member of a stall or of the overflow: one fibre, or a held gang with its lanes (R33, R38), its age (R32), and the
order in which it was filed. -/
structure Filed where
  lanes : List (Nat × Nat)
  held : Bool
  age : Nat
  order : Nat
  deriving DecidableEq, Repr

/-- A stall that holds a key (R32 to R34, R48). -/
structure Stall where
  key : StallKey
  members : List Filed
  demoted : Bool
  spins : Nat
  assigned : Nat
  deriving DecidableEq, Repr

/-- A place of a q register: a word, or a place reserved by LDQ (R253). A word delivered by a neighbour is marked, for
its pop drops leases (R276). -/
structure QPlace where
  place : Nat
  word : Option Word
  neighbour : Bool
  deriving DecidableEq, Repr

/-- A q register (R274). -/
structure QReg where
  owner : Option Nat
  places : List QPlace
  deriving DecidableEq, Repr

/-- A permutation slot that is filled (R289). -/
structure PermSlot where
  width : Nat
  owner : Nat
  image : Nat
  deriving DecidableEq, Repr

/-- A KRECV that waits for an arrival (R225). -/
structure Receive where
  fibre : Nat
  vf : Nat
  targets : List Loc
  deriving DecidableEq, Repr

/-- The hardware of one core beside its fibres, caches and stores (R28, R33, R67, R87, R167, R225, R276, R289, R301,
R315). `notices` are those that wait for a slot of the mailbox while no fibre waits with them (R81, R136). -/
structure CoreUnit where
  stalls : List Stall
  overflow : List (StallKey × Filed)
  wdc : Tbl Int
  queues : Tbl QReg
  perms : Tbl PermSlot
  feedA : List (Nat × DWord)
  feedB : List (Nat × DWord)
  mailbox : List (EffectRecord × Bool)
  notices : List EffectRecord
  mslots : Tbl EffectRecord
  head : Nat
  inbox : List (Nat × DWord)
  receives : List Receive
  copyQueue : List Nat
  rseq : BitVec 16
  stopped : Bool
  scratch : Tbl (Nat × Nat)
  weight : Tbl (Nat × Nat)
  repartition : Option (List Nat)
  reloads : List Nat
  waitSince : Nat
  xlinvBegun : Bool := false
  deriving DecidableEq, Repr

/-- A convened gang (R44): its level, its width and its members with their lanes. -/
structure Convened where
  core : Nat
  crew : Nat
  level : Nat
  width : Nat
  members : List (Nat × Nat)
  deriving DecidableEq, Repr

/-- The coherence state of a line (R124). -/
inductive ObjState where
  | shared
  | priv
  | ronly
  | stream
  deriving DecidableEq, Repr

/-- A line in a core's L1 (R122, R126, R129, R130): the bytes of the copy, its expiry (none for a copy that does not
expire), the dirty bytes over it, the bytes sent to the home and not yet applied there, the stamp, the RETAINED mark,
its object state, and the crew of its last store (R136). -/
structure L1Line where
  copy : Option (List Byte)
  expiry : Option Nat
  dirty : Tbl Byte
  flight : Tbl Byte
  stamp : BitVec 16
  retained : Bool
  kind : ObjState
  crew : Option Nat
  vf : Nat := 0
  deriving DecidableEq, Repr

/-- A copy in a die's L2 of a line homed elsewhere (R126). -/
structure L2Line where
  copy : List Byte
  expiry : Nat
  deriving DecidableEq, Repr

/-- A release tag (R130), with its dead mark (R132). -/
structure Tag where
  agent : Nat
  inc : Nat
  seq : BitVec 16
  dead : Bool
  deriving DecidableEq, Repr

/-- The tag states of a home (R130). -/
inductive TagState where
  | untagged
  | tagged
  | recalling
  | delivered
  deriving DecidableEq, Repr

/-- A write that has reached a home and waits for the line's EXP (R127), with the core and function that sent it and when it
arrived; the atomic operation that it is, if it is one (R255); whether a host made it (R56); and the die whose stalls it wakes
when it is applied (R358). -/
structure HomeWrite where
  id : Nat
  core : Option Nat
  vf : Nat
  since : Nat
  data : List (Nat × Byte)
  op : Option Nat := none
  host : Bool := false
  wakes : Option Nat := none
  deriving DecidableEq, Repr

/-- A write-through store to a host-homed line that its host port has not acknowledged (R144). -/
structure HostStore where
  id : Nat
  port : HostPort
  core : Option Nat
  line : Nat
  deriving DecidableEq, Repr

/-- What a home keeps of a line (R126, R127, R130): EXP, the release tag and its state, the requests held, the writes
that wait, and of a recall the writes not yet applied, whether the core has still to answer, when, for which function, and whether
an acquirer asked for it (R346). -/
structure HomeLine where
  exp : Nat
  tag : Option Tag
  tagState : TagState
  held : List Nat
  waiting : List HomeWrite
  awaited : List (Nat × Nat)
  recallSent : Bool
  recallAt : Nat
  recallFor : Nat
  asked : Bool := false
  deriving DecidableEq, Repr

/-- A coherence object (R123, R263). The generation of an entry outlives the object. -/
structure CohObject where
  gen : Nat
  open_ : Bool
  vf : Nat
  base : Nat
  dim0 : Nat
  dim1 : Nat
  stride : Nat
  esize : Nat
  kind : ObjState
  owner : Nat
  deriving DecidableEq, Repr

/-- The ordering operations that take more than one step (R130, R142, R144, R263, R264, R272); `flush` is the write-back
part of a FENCE alone (R276, R278). -/
inductive OrdKind where
  | acq (pred : Nat)
  | rel
  | acqrel (op : Nat)
  | atom (op : Nat)
  | atomn (op : Nat)
  | fence
  | waita (cond : Nat)
  | objOpen (object : CohObject)
  | objSet (index : Nat) (kind : ObjState) (owner : Nat)
  | objClose (index : Nat)
  | doorbell (vf queue : Nat)
  | hostRead (port : HostPort)
  | depend (vf queue : Nat)
  | completion (launch : Nat)
  | flush
  deriving DecidableEq, Repr

/-- How far an ordering operation has come: held at the home until a recall ends, waiting for writes and leases, or for
a new evaluation (WAITA), or found unmet by a WAITA that performs WAIT (R272); of an atomic also queued at the home, and
applied there (R127, R255). -/
inductive OrdStage where
  | held
  | served
  | watching
  | unmet
  | queued
  | applied
  deriving DecidableEq, Repr

/-- An ordering operation in flight: who issued it, its location and operands, the writes whose performance it waits
for (line, write number), the lines whose EXP must pass, the host writes to be acknowledged, and where its result goes.
`space` is 0 for a line that the state machine of R130 governs, 1 for the pitch store, 5 for the backing area and 6 for a
line that it does not govern; `addr` is physical but for 1 and 5. -/
structure OrdOp where
  kind : OrdKind
  stage : OrdStage
  agent : Nat
  fibre : Option Nat
  vf : Nat
  space : Nat
  addr : Nat
  size : Nat
  scope : Nat
  value : DWord
  value2 : DWord
  targets : List Loc
  writes : List (Nat × Nat)
  lines : List Nat
  hostWrites : List Nat
  lost : Bool
  result : DWord
  since : Nat
  polled : Nat := 0
  deriving DecidableEq, Repr

/-- A copy (R266, R267): destination and source with their spaces, rows, and the completion word of CPYW. -/
structure CopyJob where
  dst : Nat
  src : Nat
  dspace : Nat
  sspace : Nat
  rows : Nat
  rowLen : Nat
  dstride : Int
  sstride : Int
  word : Option (Nat × DWord × Nat)
  deriving DecidableEq, Repr

/-- A gather or scatter (R269). -/
structure GsJob where
  scatter : Bool
  dst : Nat
  src : Nat
  idx : Nat
  mask : Nat
  count : Nat
  esize : Nat
  dspace : Nat
  sspace : Nat
  ispace : Nat
  deriving DecidableEq, Repr

/-- A WB or INV over a range (R261). -/
structure WbJob where
  inval : Bool
  lines : List Nat
  deriving DecidableEq, Repr

/-- The states of a posted network operation (R327, R328). -/
inductive NetState where
  | waiting
  | inFlight
  | done
  | lost
  | peerReset
  | refused
  | noRoute
  | cancelled
  deriving DecidableEq, Repr

/-- A posted network operation (R325, R331, R338). -/
structure NetJob where
  op : Nat
  io : Nat
  vf : Nat
  request : Nat
  space : Nat
  laddr : Nat
  len : Nat
  immv : Word
  roff : Nat
  rkey : Nat
  aop : Nat
  aarg : DWord
  aarg2 : DWord
  counter : Option Nat
  ddev : Nat
  dvf : Nat
  dcore : Nat
  k : Nat
  m : Nat
  frag : Nat
  stripes : Nat
  msgId : Nat
  epoch : Nat
  state : NetState
  rounds : Nat
  sent : List Nat
  acked : List Nat
  progress : Nat
  probed : Option Nat
  kslot : Option Nat
  replied : Bool
  deriving DecidableEq, Repr

/-- A matrix command in a context's queue (R295, R301): the operands that were read at issue. -/
inductive MtxCommand where
  | mma (fmt mask : Nat) (a b d : DWord) (rowsA rowsB : List (Nat × List Word × List Word))
  | zero (mask : Nat)
  | drain (fmt mask rnd seed : Nat) (clear : Bool) (d : DWord)
  | acc (fmt mask : Nat) (subtract : Bool) (d : DWord)
  | stat (clear busy : Bool) (targets : List Loc)
  deriving DecidableEq, Repr

/-- What an engine operation does. -/
inductive Job where
  | copy (j : CopyJob)
  | gs (j : GsJob)
  | wb (j : WbJob)
  | net (j : NetJob)
  | mtx (ctx : Nat) (c : MtxCommand)
  | codex (op handle src len ofs vf : Nat) (index : Option Nat) (status : Option Nat) (targets : List Loc)
      (waitFor : List (Nat × Nat))
  deriving DecidableEq, Repr

/-- An engine operation in flight: its core, the fibre that issued it and that fibre's function, the class of its
counter, when it issued, the pages it translated at issue (R265), what it does, the writes it waits for, and the release
of its completion word (R268). `granules` are the pitch granules that it touches: core, whether of WEIGHT, and number (R51,
R311). `units` are the 16-byte units of the pitch that a matrix command has read early, with what it read, or has written early
(R309). -/
structure EngineOp where
  core : Nat
  fibre : Nat
  vf : Nat
  cls : Nat
  issued : Nat
  pages : List (Nat × Nat)
  job : Job
  writes : List (Nat × Nat)
  release : Option Nat
  hostWrites : List Nat
  granules : List (Nat × Bool × Nat) := []
  units : Tbl (List Byte) := []
  leaves : List (Nat × Nat) := []
  deriving DecidableEq, Repr

/-- An element of the accumulator store (R111): a finite multiple of 2^−272, one that overflowed, or the NaN
sentinel. -/
inductive Acc where
  | fin (v : Int)
  | beyond (neg : Bool)
  | nan
  deriving DecidableEq, Repr

/-- An accumulator context (R294, R295, R307, R308): its holder, elements by 128 i + j (an unlisted one is +0), sticky
bits, poison mark, and the operations in its command queue. -/
structure AccContext where
  holder : Option Nat
  elems : Tbl Acc
  sticky : BitVec 7
  poison : Bool
  queue : List Nat
  deriving DecidableEq, Repr

/-- The fields of a launch record (R53). -/
structure LaunchRecord where
  code : Word
  entry : Nat
  flags : BitVec 16
  widths : List Nat
  counts : List Nat
  frameW : Nat
  partFrame : Nat
  partScratch : Nat
  partWeight : Nat
  partCache : Nat
  actx : BitVec 4
  tokcls : Nat
  prio : Nat
  args : Nat
  start : Nat
  depAddr : Nat
  depVal : Nat
  doneAddr : Nat
  doneVal : DWord
  msix : Nat
  runlim : Nat
  deriving DecidableEq, Repr

/-- A launch in the launch table (R57, R59, R62). -/
structure Launch where
  vf : Nat
  queue : Nat
  record : LaunchRecord
  placed : Nat
  late : Bool
  crewKilled : Bool
  completing : Bool
  deriving DecidableEq, Repr

/-- A crew (R24, R45, R46, R60, R61, R118, R137): its core, launch and first work ID, its s-registers, and what has
happened to it. -/
structure Crew where
  core : Nat
  launch : Nat
  band : Nat
  firstWid : DWord
  number : Nat
  started : Option Nat
  sregs : Tbl RegCell
  broken : Bool
  scrBase : Nat
  scrCount : Nat
  wgtBase : Nat
  wgtCount : Nat
  relaunches : Nat
  ended : Bool
  killCause : Option Nat
  noRelaunch : Bool
  ecc : Bool
  deadline : Option Nat
  cycles : Nat
  deriving DecidableEq, Repr

/-- What the scheduler holds of a queue beside its registers (R54, R58, R65). -/
structure QueueUnit where
  head : Option LaunchRecord
  dependMet : Bool
  watching : Bool
  ready : Bool
  launch : Option Nat
  deficit : Int
  deriving DecidableEq, Repr

/-- A twin that has been replaced or removed while gangs were in a run of it (R201): its generation, its place and length, the
place and lengths of its arrays, its ORIGIN and its SPMAP. -/
structure OldTwin where
  gen : Nat
  ctext : Nat
  clen : Nat
  map : Nat
  pairs : Nat
  origin : List Nat
  spmap : List (Nat × Nat) := []
  deriving DecidableEq, Repr

/-- A code-table entry (R194, R203), with the physical places of its text, twin and constants, its entry list, the
SPMAP and ORIGIN arrays of its twin (R204), the twin generation (R201), and the twins that gangs still finish a run in. The
addresses that the entry shows are GLOBAL ones (R194; assumption 56). -/
structure CodeEntry where
  reserved : Bool
  valid : Bool
  text : Nat
  tlen : Nat
  clen : Nat
  ctext : Nat
  const : Nat
  klen : Nat
  entries : List Nat
  frameW : Nat
  gwmask : Nat
  model : Nat
  twin : Bool
  cured : Bool
  spmap : List (Nat × Nat)
  origin : List Nat
  map : Nat
  feat : Word
  gen : Nat
  twinGen : Nat
  olds : List OldTwin := []
  textVa : DWord := 0
  ctextVa : DWord := 0
  constVa : DWord := 0
  entVa : DWord := 0
  mapVa : DWord := 0
  deriving DecidableEq, Repr

/-- The fields of a key-table entry (R329). -/
structure KeyEntry where
  base : Nat
  len : Nat
  counter : Nat
  flags : BitVec 16
  gen : Nat
  ci : Nat
  peerDev : Nat
  peerVf : Nat
  deriving DecidableEq, Repr

/-- A stripe at its receiver (R335 to R337). -/
structure RxStripe where
  data : List Nat
  parity : Tbl (List Byte)
  arrived : Nat
  round : Nat
  reserve : Nat
  complete : Bool
  abandoned : Bool
  writes : List (Nat × Nat)
  acked : Bool
  deriving DecidableEq, Repr

/-- A message at its receiver (R329, R330, R336, R339, R341). `image` gathers the bytes of a continuation, or the operands
of an atomic and then its old value; `slot` is the address of a SEND message's slot; `atom` is the atomic's operation at
its home; `writes` are those that come before the counter word. -/
structure RxMessage where
  io : Nat
  first : Packet
  key : Option KeyEntry
  slot : Nat
  stripes : Tbl RxStripe
  image : Tbl Byte
  kslot : Option Nat
  atom : Option Nat
  aborted : Bool
  refused : Bool
  ended : Option Nat
  writes : List (Nat × Nat)
  counted : Bool
  deriving DecidableEq, Repr

/-- A die-link stripe in reassembly (R340). -/
structure LinkStripe where
  flits : Tbl (List Byte)
  k : Nat
  m : Nat
  rounds : Nat
  arrived : Nat
  deriving DecidableEq, Repr

/-- A die-link stripe as it was sent: its code and its flits, kept until it is delivered (R340). -/
structure SentStripe where
  k : Nat
  m : Nat
  flits : List (List Byte)
  sentAt : Nat := 0
  deriving DecidableEq, Repr

/-- A packet that crosses a die link (R340, R382): the stripes that carry it, from `first` to `last`, its bytes, the device
it is for, the kind of a transport answer (assumption 30), and the port and entropy by which it leaves the package. Without
a port it is for a function of this device. -/
structure LinkCargo where
  first : Nat
  last : Nat
  len : Nat
  dev : Nat
  type : Nat
  port : Option (Nat × Nat)
  deriving DecidableEq, Repr

/-- The link from one die to another (R14, R340): the groups out of service, the stripes in reassembly, the next stripe
to deliver, the stripes delivered, and the flits asked for. Its sender: the number of its next stripe, the stripes not yet
delivered, and the packets they carry. -/
structure DieLink where
  lost : List Nat
  stripes : Tbl LinkStripe
  next : Nat
  delivered : List (List Byte)
  requests : List (Nat × List Nat)
  made : Nat := 0
  sent : Tbl SentStripe := []
  cargo : List LinkCargo := []
  deriving DecidableEq, Repr

/-- A packet that has left by an Ethernet port (R324, R333, R334): the port, the ENTROPY of its path entry, whether its
delivery is RUD (of a route class with m = 0) or UUD, the device it is for, its bytes, and its kind, which is TYPE or that
of a transport answer (assumption 30). -/
structure WirePacket where
  port : Nat
  entropy : Nat
  reliable : Bool
  dev : Nat
  type : Nat
  payload : List Byte
  deriving DecidableEq, Repr

/-- A bittern event (R345). -/
structure Event where
  type : Nat
  tenant : Nat
  die : Nat
  src : Nat
  gtc : Nat
  v0 : Word
  v1 : Word
  deriving DecidableEq, Repr

/-- The bittern of a die (R347 to R359). `regs` are the configuration words of its window by offset; `period` numbers the budget
period that `used` counts in (R355). -/
structure Bittern where
  tap : List Event
  tapDrops : Tbl Nat
  budgetDrops : Tbl Nat
  used : Tbl Nat
  regs : Tbl DWord
  live : Tbl Nat
  snap : Tbl Nat
  sketch : Tbl Nat
  mins : Tbl Nat
  maxs : Tbl Nat
  times : Tbl Nat
  ring : Tbl Event
  head : Nat
  frozen : Bool
  period : Nat := 0
  deriving DecidableEq, Repr

/-- The TDISP states of a VF (R376). -/
inductive Tdisp where
  | unlocked
  | locked
  | run
  | error
  deriving DecidableEq, Repr

/-- The storage of bytes (R3, R117, R365): HBM and host memory by physical address, the pitch by core × 2^22 (and 2^21
more for the WEIGHT region) and byte, and the lines that are sealed (R135) or poisoned (R136). -/
structure Store where
  phys : Memory
  pitch : Memory
  sealedLines : List Nat
  poisoned : List Nat
  deriving DecidableEq, Repr

/-- The register files (R8): the PF's management window by offset, BAR 0 by function × 2^23 + offset, the core system
registers by core × 2^24 + offset. An unlisted register holds its reset value. -/
structure Registers where
  mgmt : Tbl DWord
  bar0 : Tbl DWord
  core : Tbl DWord
  deriving DecidableEq, Repr

/-- Caches, homes and objects (R122 to R134). `doorbells` holds the doorbells of a host, by function, queue and value, that
wait behind its earlier writes (R56). -/
structure Coherence where
  l1 : Tbl L1Line
  l2 : Tbl L2Line
  homes : Tbl HomeLine
  objects : Tbl CohObject
  ops : Tbl OrdOp
  hostWrites : List HostStore
  snoops : List (HostPort × Nat × Nat)
  inc : Tbl Nat
  translations : List (Nat × Nat)
  doorbells : List (Nat × Nat × Nat) := []
  deriving DecidableEq, Repr

/-- Launch and scheduling (R53 to R69). `budgets` are the BUDGETs in force since the refill at `refilledAt` (R66); `retired` says
that a crew has retired since the last arbitration (R64). -/
structure Scheduler where
  queues : Tbl QueueUnit
  launches : Tbl Launch
  crews : Tbl Crew
  drrPtr : Nat
  lent : Tbl Nat
  debt : Tbl Nat
  bal : Tbl Int
  budgets : Tbl Nat := []
  refilledAt : Nat := 0
  retired : Bool := false
  deriving DecidableEq, Repr

/-- The network engines (R324 to R343). `wire` holds the packets sent, oldest first. -/
structure Network where
  nextMsg : Tbl Nat
  messages : Tbl RxMessage
  producers : Tbl Nat
  peers : Tbl Nat
  links : Tbl DieLink
  wire : List WirePacket
  resets : List Nat
  occAt : Nat := 0
  deriving DecidableEq, Repr

/-- The keys that the boot ROM derives from a firmware image (R374): the DeviceID public key, the seed of the Alias key, its public
key, and its certificate, which is a signature under the DeviceID key. -/
structure BootKeys where
  deviceId : BitVec 456
  aliasSeed : BitVec 512
  aliasKey : BitVec 456
  aliasCert : BitVec 912
  deriving DecidableEq, Repr

/-- The platform (R361 to R380). `beatSeen` holds for each core, and under key 256 for the active controller as its standby
sees it, the last beat read and how often in a row it was unchanged. `flr` holds when the FLR of a function began, under
key 128 + v when function v fell into TDISP ERROR, and under key 256 + v that the FLR was ordered by a
STOP_INTERFACE_REQUEST. `stages` holds the boot stages measured, and `answers` what has been answered to the outside. -/
structure Platform where
  linkUp : List HostPort
  renewed : Nat
  messages : List (Nat × Nat × HostPort)
  activeController : Nat
  beats : Tbl Nat
  beatSeen : Tbl (Nat × Nat)
  standbyHeld : Bool
  tdisp : Tbl Tdisp
  reports : Tbl (Tbl DWord)
  keys : Tbl (BitVec 256)
  session : Option HostPort
  recovery : Bool
  stages : List (List Byte)
  answers : List (List Nat)
  flr : Tbl Nat
  thermal : Nat
  gated : List Nat
  stamps : List (Nat × Nat × Int)
  seq : Nat
  checkedAt : Nat := 0
  beatAt : Tbl Nat := []
  checks : List Nat := []
  config : Tbl DWord := []
  boot : Option BootKeys := none
  deriving DecidableEq, Repr

/-- The model's own acts to come (assumption 1): an event of the opcode table, a lapse of ticks, the next instruction of a
gang, the eviction of a line from an L1 (R130, R140), the arrival of a packet at an engine of this device from within the
package (R334, R340), the arrival of a flit of a die link (R340), a write of a host into its own memory (assumption 37), or
the moment at which a matrix command reads, or writes, one 16-byte unit of the pitch (R309). -/
inductive Act where
  | event (i : Instr)
  | packet (io : Nat) (p : Packet)
  | flit (src dst : Nat) (flit : Flit)
  | hostStore (pa : Nat) (data : List Byte)
  | tick (n : Nat)
  | issue (gang : Nat)
  | evict (core line : Nat)
  | unit (op place : Nat)
  deriving DecidableEq, Repr

/-- The state of the machine. `cur` names the gang whose instruction executes; `agenda`, `free` and `nextId` are the
model's own (assumptions 1 and 2). -/
structure State where
  gtc : Nat
  ptpAcc : Int
  store : Store
  regs : Registers
  coh : Coherence
  fibres : Tbl Fibre
  segs : Tbl Segment
  kobjs : Tbl KObject
  cores : Tbl CoreUnit
  gangs : Tbl Gang
  convened : Tbl Convened
  landings : Tbl Landing
  engine : Tbl EngineOp
  acc : Tbl AccContext
  sched : Scheduler
  code : Tbl CodeEntry
  net : Network
  bitterns : Tbl Bittern
  plat : Platform
  cur : Nat
  agenda : List Act
  free : Nat
  nextId : Nat
  deriving DecidableEq, Repr

/-- The faults of the model. -/
inductive Fault where
  /-- Raised by step where the head of the agenda names an instruction instead of an event: no behaviour of the machine,
  a slip of whoever wrote the agenda. Safe. -/
  | badAgenda
  deriving DecidableEq, Repr

/-- The refusals of the model. -/
inductive Refusal where
  /-- Raised by an arm of exec whose instruction has no meaning yet. Safe. -/
  | notModelled (mnemonic : String)
  deriving DecidableEq, Repr

/-- A core's hardware after reset: nothing held, RSEQ 1 (R129). -/
def CoreUnit.reset : CoreUnit :=
  { stalls := [], overflow := [], wdc := [], queues := [], perms := [], feedA := [], feedB := [], mailbox := [],
    notices := [], mslots := [],
    head := 0, inbox := [], receives := [], copyQueue := [], rseq := 1, stopped := false, scratch := [], weight := [],
    repartition := none, reloads := [], waitSince := 0 }

/-- A home line after reset. -/
def HomeLine.reset : HomeLine :=
  { exp := 0, tag := none, tagState := .untagged, held := [], waiting := [], awaited := [], recallSent := false, recallAt := 0,
    recallFor := 0 }

/-- A bittern after reset. -/
def Bittern.reset : Bittern :=
  { tap := [], tapDrops := [], budgetDrops := [], used := [], regs := [], live := [], snap := [], sketch := [],
    mins := [], maxs := [], times := [], ring := [], head := 0, frozen := false }

/-- An accumulator context after reset: every element +0 (R294). -/
def AccContext.reset : AccContext := { holder := none, elems := [], sticky := 0, poison := false, queue := [] }

/-- A queue after reset. -/
def QueueUnit.reset : QueueUnit :=
  { head := none, dependMet := false, watching := false, ready := false, launch := none, deficit := 0 }

/-- A die link after reset: four groups in service (R14). -/
def DieLink.reset : DieLink := { lost := [], stripes := [], next := 0, delivered := [], requests := [] }

/-- An empty frame segment. -/
def Segment.empty : Segment :=
  { next := 0, hchain := 0, savedFbw := 0, slide := 0, retpc := 0, words := [], resident := none, touched := 0 }

/-- The segment address that the model gives the clerk of a core: above every GLOBAL address, so that no fibre's segment
is the clerk's (R49: clerk segments never leave the pitch). -/
def clerkSeg (core : Nat) : Nat := 2 ^ 56 + core * 2 ^ 22

/-- The clerk of a core after reset: descriptor 4095, the PF's function, parked on its mailbox (R49, R315; assumption
7). -/
def Fibre.clerk (core : Nat) : Fibre :=
  { tenant := 0, launch := 0, crew := none, workId := 0, state := .parked (.register .mailbox),
    pc := { handle := 0, off := 0, twin := none }, fbSeg := clerkSeg core, fbWord := 0, hchain := 0, live := 128,
    fsr := 0x9E3779B900000000, heldPc := none, preds := 1, counted := [], issued := [], pending := [],
    heldStores := [], lane := 0, conv := none, spawned := false, reform := false, pause := none, fsm := false,
    request := none, effect := none, kh := none, qsent := 0, killOrdered := false, killCause := none, coldSince := 0 }

/-- The clerks of the 256 cores (R13, R49). -/
def clerks : Tbl Fibre := (List.range 256).map fun c => (c * 4096 + 4095, Fibre.clerk c)

/-- The clerks' root segments. -/
def clerkSegs : Tbl Segment := (List.range 256).map fun c => (clerkSeg c, { Segment.empty with resident := some c })

/-- The machine right after a cold reset (R370, R379). Every register holds its reset value, because none is listed. -/
def State.reset : State :=
  { gtc := 0, ptpAcc := 0,
    store := { phys := [], pitch := [], sealedLines := [], poisoned := [] },
    regs := { mgmt := [], bar0 := [], core := [] },
    coh := { l1 := [], l2 := [], homes := [], objects := [], ops := [], hostWrites := [], snoops := [], inc := [],
             translations := [] },
    fibres := clerks, segs := clerkSegs, kobjs := [], cores := [], gangs := [], convened := [], landings := [],
    engine := [], acc := [],
    sched := { queues := [], launches := [], crews := [], drrPtr := 0, lent := [], debt := [], bal := [] },
    code := [], net := { nextMsg := [], messages := [], producers := [], peers := [], links := [], wire := [],
                         resets := [] },
    bitterns := [],
    plat := { linkUp := [.a, .b], renewed := 0, messages := [], activeController := 0, beats := [], beatSeen := [],
              standbyHeld := false, tdisp := [], reports := [], keys := [], session := none,
              recovery := false, stages := [], answers := [], flr := [], thermal := 0, gated := [], stamps := [],
              seq := 0 },
    cur := 0, agenda := [], free := 0, nextId := 1 }

end Sys2Proof.Machine
end

