-- ==== Sys2Proof/Machine/Mem.lean ====
section
/-! DEFINITION. Bytes: memory in canonical form, and the little-endian order of wider values (R4). -/
namespace Sys2Proof.Machine

/-- The byte at an address. An address that is not listed reads 0 (assumption 4). -/
def Memory.read : Memory → Nat → Byte
  | [], _ => 0
  | (b, v) :: rest, a => if b = a then v else Memory.read rest a

/-- Write one byte, keeping the canonical form. -/
def Memory.write : Memory → Nat → Byte → Memory
  | [], a, v => if v = 0 then [] else [(a, v)]
  | (b, w) :: rest, a, v =>
    if a < b then (if v = 0 then (b, w) :: rest else (a, v) :: (b, w) :: rest)
    else if a = b then (if v = 0 then rest else (a, v) :: rest)
    else (b, w) :: Memory.write rest a v

/-- Every address of the list lies above `lo`, they rise, and no byte is 0. -/
def Memory.above (lo : Nat) : Memory → Bool
  | [] => true
  | (a, v) :: rest => decide (lo ≤ a) && decide (v ≠ 0) && Memory.above (a + 1) rest

/-- The canonical form of a memory. -/
def Memory.wf (m : Memory) : Bool := m.above 0

/-- The bytes from an address on. -/
def Memory.readBytes (m : Memory) (a : Nat) : Nat → List Byte
  | 0 => []
  | n + 1 => m.read a :: Memory.readBytes m (a + 1) n

/-- Write bytes from an address on. -/
def Memory.writeBytes (m : Memory) (a : Nat) : List Byte → Memory
  | [] => m
  | v :: rest => Memory.writeBytes (m.write a v) (a + 1) rest

/-- Write scattered bytes in order. -/
def Memory.writeCells (m : Memory) : List (Nat × Byte) → Memory
  | [] => m
  | (a, v) :: rest => Memory.writeCells (m.write a v) rest

/-- The number that bytes make, the first the least significant (R4). -/
def ofBytes : List Byte → Nat
  | [] => 0
  | b :: rest => b.toNat + 256 * ofBytes rest

/-- The `n` bytes of a number, the least significant first (R4). -/
def toBytes (v : Nat) : Nat → List Byte
  | 0 => []
  | n + 1 => BitVec.ofNat 8 v :: toBytes (v / 256) n

/-- Bytes with their addresses. -/
def cellsAt (a : Nat) : List Byte → List (Nat × Byte)
  | [] => []
  | b :: rest => (a, b) :: cellsAt (a + 1) rest

/-- The number at `off` of `n` bytes inside a string of bytes. -/
def field (bytes : List Byte) (off n : Nat) : Nat := ofBytes ((bytes.drop off).take n)

/-- The line that holds an address (R122). -/
def lineOf (a : Nat) : Nat := a / 64 * 64

/-- Bits [hi:lo] of a number. -/
def bits (v hi lo : Nat) : Nat := v / 2 ^ lo % 2 ^ (hi + 1 - lo)

/-- A number with bits [hi:lo] replaced. -/
def setBits (v hi lo x : Nat) : Nat :=
  v - bits v hi lo * 2 ^ lo + x % 2 ^ (hi + 1 - lo) * 2 ^ lo

/-- Keep the first occurrence of each member. -/
def dedup {α : Type} [DecidableEq α] : List α → List α
  | [] => []
  | a :: rest => if a ∈ rest then dedup rest else a :: dedup rest

/-- Put a member before the first that it goes before. -/
def insertBy {α : Type} (before : α → α → Bool) (x : α) : List α → List α
  | [] => [x]
  | y :: rest => if before x y then x :: y :: rest else y :: insertBy before x rest

/-- Sort by an order, keeping the places of equals. -/
def sortBy {α : Type} (before : α → α → Bool) : List α → List α
  | [] => []
  | x :: rest => insertBy (fun a b => !before b a) x (sortBy before rest)

/-- The numbers `a`, `a + 1`, …, `n` of them. -/
def upto (a : Nat) : Nat → List Nat
  | 0 => []
  | n + 1 => a :: upto (a + 1) n

end Sys2Proof.Machine
end

