-- ==== Sys2Proof/Machine/Floats.lean ====
section
/-! DEFINITION. Number formats: the values of the element formats, the one rounding procedure, exact arithmetic, and the
block encoder (R94 to R102, R105 to R109). -/
namespace Sys2Proof.Machine

/-- A value before rounding: NaN, an infinity, or ±(mant + t) · 2^exp, where t is 0, or for a value with `more` a number
strictly between 0 and 1. -/
inductive FVal where
  | nan
  | inf (neg : Bool)
  | fin (neg : Bool) (mant : Nat) (exp : Int) (more : Bool)
  deriving DecidableEq, Repr

/-- The flags in the positions of FSR[5:0] (R103). -/
abbrev Flags := BitVec 6

/-- NX, inexact. -/
def flagNX : Flags := 1
/-- UF, underflow. -/
def flagUF : Flags := 2
/-- OF, overflow. -/
def flagOF : Flags := 4
/-- DZ, division by zero. -/
def flagDZ : Flags := 8
/-- NV, invalid. -/
def flagNV : Flags := 16
/-- SAT, clamped. -/
def flagSAT : Flags := 32

/-- A floating-point format (R94): mantissa and exponent widths, bias, the code of the largest finite value, whether it
has infinities, and its canonical NaN (R102). -/
structure FloatFmt where
  m : Nat
  eb : Nat
  bias : Nat
  most : Nat
  hasInf : Bool
  nan : Nat
  deriving DecidableEq, Repr

/-- The floating-point format of a format code (R94, R95). A NaN of scalar F4X is code 0b1000 with 0x7F above (R243). -/
def floatFmt (fmt : Nat) : FloatFmt :=
  match fmt with
  | 8 => { m := 1, eb := 2, bias := 1, most := 0x7, hasInf := false, nan := 0x7F08 }
  | 9 => { m := 3, eb := 4, bias := 7, most := 0x7E, hasInf := false, nan := 0x7F }
  | 10 => { m := 2, eb := 5, bias := 15, most := 0x7B, hasInf := true, nan := 0x7E }
  | 11 => { m := 7, eb := 8, bias := 127, most := 0x7F7F, hasInf := true, nan := 0x7FC0 }
  | 12 => { m := 10, eb := 5, bias := 15, most := 0x7BFF, hasInf := true, nan := 0x7E00 }
  | 14 => { m := 52, eb := 11, bias := 1023, most := 0x7FEFFFFFFFFFFFFF, hasInf := true, nan := 0x7FF8000000000000 }
  | _ => { m := 23, eb := 8, bias := 127, most := 0x7F7FFFFF, hasInf := true, nan := 0x7FC00000 }

/-- The width of an integer format (R95). -/
def intWidth (fmt : Nat) : Nat := 8 * 2 ^ (fmt % 4)

/-- An integer format is signed (R95). -/
def intSigned (fmt : Nat) : Bool := decide (4 ≤ fmt)

/-- A format that FTZ affects (R97). -/
def ftzFmt (fmt : Nat) : Bool := decide (11 ≤ fmt ∧ fmt ≤ 13)

/-- Zero with a sign. -/
def FVal.zero (neg : Bool) : FVal := .fin neg 0 0 false

/-- An integer as a value. -/
def FVal.ofInt (v : Int) : FVal := .fin (decide (v < 0)) v.natAbs 0 false

/-- A value with its sign turned. -/
def FVal.negate : FVal → FVal
  | .nan => .nan
  | .inf n => .inf !n
  | .fin n m e s => .fin (!n) m e s

/-- A value without its sign. -/
def FVal.abs : FVal → FVal
  | .nan => .nan
  | .inf _ => .inf false
  | .fin _ m e s => .fin false m e s

/-- The sign of a value. -/
def FVal.neg : FVal → Bool
  | .nan => false
  | .inf n => n
  | .fin n _ _ _ => n

/-- A value is a zero. -/
def FVal.isZero : FVal → Bool
  | .fin _ m _ s => decide (m = 0) && !s
  | _ => false

/-- A value times a power of two. -/
def FVal.scale (x : FVal) (k : Int) : FVal :=
  match x with
  | .fin n m e s => .fin n m (e + k) s
  | y => y

/-- The value of a code of a plain floating-point format (R94). Under `ftz` a subnormal reads as zero (R97). -/
def decodePlain (f : FloatFmt) (code : Nat) (ftz : Bool) : FVal :=
  let neg := decide (code / 2 ^ (f.m + f.eb) % 2 = 1)
  let e := code / 2 ^ f.m % 2 ^ f.eb
  let t := code % 2 ^ f.m
  if f.hasInf ∧ e = 2 ^ f.eb - 1 then (if t = 0 then .inf neg else .nan)
  else if ¬f.hasInf ∧ f.most < code % 2 ^ (f.m + f.eb) then .nan
  else if e = 0 then .fin neg (if ftz then 0 else t) (1 - (f.bias : Int) - f.m) false
  else .fin neg (2 ^ f.m + t) ((e : Int) - f.bias - f.m) false

/-- The value of an F4X element with its block's EXTRA (R100). -/
def decodeF4x (code extra : Nat) : FVal :=
  if code % 16 = 8 then decodePlain (floatFmt 9) (extra % 256) false else decodePlain (floatFmt 8) (code % 16) false

/-- The integer that the low bits of a register hold in an integer format (R96). -/
def decodeInt (fmt code : Nat) : Int :=
  let w := intWidth fmt
  let v := code % 2 ^ w
  if intSigned fmt ∧ 2 ^ (w - 1) ≤ v then (v : Int) - 2 ^ w else v

/-- The value of a register's bits in a format (R94, R95, R243). -/
def decodeVal (fmt code : Nat) (ftz : Bool) : FVal :=
  if fmt < 8 then .ofInt (decodeInt fmt code)
  else if fmt = 8 then decodeF4x code (code / 256)
  else
    let f := floatFmt fmt
    decodePlain f (code % 2 ^ (f.m + f.eb + 1)) (ftz && ftzFmt fmt)

/-- A magnitude cut at a quantum 2^q: the whole quanta, and the rest as `rest` of 2^shift parts. -/
def cutAt (mant : Nat) (exp q : Int) : Nat × Nat × Nat :=
  if q ≤ exp then (mant * 2 ^ (exp - q).toNat, 0, 0)
  else
    let sh := (q - exp).toNat
    (mant / 2 ^ sh, mant % 2 ^ sh, sh)

/-- A magnitude of k whole quanta and a rest goes up to k + 1 quanta in a mode (R105, R107). `u` is the draw of .rsr. -/
def roundUp (mode u : Nat) (neg : Bool) (k rest sh : Nat) (more : Bool) : Bool :=
  if rest = 0 ∧ more = false then false
  else
    match mode with
    | 0 => decide (2 ^ sh < 2 * rest ∨ (2 ^ sh = 2 * rest ∧ (more = true ∨ k % 2 = 1)))
    | 1 => false
    | 2 => !neg
    | 3 => neg
    | _ =>
      let t := rest * 2 ^ 32 / 2 ^ sh
      if neg then
        let c := if rest * 2 ^ 32 % 2 ^ sh ≠ 0 ∨ more = true then t + 1 else t
        !decide (u < 2 ^ 32 - c)
      else decide (u < t)

/-- The exponent of the leading bit of a magnitude that is not zero. -/
def leadExp (mant : Nat) (exp : Int) : Int := (Nat.log2 mant : Int) + exp

/-- `round` of R107 to an integer format. -/
def roundInt (fmt mode u : Nat) (x : FVal) : Nat × Flags :=
  let w := intWidth fmt
  let lo : Int := if intSigned fmt then -(2 ^ (w - 1) : Int) else 0
  let hi : Int := if intSigned fmt then 2 ^ (w - 1) - 1 else 2 ^ w - 1
  let code := fun (v : Int) => (v % (2 ^ w : Int)).toNat
  match x with
  | .nan => (0, flagNV)
  | .inf neg => (code (if neg then lo else hi), flagNV)
  | .fin neg mant exp more =>
    let c := cutAt mant exp 0
    let inexact := decide (c.2.1 ≠ 0) || more
    let k := c.1 + (if roundUp mode u neg c.1 c.2.1 c.2.2 more then 1 else 0)
    let v : Int := if neg then -(k : Int) else k
    let nx : Flags := if inexact then flagNX else 0
    if v < lo then (code lo, flagSAT ||| flagNX)
    else if hi < v then (code hi, flagSAT ||| flagNX)
    else (code v, nx)

/-- `round` of R107 to a floating-point format; F4X has no −0 (R243). -/
def roundFloat (fmt mode u : Nat) (ftz : Bool) (x : FVal) : Nat × Flags :=
  let f := floatFmt fmt
  let sign := fun (neg : Bool) => if neg then 2 ^ (f.m + f.eb) else 0
  let zero := fun (neg : Bool) => if fmt = 8 then 0 else sign neg
  match x with
  | .nan => (f.nan, 0)
  | .inf neg => if f.hasInf then (sign neg + f.most + 1, 0) else (f.nan, flagNV)
  | .fin neg mant exp more =>
    if mant = 0 ∧ more = false then (zero neg, 0)
    else
      let emin : Int := 1 - (f.bias : Int)
      let lead := leadExp mant exp
      let q := max lead emin - f.m
      let c := cutAt mant exp q
      let inexact := decide (c.2.1 ≠ 0) || more
      let k := c.1 + (if roundUp mode u neg c.1 c.2.1 c.2.2 more then 1 else 0)
      let code := (q - (emin - f.m)).toNat * 2 ^ f.m + k
      let fl : Flags := (if inexact then flagNX else 0) ||| (if inexact ∧ lead < emin then flagUF else 0)
      if f.most < code then
        if f.hasInf then
          let whole := match mode with | 1 => false | 2 => !neg | 3 => neg | _ => true
          (sign neg + (if whole then f.most + 1 else f.most), fl ||| flagOF ||| flagNX)
        else (sign neg + f.most, fl ||| flagSAT ||| flagNX)
      else if code = 0 then (zero neg, fl)
      else if ftz && ftzFmt fmt && decide (code < 2 ^ f.m) then (sign neg, fl ||| flagUF ||| flagNX)
      else (sign neg + code, fl)

/-- `round` of R107, for a draw already made. -/
def roundTo (fmt mode u : Nat) (ftz : Bool) (x : FVal) : Nat × Flags :=
  if fmt < 8 then roundInt fmt mode u x else roundFloat fmt mode u ftz x

/-- One step of SEED (R106). -/
def advanceSeed (s : Word) : Word :=
  let s := if s = 0 then 0x9E3779B9 else s
  let s := s ^^^ (s <<< 13)
  let s := s ^^^ (s >>> 17)
  s ^^^ (s <<< 5)

/-- The draw of one rounding (R106). -/
def drawFor (mode : Nat) (seed : Word) : Word := if mode = 4 then advanceSeed seed else seed

/-- What a computation leaves beside its result: SEED, and the flags raised. -/
structure FpOut where
  code : Nat
  seed : Word
  flags : Flags
  deriving DecidableEq, Repr

/-- One rounding, with its draw. -/
def roundDraw (fmt mode : Nat) (ftz : Bool) (seed : Word) (flags : Flags) (x : FVal) : FpOut :=
  let s := drawFor mode seed
  let r := roundTo fmt mode s.toNat ftz x
  { code := r.1, seed := s, flags := flags ||| r.2 }

/-! ### Exact arithmetic (R102, R108) -/

/-- A value and the flags that forming it raises. -/
abbrev FRes := FVal × Flags

/-- The mantissa with sign, at a lower exponent. -/
def signedAt (neg : Bool) (m : Nat) (e base : Int) : Int :=
  let v : Int := (m * 2 ^ (e - base).toNat : Nat)
  if neg then -v else v

/-- An exact sum. `down` says that the mode is .rdn, in which an exact zero sum is −0 (R108). -/
def fadd (down : Bool) (a b : FVal) : FRes :=
  match a, b with
  | .nan, _ | _, .nan => (.nan, 0)
  | .inf x, .inf y => if x = y then (.inf x, 0) else (.nan, flagNV)
  | .inf x, _ => (.inf x, 0)
  | _, .inf y => (.inf y, 0)
  | .fin na ma ea _, .fin nb mb eb _ =>
    if ma = 0 ∧ mb = 0 then (.zero (if na = nb then na else down), 0)
    else
      let base := min ea eb
      let v := signedAt na ma ea base + signedAt nb mb eb base
      if v = 0 then (.zero down, 0) else (.fin (decide (v < 0)) v.natAbs base false, 0)

/-- An exact product. -/
def fmul (a b : FVal) : FRes :=
  match a, b with
  | .nan, _ | _, .nan => (.nan, 0)
  | .inf x, .inf y => (.inf (x != y), 0)
  | .inf x, .fin n m _ _ => if m = 0 then (.nan, flagNV) else (.inf (x != n), 0)
  | .fin n m _ _, .inf y => if m = 0 then (.nan, flagNV) else (.inf (n != y), 0)
  | .fin na ma ea _, .fin nb mb eb _ => (.fin (na != nb) (ma * mb) (ea + eb) false, 0)

/-- B × C + D, or −(B × C) + D, exactly (R279). -/
def ffma (down negProduct : Bool) (b c d : FVal) : FRes :=
  let p := fmul b c
  let q := if negProduct then p.1.negate else p.1
  let r := fadd down q d
  (r.1, p.2 ||| r.2)

/-- A quotient with enough bits below any rounding position, and whether more follow. -/
def quotient (na nb : Bool) (ma mb : Nat) (ea eb : Int) : FVal :=
  let k := 160 + Nat.log2 mb
  let n := ma * 2 ^ k
  .fin (na != nb) (n / mb) (ea - eb - k) (decide (n % mb ≠ 0))

/-- B ÷ C (R102, R279). -/
def fdiv (a b : FVal) : FRes :=
  match a, b with
  | .nan, _ | _, .nan => (.nan, 0)
  | .inf _, .inf _ => (.nan, flagNV)
  | .inf x, .fin n _ _ _ => (.inf (x != n), 0)
  | .fin n _ _ _, .inf y => (.zero (n != y), 0)
  | .fin na ma ea _, .fin nb mb eb _ =>
    if mb = 0 then (if ma = 0 then (.nan, flagNV) else (.inf (na != nb), flagDZ))
    else if ma = 0 then (.zero (na != nb), 0)
    else (quotient na nb ma mb ea eb, 0)

/-- The whole part of a square root, by its bits from the top. -/
def isqrtFrom (n r : Nat) : Nat → Nat
  | 0 => r
  | k + 1 => if (r + 2 ^ k) * (r + 2 ^ k) ≤ n then isqrtFrom n (r + 2 ^ k) k else isqrtFrom n r k

/-- The whole part of a square root. -/
def isqrt (n : Nat) : Nat := isqrtFrom n 0 (Nat.log2 n / 2 + 1)

/-- √B (R279, R280). -/
def fsqrt (a : FVal) : FRes :=
  match a with
  | .nan => (.nan, 0)
  | .inf neg => if neg then (.nan, flagNV) else (.inf false, 0)
  | .fin neg m e _ =>
    if m = 0 then (a, 0)
    else if neg then (.nan, flagNV)
    else
      let n := if e % 2 = 0 then m * 2 ^ 320 else m * 2 ^ 321
      let h := if e % 2 = 0 then (e - 320) / 2 else (e - 321) / 2
      let r := isqrt n
      (.fin false r h (decide (r * r ≠ n)), 0)

/-- 1 / √B (R280). -/
def frsqrt (a : FVal) : FRes :=
  match a with
  | .nan => (.nan, 0)
  | .inf neg => if neg then (.nan, flagNV) else (.zero false, 0)
  | .fin neg m e _ =>
    if m = 0 then (.inf neg, flagDZ)
    else if neg then (.nan, flagNV)
    else
      let n := if e % 2 = 0 then m else 2 * m
      let h := if e % 2 = 0 then e else e - 1
      let k := 160 + Nat.log2 n
      let r := isqrt (2 ^ (2 * k) / n)
      (.fin false r (-(h / 2) - k) (decide (r * r * n ≠ 2 ^ (2 * k))), 0)

/-- 1 / B (R280). -/
def frcp (a : FVal) : FRes := fdiv (.fin false 1 0 false) a

/-- Compare two values that are no NaN: the difference of A and B has the sign of the answer. −0 equals +0. -/
def fcompare (a b : FVal) : Int :=
  match a, b with
  | .inf x, .inf y => (if x then -1 else 1) - (if y then -1 else 1)
  | .inf x, _ => if x then -1 else 1
  | _, .inf y => if y then 1 else -1
  | .fin na ma ea _, .fin nb mb eb _ =>
    let base := min ea eb
    signedAt na ma ea base - signedAt nb mb eb base
  | _, _ => 0

/-- A value is NaN. -/
def FVal.isNan : FVal → Bool
  | .nan => true
  | _ => false

/-- A comes before B in the order of minimum and maximum, which puts −0 below +0 (R281). -/
def fbefore (a b : FVal) : Bool :=
  let c := fcompare a b
  decide (c < 0) || (decide (c = 0) && a.neg && !b.neg)

/-- Minimum or maximum (R281): `strict` gives NaN for any NaN. -/
def fminmax (isMax strict : Bool) (a b : FVal) : FVal :=
  match a.isNan, b.isNan with
  | true, true => .nan
  | true, false => if strict then .nan else b
  | false, true => if strict then .nan else a
  | false, false => if fbefore a b != isMax then a else b

/-- The conditions of ICMP and FCMP on the sign of a difference (R238, R239): eq, ne, lt, le, gt, ge. -/
def condHolds (cond : Nat) (d : Int) : Bool :=
  match cond with
  | 0 => decide (d = 0)
  | 1 => decide (d ≠ 0)
  | 2 => decide (d < 0)
  | 3 => decide (d ≤ 0)
  | 4 => decide (d > 0)
  | _ => decide (d ≥ 0)

/-- FCMP's conditions (R239). -/
def fcmpHolds (cond : Nat) (a b : FVal) : Bool :=
  let un := a.isNan || b.isNan
  match cond with
  | 1 => un || condHolds 1 (fcompare a b)
  | 6 => un
  | 7 => !un
  | c => !un && condHolds c (fcompare a b)

/-! ### Blocks (R98 to R101) -/

/-- emax of a block format (R101). -/
def blockEmax (fmt : Nat) : Int := if fmt = 8 then 2 else if fmt = 9 then 8 else 15

/-- lo of a block format (R101). -/
def blockLo (fmt : Nat) : Int := if fmt = 10 then -120 else -127

/-- The value of an element of a block under its side word, without the NV of R99. -/
def blockValue (fmt code scale extra : Nat) : FVal :=
  if scale = 0xFF ∨ (fmt = 10 ∧ scale ≤ 6) then .nan
  else
    let v := if fmt = 8 then decodeF4x code extra else decodePlain (floatFmt fmt) (code % 256) false
    v.scale ((scale : Int) - 127)

/-- A block's scale makes every element NaN with NV (R99). -/
def blockInvalid (fmt scale : Nat) : Bool := decide (fmt = 10 ∧ scale ≤ 6)

/-- A finite value as a multiple of 2^−600: every value that meets a block encoder is one. -/
def FVal.fixed : FVal → Int
  | .fin n m e _ => signedAt n m e (-600)
  | _ => 0

/-- What the block encoder answers: the codes, SCALE and EXTRA, SEED and the flags. -/
structure BlockOut where
  codes : List Nat
  scale : Nat
  extra : Nat
  seed : Word
  flags : Flags
  deriving DecidableEq, Repr

/-- The element roundings of a block, drawing in order (R106). -/
def blockRound (fmt mode : Nat) (e : Int) (seed : Word) : List FVal → List (Nat × Flags) × Word
  | [] => ([], seed)
  | v :: rest =>
    let s := drawFor mode seed
    let r := blockRound fmt mode e s rest
    (roundFloat fmt mode s.toNat false (v.scale (-e)) :: r.1, r.2)

/-- The lowest index of a greatest member that is above zero. -/
def argMax (l : List Nat) : Option Nat :=
  let m := l.foldl max 0
  if m = 0 then none else l.findIdx? fun x => decide (x = m)

/-- Encode a block (R101). An F8E5 element above the largest finite value goes where `round` of the procedure sends it (DEDUCED,
assumption 70). -/
def encodeBlock (fmt mode : Nat) (seed : Word) (v : List FVal) : BlockOut :=
  let drawn := (blockRound fmt mode 0 seed v).2
  if v.any fun x => match x with | .fin _ _ _ _ => false | _ => true then
    let nv := v.any fun x => match x with | .inf _ => true | _ => false
    { codes := v.map fun _ => 0, scale := 0xFF, extra := 0, seed := drawn, flags := if nv then flagNV else 0 }
  else
    let big := (v.map fun x => x.fixed.natAbs).foldl max 0
    if big = 0 then { codes := v.map fun _ => 0, scale := 0x7F, extra := 0, seed := drawn, flags := 0 }
    else
      let e := min (max ((Nat.log2 big : Int) - 600 - blockEmax fmt) (blockLo fmt)) 127
      let r := blockRound fmt mode e seed v
      let value := fun (c : Nat) => ((decodePlain (floatFmt fmt) c false).scale e).fixed
      let err := (v.zip r.1).map fun p => (p.1.fixed - value p.2.1).natAbs
      let scale := (e + 127).toNat
      let all : Flags := r.1.foldl (fun f p => f ||| p.2) 0
      match (if fmt = 8 then argMax err else none) with
      | none => { codes := r.1.map Prod.fst, scale := scale, extra := 0, seed := r.2, flags := all }
      | some j =>
        let x := roundFloat 9 0 0 false ((v.getD j (.zero false)).scale (-e))
        let others : Flags := (r.1.eraseIdx j).foldl (fun f p => f ||| p.2) 0
        { codes := (r.1.map Prod.fst).set j 8, scale := scale, extra := if x.1 = 0x80 then 0 else x.1,
          seed := r.2, flags := others ||| x.2 }

end Sys2Proof.Machine
end

