-- ==== Sys2Proof/Machine/Forms.lean ====
section
/-! DEFINITION. The legal forms of the instructions: for each constructor, the part each operand plays, and which values
of the modifier fields the instruction's description lists (R180, R182, R205). The well-formedness check, the decoder
and the reading and writing of operands all work from this one table. -/
namespace Sys2Proof

/-- The bits [lo + len − 1 : lo] of a field, as a number. -/
def fld {n : Nat} (x : BitVec n) (lo len : Nat) : Nat := x.toNat / 2 ^ lo % 2 ^ len

/-- One bit of a field. -/
def bit {n : Nat} (x : BitVec n) (i : Nat) : Bool := x.getLsbD i

/-- The part an operand field plays in an instruction (R163, R166, R205). `wide` marks a d-register. -/
inductive Slot where
  /-- Not used: the code, the T bit and the L bit must be zero. -/
  | none
  /-- Read. -/
  | src (wide : Bool)
  /-- Written. -/
  | dst (wide : Bool)
  /-- Read, then written. -/
  | upd (wide : Bool)
  /-- Named as a result register, neither read nor written by the instruction itself (R220). -/
  | result (wide : Bool)
  /-- Named, neither read nor written (QSTAT, R277). -/
  | name
  /-- A q register that takes a word later (LDQ, R253). -/
  | push
  /-- A q register whose head word is taken (STQ, R253). -/
  | pop
  /-- A run of g registers that is read (R246, R247). -/
  | srcs (count : Nat)
  /-- A run of g registers that is written (R246, R247). -/
  | dsts (count : Nat)
  /-- No operand code but a number below a limit (MDRAIN, R301). -/
  | raw (limit : Nat)
  deriving DecidableEq, Repr

/-- One operand field: its code, its T and L bits (false where the format has none), and its part. -/
structure Operand where
  code : BitVec 8
  t : Bool
  l : Bool
  slot : Slot
  deriving DecidableEq, Repr

/-- An instruction seen through its format: the header, the four operand fields, the literal of X, and whether its
modifier and immediate fields hold listed values. -/
structure Form where
  hdr : Header
  a : Operand
  b : Operand
  c : Operand
  d : Operand
  lit : Option Word
  fieldsOk : Bool
  deriving DecidableEq, Repr

/-- The absent operand. -/
def Operand.absent : Operand := { code := 0, t := false, l := false, slot := .none }

/-- Format Q (R159). -/
def formQ (f : FormQ) (a b : Slot) : Form :=
  { hdr := f.hdr, a := { code := f.a, t := false, l := false, slot := a },
    b := { code := f.b, t := false, l := f.lb, slot := b }, c := .absent, d := .absent, lit := none, fieldsOk := true }

/-- Format QI (R159). -/
def formQI (f : FormQI) (a : Slot) (ok : Bool) : Form :=
  { hdr := f.hdr, a := { code := f.a, t := false, l := false, slot := a }, b := .absent, c := .absent, d := .absent,
    lit := none, fieldsOk := ok }

/-- Format QB (R159): the spare bit must be 0. -/
def formQB (f : FormQB) : Form :=
  { hdr := f.hdr, a := .absent, b := .absent, c := .absent, d := .absent, lit := none, fieldsOk := !f.spare }

/-- Format W (R160). -/
def formW (f : FormW) (a b c d : Slot) (ok : Bool) : Form :=
  { hdr := f.hdr, a := { code := f.a, t := false, l := false, slot := a },
    b := { code := f.b, t := f.tb, l := f.lb, slot := b }, c := { code := f.c, t := f.tc, l := f.lc, slot := c },
    d := { code := f.d, t := f.td, l := f.ld, slot := d }, lit := none, fieldsOk := ok }

/-- Format X (R162): C, LC and TC must be zero, and LIT stands in the place of C. -/
def formX (f : FormW) (lit : Word) (a b d : Slot) (ok : Bool) : Form :=
  { formW f a b .none d ok with lit := some lit }

/-- Format WI (R161). -/
def formWI (f : FormWI) (a b : Slot) (ok : Bool) : Form :=
  { hdr := f.hdr, a := { code := f.a, t := false, l := false, slot := a },
    b := { code := f.b, t := false, l := f.lb, slot := b }, c := .absent, d := .absent, lit := none, fieldsOk := ok }

/-- SUB5 of CALL, CALLI and HINST: the slide ÷ 8, 1 to 15 (R180, R208, R218). -/
def slideOk (sub : BitVec 5) : Bool := 1 ≤ sub.toNat && decide (sub.toNat < 16)

/-- The result register of PERFORM and PERFORMV (R220): MOD3[1] for none, MOD3[0] for a d-register. -/
def resultSlot (mod : BitVec 3) : Slot := if bit mod 1 then .none else .result (bit mod 0)

/-- The fields of PERFORM and PERFORMV (R217, R220): MOD3 of 0 to 2, SUB5 0, IMM24[23:16] 0. -/
def performOk (f : FormWI) : Bool := decide (f.mod.toNat < 3 ∧ f.sub = 0 ∧ f.imm.toNat < 65536)

/-- The KINFO selectors of 64-bit fields (R226). -/
def kinfoWide (sub : BitVec 5) : Bool := decide (8 ≤ sub.toNat)

/-- MOD6[0] of block 0x20: 64 bits (R227). -/
def w64 (f : FormW) : Bool := bit f.mod 0

/-- MOD6 of an integer instruction that accepts the signed bit, the saturating bit, or neither (R227). -/
def int20 (f : FormW) (signed sat : Bool) : Bool :=
  (signed || !bit f.mod 1) && (sat || !bit f.mod 2) && decide (f.mod.toNat < 8)

/-- LEA (R234): MOD6[0] 1, MOD6[2] 0. -/
def leaOk (f : FormW) : Bool := bit f.mod 0 && !bit f.mod 2 && decide (f.sub = 0)

/-- Format codes of 64 bits (R95). -/
def wide64 (code : Nat) : Bool := decide (code = 3 ∨ code = 7 ∨ code = 14)

/-- MOD6[3:0] names a format of 64 bits. -/
def fmt64 (f : FormW) : Bool := wide64 (fld f.mod 0 4)

/-- MOD6[3:0] is this format code. -/
def fmtIs (f : FormW) (code : Nat) : Bool := decide (fld f.mod 0 4 = code)

/-- The combining forms of ICMP and FCMP read A (R238). -/
def combineSlot (f : FormW) : Slot := if fld f.mod 4 2 = 0 then .dst false else .upd false

/-- The fields of ICMP (R238). -/
def icmpOk (f : FormW) : Bool := decide (fld f.mod 0 4 < 8 ∧ fld f.mod 4 2 ≠ 3 ∧ f.sub.toNat < 6)

/-- The fields of FCMP (R239). -/
def fcmpOk (f : FormW) : Bool :=
  decide (11 ≤ fld f.mod 0 4 ∧ fld f.mod 0 4 ≤ 13 ∧ fld f.mod 4 2 ≠ 3 ∧ f.sub.toNat < 8)

/-- CV of block 0x50: SUB5 and MOD6 together (R243). -/
def cv (f : FormW) : Nat := f.sub.toNat * 64 + f.mod.toNat

/-- The destination format of CV. -/
def cvDst (f : FormW) : Nat := cv f % 16

/-- The source format of CV. -/
def cvSrc (f : FormW) : Nat := cv f / 16 % 16

/-- The rounding code of CV. -/
def cvRnd (f : FormW) : Nat := cv f / 256

/-- The formats of CVTPK (R245). -/
def cvtpkOk (f : FormW) : Bool :=
  decide (cvDst f ∈ [0, 1, 4, 5, 8, 9, 10, 11, 12] ∧ cvSrc f < 14 ∧ cvSrc f ≠ 3 ∧ cvSrc f ≠ 7 ∧ cvRnd f < 5)

/-- MOD6[2:0] names GLOBAL, whose addresses are d-registers (R250). -/
def glob (f : FormW) : Bool := decide (fld f.mod 0 3 = 0)

/-- SUB5[1:0] = 3: an access of 8 bytes. -/
def size64 (f : FormW) : Bool := decide (fld f.sub 0 2 = 3)

/-- SUB5 and MOD6[5:3] of LD and LDQ (R251): sign extension is of sizes 0 and 1 alone. -/
def ldOk (f : FormW) : Bool := decide (f.sub.toNat < 6 ∧ f.mod.toNat < 8)

/-- Space, scope and size of the atomic and ordering instructions (R250, R254): sizes 0 and 1 are not accepted. -/
def syncOk (f : FormW) : Bool := decide (fld f.mod 0 3 < 3 ∧ fld f.mod 3 3 < 6 ∧ 2 ≤ fld f.sub 0 2)

/-- MOD6 of block 0xA0 (R279): the type, MOD6[2] where the instruction takes it, and the rounding code. -/
def fpOk (f : FormW) (mod2 rounds : Bool) : Bool :=
  decide (fld f.mod 0 2 < 3) && (mod2 || !bit f.mod 2) && decide (fld f.mod 3 3 < if rounds then 5 else 1)

/-- The literal of a BF16 or FP16 operation has LIT[31:16] zero (R162). -/
def fpLit (f : FormW) (lit : Word) : Bool := decide (fld f.mod 0 2 = 0 ∨ lit.toNat < 65536)

/-- The literal of an ICMP has no bits beyond its format, whose low bits alone it compares (R182, R238). -/
def icmpLit (f : FormW) (lit : Word) : Bool :=
  match fld f.mod 0 2 with
  | 0 => decide (lit.toNat < 256)
  | 1 => decide (lit.toNat < 65536)
  | _ => true

/-- The literal of an instruction that uses LIT[15:0] alone (R182, R231, R232). -/
def halfLit (lit : Word) : Bool := decide (lit.toNat < 65536)

/-- A of FSTAT by its operation (R288). -/
def fstatA (f : FormW) : Slot := match f.sub.toNat with | 0 => .dst true | 2 => .dst false | _ => .none

/-- B of FSTAT by its operation (R288). -/
def fstatB (f : FormW) : Slot := match f.sub.toNat with | 0 => .none | 1 => .src true | _ => .src false

/-- The fields of REDUCE and SCAN (R290, R293). -/
def reduceOk (f : FormW) : Bool :=
  decide (f.sub.toNat < 6 ∧ (fld f.mod 0 4 < 8 ∨ 11 ≤ fld f.mod 0 4 ∧ fld f.mod 0 4 ≤ 13 ∧ f.sub.toNat < 3)) &&
    decide (fld f.mod 4 2 = 0 ∨ 11 ≤ fld f.mod 0 4 ∧ f.sub = 0)

/-- The fields of MDRAIN and MACC (R301). -/
def matFmtOk (f : FormW) : Bool := decide (8 ≤ fld f.mod 0 4 ∧ fld f.mod 0 4 ≤ 13 ∧ fld f.sub 0 4 ≠ 0)

/-- The form of each instruction. An event has none. STQ to CONST has one, and is refused at the privilege check (R21;
assumption 65). -/
def Instr.form : Instr → Option Form
  | .nopQ f => some (formQ f .none .none)
  | .nopW f => some (formW f .none .none .none .none (f.mod = 0 ∧ f.sub = 0))
  | .nopX f lit => some (formX f lit .none .none .none (f.mod = 0 ∧ f.sub = 0))
  | .braQb f => some (formQB f)
  | .braWi f => some (formWI f .none .none (f.mod = 0 ∧ f.sub = 0))
  | .call f => some (formWI f .none .none (f.mod = 0 ∧ slideOk f.sub))
  | .calli f => some (formW f .none (.src true) .none .none (f.mod = 0 ∧ slideOk f.sub))
  | .jmpi f => some (formQ f .none (.src true))
  | .ret f => some (formQI f .none (f.imm.toNat < 16))
  | .reform f => some (formQ f .none .none)
  | .convene f => some (formQI f .none (f.imm.toNat < 8))
  | .disband f => some (formQ f .none .none)
  | .bar f => some (formQ f .none .none)
  | .exit f => some (formQ f .none .none)
  | .spawn f => some (formW f (.dst false) (.src true) (.src false) (.src false) (f.mod = 0 ∧ f.sub = 0))
  | .hinst f => some (formW f .none (.src true) (.src false) .none (f.mod.toNat < 16 ∧ slideOk f.sub))
  | .hpop f => some (formQ f .none .none)
  | .perform f => some (formWI f (resultSlot f.mod) (.src false) (performOk f))
  | .performv f => some (formWI f (resultSlot f.mod) (.src true) (performOk f))
  | .resume f => some (formW f .none (.src true) (.src (bit f.mod 0)) .none (f.mod.toNat < 2 ∧ f.sub = 0))
  | .drop f => some (formQ f .none (.src true))
  | .ksend f => some (formW f .none (.src true) (.src false) (.src false) (f.mod = 0 ∧ f.sub = 0))
  | .krecv f => some (formQ f (.dst true) .none)
  | .kinfo f => some (formW f (.dst (kinfoWide f.sub)) (.src true) .none .none (f.sub.toNat < 14 ∧ f.mod.toNat = if kinfoWide f.sub then 1 else 0))
  | .yield f => some (formQ f .none .none)
  | .safe f => some (formQI f .none True)
  | .pause f => some (formQI f .none (f.imm.toNat < 256))
  | .trap f => some (formQI f .none (f.imm.toNat < 64))
  | .iaddQ f => some (formQ f (.upd false) (.src false))
  | .iaddW f => some (formW f (.dst (w64 f)) (.src (w64 f)) (.src (w64 f)) .none (int20 f true true ∧ f.sub = 0))
  | .iaddX f lit => some (formX f lit (.dst (w64 f)) (.src (w64 f)) .none (int20 f true true ∧ f.sub = 0))
  | .isubQ f => some (formQ f (.upd false) (.src false))
  | .isubW f => some (formW f (.dst (w64 f)) (.src (w64 f)) (.src (w64 f)) .none (int20 f true true ∧ f.sub = 0))
  | .isubX f lit => some (formX f lit (.dst (w64 f)) (.src (w64 f)) .none (int20 f true true ∧ f.sub = 0))
  | .imulQ f => some (formQ f (.upd false) (.src false))
  | .imulW f => some (formW f (.dst (w64 f)) (.src (w64 f)) (.src (w64 f)) .none (int20 f true true ∧ f.sub = 0))
  | .imulX f lit => some (formX f lit (.dst (w64 f)) (.src (w64 f)) .none (int20 f true true ∧ f.sub = 0))
  | .imulhQ f => some (formQ f (.upd false) (.src false))
  | .imulhW f => some (formW f (.dst (w64 f)) (.src (w64 f)) (.src (w64 f)) .none (int20 f true false ∧ f.sub = 0))
  | .imulhX f lit => some (formX f lit (.dst (w64 f)) (.src (w64 f)) .none (int20 f true false ∧ f.sub = 0))
  | .imadW f => some (formW f (.dst (w64 f)) (.src (w64 f)) (.src (w64 f)) (.src (w64 f)) (int20 f true true ∧ f.sub = 0))
  | .imadX f lit => some (formX f lit (.dst (w64 f)) (.src (w64 f)) (.src (w64 f)) (int20 f true true ∧ f.sub = 0))
  | .idivQ f => some (formQ f (.upd false) (.src false))
  | .idivW f => some (formW f (.dst (w64 f)) (.src (w64 f)) (.src (w64 f)) .none (int20 f true true ∧ f.sub = 0))
  | .idivX f lit => some (formX f lit (.dst (w64 f)) (.src (w64 f)) .none (int20 f true true ∧ f.sub = 0))
  | .iremQ f => some (formQ f (.upd false) (.src false))
  | .iremW f => some (formW f (.dst (w64 f)) (.src (w64 f)) (.src (w64 f)) .none (int20 f true false ∧ f.sub = 0))
  | .iremX f lit => some (formX f lit (.dst (w64 f)) (.src (w64 f)) .none (int20 f true false ∧ f.sub = 0))
  | .iminQ f => some (formQ f (.upd false) (.src false))
  | .iminW f => some (formW f (.dst (w64 f)) (.src (w64 f)) (.src (w64 f)) .none (int20 f true false ∧ f.sub = 0))
  | .iminX f lit => some (formX f lit (.dst (w64 f)) (.src (w64 f)) .none (int20 f true false ∧ f.sub = 0))
  | .imaxQ f => some (formQ f (.upd false) (.src false))
  | .imaxW f => some (formW f (.dst (w64 f)) (.src (w64 f)) (.src (w64 f)) .none (int20 f true false ∧ f.sub = 0))
  | .imaxX f lit => some (formX f lit (.dst (w64 f)) (.src (w64 f)) .none (int20 f true false ∧ f.sub = 0))
  | .iabsQ f => some (formQ f (.dst false) (.src false))
  | .iabsW f => some (formW f (.dst (w64 f)) (.src (w64 f)) .none .none (int20 f false true ∧ f.sub = 0))
  | .andQ f => some (formQ f (.upd false) (.src false))
  | .andW f => some (formW f (.dst (w64 f)) (.src (w64 f)) (.src (w64 f)) .none (int20 f false false ∧ f.sub = 0))
  | .andX f lit => some (formX f lit (.dst (w64 f)) (.src (w64 f)) .none (int20 f false false ∧ f.sub = 0))
  | .orQ f => some (formQ f (.upd false) (.src false))
  | .orW f => some (formW f (.dst (w64 f)) (.src (w64 f)) (.src (w64 f)) .none (int20 f false false ∧ f.sub = 0))
  | .orX f lit => some (formX f lit (.dst (w64 f)) (.src (w64 f)) .none (int20 f false false ∧ f.sub = 0))
  | .xorQ f => some (formQ f (.upd false) (.src false))
  | .xorW f => some (formW f (.dst (w64 f)) (.src (w64 f)) (.src (w64 f)) .none (int20 f false false ∧ f.sub = 0))
  | .xorX f lit => some (formX f lit (.dst (w64 f)) (.src (w64 f)) .none (int20 f false false ∧ f.sub = 0))
  | .andnQ f => some (formQ f (.upd false) (.src false))
  | .andnW f => some (formW f (.dst (w64 f)) (.src (w64 f)) (.src (w64 f)) .none (int20 f false false ∧ f.sub = 0))
  | .andnX f lit => some (formX f lit (.dst (w64 f)) (.src (w64 f)) .none (int20 f false false ∧ f.sub = 0))
  | .notQ f => some (formQ f (.dst false) (.src false))
  | .notW f => some (formW f (.dst (w64 f)) (.src (w64 f)) .none .none (int20 f false false ∧ f.sub = 0))
  | .shlQi f => some (formQI f (.upd false) (f.imm.toNat < 32))
  | .shlW f => some (formW f (.dst (w64 f)) (.src (w64 f)) (.src (w64 f)) .none (int20 f true true ∧ f.sub = 0))
  | .shrQi f => some (formQI f (.upd false) (f.imm.toNat < 32))
  | .shrW f => some (formW f (.dst (w64 f)) (.src (w64 f)) (.src (w64 f)) .none (int20 f false false ∧ f.sub = 0))
  | .sarQi f => some (formQI f (.upd false) (f.imm.toNat < 32))
  | .sarW f => some (formW f (.dst (w64 f)) (.src (w64 f)) (.src (w64 f)) .none (int20 f false false ∧ f.sub = 0))
  | .rotQi f => some (formQI f (.upd false) (f.imm.toNat < 32))
  | .rotW f => some (formW f (.dst (w64 f)) (.src (w64 f)) (.src (w64 f)) .none (int20 f false false ∧ f.sub = 0))
  | .bfxW f => some (formW f (.dst (w64 f)) (.src (w64 f)) (.src (w64 f)) .none (int20 f true false ∧ f.sub = 0))
  | .bfxX f lit => some (formX f lit (.dst (w64 f)) (.src (w64 f)) .none (int20 f true false ∧ f.sub = 0 ∧ halfLit lit))
  | .bfiW f => some (formW f (.dst (w64 f)) (.src (w64 f)) (.src (w64 f)) (.src (w64 f)) (int20 f false false ∧ f.sub = 0))
  | .bfiX f lit => some (formX f lit (.dst (w64 f)) (.src (w64 f)) (.src (w64 f)) (int20 f false false ∧ f.sub = 0 ∧ halfLit lit))
  | .popcQ f => some (formQ f (.dst false) (.src false))
  | .popcW f => some (formW f (.dst (w64 f)) (.src (w64 f)) .none .none (int20 f false false ∧ f.sub = 0))
  | .clzQ f => some (formQ f (.dst false) (.src false))
  | .clzW f => some (formW f (.dst (w64 f)) (.src (w64 f)) .none .none (int20 f false false ∧ f.sub = 0))
  | .brevQ f => some (formQ f (.dst false) (.src false))
  | .brevW f => some (formW f (.dst (w64 f)) (.src (w64 f)) .none .none (int20 f false false ∧ f.sub = 0))
  | .prm8W f => some (formW f (.dst false) (.src false) (.src false) (.src false) (f.mod = 0 ∧ f.sub = 0))
  | .prm8X f lit => some (formX f lit (.dst false) (.src false) (.src false) (f.mod = 0 ∧ f.sub = 0 ∧ halfLit lit))
  | .movQ f => some (formQ f (.dst false) (.src false))
  | .movW f => some (formW f (.dst (w64 f)) (.src (w64 f)) .none .none (int20 f false false ∧ f.sub = 0))
  | .moviQi f => some (formQI f (.dst false) True)
  | .moviWi f => some (formWI f (if f.sub = 1 then .upd true else .dst (f.mod.getLsbD 0)) .none (f.mod.toNat < 2 ∧ (f.sub = 0 ∨ f.sub = 1 ∧ f.mod = 1)))
  | .moviX f lit => some (formX f lit (if f.sub = 1 then .upd true else .dst (w64 f)) .none .none (f.mod.toNat < 4 ∧ (f.sub = 0 ∨ f.sub = 1 ∧ w64 f = true)))
  | .leaW f => some (formW f (.dst true) (.src true) (.src false) .none (leaOk f))
  | .leaX f lit => some (formX f lit (.dst true) (.src true) .none (leaOk f))
  | .sel f => some (formW f (.dst (w64 f)) (.src (w64 f)) (.src (w64 f)) (.src false) (f.mod.toNat < 2 ∧ f.sub = 0))
  | .hadd2Q f => some (formQ f (.upd false) (.src false))
  | .hadd2W f => some (formW f (.dst false) (.src false) (.src false) .none (¬ w64 f ∧ f.mod.toNat < 8 ∧ f.sub = 0))
  | .hmnx2Q f => some (formQ f (.upd false) (.src false))
  | .hmnx2W f => some (formW f (.dst false) (.src false) (.src false) .none (fld f.mod 0 1 = 0 ∧ fld f.mod 2 1 = 0 ∧ f.mod.toNat < 16 ∧ f.sub = 0))
  | .hmaxd2 f => some (formW f (.dst false) (.src false) (.src false) (.upd false)
      (f.mod &&& 0x3D#6 = 0 ∧ f.sub = 0 ∧ f.ld = false))
  | .icmpW f => some (formW f (combineSlot f) (.src (fmt64 f)) (.src (fmt64 f)) .none (icmpOk f))
  | .icmpX f lit => some (formX f lit (combineSlot f) (.src (fmt64 f)) .none (icmpOk f ∧ icmpLit f lit))
  | .fcmpW f => some (formW f (combineSlot f) (.src false) (.src false) .none (fcmpOk f))
  | .fcmpX f lit => some (formX f lit (combineSlot f) (.src false) .none (fcmpOk f ∧ (fld f.mod 0 4 = 13 ∨ lit.toNat < 65536)))
  | .plog f => some (formW f (.dst false) (.src false) (.src false) (if 8 ≤ f.sub.toNat then .src false else .none) (f.mod = 0 ∧ f.sub.toNat < 12))
  | .pnot f => some (formQ f (.dst false) (.src false))
  | .p2g f => some (formQ f (.dst false) .none)
  | .g2p f => some (formQ f .none (.src false))
  | .vote f => some (formW f (.dst (fmtIs f 3)) (.src false) .none .none ((f.mod = 2 ∧ f.sub.toNat < 3) ∨ (f.mod = 3 ∧ f.sub = 2)))
  | .cvt f => some (formW f (.dst (wide64 (cvDst f))) (.src (wide64 (cvSrc f))) .none .none (cvDst f < 15 ∧ cvSrc f < 15 ∧ cvRnd f < 5))
  | .cvtpk f => some (formW f (if cvDst f ∈ [1, 5, 11, 12] then .dst false else .upd false) (.src false) (.src false) .none (cvtpkOk f))
  | .qpack f => some (formW f (.dsts (if cvDst f = 8 then 4 else 8)) (.srcs (if cvSrc f = 13 then 32 else 16)) .none (.dst false) (cvSrc f ∈ [11, 12, 13] ∧ cvDst f ∈ [8, 9, 10] ∧ cvRnd f < 5))
  | .qunpk f => some (formW f (.dsts (if cvDst f = 13 then 32 else 16)) (.srcs (if cvSrc f = 8 then 4 else 8)) (.src false) .none (cvDst f ∈ [11, 12, 13] ∧ cvSrc f ∈ [8, 9, 10] ∧ cvRnd f < 5))
  | .scalex f => some (formW f (.dst false) (.src false) .none .none (cvRnd f = 0 ∧ (cvSrc f = 13 ∧ cvDst f ∈ [8, 9, 10] ∨ cvSrc f ∈ [8, 9, 10] ∧ cvDst f = 13)))
  | .ldW f => some (formW f (.dst (size64 f)) (.src (glob f)) (.src false) .none (ldOk f ∧ fld f.mod 0 3 < 5))
  | .ldX f lit => some (formX f lit (.dst (size64 f)) (.src (glob f)) .none (ldOk f ∧ fld f.mod 0 3 < 5))
  | .stW f => some (formW f .none (.src (glob f)) (.src false) (.src (size64 f)) (f.sub.toNat < 4 ∧ f.mod.toNat < 5))
  | .stX f lit => some (formX f lit .none (.src (glob f)) (.src (size64 f)) (f.sub.toNat < 4 ∧ f.mod.toNat < 5))
  | .ldq f => some (formW f .push (.src (glob f)) (.src false) .none (ldOk f ∧ fld f.sub 0 2 < 3 ∧ fld f.mod 0 3 < 3))
  | .stq f => some (formW f .none (.src (glob f)) (.src false) .pop (f.sub.toNat < 3 ∧ (f.mod.toNat < 3 ∨ f.mod.toNat = 4)))
  | .atom f => some (formW f (.dst (size64 f)) (.src (glob f)) (.src (size64 f)) (if fld f.sub 2 3 = 7 then .src (size64 f) else .none) (syncOk f))
  | .atomn f => some (formW f .none (.src (glob f)) (.src (size64 f)) .none (syncOk f ∧ fld f.sub 2 3 < 6))
  | .acq f => some (formW f (.dst (size64 f)) (.src (glob f)) .none .none (syncOk f))
  | .rel f => some (formW f .none (.src (glob f)) (.src (size64 f)) .none (syncOk f ∧ f.sub.toNat < 4))
  | .acqrel f => some (formW f (.dst (size64 f)) (.src (glob f)) (.src (size64 f)) (if fld f.sub 2 3 = 7 then .src (size64 f) else .none) (syncOk f))
  | .fence f => some (formQI f .none (f.imm.toNat < 6))
  | .pref f => some (formW f .none (.src true) (.src false) .none ((f.mod = 0 ∨ f.mod = 8) ∧ f.sub = 0))
  | .wb f => some (formW f .none (.src true) (.src false) .none (fld f.mod 0 3 = 0 ∧ 2 ≤ fld f.mod 3 3 ∧ fld f.mod 3 3 < 6 ∧ f.sub = 0))
  | .inv f => some (formW f .none (.src true) (.src false) .none (fld f.mod 0 3 = 0 ∧ 2 ≤ fld f.mod 3 3 ∧ fld f.mod 3 3 < 6 ∧ f.sub = 0))
  | .dlease f => some (formW f .none (.src true) (.src false) .none (f.mod = 0 ∧ f.sub = 0))
  | .objopen f => some (formW f (.dst false) (.src true) .none .none (f.mod = 0 ∧ f.sub = 0))
  | .objclose f => some (formQ f .none (.src false))
  | .objset f => some (formW f .none (.src false) (.src false) .none (f.mod = 0 ∧ f.sub = 0))
  | .cpy f => some (formW f .none (.src true) (.src true) (.src false) (fld f.mod 0 3 < 3 ∧ fld f.mod 3 3 < 3 ∧ f.sub = 0))
  | .cpy2d f => some (formW f .none (.src true) .none .none (f.mod.toNat < 2 ∧ f.sub = 0))
  | .cpyw f => some (formW f .none (.src true) .none .none (fld f.mod 0 3 < 2 ∧ fld f.mod 3 3 < 6 ∧ f.sub = 0))
  | .gath f => some (formW f .none (.src true) .none .none (f.mod.toNat < 2 ∧ f.sub = 0))
  | .scat f => some (formW f .none (.src true) .none .none (f.mod.toNat < 2 ∧ f.sub = 0))
  | .waitc f => some (formWI f .none .none (f.mod = 0 ∧ f.sub = 0 ∧ fld f.imm 8 3 < 5 ∧ f.imm.toNat < 2048))
  | .waita f => some (formW f .none (.src true) (.src (bit f.sub 3)) .none (fld f.mod 0 3 < 3 ∧ fld f.mod 3 3 < 6 ∧ fld f.sub 0 3 < 6 ∧ f.sub.toNat < 16))
  | .qsend f => some (formW f .none (.src (bit f.sub 0)) (.src false) (.src false) (fld f.mod 0 3 = 0 ∧ (fld f.mod 3 3 = 1 ∨ fld f.mod 3 3 = 2) ∧ f.sub.toNat < 2))
  | .qstat f => some (formQ f (.dst false) .name)
  | .mbar f => some (formQI f .none (f.imm.toNat < 8))
  | .cntrd f => some (formQI f (.dst false) (f.imm.toNat < 8))
  | .faddQ f => some (formQ f (.upd false) (.src false))
  | .faddW f => some (formW f (.dst false) (.src false) (.src false) .none (fpOk f false true ∧ f.sub = 0))
  | .faddX f lit => some (formX f lit (.dst false) (.src false) .none (fpOk f false true ∧ f.sub = 0 ∧ fpLit f lit))
  | .fsubQ f => some (formQ f (.upd false) (.src false))
  | .fsubW f => some (formW f (.dst false) (.src false) (.src false) .none (fpOk f false true ∧ f.sub = 0))
  | .fsubX f lit => some (formX f lit (.dst false) (.src false) .none (fpOk f false true ∧ f.sub = 0 ∧ fpLit f lit))
  | .fmulQ f => some (formQ f (.upd false) (.src false))
  | .fmulW f => some (formW f (.dst false) (.src false) (.src false) .none (fpOk f false true ∧ f.sub = 0))
  | .fmulX f lit => some (formX f lit (.dst false) (.src false) .none (fpOk f false true ∧ f.sub = 0 ∧ fpLit f lit))
  | .fmaW f => some (formW f (.dst false) (.src false) (.src false) (.src false) (fpOk f true true ∧ f.sub = 0))
  | .fmaX f lit => some (formX f lit (.dst false) (.src false) (.src false) (fpOk f true true ∧ f.sub = 0 ∧ fpLit f lit))
  | .fminQ f => some (formQ f (.upd false) (.src false))
  | .fminW f => some (formW f (.dst false) (.src false) (.src false) .none (fpOk f true false ∧ f.sub = 0))
  | .fminX f lit => some (formX f lit (.dst false) (.src false) .none (fpOk f true false ∧ f.sub = 0 ∧ fpLit f lit))
  | .fmaxQ f => some (formQ f (.upd false) (.src false))
  | .fmaxW f => some (formW f (.dst false) (.src false) (.src false) .none (fpOk f true false ∧ f.sub = 0))
  | .fmaxX f lit => some (formX f lit (.dst false) (.src false) .none (fpOk f true false ∧ f.sub = 0 ∧ fpLit f lit))
  | .fmovQ f => some (formQ f (.dst false) (.src false))
  | .fmovW f => some (formW f (.dst false) (.src false) .none .none (fpOk f false false ∧ f.sub.toNat < 4))
  | .frcpQ f => some (formQ f (.dst false) (.src false))
  | .frcpW f => some (formW f (.dst false) (.src false) .none .none (fpOk f false false ∧ f.sub = 0))
  | .frsqQ f => some (formQ f (.dst false) (.src false))
  | .frsqW f => some (formW f (.dst false) (.src false) .none .none (fpOk f false false ∧ f.sub = 0))
  | .fsqrtQ f => some (formQ f (.dst false) (.src false))
  | .fsqrtW f => some (formW f (.dst false) (.src false) .none .none (fpOk f false true ∧ f.sub = 0))
  | .fdivQ f => some (formQ f (.upd false) (.src false))
  | .fdivW f => some (formW f (.dst false) (.src false) (.src false) .none (fpOk f false true ∧ f.sub = 0))
  | .fdivX f lit => some (formX f lit (.dst false) (.src false) .none (fpOk f false true ∧ f.sub = 0 ∧ fpLit f lit))
  | .fexp2Q f => some (formQ f (.dst false) (.src false))
  | .fexp2W f => some (formW f (.dst false) (.src false) .none .none (fpOk f false false ∧ f.sub = 0))
  | .flog2Q f => some (formQ f (.dst false) (.src false))
  | .flog2W f => some (formW f (.dst false) (.src false) .none .none (fpOk f false false ∧ f.sub = 0))
  | .fsinQ f => some (formQ f (.dst false) (.src false))
  | .fsinW f => some (formW f (.dst false) (.src false) .none .none (fpOk f false false ∧ f.sub = 0))
  | .fcosQ f => some (formQ f (.dst false) (.src false))
  | .fcosW f => some (formW f (.dst false) (.src false) .none .none (fpOk f false false ∧ f.sub = 0))
  | .ftanhQ f => some (formQ f (.dst false) (.src false))
  | .ftanhW f => some (formW f (.dst false) (.src false) .none .none (fpOk f false false ∧ f.sub = 0))
  | .frndQ f => some (formQ f (.dst false) (.src false))
  | .frndW f => some (formW f (.dst false) (.src false) .none .none (fpOk f false true ∧ f.sub = 0))
  | .fclassQ f => some (formQ f (.dst false) (.src false))
  | .fclassW f => some (formW f (.dst false) (.src false) .none .none (fpOk f false false ∧ f.sub = 0))
  | .fscaleQ f => some (formQ f (.upd false) (.src false))
  | .fscaleW f => some (formW f (.dst false) (.src false) (.src false) .none (fpOk f false true ∧ f.sub = 0))
  | .fscaleX f lit => some (formX f lit (.dst false) (.src false) .none (fpOk f false true ∧ f.sub = 0))
  | .hfadd2Q f => some (formQ f (.upd false) (.src false))
  | .hfadd2W f => some (formW f (.dst false) (.src false) (.src false) .none (fpOk f false true ∧ fld f.mod 0 2 ≠ 0 ∧ f.sub = 0))
  | .hfmul2Q f => some (formQ f (.upd false) (.src false))
  | .hfmul2W f => some (formW f (.dst false) (.src false) (.src false) .none (fpOk f false true ∧ fld f.mod 0 2 ≠ 0 ∧ f.sub = 0))
  | .hfma2 f => some (formW f (.dst false) (.src false) (.src false) (.src false) (fpOk f true true ∧ fld f.mod 0 2 ≠ 0 ∧ f.sub = 0))
  | .dot4f8 f => some (formW f (.dst false) (.src true) (.src true) (.src false) (f.sub.toNat < 5))
  | .dot8f4 f => some (formW f (.dst false) (.src true) (.src true) (.src false) (f.mod.toNat < 16 ∧ f.sub.toNat < 5))
  | .fstat f => some (formW f (fstatA f) (fstatB f) .none .none (f.mod = 0 ∧ f.sub.toNat < 4))
  | .pset f => some (formW f .none (.src false) .none .none (fld f.mod 0 4 = 0 ∧ f.mod.toNat < 48 ∧ f.sub.toNat < 8))
  | .perm f => some (formW f (.dst (fmtIs f 3)) (.src (fmtIs f 3)) .none .none ((f.mod = 2 ∨ f.mod = 3) ∧ f.sub.toNat < 8))
  | .shfl f => some (formW f (.dst (fmtIs f 3)) (.src (fmtIs f 3)) (.src false) .none ((f.mod = 2 ∨ f.mod = 3) ∧ f.sub.toNat < 4))
  | .bcast f => some (formW f (.dst (fmtIs f 3)) (.src (fmtIs f 3)) (.src false) .none ((f.mod = 2 ∨ f.mod = 3) ∧ f.sub = 0))
  | .reduce f => some (formW f (.dst (fmt64 f)) (.src (fmt64 f)) .none .none (reduceOk f))
  | .scan f => some (formW f (.dst (fmt64 f)) (.src (fmt64 f)) .none .none (reduceOk f))
  | .mma f => some (formW f .none (.src true) (.src true) (.src true) (8 ≤ fld f.mod 0 4 ∧ fld f.mod 0 4 < 13 ∧ f.sub ≠ 0 ∧ f.sub.toNat < 16))
  | .mzero f => some (formQI f .none (4 ≤ f.imm.toNat ∧ f.imm.toNat < 64))
  | .mdrain f => some (formW f (.raw 5) (.src true) .none .none (matFmtOk f))
  | .macc f => some (formW f .none (.src true) .none .none (matFmtOk f))
  | .mstat f => some (formQI f (.dst false) (f.imm.toNat < 8))
  | .srd f => some (formWI f (.dst true) (.src false) (f.mod = 0 ∧ f.sub.toNat < 2))
  | .swr f => some (formWI f .none (.src true) (f.mod = 0 ∧ f.sub = 0))
  | .sret f => some (formW f .none (.src true) (.src false) (.src (bit f.mod 0)) (f.mod.toNat < 2 ∧ f.sub = 0))
  | .ifence f => some (formQ f .none .none)
  | .codex f => some (formW f (.dst true) (.src true) .none .none (f.mod = 0 ∧ f.sub = 0))
  | .npost f => some (formW f .none (.src true) .none .none (f.mod.toNat < 2 ∧ f.sub = 0))
  | .npoll f => some (formW f (.dst true) (.src true) .none .none (f.mod.toNat < 2 ∧ f.sub = 0))
  | .tmark f => some (formWI f (.src false) (.src false) (f.mod = 0 ∧ f.sub = 0 ∧ f.imm.toNat < 256))
  | .trd f => some (formWI f (.dst true) (.src false) (f.mod = 0 ∧ f.sub = 0 ∧ fld f.imm 20 1 = 0 ∧ fld f.imm 21 3 < 6))
  | .halt f => some (formQ f .none .none)
  | .kill f => some (formW f (.dst false) (.src false) (.src false) .none (f.mod = 0 ∧ f.sub.toNat < 2))
  | .issueOpportunity _ _ => none
  | .stallAgeRelease _ => none
  | .overdueClaim _ => none
  | .pauseRelease _ _ => none
  | .segmentReload _ => none
  | .killDeadline _ => none
  | .landingWrite _ => none
  | .performEffect _ _ => none
  | .mailboxDeferredPost _ => none
  | .doorbell _ _ _ _ => none
  | .qheadWrite _ _ _ _ => none
  | .qstatHaltClear _ _ _ _ => none
  | .queueDisable _ _ _ _ => none
  | .launchReady _ _ => none
  | .deppollRead _ _ => none
  | .repartition _ => none
  | .crewStart _ => none
  | .runlimExpiry _ => none
  | .launchComplete _ => none
  | .crewRelaunch _ => none
  | .tokenRefill => none
  | .homeWriteApply _ => none
  | .waitaHostPoll _ => none
  | .recallLine _ _ => none
  | .orderingComplete _ => none
  | .clusterGate _ => none
  | .hostSnoop _ _ => none
  | .hostSnoopAnswer _ _ => none
  | .hostAtomicRead _ _ _ _ => none
  | .hostWrite _ _ _ _ _ => none
  | .hostMemoryRead _ _ _ _ => none
  | .copyComplete _ => none
  | .gsComplete _ => none
  | .mtxCommandComplete _ _ => none
  | .wbComplete _ => none
  | .engineStop _ _ => none
  | .codexReserve _ _ => none
  | .codexSeal _ _ => none
  | .codexPatch _ => none
  | .codexSwap _ _ => none
  | .codexFree _ => none
  | .codexCompletion _ => none
  | .dataFragmentReceive _ _ => none
  | .parityFragmentReceive _ _ => none
  | .stripeAckReceive _ _ => none
  | .retransmitRequestReceive _ _ => none
  | .probeReceive _ _ => none
  | .abortReceive _ _ => none
  | .targetResetIndication _ _ => none
  | .atomicReplyReceive _ _ => none
  | .pdsNackReceive _ _ => none
  | .stripeResend _ _ => none
  | .unsupportedPacket _ _ => none
  | .stripeWaitExpiry _ _ => none
  | .ntimeoutExpiry _ => none
  | .probeWaitExpiry _ => none
  | .messageRecordExpiry _ => none
  | .dieLinkFlitReceive _ _ _ => none
  | .dieLinkRetryExpiry _ _ _ => none
  | .dieLinkGroupFailure _ _ _ => none
  | .filterRun _ => none
  | .bitternPeriod => none
  | .sluiceOcc => none
  | .fctlEnable _ _ _ _ _ => none
  | .hsnap _ _ _ _ => none
  | .iclr _ _ _ _ => none
  | .btOwnerWrite _ _ => none
  | .mboxPop _ => none
  | .mboxWaitTimeout _ => none
  | .haltedWrite _ _ => none
  | .xlinvC _ _ => none
  | .xlinv _ _ => none
  | .hpartWrite _ _ => none
  | .registerWrite _ _ _ => none
  | .hlRenew _ _ => none
  | .hlClaim _ _ => none
  | .hostLeaseExpiry => none
  | .ptpOfsWrite _ => none
  | .ptpTrimWrite _ => none
  | .ptpEventTimestamp _ _ => none
  | .heartbeatCheck => none
  | .mcBeat _ => none
  | .mcTakeover => none
  | .coreReset _ => none
  | .dieReset _ => none
  | .partitionReset _ => none
  | .packageWarmReset => none
  | .coldReset _ => none
  | .vfFlr _ => none
  | .resetGraceExpiry _ => none
  | .mctpStatusRead _ _ => none
  | .mctpResetOrder _ _ => none
  | .mctpFirmwareLoad _ => none
  | .spdmRequest _ _ => none
  | .ideKm _ _ => none
  | .lockInterfaceRequest _ => none
  | .startInterfaceRequest _ => none
  | .stopInterfaceRequest _ => none
  | .tdispFrozenWrite _ _ _ _ => none
  | .ideIntegrityFailure _ => none
  | .eccUncorrectable _ => none
  | .eccCorrected _ => none
  | .thermalStepChange _ _ _ => none
  | .hostPortLinkChange _ _ => none
  | .stripeSend _ _ => none
  | .hostWriteAcknowledgement _ => none
  | .msixVectorUnmask _ _ => none
  | .clusterUngate _ => none

/-- A d-register code that is read (R166). -/
def pairReadOk (code : Nat) : Bool :=
  decide (code < 0xC0 ∧ code % 2 = 0) || decide (code = 0xD8 ∨ code = 0xDD ∨ code = 0xE5 ∨ code = 0xE7)

/-- A d-register code that is written (R164, R166). -/
def pairWriteOk (code : Nat) : Bool := decide (code < 0xC0 ∧ code % 2 = 0)

/-- A code of one register or source that is read (R164). -/
def readOk (code : Nat) : Bool := decide (code < 0xEB)

/-- A code of one register that is written (R164). -/
def writeOk (code : Nat) : Bool := decide (code < 0xD0 ∨ 0xD1 ≤ code ∧ code < 0xD8)

/-- The encoding checks of one operand field (R182). -/
def Operand.ok (o : Operand) : Bool :=
  match o.slot with
  | .none => decide (o.code = 0) && !o.t && !o.l
  | .src wide => if wide then pairReadOk o.code.toNat else readOk o.code.toNat
  | .upd wide => if wide then pairWriteOk o.code.toNat else writeOk o.code.toNat
  | .dst wide | .result wide =>
    (if wide then pairWriteOk o.code.toNat else writeOk o.code.toNat) && !o.t && !o.l
  | .name => readOk o.code.toNat && !o.t && !o.l
  | .push | .dsts _ => writeOk o.code.toNat && !o.t && !o.l
  | .pop | .srcs _ => readOk o.code.toNat
  | .raw limit => decide (o.code.toNat < limit) && !o.t && !o.l

/-- The encoding checks of an instruction (R182). -/
def Form.ok (f : Form) : Bool := f.fieldsOk && f.a.ok && f.b.ok && f.c.ok && f.d.ok

end Sys2Proof
end

