-- ==== Sys2Proof/WellFormed.lean ====
section
/-! DEFINITION. Well-formed instructions: those that pass the encoding checks of R182. -/
namespace Sys2Proof

/-- An instruction that passes the checks of R182. An event has no encoding, and so none to fail. -/
def Instr.wellFormed (i : Instr) : Bool :=
  match i.form with
  | some f => f.ok
  | none => true

end Sys2Proof
end

