-- ==== Sys2Proof/Decode.lean ====
section
/-! DEFINITION. The decoder and the encoder: parcels to instructions and back (R155 to R163, R179, R182). -/
namespace Sys2Proof

/-- Why bytes are no instruction: too few of them, L = 0b11, an opcode slot that is reserved or does not take this
length, or a field that R182 refuses. -/
inductive DecodeError where
  | truncated
  | reservedLength
  | reservedOpcode
  | illFormed
  deriving DecidableEq, Repr

/-- The opcodes of format Q (R179). -/
def tableQ : List (Nat × (FormQ → Instr)) :=
  [(0x00, .nopQ), (0x04, .jmpi), (0x06, .reform), (0x08, .disband), (0x09, .bar), (0x0A, .exit), (0x0D, .hpop),
   (0x11, .drop), (0x13, .krecv), (0x15, .yield), (0x20, .iaddQ), (0x21, .isubQ), (0x22, .imulQ), (0x23, .imulhQ),
   (0x25, .idivQ), (0x26, .iremQ), (0x27, .iminQ), (0x28, .imaxQ), (0x29, .iabsQ), (0x2A, .andQ), (0x2B, .orQ),
   (0x2C, .xorQ), (0x2D, .andnQ), (0x2E, .notQ), (0x35, .popcQ), (0x36, .clzQ), (0x37, .brevQ), (0x39, .movQ),
   (0x3D, .hadd2Q), (0x3E, .hmnx2Q)] ++
  [(0x43, .pnot), (0x44, .p2g), (0x45, .g2p), (0x6F, .objclose), (0x88, .qstat), (0xA0, .faddQ), (0xA1, .fsubQ),
   (0xA2, .fmulQ), (0xA4, .fminQ), (0xA5, .fmaxQ), (0xA6, .fmovQ), (0xA7, .frcpQ), (0xA8, .frsqQ), (0xA9, .fsqrtQ),
   (0xAA, .fdivQ), (0xAB, .fexp2Q), (0xAC, .flog2Q), (0xAD, .fsinQ), (0xAE, .fcosQ), (0xAF, .ftanhQ), (0xB0, .frndQ),
   (0xB1, .fclassQ), (0xB2, .fscaleQ), (0xB3, .hfadd2Q), (0xB4, .hfmul2Q), (0xE3, .ifence), (0xE9, .halt)]

/-- The opcodes of format QI (R179). -/
def tableQI : List (Nat × (FormQI → Instr)) :=
  [(0x05, .ret), (0x07, .convene), (0x16, .safe), (0x17, .pause), (0x18, .trap), (0x2F, .shlQi), (0x30, .shrQi),
   (0x31, .sarQi), (0x32, .rotQi), (0x3A, .moviQi), (0x69, .fence), (0x89, .mbar), (0x8A, .cntrd), (0xD1, .mzero),
   (0xD4, .mstat)]

/-- The opcodes of format QB (R179). -/
def tableQB : List (Nat × (FormQB → Instr)) :=
  [(0x01, .braQb)]

/-- The opcodes of format W (R179). -/
def tableW : List (Nat × (FormW → Instr)) :=
  [(0x00, .nopW), (0x03, .calli), (0x0B, .spawn), (0x0C, .hinst), (0x10, .resume), (0x12, .ksend), (0x14, .kinfo),
   (0x20, .iaddW), (0x21, .isubW), (0x22, .imulW), (0x23, .imulhW), (0x24, .imadW), (0x25, .idivW), (0x26, .iremW),
   (0x27, .iminW), (0x28, .imaxW), (0x29, .iabsW), (0x2A, .andW), (0x2B, .orW), (0x2C, .xorW), (0x2D, .andnW),
   (0x2E, .notW), (0x2F, .shlW), (0x30, .shrW), (0x31, .sarW), (0x32, .rotW), (0x33, .bfxW), (0x34, .bfiW),
   (0x35, .popcW), (0x36, .clzW)] ++
  [(0x37, .brevW), (0x38, .prm8W), (0x39, .movW), (0x3B, .leaW), (0x3C, .sel), (0x3D, .hadd2W), (0x3E, .hmnx2W),
   (0x3F, .hmaxd2), (0x40, .icmpW), (0x41, .fcmpW), (0x42, .plog), (0x46, .vote), (0x50, .cvt), (0x51, .cvtpk),
   (0x52, .qpack), (0x53, .qunpk), (0x54, .scalex), (0x60, .ldW), (0x61, .stW), (0x62, .ldq), (0x63, .stq),
   (0x64, .atom), (0x65, .atomn), (0x66, .acq), (0x67, .rel), (0x68, .acqrel), (0x6A, .pref), (0x6B, .wb),
   (0x6C, .inv), (0x6D, .dlease)] ++
  [(0x6E, .objopen), (0x70, .objset), (0x80, .cpy), (0x81, .cpy2d), (0x82, .cpyw), (0x83, .gath), (0x84, .scat),
   (0x86, .waita), (0x87, .qsend), (0xA0, .faddW), (0xA1, .fsubW), (0xA2, .fmulW), (0xA3, .fmaW), (0xA4, .fminW),
   (0xA5, .fmaxW), (0xA6, .fmovW), (0xA7, .frcpW), (0xA8, .frsqW), (0xA9, .fsqrtW), (0xAA, .fdivW), (0xAB, .fexp2W),
   (0xAC, .flog2W), (0xAD, .fsinW), (0xAE, .fcosW), (0xAF, .ftanhW), (0xB0, .frndW), (0xB1, .fclassW),
   (0xB2, .fscaleW), (0xB3, .hfadd2W), (0xB4, .hfmul2W)] ++
  [(0xB5, .hfma2), (0xB6, .dot4f8), (0xB7, .dot8f4), (0xB8, .fstat), (0xC0, .pset), (0xC1, .perm), (0xC2, .shfl),
   (0xC3, .bcast), (0xC4, .reduce), (0xC5, .scan), (0xD0, .mma), (0xD2, .mdrain), (0xD3, .macc), (0xE2, .sret),
   (0xE4, .codex), (0xE5, .npost), (0xE6, .npoll), (0xEA, .kill)]

/-- The opcodes of format WI (R179). -/
def tableWI : List (Nat × (FormWI → Instr)) :=
  [(0x01, .braWi), (0x02, .call), (0x0E, .perform), (0x0F, .performv), (0x3A, .moviWi), (0x85, .waitc), (0xE0, .srd),
   (0xE1, .swr), (0xE7, .tmark), (0xE8, .trd)]

/-- The opcodes of format X (R179). -/
def tableX : List (Nat × (FormW → Word → Instr)) :=
  [(0x00, .nopX), (0x20, .iaddX), (0x21, .isubX), (0x22, .imulX), (0x23, .imulhX), (0x24, .imadX), (0x25, .idivX),
   (0x26, .iremX), (0x27, .iminX), (0x28, .imaxX), (0x2A, .andX), (0x2B, .orX), (0x2C, .xorX), (0x2D, .andnX),
   (0x33, .bfxX), (0x34, .bfiX), (0x38, .prm8X), (0x3A, .moviX), (0x3B, .leaX), (0x40, .icmpX), (0x41, .fcmpX),
   (0x60, .ldX), (0x61, .stX), (0xA0, .faddX), (0xA1, .fsubX), (0xA2, .fmulX), (0xA3, .fmaX), (0xA4, .fminX),
   (0xA5, .fmaxX), (0xAA, .fdivX)] ++
  [(0xB2, .fscaleX)]

/-- The length in parcels that L of parcel 0 gives (R155). -/
def parcelCount (p0 : Word) : Option Nat :=
  match p0.toNat % 4 with
  | 0 => some 1
  | 1 => some 2
  | 2 => some 3
  | _ => none

/-- The header of parcel 0 (R156). -/
def headerOf (p0 : Word) : Header := { pred := p0.extractLsb' 4 3, rb := p0.extractLsb' 2 2 }

/-- The opcode of parcel 0 (R156). -/
def opcodeOf (p0 : Word) : Nat := (p0.extractLsb' 7 8).toNat

/-- Format Q read from a parcel (R159). -/
def unpackQ (p0 : Word) : FormQ :=
  { hdr := headerOf p0, a := p0.extractLsb' 15 8, b := p0.extractLsb' 23 8, lb := p0.getLsbD 31 }

/-- Format QI read from a parcel (R159). -/
def unpackQI (p0 : Word) : FormQI := { hdr := headerOf p0, a := p0.extractLsb' 15 8, imm := p0.extractLsb' 23 9 }

/-- Format QB read from a parcel (R159). -/
def unpackQB (p0 : Word) : FormQB := { hdr := headerOf p0, off := p0.extractLsb' 16 16, spare := p0.getLsbD 15 }

/-- Format W read from two parcels (R160). -/
def unpackW (p0 p1 : Word) : FormW :=
  { hdr := headerOf p0, a := p0.extractLsb' 15 8, b := p0.extractLsb' 23 8, c := p1.extractLsb' 0 8,
    d := p1.extractLsb' 8 8, lb := p0.getLsbD 31, lc := p1.getLsbD 16, ld := p1.getLsbD 17, tb := p1.getLsbD 18,
    tc := p1.getLsbD 19, td := p1.getLsbD 20, mod := p1.extractLsb' 21 6, sub := p1.extractLsb' 27 5 }

/-- Format WI read from two parcels (R161). -/
def unpackWI (p0 p1 : Word) : FormWI :=
  { hdr := headerOf p0, a := p0.extractLsb' 15 8, b := p0.extractLsb' 23 8, lb := p0.getLsbD 31,
    imm := p1.extractLsb' 0 24, mod := p1.extractLsb' 24 3, sub := p1.extractLsb' 27 5 }

/-- The instruction that parcels make, before the field checks: the opcode's format of the length that L names. -/
def assemble (p0 p1 p2 : Word) : Option Instr :=
  match p0.toNat % 4 with
  | 0 =>
    match tableQ.lookup (opcodeOf p0), tableQI.lookup (opcodeOf p0), tableQB.lookup (opcodeOf p0) with
    | some k, _, _ => some (k (unpackQ p0))
    | none, some k, _ => some (k (unpackQI p0))
    | none, none, some k => some (k (unpackQB p0))
    | none, none, none => none
  | 1 =>
    match tableW.lookup (opcodeOf p0), tableWI.lookup (opcodeOf p0) with
    | some k, _ => some (k (unpackW p0 p1))
    | none, some k => some (k (unpackWI p0 p1))
    | none, none => none
  | 2 => (tableX.lookup (opcodeOf p0)).map fun k => k (unpackW p0 p1) p2
  | _ => none

/-- The instruction of three parcels, of which those past its length are not looked at (R155, R182). -/
def decodeParcels (p0 p1 p2 : Word) : Except DecodeError Instr :=
  if p0.toNat % 4 = 3 then .error .reservedLength
  else
    match assemble p0 p1 p2 with
    | none => .error .reservedOpcode
    | some i => if i.wellFormed then .ok i else .error .illFormed

/-- A parcel of four bytes, the least significant first (R155). -/
def parcelOf (b0 b1 b2 b3 : Byte) : Word := b3 ++ b2 ++ b1 ++ b0

/-- The parcels of a string of bytes; bytes after the last whole parcel are left out. -/
def parcelsOf : List Byte → List Word
  | b0 :: b1 :: b2 :: b3 :: rest => parcelOf b0 b1 b2 b3 :: parcelsOf rest
  | _ => []

/-- The instruction that a string of parcels begins with, and its length in parcels. -/
def decodeList (ps : List Word) : Except DecodeError (Instr × Nat) :=
  match ps with
  | [] => .error .truncated
  | p0 :: rest =>
    match parcelCount p0 with
    | none => .error .reservedLength
    | some n =>
      if rest.length + 1 < n then .error .truncated
      else (decodeParcels p0 (rest.getD 0 0) (rest.getD 1 0)).map fun i => (i, n)

/-- The decoder: the instruction that a string of bytes begins with, and its length in parcels. -/
def decode (bytes : List Byte) : Except DecodeError (Instr × Nat) := decodeList (parcelsOf bytes)

/-- Parcel 0 above its opcode is the format's; the header and L lie below (R156). -/
def packHeader (h : Header) (opcode : BitVec 8) (len : BitVec 2) : BitVec 15 := opcode ++ h.pred ++ h.rb ++ len

/-- Parcel 0 in layout Q (R159). -/
def pack0 (h : Header) (opcode : BitVec 8) (len : BitVec 2) (a b : BitVec 8) (lb : Bool) : Word :=
  BitVec.ofBool lb ++ b ++ a ++ packHeader h opcode len

/-- The parcel of format QI (R159). -/
def packQI (opcode : BitVec 8) (f : FormQI) : Word := f.imm ++ f.a ++ packHeader f.hdr opcode 0

/-- The parcel of format QB (R159). -/
def packQB (opcode : BitVec 8) (f : FormQB) : Word := f.off ++ BitVec.ofBool f.spare ++ packHeader f.hdr opcode 0

/-- Parcel 1 of format W (R160). -/
def packW1 (f : FormW) : Word :=
  f.sub ++ f.mod ++ BitVec.ofBool f.td ++ BitVec.ofBool f.tc ++ BitVec.ofBool f.tb ++ BitVec.ofBool f.ld ++
    BitVec.ofBool f.lc ++ f.d ++ f.c

/-- Parcel 1 of format WI (R161). -/
def packWI1 (f : FormWI) : Word := f.sub ++ f.mod ++ f.imm

/-- The parcels of format Q. -/
def encQ (opcode : BitVec 8) (f : FormQ) : List Word := [pack0 f.hdr opcode 0 f.a f.b f.lb]

/-- The parcels of format QI. -/
def encQI (opcode : BitVec 8) (f : FormQI) : List Word := [packQI opcode f]

/-- The parcels of format QB. -/
def encQB (opcode : BitVec 8) (f : FormQB) : List Word := [packQB opcode f]

/-- The parcels of format W. -/
def encW (opcode : BitVec 8) (f : FormW) : List Word := [pack0 f.hdr opcode 1 f.a f.b f.lb, packW1 f]

/-- The parcels of format WI. -/
def encWI (opcode : BitVec 8) (f : FormWI) : List Word := [pack0 f.hdr opcode 1 f.a f.b f.lb, packWI1 f]

/-- The parcels of format X (R162). -/
def encX (opcode : BitVec 8) (f : FormW) (lit : Word) : List Word :=
  [pack0 f.hdr opcode 2 f.a f.b f.lb, packW1 f, lit]

/-- The encoder: the parcels of an instruction, from the tables of R156 to R162 and R179. An event has none. -/
def encode : Instr → List Word
  | .nopQ f => encQ 0x00 f
  | .nopW f => encW 0x00 f
  | .nopX f lit => encX 0x00 f lit
  | .braQb f => encQB 0x01 f
  | .braWi f => encWI 0x01 f
  | .call f => encWI 0x02 f
  | .calli f => encW 0x03 f
  | .jmpi f => encQ 0x04 f
  | .ret f => encQI 0x05 f
  | .reform f => encQ 0x06 f
  | .convene f => encQI 0x07 f
  | .disband f => encQ 0x08 f
  | .bar f => encQ 0x09 f
  | .exit f => encQ 0x0A f
  | .spawn f => encW 0x0B f
  | .hinst f => encW 0x0C f
  | .hpop f => encQ 0x0D f
  | .perform f => encWI 0x0E f
  | .performv f => encWI 0x0F f
  | .resume f => encW 0x10 f
  | .drop f => encQ 0x11 f
  | .ksend f => encW 0x12 f
  | .krecv f => encQ 0x13 f
  | .kinfo f => encW 0x14 f
  | .yield f => encQ 0x15 f
  | .safe f => encQI 0x16 f
  | .pause f => encQI 0x17 f
  | .trap f => encQI 0x18 f
  | .iaddQ f => encQ 0x20 f
  | .iaddW f => encW 0x20 f
  | .iaddX f lit => encX 0x20 f lit
  | .isubQ f => encQ 0x21 f
  | .isubW f => encW 0x21 f
  | .isubX f lit => encX 0x21 f lit
  | .imulQ f => encQ 0x22 f
  | .imulW f => encW 0x22 f
  | .imulX f lit => encX 0x22 f lit
  | .imulhQ f => encQ 0x23 f
  | .imulhW f => encW 0x23 f
  | .imulhX f lit => encX 0x23 f lit
  | .imadW f => encW 0x24 f
  | .imadX f lit => encX 0x24 f lit
  | .idivQ f => encQ 0x25 f
  | .idivW f => encW 0x25 f
  | .idivX f lit => encX 0x25 f lit
  | .iremQ f => encQ 0x26 f
  | .iremW f => encW 0x26 f
  | .iremX f lit => encX 0x26 f lit
  | .iminQ f => encQ 0x27 f
  | .iminW f => encW 0x27 f
  | .iminX f lit => encX 0x27 f lit
  | .imaxQ f => encQ 0x28 f
  | .imaxW f => encW 0x28 f
  | .imaxX f lit => encX 0x28 f lit
  | .iabsQ f => encQ 0x29 f
  | .iabsW f => encW 0x29 f
  | .andQ f => encQ 0x2A f
  | .andW f => encW 0x2A f
  | .andX f lit => encX 0x2A f lit
  | .orQ f => encQ 0x2B f
  | .orW f => encW 0x2B f
  | .orX f lit => encX 0x2B f lit
  | .xorQ f => encQ 0x2C f
  | .xorW f => encW 0x2C f
  | .xorX f lit => encX 0x2C f lit
  | .andnQ f => encQ 0x2D f
  | .andnW f => encW 0x2D f
  | .andnX f lit => encX 0x2D f lit
  | .notQ f => encQ 0x2E f
  | .notW f => encW 0x2E f
  | .shlQi f => encQI 0x2F f
  | .shlW f => encW 0x2F f
  | .shrQi f => encQI 0x30 f
  | .shrW f => encW 0x30 f
  | .sarQi f => encQI 0x31 f
  | .sarW f => encW 0x31 f
  | .rotQi f => encQI 0x32 f
  | .rotW f => encW 0x32 f
  | .bfxW f => encW 0x33 f
  | .bfxX f lit => encX 0x33 f lit
  | .bfiW f => encW 0x34 f
  | .bfiX f lit => encX 0x34 f lit
  | .popcQ f => encQ 0x35 f
  | .popcW f => encW 0x35 f
  | .clzQ f => encQ 0x36 f
  | .clzW f => encW 0x36 f
  | .brevQ f => encQ 0x37 f
  | .brevW f => encW 0x37 f
  | .prm8W f => encW 0x38 f
  | .prm8X f lit => encX 0x38 f lit
  | .movQ f => encQ 0x39 f
  | .movW f => encW 0x39 f
  | .moviQi f => encQI 0x3A f
  | .moviWi f => encWI 0x3A f
  | .moviX f lit => encX 0x3A f lit
  | .leaW f => encW 0x3B f
  | .leaX f lit => encX 0x3B f lit
  | .sel f => encW 0x3C f
  | .hadd2Q f => encQ 0x3D f
  | .hadd2W f => encW 0x3D f
  | .hmnx2Q f => encQ 0x3E f
  | .hmnx2W f => encW 0x3E f
  | .hmaxd2 f => encW 0x3F f
  | .icmpW f => encW 0x40 f
  | .icmpX f lit => encX 0x40 f lit
  | .fcmpW f => encW 0x41 f
  | .fcmpX f lit => encX 0x41 f lit
  | .plog f => encW 0x42 f
  | .pnot f => encQ 0x43 f
  | .p2g f => encQ 0x44 f
  | .g2p f => encQ 0x45 f
  | .vote f => encW 0x46 f
  | .cvt f => encW 0x50 f
  | .cvtpk f => encW 0x51 f
  | .qpack f => encW 0x52 f
  | .qunpk f => encW 0x53 f
  | .scalex f => encW 0x54 f
  | .ldW f => encW 0x60 f
  | .ldX f lit => encX 0x60 f lit
  | .stW f => encW 0x61 f
  | .stX f lit => encX 0x61 f lit
  | .ldq f => encW 0x62 f
  | .stq f => encW 0x63 f
  | .atom f => encW 0x64 f
  | .atomn f => encW 0x65 f
  | .acq f => encW 0x66 f
  | .rel f => encW 0x67 f
  | .acqrel f => encW 0x68 f
  | .fence f => encQI 0x69 f
  | .pref f => encW 0x6A f
  | .wb f => encW 0x6B f
  | .inv f => encW 0x6C f
  | .dlease f => encW 0x6D f
  | .objopen f => encW 0x6E f
  | .objclose f => encQ 0x6F f
  | .objset f => encW 0x70 f
  | .cpy f => encW 0x80 f
  | .cpy2d f => encW 0x81 f
  | .cpyw f => encW 0x82 f
  | .gath f => encW 0x83 f
  | .scat f => encW 0x84 f
  | .waitc f => encWI 0x85 f
  | .waita f => encW 0x86 f
  | .qsend f => encW 0x87 f
  | .qstat f => encQ 0x88 f
  | .mbar f => encQI 0x89 f
  | .cntrd f => encQI 0x8A f
  | .faddQ f => encQ 0xA0 f
  | .faddW f => encW 0xA0 f
  | .faddX f lit => encX 0xA0 f lit
  | .fsubQ f => encQ 0xA1 f
  | .fsubW f => encW 0xA1 f
  | .fsubX f lit => encX 0xA1 f lit
  | .fmulQ f => encQ 0xA2 f
  | .fmulW f => encW 0xA2 f
  | .fmulX f lit => encX 0xA2 f lit
  | .fmaW f => encW 0xA3 f
  | .fmaX f lit => encX 0xA3 f lit
  | .fminQ f => encQ 0xA4 f
  | .fminW f => encW 0xA4 f
  | .fminX f lit => encX 0xA4 f lit
  | .fmaxQ f => encQ 0xA5 f
  | .fmaxW f => encW 0xA5 f
  | .fmaxX f lit => encX 0xA5 f lit
  | .fmovQ f => encQ 0xA6 f
  | .fmovW f => encW 0xA6 f
  | .frcpQ f => encQ 0xA7 f
  | .frcpW f => encW 0xA7 f
  | .frsqQ f => encQ 0xA8 f
  | .frsqW f => encW 0xA8 f
  | .fsqrtQ f => encQ 0xA9 f
  | .fsqrtW f => encW 0xA9 f
  | .fdivQ f => encQ 0xAA f
  | .fdivW f => encW 0xAA f
  | .fdivX f lit => encX 0xAA f lit
  | .fexp2Q f => encQ 0xAB f
  | .fexp2W f => encW 0xAB f
  | .flog2Q f => encQ 0xAC f
  | .flog2W f => encW 0xAC f
  | .fsinQ f => encQ 0xAD f
  | .fsinW f => encW 0xAD f
  | .fcosQ f => encQ 0xAE f
  | .fcosW f => encW 0xAE f
  | .ftanhQ f => encQ 0xAF f
  | .ftanhW f => encW 0xAF f
  | .frndQ f => encQ 0xB0 f
  | .frndW f => encW 0xB0 f
  | .fclassQ f => encQ 0xB1 f
  | .fclassW f => encW 0xB1 f
  | .fscaleQ f => encQ 0xB2 f
  | .fscaleW f => encW 0xB2 f
  | .fscaleX f lit => encX 0xB2 f lit
  | .hfadd2Q f => encQ 0xB3 f
  | .hfadd2W f => encW 0xB3 f
  | .hfmul2Q f => encQ 0xB4 f
  | .hfmul2W f => encW 0xB4 f
  | .hfma2 f => encW 0xB5 f
  | .dot4f8 f => encW 0xB6 f
  | .dot8f4 f => encW 0xB7 f
  | .fstat f => encW 0xB8 f
  | .pset f => encW 0xC0 f
  | .perm f => encW 0xC1 f
  | .shfl f => encW 0xC2 f
  | .bcast f => encW 0xC3 f
  | .reduce f => encW 0xC4 f
  | .scan f => encW 0xC5 f
  | .mma f => encW 0xD0 f
  | .mzero f => encQI 0xD1 f
  | .mdrain f => encW 0xD2 f
  | .macc f => encW 0xD3 f
  | .mstat f => encQI 0xD4 f
  | .srd f => encWI 0xE0 f
  | .swr f => encWI 0xE1 f
  | .sret f => encW 0xE2 f
  | .ifence f => encQ 0xE3 f
  | .codex f => encW 0xE4 f
  | .npost f => encW 0xE5 f
  | .npoll f => encW 0xE6 f
  | .tmark f => encWI 0xE7 f
  | .trd f => encWI 0xE8 f
  | .halt f => encQ 0xE9 f
  | .kill f => encW 0xEA f
  | .issueOpportunity _ _ => []
  | .stallAgeRelease _ => []
  | .overdueClaim _ => []
  | .pauseRelease _ _ => []
  | .segmentReload _ => []
  | .killDeadline _ => []
  | .landingWrite _ => []
  | .performEffect _ _ => []
  | .mailboxDeferredPost _ => []
  | .doorbell _ _ _ _ => []
  | .qheadWrite _ _ _ _ => []
  | .qstatHaltClear _ _ _ _ => []
  | .queueDisable _ _ _ _ => []
  | .launchReady _ _ => []
  | .deppollRead _ _ => []
  | .repartition _ => []
  | .crewStart _ => []
  | .runlimExpiry _ => []
  | .launchComplete _ => []
  | .crewRelaunch _ => []
  | .tokenRefill => []
  | .homeWriteApply _ => []
  | .waitaHostPoll _ => []
  | .recallLine _ _ => []
  | .orderingComplete _ => []
  | .clusterGate _ => []
  | .hostSnoop _ _ => []
  | .hostSnoopAnswer _ _ => []
  | .hostAtomicRead _ _ _ _ => []
  | .hostWrite _ _ _ _ _ => []
  | .hostMemoryRead _ _ _ _ => []
  | .copyComplete _ => []
  | .gsComplete _ => []
  | .mtxCommandComplete _ _ => []
  | .wbComplete _ => []
  | .engineStop _ _ => []
  | .codexReserve _ _ => []
  | .codexSeal _ _ => []
  | .codexPatch _ => []
  | .codexSwap _ _ => []
  | .codexFree _ => []
  | .codexCompletion _ => []
  | .dataFragmentReceive _ _ => []
  | .parityFragmentReceive _ _ => []
  | .stripeAckReceive _ _ => []
  | .retransmitRequestReceive _ _ => []
  | .probeReceive _ _ => []
  | .abortReceive _ _ => []
  | .targetResetIndication _ _ => []
  | .atomicReplyReceive _ _ => []
  | .pdsNackReceive _ _ => []
  | .stripeResend _ _ => []
  | .unsupportedPacket _ _ => []
  | .stripeWaitExpiry _ _ => []
  | .ntimeoutExpiry _ => []
  | .probeWaitExpiry _ => []
  | .messageRecordExpiry _ => []
  | .dieLinkFlitReceive _ _ _ => []
  | .dieLinkRetryExpiry _ _ _ => []
  | .dieLinkGroupFailure _ _ _ => []
  | .filterRun _ => []
  | .bitternPeriod => []
  | .sluiceOcc => []
  | .fctlEnable _ _ _ _ _ => []
  | .hsnap _ _ _ _ => []
  | .iclr _ _ _ _ => []
  | .btOwnerWrite _ _ => []
  | .mboxPop _ => []
  | .mboxWaitTimeout _ => []
  | .haltedWrite _ _ => []
  | .xlinvC _ _ => []
  | .xlinv _ _ => []
  | .hpartWrite _ _ => []
  | .registerWrite _ _ _ => []
  | .hlRenew _ _ => []
  | .hlClaim _ _ => []
  | .hostLeaseExpiry => []
  | .ptpOfsWrite _ => []
  | .ptpTrimWrite _ => []
  | .ptpEventTimestamp _ _ => []
  | .heartbeatCheck => []
  | .mcBeat _ => []
  | .mcTakeover => []
  | .coreReset _ => []
  | .dieReset _ => []
  | .partitionReset _ => []
  | .packageWarmReset => []
  | .coldReset _ => []
  | .vfFlr _ => []
  | .resetGraceExpiry _ => []
  | .mctpStatusRead _ _ => []
  | .mctpResetOrder _ _ => []
  | .mctpFirmwareLoad _ => []
  | .spdmRequest _ _ => []
  | .ideKm _ _ => []
  | .lockInterfaceRequest _ => []
  | .startInterfaceRequest _ => []
  | .stopInterfaceRequest _ => []
  | .tdispFrozenWrite _ _ _ _ => []
  | .ideIntegrityFailure _ => []
  | .eccUncorrectable _ => []
  | .eccCorrected _ => []
  | .thermalStepChange _ _ _ => []
  | .hostPortLinkChange _ _ => []
  | .stripeSend _ _ => []
  | .hostWriteAcknowledgement _ => []
  | .msixVectorUnmask _ _ => []
  | .clusterUngate _ => []

/-- The bytes of a parcel, the least significant first (R155). -/
def bytesOfWord (p : Word) : List Byte :=
  [p.extractLsb' 0 8, p.extractLsb' 8 8, p.extractLsb' 16 8, p.extractLsb' 24 8]

/-- The bytes of an instruction as memory holds them. -/
def encodeBytes (i : Instr) : List Byte := (encode i).flatMap bytesOfWord

/-- The twelve bytes of an instruction whose bits are `w`: parcel 0 in bits 31 to 0, parcel 1 in bits 63 to 32,
parcel 2 in bits 95 to 64. -/
def tableBytes (w : Nat) : List Byte := (List.range 12).map fun k => BitVec.ofNat 8 (w / 2 ^ (8 * k))

/-- The instruction that the decoder reads from bits numbered as the opcode table numbers them; bits at and above
`nbits` are zero. -/
def decodeTableWord (nbits w : Nat) : Option Instr :=
  match decode (tableBytes (w % 2 ^ nbits)) with
  | .ok (i, _) => some i
  | .error _ => none

end Sys2Proof
end

