-- ==== Sys2Proof/Config.lean ====
section
/-! DEFINITION. The values the specification leaves open: opaque constants, of which nothing can be proved. -/
namespace Sys2Proof.Config

/-- The choice between two allowed values, drawn with the free-value counter of the state: the value that a read after
a last use returns (R172), the lane whose write of a shared register stands (R10 leaves the order to descriptions that
give none), and the lines a window leaves to either outcome. Assumption 2. -/
opaque freeBit : Nat → Bool

/-- A free word, drawn with the free-value counter of the state. Assumption 2. -/
opaque freeWord : Nat → Word

/-- The SHAKE256 digest of 64 bytes (R374), a function of another standard. Assumption 38. -/
opaque shake256 : List Byte → BitVec 512

/-- The SHA3-512 digest (R375), a function of another standard. Assumption 38. -/
opaque sha3 : List Byte → BitVec 512

/-- The Ed448 signature of a firmware image over its digest verifies against the key fused at manufacture (R374).
Assumption 38. -/
opaque imageVerifies : List Byte → Bool

/-- The secret of the DeviceID key, fused per part (R374). Assumption 38. -/
opaque deviceSecret : List Byte

/-- The public key of an Ed448 secret (R374), a function of another standard. Assumption 38. -/
opaque ed448Public : List Byte → BitVec 456

/-- The Ed448 signature of a message under a secret (R374), a function of another standard. Assumption 38. -/
opaque ed448Sign : List Byte → BitVec 456 → BitVec 912

end Sys2Proof.Config
end

