-- ==== Sys2Proof/Machine/Registers.lean ====
section
/-! DEFINITION. The register maps: for each register its fields with their access types, reset values and bounds (R8),
and the reading and writing of registers by those types. -/
namespace Sys2Proof.Machine

/-- The access types of R8. -/
inductive AccessType where
  | ro
  | rw
  | w1c
  | wo
  deriving DecidableEq, Repr

/-- A field of a register: its bits, access type, reset value, and for RW the bounds that a write is clamped to. Bits of
no field are RSV. -/
structure RegField where
  hi : Nat
  lo : Nat
  access : AccessType
  reset : Nat
  least : Nat
  most : Nat
  deriving DecidableEq, Repr

/-- An RW field that takes every value. -/
def rw (hi lo reset : Nat) : RegField :=
  { hi := hi, lo := lo, access := .rw, reset := reset, least := 0, most := 2 ^ (hi + 1 - lo) - 1 }

/-- An RW field with bounds. -/
def rwIn (hi lo reset least most : Nat) : RegField :=
  { hi := hi, lo := lo, access := .rw, reset := reset, least := least, most := most }

/-- An RO field. -/
def ro (hi lo reset : Nat) : RegField :=
  { hi := hi, lo := lo, access := .ro, reset := reset, least := 0, most := 0 }

/-- A W1C field. -/
def w1c (hi lo : Nat) : RegField := { hi := hi, lo := lo, access := .w1c, reset := 0, least := 0, most := 0 }

/-- A WO field. -/
def wo (hi lo : Nat) : RegField := { hi := hi, lo := lo, access := .wo, reset := 0, least := 0, most := 0 }

/-- A register's value after reset. -/
def resetValue (fs : List RegField) : Nat := fs.foldl (fun v f => setBits v f.hi f.lo f.reset) 0

/-- What a write of `x` leaves in a field that holds the bits of `old` (R8). -/
def writeField (old x : Nat) (f : RegField) : Nat :=
  match f.access with
  | .ro | .wo => old
  | .rw => setBits old f.hi f.lo (max f.least (min f.most (bits x f.hi f.lo)))
  | .w1c => setBits old f.hi f.lo (Nat.land (bits old f.hi f.lo) (2 ^ (f.hi + 1 - f.lo) - 1 - bits x f.hi f.lo))

/-- A register's value after a write (R8). -/
def writeValue (fs : List RegField) (old x : Nat) : Nat := fs.foldl (fun v f => writeField v x f) old

/-- What a read shows of a register: WO and RSV bits read zero (R8). -/
def readValue (fs : List RegField) (v : Nat) : Nat :=
  fs.foldl (fun r f => if f.access = .wo then r else setBits r f.hi f.lo (bits v f.hi f.lo)) 0

/-- The core system registers (R52, R119, R154, R193, R315, R367) by offset. -/
def coreFields (off : Nat) : List RegField :=
  if off = 0x100 then [rwIn 47 32 8192 1024 65535, rw 23 16 8, rwIn 15 0 256 16 65535]
  else if off = 0x108 then [ro 63 32 0, ro 31 16 0, ro 6 0 0]
  else if off = 0x110 then [ro 31 24 2, ro 23 16 0, ro 15 8 0, ro 7 0 22]
  else if off = 0x118 then [ro 31 24 0, ro 23 16 0, ro 15 8 0, ro 7 0 0]
  else if off = 0x120 then [rw 1 1 0, ro 0 0 0]
  else if off = 0x128 then [ro 63 0 0x1F]
  else if off = 0x130 then [ro 16 16 0, ro 12 8 0, ro 5 0 0]
  else if off = 0x138 then [wo 63 0]
  else if off = 0x140 then [rw 63 0 0]
  else if off = 0x148 then [rw 0 0 0]
  else if off = 0x150 then [ro 15 0 0]
  else if off = 0x158 then [wo 63 0]
  else []

/-- The queue registers (R55): `off` within the 0x40 bytes of queue `n` of function `vf`. -/
def queueFields (vf n off : Nat) : List RegField :=
  if off = 0x00 then [rw 63 7 0]
  else if off = 0x08 then
    [rw 23 16 0, rw 15 15 0, rw 14 12 7, ro 11 11 (if vf = 0 ∧ 60 ≤ n then 1 else 0), rw 10 9 3, rwIn 4 0 6 1 16]
  else if off = 0x10 then [rw 15 0 0]
  else if off = 0x18 then [rw 15 0 0]
  else if off = 0x20 then [rw 63 3 0]
  else if off = 0x28 then [ro 63 48 0, ro 47 32 0, w1c 24 24, ro 23 8 0, w1c 7 0]
  else []

/-- The network registers of an I/O die (R344), by offset within its window. -/
def netFields (off : Nat) : List RegField :=
  if off = 0x000 then [rwIn 47 32 1000 10 65535, rwIn 31 16 20 1 65535, rw 3 0 3]
  else if off = 0x008 then [rw 15 0 0]
  else if off = 0x010 then [rw 47 6 0]
  else if off = 0x018 then [rw 15 0 0]
  else if 0x020 ≤ off ∧ off < 0x060 then [rw 7 4 3, rwIn 2 0 1 0 4]
  else if off = 0x060 then [ro 63 32 0, ro 31 0 0]
  else if off = 0x068 then [ro 63 32 0, ro 31 16 0, ro 15 0 0]
  else if off = 0x070 then [ro 25 0 0]
  else if 0x800 ≤ off ∧ off < 0x1000 then
    if off % 16 = 0 then [rw 47 6 0]
    else if off % 16 = 8 then [rw 63 63 0, ro 39 32 0, rwIn 25 20 0 0 32, rw 19 0 0]
    else []
  else []

/-- The registers of the PF's management window (R69, R71, R128, R344, R349, R363, R367 to R369, R372, R377, R380). -/
def mgmtFields (off : Nat) : List RegField :=
  if off % 8 ≠ 0 then []
  else if 0x1E00 ≤ off ∧ off < 0x1F00 then
    if off % 0x20 = 0 then [rw 31 0 0]
    else if off % 0x20 = 0x18 then [rw 63 48 0, rw 47 16 0, rw 11 0 0]
    else [rw 63 0 0]
  else if off = 0x1F00 then [rwIn 63 32 11000 1024 (2 ^ 31 - 1), rwIn 25 16 10 1 1000, w1c 2 2, rw 1 1 1, rw 0 0 0]
  else if off = 0x1F08 then [rwIn 39 32 2 1 255, rwIn 31 16 100 1 65535, rwIn 15 0 5 1 65535]
  else if 0x2000 ≤ off ∧ off < 0x2810 then
    if off % 0x10 = 0 then [rw 59 56 0, rwIn 55 48 1 1 255, rw 47 32 0, rwIn 31 0 0 0 (2 ^ 31 - 1)]
    else [ro 63 32 0, ro 31 0 0]
  else if 0x3000 ≤ off ∧ off < 0x3800 ∧ off % 0x100 = 0 then
    [rwIn 47 32 2000 64 2000, rwIn 31 16 4096 16 65535, rwIn 15 0 1024 16 65535]
  else if 0x4000 ≤ off ∧ off < 0x6000 then netFields (off % 0x1000)
  else if 0x6000 ≤ off ∧ off < 0x6140 then
    if off % 0x20 = 0x10 then [rw 23 0 0] else if off % 0x20 = 0x18 then [] else [rw 63 0 0]
  else if 0x6200 ≤ off ∧ off < 0x6600 then [rwIn 10 0 0 0 1100]
  else if off = 0x7000 then [rwIn 47 32 1000 10 65535, ro 15 8 0, ro 1 1 0, rw 0 0 0]
  else if off = 0x7008 ∨ off = 0x7010 then [wo 7 0]
  else if off = 0x7018 then [ro 32 32 0, ro 31 16 0, ro 15 0 0]
  else if off = 0x7020 then [rw 31 0 1024]
  else if off = 0x7028 then [rw 7 0 0]
  else if off = 0x7100 then [rw 63 0 0]
  else if off = 0x7108 then [rw 31 0 0]
  else if off = 0x7200 then [rwIn 47 32 100 1 65535, rwIn 23 16 4 2 255, rwIn 15 0 10000 100 65535]
  else if 0x8000 ≤ off ∧ off < 0x8800 then
    if off % 0x10 = 0 then [rw 51 12 0, rw 0 0 0] else [ro 63 63 0, rw 47 12 0, rw 0 0 0]
  else if 0x9000 ≤ off ∧ off < 0xD000 then
    if off % 0x10 = 0 then [rw 63 63 0, rw 62 62 0, rw 61 61 0, rw 60 54 0, rw 51 12 0] else [rw 51 12 0]
  else if 0xD000 ≤ off ∧ off < 0xD800 then
    if off % 0x10 = 0 then [rw 47 12 0] else [rw 47 32 0, rw 31 0 0]
  else if 0xE000 ≤ off ∧ off < 0xF000 then
    if off % 0x10 = 0 then [w1c 63 63, ro 47 32 0, ro 15 0 0] else [ro 63 0 0]
  else []

/-- The registers of a function's BAR 0 outside the bittern windows: queues (R55), the MSI-X table, presumed masked at
reset (R364; assumption 8), and the pending bits. -/
def bar0Fields (vf off : Nat) : List RegField :=
  if 0x10000 ≤ off ∧ off < 0x11000 then queueFields vf ((off - 0x10000) / 0x40) (off % 0x40)
  else if 0x20000 ≤ off ∧ off < 0x21000 ∧ off % 8 = 0 then
    if off % 16 = 0 then [rw 63 2 0] else [rw 32 32 1, rw 31 0 0]
  else if 0x30000 ≤ off ∧ off < 0x30020 ∧ off % 8 = 0 then [ro 63 0 0]
  else []

/-- The value of a management register. -/
def State.mgmt (s : State) (off : Nat) : Nat :=
  match s.regs.mgmt.find off with
  | some v => v.toNat
  | none => resetValue (mgmtFields off)

/-- Set a management register. -/
def State.setMgmt (s : State) (off v : Nat) : State :=
  { s with regs := { s.regs with mgmt := s.regs.mgmt.put off (BitVec.ofNat 64 v) } }

/-- Bits [hi:lo] of a management register. -/
def State.mgmtF (s : State) (off hi lo : Nat) : Nat := bits (s.mgmt off) hi lo

/-- Set bits [hi:lo] of a management register. -/
def State.setMgmtF (s : State) (off hi lo x : Nat) : State := s.setMgmt off (setBits (s.mgmt off) hi lo x)

/-- The value of a register of a function's BAR 0. -/
def State.bar0 (s : State) (vf off : Nat) : Nat :=
  match s.regs.bar0.find (vf * 2 ^ 23 + off) with
  | some v => v.toNat
  | none => resetValue (bar0Fields vf off)

/-- Set a register of a function's BAR 0. -/
def State.setBar0 (s : State) (vf off v : Nat) : State :=
  { s with regs := { s.regs with bar0 := s.regs.bar0.put (vf * 2 ^ 23 + off) (BitVec.ofNat 64 v) } }

/-- The offset of register `r` of queue `n` (R55). -/
def queueOff (n r : Nat) : Nat := 0x10000 + 0x40 * n + r

/-- Bits [hi:lo] of a queue register. -/
def State.queueF (s : State) (vf n r hi lo : Nat) : Nat := bits (s.bar0 vf (queueOff n r)) hi lo

/-- Set bits [hi:lo] of a queue register. -/
def State.setQueueF (s : State) (vf n r hi lo x : Nat) : State :=
  s.setBar0 vf (queueOff n r) (setBits (s.bar0 vf (queueOff n r)) hi lo x)

/-- The stored value of a core system register. -/
def State.coreReg (s : State) (core off : Nat) : Nat :=
  match s.regs.core.find (core * 2 ^ 24 + off) with
  | some v => v.toNat
  | none => resetValue (coreFields off)

/-- Set a core system register. -/
def State.setCoreReg (s : State) (core off v : Nat) : State :=
  { s with regs := { s.regs with core := s.regs.core.put (core * 2 ^ 24 + off) (BitVec.ofNat 64 v) } }

/-- Bits [hi:lo] of a core system register. -/
def State.coreF (s : State) (core off hi lo : Nat) : Nat := bits (s.coreReg core off) hi lo

/-- Set bits [hi:lo] of a core system register. -/
def State.setCoreF (s : State) (core off hi lo x : Nat) : State :=
  s.setCoreReg core off (setBits (s.coreReg core off) hi lo x)

/-- ISSUE_CFG after a write (R52): SPIN_N 1 is read back as 2, and STALL_AGE is at most AGE_MAX/4. -/
def issueCfg (old x : Nat) : Nat :=
  let v := writeValue (coreFields 0x100) old x
  let v := if bits v 23 16 = 1 then setBits v 23 16 2 else v
  setBits v 15 0 (min (bits v 15 0) (bits v 47 32 / 4))

/-- PTP time (R377): GTC + PTP_OFS + floor(ACC ÷ 2^32), modulo 2^64. -/
def State.ptp (s : State) : DWord :=
  BitVec.ofNat 64 s.gtc + BitVec.ofNat 64 (s.mgmt 0x7100) + BitVec.ofInt 64 (s.ptpAcc / 2 ^ 32)

/-- The ACTIVE host port (R362). -/
def State.activePort (s : State) : HostPort := if s.mgmtF 0x7000 1 1 = 1 then .b else .a

/-- Count one more in bits [hi:lo] of a management register, wrapping. -/
def State.countMgmt (s : State) (off hi lo : Nat) : State := s.setMgmtF off hi lo (s.mgmtF off hi lo + 1)

/-- The hard partition that holds a function (R68), or none for the shared pool. -/
def State.partitionOf (s : State) (vf : Nat) : Option Nat :=
  (List.range 8).find? fun n =>
    (if vf < 64 then s.mgmtF (0x1E08 + 0x20 * n) vf vf else s.mgmtF (0x1E10 + 0x20 * n) (vf - 64) (vf - 64)) = 1

/-- The hard partition that holds a cluster (R68), or none for the shared pool. -/
def State.partitionOfCluster (s : State) (cluster : Nat) : Option Nat :=
  (List.range 8).find? fun n => s.mgmtF (0x1E00 + 0x20 * n) cluster cluster = 1

end Sys2Proof.Machine
end

