-- ==== Sys2Proof/Machine/Base.lean ====
section
/-! DEFINITION. Small named accesses to the state: fibres, cores, events to the bitterns, and interrupts. -/
namespace Sys2Proof.Machine

/-- The key of a fibre (R28). -/
def fibreKey (core index : Nat) : Nat := core * 4096 + index

/-- The core of a fibre's key. -/
def coreOf (key : Nat) : Nat := key / 4096

/-- The descriptor index of a fibre's key. -/
def indexOf (key : Nat) : Nat := key % 4096

/-- The clerk's descriptor index is 4095 (R49). -/
def isClerk (key : Nat) : Bool := indexOf key = 4095

/-- The die of a core (R13). -/
def dieOfCore (core : Nat) : Nat := core / 32

/-- The cluster of a core (R13). -/
def clusterOf (core : Nat) : Nat := core / 8

/-- Set a fibre's descriptor. -/
def State.setFibre (s : State) (key : Nat) (f : Fibre) : State := { s with fibres := s.fibres.put key f }

/-- Change a fibre's descriptor. -/
def State.modFibre (s : State) (key : Nat) (g : Fibre → Fibre) : State :=
  match s.fibres.find key with
  | some f => s.setFibre key (g f)
  | none => s

/-- The hardware of a core. -/
def State.unit (s : State) (core : Nat) : CoreUnit := s.cores.get core .reset

/-- Change the hardware of a core. -/
def State.modUnit (s : State) (core : Nat) (g : CoreUnit → CoreUnit) : State :=
  { s with cores := s.cores.put core (g (s.unit core)) }

/-- Change the coherence state. -/
def State.modCoh (s : State) (g : Coherence → Coherence) : State := { s with coh := g s.coh }

/-- Change the storage. -/
def State.modStore (s : State) (g : Store → Store) : State := { s with store := g s.store }

/-- Change the scheduler. -/
def State.modSched (s : State) (g : Scheduler → Scheduler) : State := { s with sched := g s.sched }

/-- Change the network state. -/
def State.modNet (s : State) (g : Network → Network) : State := { s with net := g s.net }

/-- Change the platform state. -/
def State.modPlat (s : State) (g : Platform → Platform) : State := { s with plat := g s.plat }

/-- Change a gang. -/
def State.modGang (s : State) (gid : Nat) (g : Gang → Gang) : State := { s with gangs := s.gangs.modify gid g }

/-- Draw a free choice (assumption 2). -/
def State.drawBit (s : State) : Bool × State := (Config.freeBit s.free, { s with free := s.free + 1 })

/-- A wake event of every core of a die (R48: a trigger word). -/
def State.wakeDie (s : State) (die : Nat) : State :=
  { s with cores := s.cores.mapVals fun c u =>
      if dieOfCore c = die then { u with stalls := u.stalls.map fun t => { t with demoted := false } } else u }

/-- A fresh number for something in flight. -/
def State.fresh (s : State) : Nat × State := (s.nextId, { s with nextId := s.nextId + 1 })

/-- The bittern of a die. -/
def State.bittern (s : State) (die : Nat) : Bittern := s.bitterns.get die .reset

/-- Change the bittern of a die. -/
def State.modBittern (s : State) (die : Nat) (g : Bittern → Bittern) : State :=
  { s with bitterns := s.bitterns.put die (g (s.bittern die)) }

/-- A bittern whose budget periods run to now (R355): at each boundary, a multiple of 1000 ticks, what a function used falls by
its budget. -/
def State.budgetPeriods (s : State) (b : Bittern) : Bittern :=
  let now := s.gtc / 1000
  { b with used := b.used.mapVals fun vf n => n - (now - b.period) * s.mgmtF (0x6200 + 8 * vf) 10 0, period := now }

/-- Offer an event to the tap of a die (R347): taken while the tap holds fewer than 256, else dropped and counted against
its tenant, which is tenant 0 for 0xFF. -/
def Bittern.offer (b : Bittern) (e : Event) : Bittern :=
  if b.tap.length < 256 then { b with tap := b.tap ++ [e] }
  else
    let t := if e.tenant = 0xFF then 0 else e.tenant
    { b with tapDrops := b.tapDrops.put t (min (b.tapDrops.get t 0 + 1) (2 ^ 64 - 1)) }

/-- Raise an event (R345, R346). -/
def State.raise (s : State) (die type tenant src : Nat) (v0 v1 : Nat) : State :=
  s.modBittern die fun b =>
    b.offer { type := type, tenant := tenant, die := die, src := src, gtc := s.gtc, v0 := BitVec.ofNat 32 v0,
              v1 := BitVec.ofNat 32 v1 }

/-- Raise an event of a core (R16: agent class 0). -/
def State.raiseCore (s : State) (core type tenant v0 v1 : Nat) : State :=
  s.raise (dieOfCore core) type tenant core v0 v1

/-- The source unit of class 7 (R345). -/
def unit7 (kind index : Nat) : Nat := 7 * 512 + kind * 64 + index

/-- The balance of an account (R64). -/
def State.bal (s : State) (t : Nat) : Int := s.sched.bal.get t 0

/-- The BUDGET of an account that is in force: the register's at the last refill (R66, R69). -/
def State.budget (s : State) (t : Nat) : Nat := s.sched.budgets.get t 0

/-- Charge an account: the balance never falls below −BUDGET (R66). -/
def State.charge (s : State) (t : Nat) (n : Int) : State :=
  s.modSched fun c => { c with bal := c.bal.put t (max (s.bal t - n) (-(s.budget t : Int))) }

/-- The TDISP state of a function (R376). -/
def State.tdisp (s : State) (vf : Nat) : Tdisp := s.plat.tdisp.get vf .unlocked

/-- The offset of a vector's pending bits (R364). -/
def pbaOff (v : Nat) : Nat := 0x30000 + v / 64 * 8

/-- The pending bit of a vector (R369). -/
def State.vectorPending (s : State) (vf v : Nat) : Bool := bits (s.bar0 vf (pbaOff v)) (v % 64) (v % 64) = 1

/-- Set or clear a pending bit. -/
def State.setVectorPending (s : State) (vf v x : Nat) : State :=
  s.setBar0 vf (pbaOff v) (setBits (s.bar0 vf (pbaOff v)) (v % 64) (v % 64) x)

/-- The mask bit of a vector: bit 0 of the vector control word of its table entry (R364; assumption 8). -/
def State.vectorMasked (s : State) (vf v : Nat) : Bool := bits (s.bar0 vf (0x20000 + 16 * v + 8)) 32 32 = 1

/-- Send an MSI-X message through the ACTIVE port (R362, R369). -/
def State.sendVector (s : State) (vf v : Nat) (charged : Bool) : State :=
  let s := s.modPlat fun p => { p with messages := p.messages ++ [(vf, v, s.activePort)] }
  if charged then s.charge vf (s.mgmtF 0x7020 31 0) else s

/-- A pending vector that a machine check raised (R380). -/
def State.fromCheck (s : State) (vf v : Nat) : Bool := decide (vf = 0) && s.plat.checks.contains v

/-- A pending vector may be sent: it is not masked, the account is funded while SCHED_CTL.EN is 1 (R369), which a machine check's
does not need (R380), and the function is not in TDISP ERROR (R376). -/
def State.maySend (s : State) (vf v : Nat) : Bool :=
  s.vectorPending vf v && !s.vectorMasked vf v && decide (s.tdisp vf ≠ .error) &&
    (decide (s.mgmtF 0x1F00 0 0 = 0) || decide (0 < s.bal vf) || s.fromCheck vf v)

/-- Send a pending vector; a machine check's is charged to no account (R369, R380). -/
def State.sendPended (s : State) (vf v : Nat) : State :=
  let t := (s.setVectorPending vf v 0).modPlat fun p =>
    { p with checks := if vf = 0 then p.checks.filter fun c => decide (c ≠ v) else p.checks }
  t.sendVector vf v !(s.fromCheck vf v)

/-- In recovery the only accepted command is a firmware load by MCTP: every other leaves the device as it is (R374). -/
def State.accepted (s : State) (g : State → State) : State := if s.plat.recovery then s else g s

/-- Raise a vector of a function (R369): a pending vector absorbs it, a masked one only sets its pending bit, and so does
an unfunded one while SCHED_CTL.EN is 1. A function in TDISP ERROR raises none (R376). -/
def State.raiseVector (s : State) (vf v : Nat) : State :=
  if s.tdisp vf = .error then s
  else if s.vectorPending vf v then s
  else if s.vectorMasked vf v || (decide (s.mgmtF 0x1F00 0 0 = 1) && decide (s.bal vf ≤ 0)) then
    s.setVectorPending vf v 1
  else s.sendVector vf v true

/-- Interrupt the PF for a machine check (R380): never charged and never held for want of funds; while the vector is masked, its
pending bit is set, with a note that a check has set it. A PF in TDISP ERROR raises none (R376). -/
def State.raiseCheck (s : State) : State :=
  let v := s.mgmtF 0x7028 7 0
  if s.tdisp 0 = .error then s
  else if s.vectorMasked 0 v then
    (s.setVectorPending 0 v 1).modPlat fun p => { p with checks := if p.checks.contains v then p.checks else p.checks ++ [v] }
  else s.sendVector 0 v false

end Sys2Proof.Machine
end

