-- ==== Sys2Proof/Machine/Translate.lean ====
section
/-! DEFINITION. Address translation and the access windows (R365 to R368). -/
namespace Sys2Proof.Machine

/-- The outcome of a translation: a physical address (TARGET × 2^52 + address), a translation fault, a page of the
host port that is not ACTIVE (R363), or a walk that meets a poisoned table line, an access that performs SOFT_ERROR (R136). -/
inductive Xlat where
  | ok (pa : Nat)
  | fault
  | inactive
  | soft
  deriving DecidableEq, Repr

/-- TARGET of a physical address (R365). -/
def targetOf (pa : Nat) : Nat := pa / 2 ^ 52

/-- A page of the queue aperture (R366). -/
def inAperture (pa : Nat) : Bool := decide (2 ^ 51 ≤ pa ∧ pa < 2 ^ 51 + 128 * 4096)

/-- A window of a function grants an access of a master class to a page (R368). -/
def State.windowGrants (s : State) (vf cls page : Nat) (write : Bool) (w : Nat) : Bool :=
  let a := s.mgmt (0x9000 + 0x80 * vf + 16 * w)
  let b := s.mgmt (0x9008 + 0x80 * vf + 16 * w)
  decide (bits a 63 63 = 1) && decide (bits a (54 + cls) (54 + cls) = 1) &&
    decide ((if write then bits a 61 61 else bits a 62 62) = 1) &&
    decide (bits a 51 12 ≤ page) && decide (page ≤ bits b 51 12)

/-- The pseudo-channel group of a device address lies in the function's partition, or for the shared pool in none
(R68, R368). A function in TDISP ERROR sends nothing to a host port: its access there is refused like one that no window grants
(R376; DESIGN CHOICE, assumption 82). -/
def State.groupOk (s : State) (vf pa : Nat) : Bool :=
  if targetOf pa ≠ 0 then decide (s.tdisp vf ≠ .error)
  else
    let g := pa / 2 ^ 34 % 32
    match s.partitionOf vf with
    | some n => decide (s.mgmtF (0x1E18 + 0x20 * n) (16 + g) (16 + g) = 1)
    | none => (List.range 8).all fun n => decide (s.mgmtF (0x1E18 + 0x20 * n) (16 + g) (16 + g) = 0)

/-- The check at the target (R368): an enabled window covers the page for the master class, and the group is allowed. -/
def State.targetOk (s : State) (vf cls pa : Nat) (write : Bool) : Bool :=
  (List.range 8).any (s.windowGrants vf cls (pa % 2 ^ 52 / 4096) write) && s.groupOk vf pa

/-- The check at the target of an access that meets several pages (R368): one enabled window covers every page of it, and every
group is allowed. -/
def State.targetsOk (s : State) (vf cls : Nat) (pas : List Nat) (write : Bool) : Bool :=
  ((List.range 8).any fun w => pas.all fun pa => s.windowGrants vf cls (pa % 2 ^ 52 / 4096) write w) &&
    pas.all (s.groupOk vf)

/-- A line of memory is sealed (R135). -/
def State.isSealed (s : State) (line : Nat) : Bool := s.store.sealedLines.contains line

/-- A line of memory is poisoned (R136). -/
def State.isPoisoned (s : State) (line : Nat) : Bool := s.store.poisoned.contains line

/-- The value of an aligned group of bytes at its home. -/
def State.homeValue (s : State) (pa n : Nat) : Nat := ofBytes (s.store.phys.readBytes pa n)

/-- The key of a line in a core's L1 or a die's L2. -/
def cacheKey (holder line : Nat) : Nat := holder * 2 ^ 58 + line

/-- What a home keeps of a line. -/
def State.home (s : State) (line : Nat) : HomeLine := s.coh.homes.get line .reset

/-- A line of a core's L1. -/
def State.l1 (s : State) (core line : Nat) : Option L1Line := s.coh.l1.find (cacheKey core line)

/-- Lay bytes of a table over a line. -/
def overlay (bs : List Byte) (t : Tbl Byte) : List Byte := t.foldl (fun b p => b.set p.1 p.2) bs

/-- The bytes a core sees of a line: its dirty bytes over those in flight over the copy. -/
def L1Line.view (l : L1Line) (base : List Byte) : List Byte := overlay (overlay base l.flight) l.dirty

/-- A byte at its home, with the writes that wait there over it. -/
def State.homeByteNow (s : State) (pa : Nat) : Byte :=
  (s.home (lineOf pa)).waiting.foldl (fun v w =>
    w.data.foldl (fun v c => if c.1 = pa then c.2 else v) v) (s.store.phys.read pa)

/-- A release of a line stands at its home, or is being recalled (R130). -/
def HomeLine.releaseStands (h : HomeLine) : Bool :=
  match h.tagState, h.tag with
  | .tagged, some t => !t.dead
  | .recalling, _ => true
  | _, _ => false

/-- An entry of a table as a .sys acquire by the walker brings it (R130, R365): the released value where a live release of its
line stands at the home. -/
def State.tableValue (s : State) (pa n : Nat) : Nat :=
  let line := lineOf pa
  let h := s.home line
  let releaser := match h.tag with
    | some t =>
      if h.releaseStands ∧ (h.tagState = TagState.tagged ∨ h.recallSent = true) then s.l1 t.agent line else none
    | none => none
  match releaser with
  | some l => field (l.view (l.copy.getD (s.store.phys.readBytes line 64))) (pa % 64) n
  | none => if h.tagState = TagState.recalling then ofBytes ((upto pa n).map s.homeByteNow) else s.homeValue pa n

/-- A table of the walk must lie in device HBM, where the walker may read it (R365). -/
def State.tableOk (s : State) (vf pa : Nat) : Bool := decide (pa < 2 ^ 39) && s.targetOk vf 3 pa false

/-- The physical address that a leaf gives (R365): the page's frame and the address within the page. An address beyond
the device is a fault, but for the aperture through a 4 KiB leaf (R366). -/
def leafAddress (e va size : Nat) : Option Nat :=
  let pa := bits e 51 12 * 4096 / size * size + va % size
  match bits e 53 52 with
  | 3 => none
  | 0 =>
    if pa < 2 ^ 39 then some pa
    else if size = 4096 ∧ inAperture pa = true then some pa
    else none
  | t => some (t * 2 ^ 52 + pa)

/-- The walk from a level on (R365): `left` levels remain, and R and W are those granted so far. -/
def State.walk (s : State) (vf va table : Nat) (r w : Bool) : Nat → Option (Nat × Bool × Bool)
  | 0 => none
  | left + 1 =>
    if s.tableOk vf table then
      let e := s.tableValue (table + bits va (20 + 9 * left) (12 + 9 * left) * 8) 8
      if bits e 0 0 = 0 ∨ bits e 6 3 ≠ 0 ∨ bits e 63 54 ≠ 0 then none
      else
        let r := r && decide (bits e 1 1 = 1)
        let w := w && decide (bits e 2 2 = 1)
        if left = 0 ∨ (bits e 7 7 = 1 ∧ left < 3) then
          (leafAddress e va (4096 * 512 ^ left)).map fun pa => (pa, r, w)
        else if bits e 53 52 = 0 then State.walk s vf va (bits e 51 12 * 4096) r w left
        else none
    else none

/-- The lines of the table entries that the walk of an address reads (R365). -/
def State.walkLines (s : State) (vf va table : Nat) : Nat → List Nat
  | 0 => []
  | left + 1 =>
    if s.tableOk vf table then
      let at_ := table + bits va (20 + 9 * left) (12 + 9 * left) * 8
      let e := s.tableValue at_ 8
      lineOf at_ ::
        (if bits e 0 0 = 0 ∨ (bits e 7 7 = 1 ∧ left < 3) then [] else State.walkLines s vf va (bits e 51 12 * 4096) left)
    else []

/-- The first line of the tables of an address at which a walk waits: the home recalls the release that stands there, for table
reads go to the home as .sys acquires (R130, R365). -/
def State.tableHeld (s : State) (vf va : Nat) : Option Nat :=
  let root := s.mgmt (0x8000 + 0x10 * vf)
  if 2 ^ 48 ≤ va ∨ bits root 0 0 = 0 then none
  else (s.walkLines vf va (bits root 51 12 * 4096) 4).find? fun line => (s.home line).releaseStands

/-- A page of the host port that is not ACTIVE (R363). -/
def State.portInactive (s : State) (pa : Nat) : Bool :=
  decide ((targetOf pa = 1 ∧ s.activePort = .b) ∨ (targetOf pa = 2 ∧ s.activePort = .a))

/-- The pages of the leaf that translates an address (R365): its first page and their number. -/
def State.leafPages (s : State) (vf va table : Nat) : Nat → Nat × Nat
  | 0 => (va / 4096, 1)
  | left + 1 =>
    let e := s.tableValue (table + bits va (20 + 9 * left) (12 + 9 * left) * 8) 8
    if left = 0 ∨ (bits e 7 7 = 1 ∧ left < 3) then (va / 4096 / 512 ^ left * 512 ^ left, 512 ^ left)
    else State.leafPages s vf va (bits e 51 12 * 4096) left

/-- The pages of the leaf of an address, from the function's root. -/
def State.leafOf (s : State) (vf va : Nat) : Nat × Nat :=
  s.leafPages vf va (bits (s.mgmt (0x8000 + 0x10 * vf)) 51 12 * 4096) 4

/-- Translate an address of a function by its tables (R136, R365). -/
def State.translateWalk (s : State) (vf va : Nat) (write : Bool) : Xlat :=
  if 2 ^ 48 ≤ va then .fault
  else
    let root := s.mgmt (0x8000 + 0x10 * vf)
    if bits root 0 0 = 0 then .fault
    else if (s.walkLines vf va (bits root 51 12 * 4096) 4).any s.isPoisoned then .soft
    else
      match s.walk vf va (bits root 51 12 * 4096) true true 4 with
      | none => .fault
      | some (pa, r, w) =>
        if (if write then w else r) = false then .fault
        else if s.portInactive pa then .inactive
        else .ok pa

/-- The check of R368 at the target of an access; the queue aperture has a check of its own (R366). -/
def State.arrives (s : State) (vf cls pa : Nat) (write : Bool) : Bool := inAperture pa || s.targetOk vf cls pa write

/-- Translate an address of a function for an access of a master class that is made at once: the walk, and the check at the
target (R365, R368). -/
def State.translate (s : State) (vf cls va : Nat) (write : Bool) : Xlat :=
  match s.translateWalk vf va write with
  | .ok pa => if s.arrives vf cls pa write then .ok pa else .fault
  | x => x

/-- Translate a range page by page: the physical address of each page, or nothing where one fails. -/
def State.translatePages (s : State) (vf cls : Nat) (write : Bool) : List Nat → Option (List (Nat × Nat))
  | [] => some []
  | p :: rest =>
    match s.translate vf cls (p * 4096) write, State.translatePages s vf cls write rest with
    | .ok pa, some l => some ((p, pa) :: l)
    | _, _ => none

/-- The pages that a range of bytes meets. -/
def pagesOf (a len : Nat) : List Nat := if len = 0 then [] else upto (a / 4096) ((a + len - 1) / 4096 - a / 4096 + 1)

end Sys2Proof.Machine
end

