-- ==== Sys2Proof/Machine/Coherence.lean ====
section
/-! DEFINITION. Caches, homes, leases, lazy release and the ordering operations (R122 to R134, R138 to R144). -/
namespace Sys2Proof.Machine

/-- A line homed in the host-line filter (R122). -/
def isHostLine (line : Nat) : Bool := decide (2 ^ 52 ≤ line)

/-- The die of a line's home (R19, R122, R365). -/
def dieOfLine (line : Nat) : Nat := if isHostLine line then 7 + targetOf line else line / 2 ^ 36

/-- The source unit of a line's home (R345), with index 0 (DESIGN CHOICE, assumption 74). -/
def homeUnit (line : Nat) : Nat := if isHostLine line then unit7 6 0 else unit7 0 0

/-- Set what a home keeps of a line. -/
def State.setHome (s : State) (line : Nat) (h : HomeLine) : State :=
  s.modCoh fun c => { c with homes := c.homes.put line h }

/-- An L1 line that holds nothing. -/
def L1Line.none (kind : ObjState) : L1Line :=
  { copy := .none, expiry := .none, dirty := [], flight := [], stamp := 0, retained := false, kind := kind,
    crew := .none }

/-- Set a line of a core's L1; one that holds nothing leaves the table. -/
def State.setL1 (s : State) (core line : Nat) (l : L1Line) : State :=
  let keep := !(l.copy.isNone && l.dirty.isEmpty && l.flight.isEmpty && !l.retained)
  s.modCoh fun c => { c with l1 := c.l1.set (cacheKey core line) (if keep then some l else .none) }

/-- A clean copy is readable while GTC is below its expiry (R126). -/
def L1Line.readable (l : L1Line) (gtc : Nat) : Bool :=
  l.copy.isSome && (match l.expiry with | some e => decide (gtc < e) | .none => true)

/-- A covered line of an object (R123): some row holds it. -/
def CohObject.covers (o : CohObject) (va : Nat) : Bool :=
  let len := o.dim0 * 2 ^ o.esize
  if o.open_ = false ∨ va < o.base then false
  else
    let r := if o.stride = 0 then 0 else min (o.dim1 - 1) ((va - o.base) / o.stride)
    decide (va - o.base - r * o.stride < len)

/-- The coherence state of a line of a function, and the OWNER of a PRIVATE one (R124). -/
def State.objectAt (s : State) (vf va : Nat) : ObjState × Nat :=
  match s.coh.objects.first fun _ o => decide (o.vf = vf) && o.covers (lineOf va) with
  | some (_, o) => (o.kind, o.owner)
  | .none => (.shared, 0)

/-- A home grants a lease up to `e` (R126). -/
def State.grant (s : State) (line e : Nat) : State :=
  let h := s.home line
  s.setHome line { h with exp := max h.exp e }

/-- The lease lengths of a die (R128): LEASE1, LEASE2, CXL_LEASE_MAX. -/
def State.lease (s : State) (die : Nat) (hi lo : Nat) : Nat := s.mgmtF (0x3000 + 0x100 * die) hi lo

/-- The bytes of a line at its home. -/
def State.homeLine (s : State) (line : Nat) : List Byte := s.store.phys.readBytes line 64

/-- A home may grant a lease on a line: no write waits there (R127), and no snoop of a host (R133). -/
def State.mayLease (s : State) (line : Nat) : Bool :=
  (s.home line).waiting.isEmpty && !(s.coh.snoops.any fun w => decide (w.2.1 = line))

/-- Fill the L2 copy from the home; the L2_MISS event has latency 0 (DESIGN CHOICE, assumption 74). The lease registers are those
of the die that fills (DEDUCED from R128, assumption 79). -/
def State.fillL2 (s : State) (die vf line : Nat) : State × List Byte × Option Nat :=
  let s := s.raise (dieOfLine line) 0x0002 vf (homeUnit line) (line / 64) 0
  if s.mayLease line then
    let e := s.gtc + (if isHostLine line then s.lease die 47 32 else s.lease die 31 16)
    let s := s.grant line e
    (s.modCoh fun c => { c with l2 := c.l2.put (cacheKey die line) { copy := s.homeLine line, expiry := e } },
      s.homeLine line, some e)
  else (s, s.homeLine line, .none)

/-- A read through a die's L2 of a line homed elsewhere (R126): the bytes, and the expiry where they are leased. While a
write or a snoop waits at the home no lease is given (R127, R133). -/
def State.readL2 (s : State) (die vf line : Nat) : State × List Byte × Option Nat :=
  match s.coh.l2.find (cacheKey die line) with
  | some l =>
    if s.gtc < l.expiry then (s, l.copy, some l.expiry) else s.fillL2 die vf line
  | .none => s.fillL2 die vf line

/-- The bytes that a fill of a core's L1 brings, and how long the copy may stay: `none` where no copy is kept, and
`some none` for one that does not expire (R124, R126, R127). The lease registers are those of the core's die (DEDUCED from R128,
assumption 79), and a copy of a host-homed line that a RONLY or PRIVATE object covers does not expire, as R124 says of such
objects (DEDUCED, assumption 80). -/
def State.readFill (s : State) (core vf line : Nat) (kind : ObjState) (owner : Nat) :
    State × List Byte × Option (Option Nat) :=
  let die := dieOfCore core
  match kind with
  | .priv => (s, s.homeLine line, if owner = core then some .none else .none)
  | .ronly =>
    if dieOfLine line = die then (s, s.homeLine line, some .none)
    else
      let r := s.readL2 die vf line
      (r.1, r.2.1, some .none)
  | .stream =>
    if dieOfLine line = die then (s, s.homeLine line, .none)
    else
      let r := s.readL2 die vf line
      (r.1, r.2.1, .none)
  | .shared =>
    if dieOfLine line = die then
      if s.mayLease line then
        let e := s.gtc + s.lease die 15 0
        (s.grant line e, s.homeLine line, some (some e))
      else (s, s.homeLine line, .none)
    else
      let r := s.readL2 die vf line
      (r.1, r.2.1, r.2.2.map fun e => some (min (s.gtc + s.lease die 15 0) e))

/-- The 64 bytes that a core sees of a line, at a GLOBAL address, filling its L1 where it holds no readable copy. -/
def State.viewLine (s : State) (core vf va line : Nat) (kind : ObjState) (owner : Nat) : State × List Byte :=
  let l := (s.l1 core line).getD (.none kind)
  match l.copy, l.readable s.gtc with
  | some c, true => (s, l.view c)
  | _, _ =>
    let s := s.raiseCore core 0x0001 vf (va / 64) 0
    let r := s.readFill core vf line kind owner
    match r.2.2 with
    | some e => (r.1.setL1 core line { l with copy := some r.2.1, expiry := e, kind := kind, vf := vf }, l.view r.2.1)
    | .none => (r.1, l.view r.2.1)

/-- The incarnation of an agent (R18). -/
def State.incarnation (s : State) (agent : Nat) : Nat := s.coh.inc.get agent 0

/-- An agent takes a new incarnation (R18). -/
def State.newIncarnation (s : State) (agent : Nat) : State :=
  s.modCoh fun c => { c with inc := c.inc.put agent ((c.inc.get agent 0 + 1) % 256) }

/-- Set an ordering operation. -/
def State.setOrd (s : State) (id : Nat) (o : OrdOp) : State := s.modCoh fun c => { c with ops := c.ops.put id o }

/-- The comparison of WAITA (R272). -/
def waitCond (cond m c : Nat) : Bool :=
  match cond with
  | 0 => decide (m = c)
  | 1 => decide (m ≠ c)
  | 2 => decide (m ≥ c)
  | 3 => decide (m > c)
  | 4 => decide (m ≤ c)
  | _ => decide (m < c)

/-- The atomic operations of R254 on values of `n` bits. -/
def atomicOp (op n m c d : Nat) : Nat :=
  match op with
  | 0 => (m + c) % 2 ^ n
  | 1 => Nat.land m c
  | 2 => Nat.lor m c
  | 3 => Nat.xor m c
  | 4 => if (BitVec.ofNat n m).toInt < (BitVec.ofNat n c).toInt then c else m
  | 5 => max m c
  | 6 => c
  | _ => if m = c then d else m

/-- The event that a release was lost with the agent that held it (R256, R346). -/
def State.dataLost (s : State) (line vf : Nat) (t : Tag) : State :=
  s.raise (dieOfLine line) 0x0005 vf (homeUnit line) (t.agent + t.inc * 4096) t.seq.toNat

/-- The bytes of an aligned word as the core that holds its line RETAINED sees them. -/
def State.retainedValue (s : State) (core addr size : Nat) : Nat :=
  match s.l1 core (lineOf addr) with
  | some l => field (l.view (l.copy.getD (s.homeLine (lineOf addr)))) (addr % 64) size
  | .none => s.homeValue addr size

/-- An aligned word at its home as an agent sees it: its own bytes that have not reached the home lie over the home's. -/
def State.seenValue (s : State) (agent addr size : Nat) : Nat :=
  match s.l1 agent (lineOf addr) with
  | some l => field (l.view (s.homeLine (lineOf addr))) (addr % 64) size
  | .none => s.homeValue addr size

/-- A release by a core at the home (R130): the value goes into the core's RETAINED line as a store of the crew (R136), the home
records the tag, and RSEQ advances. -/
def State.tagRelease (s : State) (core vf : Nat) (crew : Option Nat) (addr size value : Nat) : State :=
  let line := lineOf addr
  let rseq := (s.unit core).rseq
  let l := (s.l1 core line).getD (.none .shared)
  let d := (cellsAt (addr % 64) (toBytes value size)).foldl (fun (t : Tbl Byte) p => t.put p.1 p.2) l.dirty
  let copy := if l.readable s.gtc then l.copy else some (s.homeLine line)
  let s := s.setL1 core line
    { l with copy := copy, expiry := .none, dirty := d, stamp := rseq, retained := true, kind := .shared, crew := crew, vf := vf }
  let h := s.home line
  let s := s.setHome line
    { h with tag := some { agent := core, inc := s.incarnation core, seq := rseq, dead := false }, tagState := .tagged }
  s.modUnit core fun u => { u with rseq := u.rseq + 1 }

/-- Who an operation meets at a home: the core whose release it must recall, its own release, or none in its way
(R130). -/
inductive TagView where
  | other (t : Tag)
  | own
  | dead (t : Tag)
  | clear
  deriving DecidableEq, Repr

/-- How an agent meets the tag of a home. -/
def HomeLine.tagView (h : HomeLine) (agent : Nat) : TagView :=
  match h.tagState, h.tag with
  | .tagged, some t => if t.dead then .dead t else if t.agent = agent then .own else .other t
  | _, _ => .clear

/-- The home holds a request and asks the releaser for a recall (R130). -/
def State.holdAt (s : State) (line id vf : Nat) : State :=
  let h := s.home line
  if h.tagState = .recalling then s.setHome line { h with held := h.held ++ [id] }
  else
    s.setHome line
      { h with tagState := .recalling, held := h.held ++ [id], recallSent := true, recallAt := s.gtc, recallFor := vf, asked := true }

/-- A reader of the sync location has its value: it waits only for writes and leases from now on. -/
def State.served (s : State) (id : Nat) (o : OrdOp) (value : Nat) (lost : Bool) : State :=
  s.setOrd id { o with stage := .served, result := BitVec.ofNat 64 value, lost := lost }

/-- Compare a watched word: met, the operation is served; unmet, it goes on watching (R272, R58), but for a first
evaluation that a WAIT handler would take (`value2` 1, R272). -/
def State.watchWord (s : State) (id : Nat) (o : OrdOp) (cond value : Nat) : State :=
  if waitCond cond value (o.value.toNat % 2 ^ (8 * o.size)) then s.served id o value false
  else s.setOrd id { o with stage := if o.value2 = 1 then .unmet else .watching }

/-- The crew whose store an operation makes (R136). -/
def State.crewOfOp (s : State) (o : OrdOp) : Option Nat := (o.fibre.bind s.fibres.find).bind Fibre.crew

/-- The new value that an operation writes over an old one of `n` bytes (R254). -/
def OrdKind.newValue (k : OrdKind) (n old v v2 : Nat) : Option Nat :=
  let m := 2 ^ (8 * n)
  match k with
  | .rel => some (v % m)
  | .acqrel op | .atom op | .atomn op => some (atomicOp op (8 * n) old (v % m) (v2 % m))
  | _ => none

/-- The host port of a host-homed line. -/
def portOfLine (line : Nat) : HostPort := if targetOf line = 1 then .a else .b

/-- An atomic operation is applied at its home (R255): its read and its write in one act; a line that has been sealed stays
unchanged (R135). -/
def State.applyAtomic (s : State) (id : Nat) (o : OrdOp) : State :=
  let line := lineOf o.addr
  let old := s.homeValue o.addr o.size
  let s := s.setOrd id { o with stage := .applied, result := BitVec.ofNat 64 old }
  match (if s.isSealed line then none else o.kind.newValue o.size old o.value.toNat o.value2.toNat) with
  | none => s
  | some v =>
    let s := s.modStore fun m => { m with phys := m.phys.writeBytes o.addr (toBytes v o.size) }
    if isHostLine line then
      let w : HostStore := { id := s.nextId, port := portOfLine line, core := some o.agent, line := line }
      (s.fresh.2).modCoh fun c => { c with hostWrites := c.hostWrites ++ [w] }
    else s

/-- The home may apply an atomic operation: no write waits before it, GTC has reached EXP, and no live release stands on
the line (R127, R130, R255). -/
def State.homeFree (s : State) (line : Nat) : Bool :=
  let h := s.home line
  h.waiting.isEmpty && decide (h.exp ≤ s.gtc) && !h.releaseStands

/-- An atomic operation reaches its home: it is applied, or waits there in the order of arrival (R127, R255). -/
def State.queueAtomic (s : State) (id : Nat) (o : OrdOp) : State :=
  let line := lineOf o.addr
  if s.homeFree line then s.applyAtomic id o
  else
    let h := s.home line
    let w : HomeWrite :=
      { id := s.nextId, core := if o.agent < 256 then some o.agent else none, vf := o.vf, since := s.gtc, data := [],
        op := some id }
    (((s.fresh.2).setHome line { h with waiting := h.waiting ++ [w] })).setOrd id { o with stage := .queued }

/-- An atomic operation waits at a home. -/
def HomeLine.atomicWaits (h : HomeLine) : Bool := h.waiting.any fun w => w.op.isSome

/-- ACQREL at the home: the old value is read and the new one released in one act (R258). -/
def State.exchange (s : State) (id : Nat) (o : OrdOp) (op old : Nat) (lost : Bool) : State :=
  let n := 8 * o.size
  let new := atomicOp op n old (o.value.toNat % 2 ^ n) (o.value2.toNat % 2 ^ n)
  (s.tagRelease o.agent o.vf (s.crewOfOp o) o.addr o.size new).served id o old lost

/-- A release waits at a home behind an atomic operation (R127), before the operation `id`, which is served after it (R130:
requests are served in the order of arrival). An atomic operation arrives after every release that waits there. -/
def State.releaseBefore (s : State) (line id : Nat) (atomic : Bool) : Bool :=
  s.coh.ops.any fun p =>
    decide (p.1 ≠ id ∧ (atomic = true ∨ p.1 < id)) &&
      decide (p.2.stage = .watching ∧ p.2.space = 0 ∧ lineOf p.2.addr = line) &&
      match p.2.kind with | .rel | .acqrel _ => true | _ => false

/-- A WAITA. -/
def OrdKind.isWait : OrdKind → Bool
  | .waita _ => true
  | _ => false

/-- An ATOM or an ATOMN. -/
def OrdKind.isAtomic : OrdKind → Bool
  | .atom _ | .atomn _ => true
  | _ => false

/-- Serve an operation at the home of its location by the rows of R130; where a release must be recalled first it is held. A
release that finds an atomic operation waiting there waits behind it (R127), and what comes after that release behind both. Each
evaluation that meets a dead tag sends DATA_LOST (R130, R256, R272). -/
def State.serve (s : State) (id : Nat) : State :=
  match s.coh.ops.find id with
  | .none => s
  | some o =>
    let line := lineOf o.addr
    let h := s.home line
    if h.tagState = .recalling then (s.holdAt line id o.vf).setOrd id { o with stage := .held }
    else
      let view := h.tagView o.agent
      let hold := (s.holdAt line id o.vf).setOrd id { o with stage := .held }
      let later := s.setOrd id { o with stage := .watching }
      if s.releaseBefore line id o.kind.isAtomic then later
      else
      match o.kind with
      | .acq _ | .hostRead _ =>
        match view with
        | .other _ => hold
        | .own => s.served id o (s.retainedValue o.agent o.addr o.size) false
        | .dead t => (s.dataLost line o.vf t).served id o (s.homeValue o.addr o.size) true
        | .clear => s.served id o (s.seenValue o.agent o.addr o.size) false
      | .waita cond =>
        match view with
        | .other _ => hold
        | .own => State.watchWord s id o cond (s.retainedValue o.agent o.addr o.size)
        | .dead t => State.watchWord (s.dataLost line o.vf t) id o cond (s.homeValue o.addr o.size)
        | .clear => State.watchWord s id o cond (s.seenValue o.agent o.addr o.size)
      | .depend _ _ =>
        match view with
        | .other _ => hold
        | .dead t => State.watchWord (s.dataLost line o.vf t) id o 2 (s.homeValue o.addr o.size)
        | _ => State.watchWord s id o 2 (s.homeValue o.addr o.size)
      | .rel =>
        match view with
        | .other _ => hold
        | _ =>
          if h.atomicWaits then later
          else (s.tagRelease o.agent o.vf (s.crewOfOp o) o.addr o.size o.value.toNat).served id o 0 false
      | .acqrel op =>
        match view with
        | .other _ => hold
        | .own => State.exchange s id o op (s.retainedValue o.agent o.addr o.size) false
        | .dead t =>
          if h.atomicWaits then later
          else State.exchange (s.dataLost line o.vf t) id o op (s.homeValue o.addr o.size) true
        | .clear =>
          if h.waiting.isEmpty then State.exchange s id o op (s.seenValue o.agent o.addr o.size) false else later
      | .atom _ | .atomn _ =>
        match view with
        | .other _ | .own => hold
        | .dead t => (s.dataLost line o.vf t).queueAtomic id o
        | .clear => s.queueAtomic id o
      | _ => s.served id o 0 false

/-- The operations that watch a word of a line, in the order they were issued. A host-homed word is only polled (R58,
R272). -/
def State.watchers (s : State) (line : Nat) : List Nat :=
  if isHostLine line then []
  else
    (s.coh.ops.select fun _ o =>
      decide (o.stage = .watching) && decide (o.space = 0 ∨ o.space = 6) && decide (lineOf o.addr = line)).map Prod.fst

/-- Every watcher of a line evaluates its condition again (R272, R58), and once more where that has retagged the line. -/
def State.evaluate (s : State) (line : Nat) : State :=
  let t := (s.watchers line).foldl State.serve s
  if (t.home line).tag = (s.home line).tag then t else (t.watchers line).foldl State.serve t

/-- A home whose recall has ended: DELIVERED, and the held requests are served in order (R130). Where it had sent a RECALL, that
is an event (R346). -/
def State.deliver (s : State) (line : Nat) : State :=
  let h := s.home line
  let v0 := match h.tag with | some t => t.agent + t.inc * 4096 | .none => 0
  let s := if h.asked then s.raise (dieOfLine line) 0x0004 h.recallFor (homeUnit line) v0 (s.gtc - h.recallAt) else s
  let s := s.setHome line { h with tagState := .delivered, held := [], recallSent := false, asked := false }
  (h.held.foldl State.serve s).evaluate line

/-- A write has been applied: a recall that waited for it may be over. -/
def State.settle (s : State) (line id : Nat) : State :=
  let hit := s.coh.homes.select fun _ h => h.awaited.contains (line, id)
  hit.foldl (fun s p =>
    let h := s.home p.1
    let left := h.awaited.filter fun w => decide (w ≠ (line, id))
    let s := s.setHome p.1 { h with awaited := left }
    if left.isEmpty && decide (h.tagState = .recalling) && !h.recallSent then s.deliver p.1 else s) s

/-- A core's bytes in flight to a line are at the home, unless later writes of the core still wait there. -/
def State.landFlight (s : State) (line : Nat) (core : Option Nat) : State :=
  match core with
  | .none => s
  | some c =>
    if (s.home line).waiting.any fun w => decide (w.core = some c) then s
    else
      match s.l1 c line with
      | some l => s.setL1 c line { l with flight := [] }
      | .none => s

/-- The first write that waits at a home is applied: bytes, or an atomic operation (R127, R255). A write of the full line clears
its poison (R136); one that a trigger made wakes the stalls of its die (R48, R358). Bytes that have waited since before their line
was sealed lie under what CODEX has put there, which they leave unchanged (R135). -/
def State.applyFirst (s : State) (line : Nat) (w : HomeWrite) : State :=
  let s := if s.isSealed line then s else s.modStore fun m =>
    { m with phys := m.phys.writeCells w.data,
             poisoned := if w.data.length = 64 then m.poisoned.filter fun x => decide (x ≠ line) else m.poisoned }
  let s := match w.op with
    | some id => match s.coh.ops.find id with | some o => s.applyAtomic id o | .none => s
    | .none => s
  match w.wakes with
  | some die => s.wakeDie die
  | .none => s

/-- Apply the waiting writes of a line, in their order, while GTC has reached EXP (R127); at most `n`. -/
def State.applyWrites (s : State) (line : Nat) : Nat → State
  | 0 => s
  | n + 1 =>
    let h := s.home line
    match h.waiting with
    | [] => s
    | w :: rest =>
      if s.gtc < h.exp then s
      else
        let s := (s.setHome line { h with waiting := rest }).applyFirst line w
        let s := if w.since < s.gtc then
            s.raise (dieOfLine line) 0x0003 w.vf (homeUnit line) (line / 64) (s.gtc - w.since)
          else s
        State.applyWrites (((s.landFlight line w.core).evaluate line).settle line w.id) line n

/-- Apply what may be applied at a home. -/
def State.applyHome (s : State) (line : Nat) : State :=
  s.applyWrites line ((s.home line).waiting.length + s.coh.ops.length)

/-- Send a write to the home of its line (R127), under a new number and now. A store to a host-homed line awaits its
acknowledgement (R144). -/
def State.sendHomeAs (s : State) (w : HomeWrite) (line : Nat) : Nat × State :=
  let id := s.nextId
  let core := w.core
  let s := s.fresh.2
  let s : State := match core with
    | some c =>
      let l := (s.l1 c line).getD (.none .stream)
      s.setL1 c line { l with flight := w.data.foldl (fun (t : Tbl Byte) p => t.put (p.1 % 64) p.2) l.flight }
    | .none => s
  let s : State := if isHostLine line then
      s.modCoh fun c =>
        { c with hostWrites := c.hostWrites ++ [{ id := id, port := portOfLine line, core := core, line := line }] }
    else s
  let h := s.home line
  let s := s.setHome line { h with waiting := h.waiting ++ [{ w with id := id, since := s.gtc }] }
  (id, s.applyHome line)

/-- Send a write of bytes of one line to its home (R127). -/
def State.sendHome (s : State) (core : Option Nat) (vf line : Nat) (data : List (Nat × Byte)) : Nat × State :=
  s.sendHomeAs { id := 0, core := core, vf := vf, since := 0, data := data } line

/-- Write a core's dirty line back to its home (R129, R130); answers the write's number where there was one. The line
stays as a clean copy until its lease ends. -/
def State.writeBack (s : State) (core vf line : Nat) : List (Nat × Nat) × State :=
  match s.l1 core line with
  | some l =>
    if l.dirty.isEmpty then ([], s)
    else
      let data := l.dirty.map fun p => (line + p.1, p.2)
      let s := s.setL1 core line { l with dirty := [], copy := l.copy.map fun c => overlay c l.dirty }
      let r := s.sendHome (some core) vf line data
      ([(line, r.1)], r.2)
  | .none => ([], s)

/-- Write back several lines in order, gathering the writes. -/
def State.writeBackAll (s : State) (core vf : Nat) (lines : List Nat) : List (Nat × Nat) × State :=
  lines.foldl (fun a line => let r := a.2.writeBack core vf line; (a.1 ++ r.1, r.2)) ([], s)

/-- A stamp at or before another, modulo 2^16 within a window of 32,768 (R129). -/
def stampAtOrBefore (a b : BitVec 16) : Bool := decide ((b - a).toNat < 32768)

/-- The lines of a core's L1 that meet a test. -/
def State.l1Lines (s : State) (core : Nat) (p : Nat → L1Line → Bool) : List Nat :=
  ((s.coh.l1.select fun k l => decide (k / 2 ^ 58 = core) && p (k % 2 ^ 58) l).map fun e => e.1 % 2 ^ 58)

/-- The writes of a core that wait at their homes. -/
def State.coreWrites (s : State) (core : Nat) : List (Nat × Nat) :=
  s.coh.homes.flatMap fun p => (p.2.waiting.filter fun w => decide (w.core = some core)).map fun w => (p.1, w.id)

/-- A recall carried out by the core (R130): it writes back every dirty SHARED line stamped at or before the tag's
sequence, then the sync line, which it holds RETAINED no longer; the home waits until these writes, and those that the core had
sent before, are applied (R142, R143). -/
def State.recall (s : State) (core line : Nat) : State :=
  let h := s.home line
  match h.tag with
  | .none => s
  | some t =>
    let lines := s.l1Lines core fun k l =>
      !l.dirty.isEmpty && decide (l.kind = .shared) && stampAtOrBefore l.stamp t.seq && decide (k ≠ line)
    let r := s.writeBackAll core h.recallFor (lines ++ [line])
    let s := r.2
    let s := match s.l1 core line with
      | some l => s.setL1 core line { l with retained := false, copy := .none, expiry := .none }
      | .none => s
    let h := s.home line
    let left := s.coreWrites core
    let s := s.setHome line { h with tagState := .recalling, awaited := left, recallSent := false }
    if left.isEmpty then s.deliver line else s

/-- A core gives up a line it holds RETAINED, as in a recall (R130: eviction, WB, FENCE, gating), and so answers a recall that
it has been sent; answers the writes made. -/
def State.releaseRetained (s : State) (core vf line : Nat) : List (Nat × Nat) × State :=
  let h := s.home line
  match h.tag with
  | .none => ([], s)
  | some t =>
    let before := s.nextId
    let s := if t.agent ≠ core ∨ t.dead = true then s
      else if h.tagState = .tagged then (s.setHome line { h with recallAt := s.gtc, recallFor := vf }).recall core line
      else if h.tagState = .recalling ∧ h.recallSent = true then s.recall core line
      else s
    let made := s.coh.homes.flatMap fun p => (p.2.waiting.filter fun w => decide (before ≤ w.id)).map fun w => (p.1, w.id)
    (made, s)

/-- Evict a line from a core's L1: dirty bytes are written back, and a RETAINED line as in a recall (R130, R140). -/
def State.evictLine (s : State) (core line : Nat) : State :=
  match s.l1 core line with
  | .none => s
  | some l =>
    let s := if l.retained then (s.releaseRetained core l.vf line).2 else (s.writeBack core l.vf line).2
    match s.l1 core line with
    | some l => s.setL1 core line { l with copy := .none, expiry := .none }
    | .none => s

/-- Drop the SHARED clean copies of a core's L1, the RETAINED lines excepted (R130, R144). -/
def State.dropLeases (s : State) (core : Nat) : State :=
  (s.l1Lines core fun _ l => decide (l.kind = .shared) && !l.retained && l.copy.isSome).foldl (fun s line =>
    match s.l1 core line with
    | some l => s.setL1 core line { l with copy := .none, expiry := .none }
    | .none => s) s

/-- The write-back part of FENCE.S for a scope of .clu or wider (R144): every dirty SHARED line, and every RETAINED line
as the eviction row of R130 gives. Answers the writes to wait for: every write of the core that waits at its home (R142 to
R144). -/
def State.fenceWrites (s : State) (core vf : Nat) : List (Nat × Nat) × State :=
  let held := s.l1Lines core fun _ l => l.retained
  let s := held.foldl (fun s line => (s.releaseRetained core vf line).2) s
  let s := (s.writeBackAll core vf (s.l1Lines core fun _ l => !l.dirty.isEmpty && decide (l.kind = .shared))).2
  (s.coreWrites core, s)

/-- A live release of a core covers a stamp: the tag of some line is the core's, and its recall would write back a line so stamped
(R130). -/
def State.releaseCovers (s : State) (core : Nat) (stamp : BitVec 16) : Bool :=
  s.coh.homes.any fun p =>
    match p.2.tag with
    | some t =>
      decide (t.agent = core) && !t.dead && decide (p.2.tagState = .tagged ∨ p.2.tagState = .recalling) &&
        stampAtOrBefore stamp t.seq
    | none => false

/-- Before a dirty line takes a later stamp, its bytes are written back where a release of the core has ordered them: the recall
of that release would pass the line by with its new stamp (DEDUCED from R129, R142 and R143, assumption 78). -/
def State.beforeRestamp (s : State) (core line : Nat) : State :=
  match s.l1 core line with
  | some l =>
    if decide (l.kind = .shared) && !l.retained && !l.dirty.isEmpty && decide (l.stamp ≠ (s.unit core).rseq) &&
        s.releaseCovers core l.stamp then (s.writeBack core l.vf line).2
    else s
  | .none => s

/-- A store of a core into memory (R124, R129, R133): dirty in its L1, or through to the home for STREAM and host-homed
lines. -/
def State.storeLine (s : State) (core : Nat) (crew : Option Nat) (vf pa : Nat) (kind : ObjState) (data : List Byte) :
    State :=
  let line := lineOf pa
  if isHostLine line || decide (kind = .stream) then
    (s.sendHome (some core) vf line (cellsAt pa data)).2
  else
    let s := s.beforeRestamp core line
    let l := (s.l1 core line).getD (.none kind)
    let d := (cellsAt (pa % 64) data).foldl (fun (t : Tbl Byte) p => t.put p.1 p.2) l.dirty
    s.setL1 core line { l with dirty := d, kind := kind, stamp := (s.unit core).rseq, crew := crew, vf := vf }

/-- R131: before a release would bring RSEQ 32,768 ahead of a dirty line's stamp, the core writes that line back with
every line of equal or older stamp. A release that is held at its home, or waits there, advances RSEQ when it is served: those
of the core are counted with the one that begins. -/
def State.agedStamps (s : State) (core vf : Nat) : State :=
  let held := s.coh.ops.select fun _ o =>
    decide (o.agent = core) && decide (o.stage = .held ∨ o.stage = .watching) &&
      match o.kind with | .rel | .acqrel _ => true | _ => false
  let next := (s.unit core).rseq + BitVec.ofNat 16 (held.length + 1)
  let old := s.l1Lines core fun _ l => !l.dirty.isEmpty && decide (l.kind = .shared) && decide (32768 ≤ (next - l.stamp).toNat)
  (s.writeBackAll core vf old).2

/-- Some write of a list is still waiting at its home. -/
def State.writesPending (s : State) (ws : List (Nat × Nat)) : Bool :=
  ws.any fun w => (s.home w.1).waiting.any fun x => decide (x.id = w.2)

/-- The writes of a list are performed with respect to all agents: a home applies a write only once GTC has reached its
line's EXP (R127). The EXP of further lines has passed. -/
def State.performed (s : State) (ws : List (Nat × Nat)) (lines : List Nat) : Bool :=
  !s.writesPending ws && lines.all fun l => decide ((s.home l).exp ≤ s.gtc)

/-- Some host store of a list is not yet acknowledged (R144). -/
def State.hostPending (s : State) (ids : List Nat) : Bool := s.coh.hostWrites.any fun w => ids.contains w.id

/-- The unacknowledged write-through stores of a core (R144). -/
def State.coreHostWrites (s : State) (core : Nat) : List Nat :=
  (s.coh.hostWrites.filter fun w => decide (w.core = some core)).map fun w => w.id

end Sys2Proof.Machine
end

