-- ==== Sys2Proof/Machine/Stalls.lean ====
section
/-! DEFINITION. The stalls of a core and its stall overflow (R32, R33). -/
namespace Sys2Proof.Machine

/-- Add a member to the stall of a key, the last of its members. -/
def addMember (key : StallKey) (m : Filed) : List Stall → List Stall
  | [] => []
  | t :: rest => if t.key = key then { t with members := t.members ++ [m] } :: rest else t :: addMember key m rest

/-- A stall with members holds its key; one without may be taken for another (R33). -/
def CoreUnit.busyStalls (u : CoreUnit) : List Stall := u.stalls.filter fun t => !t.members.isEmpty

/-- A number above that of every stall assigned so far (R33: the most recently assigned). -/
def CoreUnit.nextAssigned (u : CoreUnit) : Nat := u.stalls.foldl (fun n t => max n (t.assigned + 1)) 0

/-- Assign a free stall to a key, with the members that move into it. -/
def CoreUnit.assign (u : CoreUnit) (key : StallKey) (ms : List Filed) : CoreUnit :=
  let keep := if u.stalls.length < 64 then u.stalls else u.busyStalls
  { u with stalls := keep ++ [{ key := key, members := ms, demoted := false, spins := 0, assigned := u.nextAssigned }] }

/-- Put a member where R32 and R33 say: the stall of its key, a free stall, or the overflow. -/
def CoreUnit.fileAt (u : CoreUnit) (key : StallKey) (m : Filed) : CoreUnit :=
  if u.stalls.any fun t => decide (t.key = key) then { u with stalls := addMember key m u.stalls }
  else if u.busyStalls.length < 64 then u.assign key [m]
  else { u with overflow := u.overflow ++ [(key, m)] }

/-- The oldest of some filed members: by age, and among equals the first filed. -/
def oldestFiled : List Filed → Option Filed
  | [] => none
  | m :: rest =>
    some (rest.foldl (fun (b : Filed) q => if b.age < q.age ∨ (b.age = q.age ∧ q.order < b.order) then q else b) m)

/-- The oldest entry of the overflow (R33). -/
def CoreUnit.oldestOverflow (u : CoreUnit) : Option (StallKey × Filed) :=
  match oldestFiled (u.overflow.map Prod.snd) with
  | some m => u.overflow.find? fun p => decide (p.2 = m)
  | none => none

/-- A key leaves the overflow: every member of it moves with its age into the stall that holds the key, or else into a
free one (R33). -/
def CoreUnit.letIn (u : CoreUnit) (key : StallKey) : CoreUnit :=
  let ms := (u.overflow.filter fun p => decide (p.1 = key)).map Prod.snd
  let u : CoreUnit := { u with overflow := u.overflow.filter fun p => decide (p.1 ≠ key) }
  if u.stalls.any fun t => decide (t.key = key) then
    { u with stalls := ms.foldl (fun l m => addMember key m l) u.stalls }
  else u.assign key ms

/-- While a stall is free, the oldest key of the overflow takes it (R33); at most `n` keys are moved. -/
def CoreUnit.drainOverflow (u : CoreUnit) : Nat → CoreUnit
  | 0 => u
  | n + 1 =>
    match u.oldestOverflow with
    | some p => if u.busyStalls.length < 64 then CoreUnit.drainOverflow (u.letIn p.1) n else u
    | none => u

/-- Take a fibre out of the stalls and the overflow of its core. A stall that this empties goes to the overflow at once
(R33). -/
def CoreUnit.unfile (u : CoreUnit) (index : Nat) : CoreUnit :=
  let strip := fun (m : Filed) => { m with lanes := m.lanes.filter fun x => decide (x.2 ≠ index) }
  let live := fun (m : Filed) => !m.lanes.isEmpty
  let stalls := u.stalls.map fun (t : Stall) => { t with members := (t.members.map strip).filter live }
  let rest := (u.overflow.map fun (p : StallKey × Filed) => (p.1, strip p.2)).filter fun p => live p.2
  let u : CoreUnit := { u with stalls := stalls, overflow := rest }
  u.drainOverflow u.overflow.length

end Sys2Proof.Machine
end

