-- ==== Sys2Proof/Machine/Frames.lean ====
section
/-! DEFINITION. Registers as memory: cells, frame segments, the frame heap, the backing area and the K slots (R70 to R77,
R82, R91, R168). -/
namespace Sys2Proof.Machine

/-- The key of a segment of a tenant. -/
def segKey (tenant addr : Nat) : Nat := tenant * 2 ^ 48 + addr

/-- The segment of a key. -/
def State.seg (s : State) (key : Nat) : Segment := s.segs.get key .empty

/-- Change a segment that exists. -/
def State.modSeg (s : State) (key : Nat) (g : Segment → Segment) : State := { s with segs := s.segs.modify key g }

/-- Change a crew that exists. -/
def State.modCrew (s : State) (id : Nat) (g : Crew → Crew) : State :=
  s.modSched fun c => { c with crews := c.crews.modify id g }

/-- The cell of a location. A location that does not exist reads as zero and full. -/
def State.cell (s : State) : Loc → RegCell
  | .frame seg word => (s.seg seg).words.get word .zero
  | .shared crew i =>
    match s.sched.crews.find crew with
    | some c => c.sregs.get i .zero
    | none => .zero
  | _ => .zero

/-- Set the cell of a location. -/
def State.setCell (s : State) (l : Loc) (c : RegCell) : State :=
  match l with
  | .frame seg word => s.modSeg seg fun g => { g with words := g.words.put word c }
  | .shared crew i => s.modCrew crew fun k => { k with sregs := k.sregs.put i c }
  | _ => s

/-- Write a register: full, with the marks and the last use gone (R168). The frame word's earlier value is kept for a
read after a last use; where the earlier value had its own last use, either of its two values may be there (R172). -/
def State.writeCell (s : State) (l : Loc) (v : Word) : State :=
  let c := s.cell l
  if c.lastUsed then
    let d := s.drawBit
    d.2.setCell l { val := v, back := if d.1 then c.back else c.val, lastUsed := false, mark := .full }
  else s.setCell l { val := v, back := c.val, lastUsed := false, mark := .full }

/-- Mark a register. -/
def State.markCell (s : State) (l : Loc) (m : Mark) : State := s.setCell l { s.cell l with mark := m }

/-- The value that a read returns: after a last use, one of two (R172). -/
def State.readCell (s : State) (l : Loc) : Word × State :=
  let c := s.cell l
  if c.lastUsed then
    let d := s.drawBit
    (if d.1 then c.back else c.val, d.2)
  else (c.val, s)

/-- Note the last use of a value (R172). -/
def State.useCell (s : State) (l : Loc) : State := s.setCell l { s.cell l with lastUsed := true }

/-- The location of gN of a fibre (R72). -/
def Fibre.gLoc (f : Fibre) (n : Nat) : Loc := .frame (segKey f.tenant f.fbSeg) (f.fbWord + n)

/-- The location of sN of a fibre. A clerk has no crew (R49), and crew 0 does not exist. -/
def Fibre.sLoc (f : Fibre) (n : Nat) : Loc := .shared (f.crew.getD 0) n

/-- The frame words of the launch of a fibre, FRAMEW (R53); for a clerk all 248 of a segment (assumption 7). -/
def State.frameW (s : State) (f : Fibre) : Nat :=
  match s.sched.launches.find f.launch with
  | some l => l.record.frameW
  | none => 248

/-- The base of a tenant's backing area and the sizes of its K pool and its segment slots (R71). -/
def State.backing (s : State) (tenant : Nat) : Nat × Nat × Nat :=
  (s.mgmtF (0xD000 + 0x10 * tenant) 47 12 * 4096, s.mgmtF (0xD008 + 0x10 * tenant) 47 32 * 64,
    s.mgmtF (0xD008 + 0x10 * tenant) 31 0)

/-- The address of the first segment slot of a tenant. -/
def State.segBase (s : State) (tenant : Nat) : Nat := (s.backing tenant).1 + (s.backing tenant).2.1 * 256

/-- An address is a segment slot of a tenant's backing area (R71), or the segment of its core's clerk. -/
def State.isSegSlot (s : State) (tenant addr : Nat) : Bool :=
  (decide (s.segBase tenant ≤ addr) && decide ((addr - s.segBase tenant) % 1024 = 0) &&
    decide ((addr - s.segBase tenant) / 1024 < (s.backing tenant).2.2)) ||
  (decide (tenant = 0) && decide (2 ^ 56 ≤ addr) && (s.segs.find addr).isSome)

/-- A free segment slot of a tenant (R76). -/
def State.freeSegFrom (s : State) (tenant addr : Nat) : Nat → Option Nat
  | 0 => none
  | n + 1 => if (s.segs.find (segKey tenant addr)).isNone then some addr else State.freeSegFrom s tenant (addr + 1024) n

/-- The lowest free segment slot of a tenant. -/
def State.freeSeg (s : State) (tenant : Nat) : Option Nat :=
  s.freeSegFrom tenant (s.segBase tenant) (s.backing tenant).2.2

/-- A free segment for a fibre: a backing slot of its tenant, or one of its clerk's own. -/
def State.freeSegFor (s : State) (key tenant : Nat) : Option Nat :=
  if key % 4096 = 4095 then s.freeSegFrom 0 (clerkSeg (key / 4096)) 4096 else s.freeSeg tenant

/-- The words of a new segment that nothing is copied into, from word `w` on: what they hold the specification leaves
open. -/
def openWords (id w : Nat) : Tbl RegCell :=
  (upto w (248 - w)).map fun i =>
    let v := Config.freeWord (2 ^ 16 + id * 256 + i)
    (i, { RegCell.zero with val := v, back := v })

/-- The key of a K slot. -/
def kKey (tenant slot : Nat) : Nat := tenant * 2 ^ 22 + slot

/-- A free K slot of a tenant (R76): never used, or freed. -/
def State.freeKFrom (s : State) (tenant slot : Nat) : Nat → Option Nat
  | 0 => none
  | n + 1 =>
    match s.kobjs.find (kKey tenant slot) with
    | none => some slot
    | some k => if k.free then some slot else State.freeKFrom s tenant (slot + 1) n

/-- The lowest free K slot of a tenant. -/
def State.freeK (s : State) (tenant : Nat) : Option Nat := s.freeKFrom tenant 0 (s.backing tenant).2.1

/-- The K slot that a header address names in a tenant's pool (R83). -/
def State.kSlotAt (s : State) (tenant addr : Nat) : Option Nat :=
  let b := s.backing tenant
  if b.1 ≤ addr ∧ (addr - b.1) % 256 = 0 ∧ (addr - b.1) / 256 < b.2.1 then some ((addr - b.1) / 256) else none

/-- A handle of a K slot (R83). -/
def State.kHandle (s : State) (tenant slot : Nat) (gen : DWord) : DWord :=
  BitVec.ofNat 64 (gen.toNat % 65536 * 2 ^ 48 + (s.backing tenant).1 + 256 * slot)

/-! ### The frame heap -/

/-- Segments resident in a core's heap. -/
def State.heapUsed (s : State) (core : Nat) : Nat :=
  (s.segs.filter fun p => decide (p.2.resident = some core)).length

/-- Slots of a core's heap (R75): 64 for each FRAME granule. The clerk's segments are among those in use. -/
def State.heapSize (s : State) (core : Nat) : Nat := s.coreF core 0x110 7 0 * 64

/-- The fibre whose top segment a segment is; one that runs in it before one that waits for its continuation's reply, which
another may have resumed (R84, R87). -/
def State.topOf (s : State) (key : Nat) : Option (Nat × Fibre) :=
  let mine := fun (f : Fibre) => decide (segKey f.tenant f.fbSeg = key)
  (s.fibres.first fun _ f => mine f && f.kh.isNone).or (s.fibres.first fun _ f => mine f)

/-- A fibre may lose its top segment (R31, R75): STALLED, or PARKED on any reason but REGISTER. -/
def Fibre.evictable (f : Fibre) : Bool :=
  match f.state with
  | .stalled => true
  | .parked (.register _) => false
  | .parked _ => true
  | _ => false

/-- A fibre parked on a reason other than REGISTER (R31). -/
def Fibre.parkedAside (f : Fibre) : Bool :=
  match f.state with
  | .parked (.register _) => false
  | .parked _ => true
  | _ => false

/-- The least recently touched of some segments (R31, R75); `State.touch` says what touches one. -/
def oldest : List (Nat × Segment) → Option Nat
  | [] => none
  | p :: rest =>
    some (rest.foldl (fun (b : Nat × Segment) q => if q.2.touched < b.2.touched then q else b) p).1

/-- The segment that the heap evicts next (R75): first one that is no fibre's top, then a top that may go. A reload
takes tops of parked fibres only (R31). -/
def State.victim (s : State) (core : Nat) (reload : Bool) : Option Nat :=
  let here := s.segs.filter fun p => decide (p.2.resident = some core) && decide (p.1 < 2 ^ 56)
  match oldest (here.filter fun p => (s.topOf p.1).isNone) with
  | some k => some k
  | none => oldest (here.filter fun p =>
      match s.topOf p.1 with
      | some (_, f) => if reload then f.parkedAside else f.evictable
      | none => false)

/-- What a spill keeps of a top segment's words (R42): g(LIVE) to g127 read zero and full afterwards. The words above the
window are not kept, and what they hold then the specification leaves open. -/
def spillWords (id : Nat) (f : Fibre) (w : Tbl RegCell) : Tbl RegCell :=
  (w.filter fun p => decide (p.1 < f.fbWord + f.live)) ++ openWords id (f.fbWord + 128)

/-- Evict a segment (R75): a fibre whose top it is becomes COLD, and asks for a reload at once where it has no park
reason (R31). -/
def State.evictSeg (s : State) (core key : Nat) : State :=
  match s.topOf key with
  | some (fk, f) =>
    let kept := match f.state with | .parked w => some w | _ => none
    let id := s.nextId
    let s := (s.fresh.2).modSeg key fun g => { g with resident := none, words := spillWords id f g.words }
    let s := s.setFibre fk { f with state := .cold kept, coldSince := s.gtc }
    let s := s.modUnit core fun u =>
      let u := u.unfile (indexOf fk)
      if kept.isNone then { u with reloads := u.reloads ++ [fk] } else u
    s.raiseCore core 0x0009 f.tenant 1 0
  | none => (s.modSeg key fun g => { g with resident := none }).raiseCore core 0x0009 (key / 2 ^ 48) 1 0

/-- A segment is touched now (R75): by its creation, its coming in, a copy of a hop return, a landing, and as its fibre's top
when the fibre leaves its gang (DESIGN CHOICE, assumption 67). -/
def State.touch (s : State) (key : Nat) : State := s.modSeg key fun g => { g with touched := s.gtc }

/-- Room for one more segment in a core's heap, by eviction where none is free (R75). -/
def State.heapRoom (s : State) (core : Nat) (reload : Bool) : Option State :=
  if s.heapUsed core < s.heapSize core then some s
  else (s.victim core reload).map fun k => s.evictSeg core k

/-- Make a segment resident on a core: a core that holds it writes it back first (R75). -/
def State.bringIn (s : State) (core key : Nat) : Option State :=
  if (s.seg key).resident = some core then some (s.touch key)
  else (s.heapRoom core false).map fun s => s.modSeg key fun g => { g with resident := some core, touched := s.gtc }

/-- A new segment of a tenant, resident on a core. -/
def State.newSeg (s : State) (core tenant addr : Nat) (g : Segment) : State :=
  { s with segs := s.segs.put (segKey tenant addr) { g with resident := some core, touched := s.gtc } }

/-- Free segments of a tenant. -/
def State.freeSegs (s : State) (tenant : Nat) (addrs : List Nat) : State :=
  { s with segs := addrs.foldl (fun (t : Tbl Segment) a => t.del (segKey tenant a)) s.segs }

/-- The segments from one to the root (R70: NEXT 0), in order; the chain is followed through at most `n` links. -/
def State.chain (s : State) (tenant addr : Nat) : Nat → List Nat
  | 0 => []
  | n + 1 =>
    match s.segs.find (segKey tenant addr) with
    | none => []
    | some g => addr :: (if g.next = 0 then [] else State.chain s tenant g.next n)

/-- All segments of a fibre, from its top. -/
def State.fibreSegs (s : State) (f : Fibre) : List Nat := s.chain f.tenant f.fbSeg s.segs.length

/-- Where words of one segment have moved to another, results on their way and deferred loads follow them. -/
def State.retarget (s : State) (move : Loc → Loc) : State :=
  let moveAll : List Loc → List Loc := List.map move
  let land := fun (l : Landing) => { l with writes := l.writes.map fun (w : Loc × Word) => (move w.1, w.2) }
  let ord := fun (o : OrdOp) => { o with targets := moveAll o.targets }
  let recv := fun (r : Receive) => { r with targets := moveAll r.targets }
  let acc := fun (d : Deferred) => { d with locs := moveAll d.locs }
  let eng := fun (e : EngineOp) =>
    match e.job with
    | .mtx c (.stat a b t) => { e with job := .mtx c (.stat a b (moveAll t)) }
    | .codex op h src len ofs vf i st t w => { e with job := .codex op h src len ofs vf i st (moveAll t) w }
    | _ => e
  { s with landings := s.landings.mapVals fun _ l => land l,
           coh := { s.coh with ops := s.coh.ops.mapVals fun _ o => ord o },
           engine := s.engine.mapVals fun _ e => eng e,
           fibres := s.fibres.mapVals fun _ f => { f with pending := f.pending.map acc },
           kobjs := s.kobjs.mapVals fun _ k => { k with replay := k.replay.map acc },
           cores := s.cores.mapVals fun _ u => { u with receives := u.receives.map recv } }

/-- Words from `w` on of one segment are words from 0 on of another. -/
def movedLoc (src dst w shift : Nat) : Loc → Loc
  | .frame k n => if k = src ∧ w ≤ n then .frame dst (n - w + shift) else .frame k n
  | l => l

/-! ### Segments and K slots as bytes (R70, R82, R91) -/

/-- The bytes of a segment. -/
def Segment.toBytes (g : Segment) : List Byte :=
  Machine.toBytes g.next 8 ++ Machine.toBytes g.hchain 8 ++ Machine.toBytes g.savedFbw 2 ++
    Machine.toBytes g.slide 1 ++ Machine.toBytes 0 5 ++ Machine.toBytes g.retpc.toNat 8 ++
    (List.range 248).flatMap fun i => Machine.toBytes (g.words.get i .zero).val.toNat 4

/-- A segment read from bytes; words that change are full. -/
def Segment.ofBytes (b : List Byte) (old : Segment) : Segment :=
  { old with
    next := field b 0 8, hchain := field b 8 8, savedFbw := field b 16 2, slide := field b 18 1,
    retpc := BitVec.ofNat 64 (field b 24 8),
    words := (List.range 248).foldl (fun (t : Tbl RegCell) i =>
      let v := BitVec.ofNat 32 (field b (32 + 4 * i) 4)
      let c := t.get i .zero
      if c.val = v then t else t.put i { RegCell.zero with val := v, back := v }) old.words }

/-- An unused replay entry. -/
def Deferred.empty : Deferred := { addr := 0, data := 0, pcOff := 0, kind := 0, size := 0, reg := 0, locs := [] }

/-- The bytes of a replay entry (R91). -/
def Deferred.toBytes (d : Deferred) : List Byte :=
  Machine.toBytes d.addr 8 ++ Machine.toBytes d.data.toNat 8 ++ Machine.toBytes d.pcOff.toNat 4 ++
    Machine.toBytes d.kind 1 ++ Machine.toBytes d.size 1 ++ Machine.toBytes d.reg 1 ++ Machine.toBytes 0 9

/-- A replay entry read from bytes. -/
def Deferred.ofBytes (b : List Byte) : Deferred :=
  { addr := field b 0 8, data := BitVec.ofNat 64 (field b 8 8), pcOff := BitVec.ofNat 32 (field b 16 4),
    kind := field b 20 1, size := field b 21 1, reg := field b 22 1, locs := [] }

/-- The bytes of an effect record (R82). -/
def EffectRecord.toBytes (r : EffectRecord) : List Byte :=
  Machine.toBytes r.tag 2 ++ Machine.toBytes r.vf 2 ++ Machine.toBytes r.core 2 ++ Machine.toBytes r.fibre 2 ++
    Machine.toBytes r.handle.toNat 8 ++ Machine.toBytes r.payload.toNat 8 ++ Machine.toBytes r.pc.toNat 8 ++
    Machine.toBytes r.addr.toNat 8 ++ Machine.toBytes r.info.toNat 8 ++ Machine.toBytes r.gtc 8 ++
    Machine.toBytes r.seq 4 ++ Machine.toBytes 0 4

/-- An effect record read from bytes. -/
def EffectRecord.ofBytes (b : List Byte) : EffectRecord :=
  { tag := field b 0 2, vf := field b 2 2, core := field b 4 2, fibre := field b 6 2,
    handle := BitVec.ofNat 64 (field b 8 8), payload := BitVec.ofNat 64 (field b 16 8),
    pc := BitVec.ofNat 64 (field b 24 8), addr := BitVec.ofNat 64 (field b 32 8),
    info := BitVec.ofNat 64 (field b 40 8), gtc := field b 48 8, seq := field b 56 4 }

/-- The 256 bytes of a K slot (R82, R91). -/
def KObject.toBytes (k : KObject) : List Byte :=
  Machine.toBytes k.magic 2 ++ Machine.toBytes k.ver 1 ++ Machine.toBytes k.state 1 ++ Machine.toBytes k.owner 2 ++
    Machine.toBytes k.tag 2 ++ Machine.toBytes k.pc.toNat 8 ++ Machine.toBytes k.top 8 ++ Machine.toBytes k.nseg 2 ++
    Machine.toBytes k.live 2 ++ Machine.toBytes k.feat.toNat 4 ++ Machine.toBytes k.hrec 8 ++
    Machine.toBytes k.wid.toNat 8 ++ Machine.toBytes k.crew.toNat 4 ++ Machine.toBytes k.flags.toNat 4 ++
    Machine.toBytes k.gen.toNat 8 ++ k.record.toBytes ++
    ((k.replay ++ List.replicate 4 Deferred.empty).take 4).flatMap Deferred.toBytes

/-- The entries of a replay block: as many as FLAGS.NREPLAY says (R82). An entry whose bytes are as they were is the one
it was. -/
def replayOf (b : List Byte) (n : Nat) (old : List Deferred) : List Deferred :=
  (List.range n).map fun i =>
    let e := (b.drop (128 + 32 * i)).take 32
    match old[i]? with
    | some d => if d.toBytes = e then d else Deferred.ofBytes e
    | none => Deferred.ofBytes e

/-- The bits of K.FLAGS that are not reserved (R82); reserved bits read as zero (R9). -/
def kFlagBits : Nat := 0x07FF01FF

/-- A K slot read from its bytes; `held` are the stores behind its replay block, and `old` the entries that it held. -/
def KObject.ofBytes (b : List Byte) (held old : List Deferred) (free : Bool) : KObject :=
  { magic := field b 0 2, ver := field b 2 1, state := field b 3 1, owner := field b 4 2, tag := field b 6 2,
    pc := BitVec.ofNat 64 (field b 8 8), top := field b 16 8, nseg := field b 24 2, live := field b 26 2,
    feat := BitVec.ofNat 32 (field b 28 4), hrec := field b 32 8, wid := BitVec.ofNat 64 (field b 40 8),
    crew := BitVec.ofNat 32 (field b 48 4), flags := BitVec.ofNat 32 (Nat.land (field b 52 4) kFlagBits),
    gen := BitVec.ofNat 64 (field b 56 8), record := EffectRecord.ofBytes ((b.drop 64).take 64),
    replay := replayOf b (min 4 (bits (field b 52 4) 26 24)) old, heldStores := held, free := free }

/-- An address lies in a tenant's backing area (R71). -/
def State.inBacking (s : State) (tenant addr : Nat) : Bool :=
  let b := s.backing tenant
  decide (b.1 ≤ addr) && decide (addr < b.1 + b.2.1 * 256 + b.2.2 * 1024)

/-- The place in memory of a byte of a tenant's backing area, where it translates. -/
def State.backingPlace (s : State) (tenant addr : Nat) : Option Nat :=
  match s.translate tenant 0 addr false with | .ok pa => some pa | _ => none

/-- The byte of a tenant's backing area at an address: of a K slot, or of a segment (R71, R82). A slot that is not in use
is memory like any other. -/
def State.backingByte (s : State) (tenant addr : Nat) : Byte :=
  let b := s.backing tenant
  let o := addr - b.1
  let plain := match s.backingPlace tenant addr with | some pa => s.store.phys.read pa | none => 0
  if o < b.2.1 * 256 then
    match s.kobjs.find (kKey tenant (o / 256)) with
    | some k => k.toBytes.getD (o % 256) 0
    | none => plain
  else
    match s.segs.find (segKey tenant (s.segBase tenant + (o - b.2.1 * 256) / 1024 * 1024)) with
    | some g => g.toBytes.getD ((o - b.2.1 * 256) % 1024) 0
    | none => plain

/-- A clerk's store of one byte into a tenant's backing area (R71). -/
def State.setBackingByte (s : State) (tenant addr : Nat) (v : Byte) : State :=
  let b := s.backing tenant
  let o := addr - b.1
  let slot := kKey tenant (o / 256)
  let seg := segKey tenant (s.segBase tenant + (o - b.2.1 * 256) / 1024 * 1024)
  let plain : State := match s.backingPlace tenant addr with
    | some pa => s.modStore fun m => { m with phys := m.phys.writeBytes pa [v] }
    | none => s
  if o < b.2.1 * 256 then
    if (s.kobjs.find slot).isNone then plain
    else
      { s with kobjs := s.kobjs.modify slot fun k =>
          { KObject.ofBytes (k.toBytes.set (o % 256) v) k.heldStores k.replay k.free with ofCrew := k.ofCrew } }
  else if (s.segs.find seg).isNone then plain
  else s.modSeg seg fun g => Segment.ofBytes (g.toBytes.set ((o - b.2.1 * 256) % 1024) v) g

/-- The slot in use, of a tenant's backing area, that lies at a place in memory: the tenant and the GLOBAL address of the
byte (R71). -/
def State.slotAt (s : State) (pa : Nat) : Option (Nat × Nat) :=
  let hit := fun (tenant addr n : Nat) =>
    match s.backingPlace tenant addr with
    | some p => if p ≤ pa ∧ pa < p + n then some (tenant, addr + (pa - p)) else none
    | none => none
  (s.segs.findSome? fun p =>
    let tenant := p.1 / 2 ^ 48
    if s.isSegSlot tenant (p.1 % 2 ^ 48) ∧ p.1 < 2 ^ 56 then hit tenant (p.1 % 2 ^ 48) 1024 else none).or
  (s.kobjs.findSome? fun p => hit (p.1 / 2 ^ 22) ((s.backing (p.1 / 2 ^ 22)).1 + 256 * (p.1 % 2 ^ 22)) 256)

/-- Bytes of memory as an agent outside the cores reads them: of a slot of a backing area what the slot holds (R71). -/
def State.readPlace (s : State) (pa n : Nat) : List Byte :=
  (upto pa n).map fun a =>
    match s.slotAt a with
    | some (tenant, addr) => s.backingByte tenant addr
    | none => s.store.phys.read a

end Sys2Proof.Machine
end

