-- ==== Sys2Proof/Machine/Code.lean ====
section
/-! DEFINITION. Code objects as the machine executes them: handles, pointers, the choice of text, fetching
(R155, R194 to R196, R203, R204). -/
namespace Sys2Proof.Machine

/-- The key of a code-table entry. -/
def codeKey (vf index : Nat) : Nat := vf * 4096 + index

/-- The table index of a handle (R195). -/
def handleIndex (h : Word) : Nat := h.toNat / 4096

/-- The generation of a handle (R195). -/
def handleGen (h : Word) : Nat := h.toNat % 4096

/-- The code-table entry that a handle names: index not 0 and below 4096, VALID, and the generation matches (R194,
R195). -/
def State.codeOf (s : State) (vf : Nat) (h : Word) : Option CodeEntry :=
  if handleIndex h = 0 ∨ 4096 ≤ handleIndex h then none
  else
    match s.code.find (codeKey vf (handleIndex h)) with
    | some e => if e.valid ∧ e.gen = handleGen h then some e else none
    | none => none

/-- The code pointer of a PC (R195): always canonical. -/
def Pc.pointer (pc : Pc) : DWord := pair pc.off pc.handle

/-- The twin that is installed. -/
def CodeEntry.current (e : CodeEntry) : OldTwin :=
  { gen := e.twinGen, ctext := e.ctext, clen := e.clen, map := e.map, pairs := e.spmap.length, origin := e.origin,
    spmap := e.spmap }

/-- The twin of a generation: the one installed, or one that gangs still finish a run in (R201). -/
def CodeEntry.twinOf (e : CodeEntry) (g : Nat) : Option OldTwin :=
  if e.twin ∧ g = e.twinGen then some e.current else e.olds.find? fun t => decide (t.gen = g)

/-- The ORIGIN of an offset of the twin of a generation (R204). -/
def CodeEntry.originOf (e : CodeEntry) (g cured : Nat) : Word :=
  match e.twinOf g with
  | some t => BitVec.ofNat 32 (t.origin.getD (cured / 4) 0xFFFFFFFF)
  | none => 0xFFFFFFFF

/-- The canonical offset of a fibre that stands at an offset of the twin of a generation, before its instruction: at the start of a
cured run the canonical run start that SPMAP pairs with it, which may lie before the ORIGIN of an instruction that has been moved to
the front of the run (R202 to R204); elsewhere the ORIGIN. -/
def CodeEntry.canonicalOf (e : CodeEntry) (g cured : Nat) : Word :=
  match (e.twinOf g).bind fun t => t.spmap.find? fun p => decide (p.2 = cured) with
  | some p => BitVec.ofNat 32 p.1
  | none => e.originOf g cured

/-- INFO of a code-table entry (R194). -/
def CodeEntry.info (e : CodeEntry) : Nat :=
  let flag := fun (b : Bool) (i : Nat) => if b then 2 ^ i else 0
  e.frameW / 8 * 2 ^ 11 + e.gwmask % 8 * 2 ^ 8 + e.model % 2 * 2 ^ 7 + flag e.twin 2 + flag e.cured 1 + flag e.valid 0

/-- The 64 bytes of a code-table entry of a function (R194). -/
def CodeEntry.row (e : CodeEntry) (vf : Nat) : List Byte :=
  toBytes e.textVa.toNat 8 ++ toBytes e.tlen 4 ++ toBytes e.clen 4 ++ toBytes e.ctextVa.toNat 8 ++ toBytes e.constVa.toNat 8 ++
    toBytes e.klen 4 ++ toBytes e.entries.length 2 ++ toBytes e.info 2 ++ toBytes e.entVa.toNat 8 ++ toBytes e.mapVa.toNat 8 ++
    toBytes e.feat.toNat 4 ++ toBytes e.gen 2 ++ toBytes vf 2

/-- The PC at which a fibre enters a canonical offset: in the twin when TWIN is set and the SPMAP lists the offset
(R203). -/
def State.enter (s : State) (vf : Nat) (handle off : Word) : Pc :=
  match s.codeOf vf handle with
  | some e =>
    match e.twin, e.spmap.lookup off.toNat with
    | true, some c => { handle := handle, off := off, twin := some (c, e.twinGen) }
    | _, _ => { handle := handle, off := off, twin := none }
  | none => { handle := handle, off := off, twin := none }

/-- The text in which a PC runs: a twin that is gone is left for the canonical text (R203). -/
def Pc.current (pc : Pc) (e : CodeEntry) : Pc :=
  match pc.twin with
  | some (_, g) => if (e.twinOf g).isSome then pc else { pc with twin := none }
  | none => pc

/-- The PC at which a fibre begins a run: a twin that has been replaced, in which it may have finished its last run, is left
(R201, R203). -/
def State.freshPc (s : State) (vf : Nat) (pc : Pc) : Pc :=
  match pc.twin, s.codeOf vf pc.handle with
  | some (_, g), some e => if e.twin ∧ g = e.twinGen then pc else { pc with twin := none }
  | _, _ => pc

/-- The PC `n` parcels further on. -/
def State.advance (s : State) (vf : Nat) (pc : Pc) (n : Nat) : Pc :=
  match pc.twin with
  | none => { pc with off := pc.off + BitVec.ofNat 32 (4 * n) }
  | some (c, g) =>
    match s.codeOf vf pc.handle with
    | some e => { pc with off := e.canonicalOf g (c + 4 * n), twin := some (c + 4 * n, g) }
    | none => { pc with off := pc.off + BitVec.ofNat 32 (4 * n), twin := none }

/-- The PC a direct branch of `k` parcels reaches, counted in the text in which it runs (R207). -/
def State.branchTo (s : State) (vf : Nat) (pc : Pc) (k : Int) : Pc :=
  match pc.twin with
  | none => { pc with off := pc.off + BitVec.ofInt 32 (4 * k) }
  | some (c, g) =>
    let t := ((c : Int) + 4 * k).toNat
    match s.codeOf vf pc.handle with
    | some e => { pc with off := e.canonicalOf g t, twin := some (t, g) }
    | none => { pc with twin := none }

/-- A taken branch goes to or below its own PC (R40), in the text in which it runs. -/
def isBackward (own target : Pc) : Bool :=
  match own.twin, target.twin with
  | some (a, _), some (b, _) => decide (b ≤ a)
  | _, _ => decide (target.off.toNat ≤ own.off.toNat)

/-- The text of a code entry in which a PC runs: its physical base, its length and the offset. -/
def CodeEntry.place (e : CodeEntry) (pc : Pc) : Nat × Nat × Nat :=
  match pc.twin with
  | some (c, g) => match e.twinOf g with | some t => (t.ctext, t.clen, c) | none => (e.text, e.tlen, pc.off.toNat)
  | none => (e.text, e.tlen, pc.off.toNat)

/-- The poisoned line that the parcels of an instruction meet: the address in it where they begin (R136). -/
def State.poisonedAt (s : State) (a n : Nat) : Option Nat :=
  if s.store.poisoned.contains (lineOf a) then some a
  else if s.store.poisoned.contains (lineOf (a + n - 1)) then some (lineOf (a + n - 1))
  else none

/-- A fetch (R155, R182): the instruction at a PC and its length in parcels; nothing where the handle is not valid, the
bounds are passed, the bytes are no instruction, or a line of them is poisoned. -/
def State.fetch (s : State) (vf : Nat) (pc : Pc) : Option (Instr × Nat) :=
  match s.codeOf vf pc.handle with
  | none => none
  | some e =>
    let p := e.place (pc.current e)
    if p.2.2 % 4 ≠ 0 ∨ p.2.1 ≤ p.2.2 then none
    else
      match decode (s.store.phys.readBytes (p.1 + p.2.2) (min 12 (p.2.1 - p.2.2))) with
      | .ok r => if (s.poisonedAt (p.1 + p.2.2) (4 * r.2)).isSome then none else some r
      | .error _ => none

/-- Where a fetch within the text, at a PC, meets a poisoned line. -/
def State.poisonedFetch (s : State) (vf : Nat) (pc : Pc) : Option Nat :=
  match s.codeOf vf pc.handle with
  | none => none
  | some e =>
    let p := e.place (pc.current e)
    if p.2.2 % 4 ≠ 0 ∨ p.2.1 ≤ p.2.2 then none
    else
    match decode (s.store.phys.readBytes (p.1 + p.2.2) (min 12 (p.2.1 - p.2.2))) with
    | .ok r => s.poisonedAt (p.1 + p.2.2) (4 * r.2)
    | .error _ => s.poisonedAt (p.1 + p.2.2) 4

/-- The text that a PC runs in is cured text (R173): the twin, or a TEXT that is itself cured. -/
def State.isCured (s : State) (vf : Nat) (pc : Pc) : Bool :=
  match s.codeOf vf pc.handle with
  | some e => (pc.current e).twin.isSome || e.cured
  | none => false

/-- An indirect transfer's pointer is a listed entry of a valid object (R196). -/
def State.listedEntry (s : State) (vf : Nat) (ptr : DWord) : Bool :=
  match s.codeOf vf (hiWord ptr) with
  | some e => e.entries.contains (loWord ptr).toNat
  | none => false

/-- A return's pointer is within a valid object (R196). -/
def State.validReturn (s : State) (vf : Nat) (ptr : DWord) : Bool :=
  match s.codeOf vf (hiWord ptr) with
  | some e => decide ((loWord ptr).toNat < e.tlen)
  | none => false

/-- The MODEL of an object is M0 (R153, R154). -/
def State.isM0 (s : State) (vf : Nat) (handle : Word) : Bool :=
  match s.codeOf vf handle with
  | some e => decide (e.model = 0)
  | none => false

/-- The FEAT of an object (R193). -/
def State.featOf (s : State) (vf : Nat) (handle : Word) : Word :=
  match s.codeOf vf handle with
  | some e => e.feat
  | none => 0

end Sys2Proof.Machine
end

