-- ==== Sys2Proof/Machine/Fibres.lean ====
section
/-! DEFINITION. Where fibres are: stalls and the overflow, gangs, parking and waking, barriers, broken crews, kills and
the end of a crew (R29 to R51, R93, R278). -/
namespace Sys2Proof.Machine

/-! ### Stalls -/

/-- The key at which a fibre is filed (R32). -/
def Fibre.stallKey (f : Fibre) : StallKey := { tenant := f.tenant, launch := f.launch, pc := f.pc }

/-- File one fibre as STALLED at its PC (R30, R32). -/
def State.file (s : State) (key : Nat) : State :=
  match s.fibres.find key with
  | none => s
  | some f =>
    let m := { lanes := [(f.lane, indexOf key)], held := false, age := 0, order := s.nextId }
    let s := (s.fresh.2).setFibre key { f with state := .stalled }
    s.modUnit (coreOf key) fun u => u.fileAt f.stallKey m

/-- File a gang whole as a held gang (R38). -/
def State.fileHeld (s : State) (core : Nat) (members : List (Nat × Nat)) : State :=
  match members with
  | [] => s
  | (_, i) :: _ =>
    match s.fibres.find (fibreKey core i) with
    | none => s
    | some f =>
      let m := { lanes := members, held := true, age := 0, order := s.nextId }
      let s := members.foldl (fun s x => s.modFibre (fibreKey core x.2) fun f => { f with state := .stalled }) s.fresh.2
      s.modUnit core fun u => u.fileAt f.stallKey m

/-- A wake event of a core (R48): no stall of it stays demoted. -/
def State.wake (s : State) (core : Nat) : State :=
  s.modUnit core fun u => { u with stalls := u.stalls.map fun t => { t with demoted := false } }

/-- A fibre of a crew other than the fibre `key` is among some lanes of a core. -/
def State.crewAmong (s : State) (core crew key : Nat) (lanes : List (Nat × Nat)) : Bool :=
  lanes.any fun m =>
    decide (fibreKey core m.2 ≠ key) &&
      match s.fibres.find (fibreKey core m.2) with | some f => decide (f.crew = some crew) | none => false

/-- The wake event of a store, or of a write of an s-register, by a fibre of a crew (R48): the stalls of its core that
another fibre of the crew waits in, or was drawn from, are demoted no longer. -/
def State.wakeCrew (s : State) (key : Nat) (crew : Option Nat) : State :=
  let core := coreOf key
  match crew with
  | none => s
  | some c =>
    let mine := fun (t : Stall) =>
      (t.members.any fun m => s.crewAmong core c key m.lanes) ||
        s.gangs.any fun p =>
          decide (p.2.core = core) &&
            decide (t.key = { tenant := p.2.tenant, launch := p.2.launch, pc := p.2.stall }) &&
            s.crewAmong core c key p.2.members
    s.modUnit core fun u =>
      { u with stalls := u.stalls.map fun t => if mine t then { t with demoted := false } else t }

/-! ### Gangs -/

/-- A fibre's top segment is touched now (R75). -/
def State.touchTop (s : State) (key : Nat) : State :=
  match s.fibres.find key with
  | some f => s.touch (segKey f.tenant f.fbSeg)
  | none => s

/-- Mask a fibre off its gang (R39), which is its last use of its frame (R75). A gang without members releases its
lanes. -/
def State.leaveGang (s : State) (key : Nat) : State :=
  let s := s.touchTop key
  { s with gangs := (s.gangs.mapVals fun _ g =>
      if g.core = coreOf key then { g with members := g.members.filter fun m => decide (m.2 ≠ indexOf key) }
      else g).select fun _ g => !g.members.isEmpty }

/-- The gang of an ISSUING fibre. -/
def State.gangOf (s : State) (key : Nat) : Option (Nat × Gang) :=
  s.gangs.first fun _ g => decide (g.core = coreOf key) && g.members.any fun m => decide (m.2 = indexOf key)

/-- Park an ISSUING fibre: it leaves its gang (R30, R39). -/
def State.park (s : State) (key : Nat) (why : Park) : State :=
  (s.modFibre key fun f => { f with state := .parked why }).leaveGang key

/-- A fibre asks for the reload of its top segment (R31). One that has asked keeps its place. -/
def State.askReload (s : State) (key : Nat) : State :=
  s.modUnit (coreOf key) fun u => if u.reloads.contains key then u else { u with reloads := u.reloads ++ [key] }

/-- A park reason is satisfied (R30, R31): the fibre is filed at its PC, or where its top segment is away it asks for
the reload. It is a wake event (R48). -/
def State.unpark (s : State) (key : Nat) : State :=
  match s.fibres.find key with
  | none => s
  | some f =>
    match f.state with
    | .parked _ => (s.file key).wake (coreOf key)
    | .cold (some _) => ((s.setFibre key { f with state := .cold none }).askReload key).wake (coreOf key)
    | _ => s

/-- Move a fibre's PC on by `n` parcels. -/
def State.step_ (s : State) (key n : Nat) : State :=
  s.modFibre key fun f => { f with pc := s.advance f.tenant f.pc n }

/-- The park reason that a fibre waits on, COLD or not. -/
def Fibre.waiting (f : Fibre) : Option Park :=
  match f.state with
  | .parked w => some w
  | .cold k => k
  | _ => none

/-- A location still awaits its producer (R169, R170). -/
def State.awaits (s : State) (l : Loc) : Bool :=
  match (s.cell l).mark with
  | .empty => true
  | .poisoned _ => match l with | .shared _ _ => true | _ => false
  | _ => false

/-- The q register of a core. -/
def State.queueReg (s : State) (core q : Nat) : QReg := (s.unit core).queues.get q { owner := none, places := [] }

/-- A q register has room for some words (R275, R276). -/
def State.queueHasRoom (s : State) (core q words : Nat) : Bool :=
  decide ((s.queueReg core q).places.length + words ≤ 8)

/-- A consumer of QSEND has room (R276): bits 0 to 15 the core's q registers, 16 and 17 the feed queues, 18 the copy
engine; from 19 on, q register `(consumer − 19) mod 16` of core `(consumer − 19) / 16`. -/
def State.hasRoom (s : State) (core consumer words : Nat) : Bool :=
  if consumer < 16 then s.queueHasRoom core consumer words
  else if consumer = 16 then decide ((s.unit core).feedA.length < 8)
  else if consumer = 17 then decide ((s.unit core).feedB.length < 8)
  else if consumer = 18 then decide ((s.unit core).copyQueue.length < 16)
  else s.queueHasRoom ((consumer - 19) / 16) ((consumer - 19) % 16) words

/-- A REGISTER park is satisfied (R169, R170, R225, R253, R275, R276, R301, R315). -/
def State.registerMet (s : State) (core tenant : Nat) : RegWait → Bool
  | .cells locs => locs.all fun l => !s.awaits l
  | .queueWord q => match (s.queueReg core q).places with | p :: _ => p.word.isSome | [] => false
  | .queueRoom q => decide ((s.queueReg core q).places.length < 8)
  | .room consumer words => s.hasRoom core consumer words
  | .feed second =>
    (if second then (s.unit core).feedB else (s.unit core).feedA).any fun e => decide (e.1 = tenant)
  | .mailbox => !(s.unit core).mailbox.isEmpty

/-- The operations of a class that a fibre has outstanding: its counter (R146). -/
def Fibre.counter (f : Fibre) (cls : Nat) : Nat := (f.counted.filter fun c => decide (c.cls = cls)).length

/-- Every counter of a fibre is zero or held above it by stopped operations alone (R149, R50): the operations behind them
have completed. -/
def Fibre.onlyStopped (f : Fibre) : Bool := f.counted.all fun c => c.done || c.stopped.isSome

/-- A stopped operation that a WAITC for at most `n` would reach (R148): the oldest of the class, when more than `n` are
outstanding. -/
def Fibre.reached (f : Fibre) (cls n : Nat) : Option Counted :=
  let l := f.counted.filter fun c => decide (c.cls = cls)
  if l.length ≤ n then none
  else match l with | c :: _ => if c.stopped.isSome then some c else none | [] => none

/-- A COUNTER park is satisfied: the wait is over, or it reaches a stopped operation (R146, R148, R50, R295). -/
def State.counterMet (s : State) (core : Nat) (f : Fibre) : CounterWait → Bool
  | .waitc cls n => decide (f.counter cls ≤ n) || (f.reached cls n).isSome
  | .room cls => decide (f.counter cls < 255)
  | .drain => f.onlyStopped
  | .context ctx => decide ((s.acc.get (core * 4 + ctx) .reset).queue.length < 16)
  | .patches => !(s.engine.any fun p =>
      decide (p.2.core = core) && match p.2.job with | .codex 2 _ _ _ _ _ _ _ _ _ => true | _ => false)
  | .xlinv => s.coh.translations.all fun p => decide (p.1 ≠ 128 + core) || (s.engine.find p.2).isNone

/-- Unpark every fibre of a core whose REGISTER or COUNTER park is satisfied. -/
def State.recheck (s : State) (core : Nat) : State :=
  (s.fibres.select fun k _ => decide (coreOf k = core)).foldl (fun s p =>
    match p.2.waiting with
    | some (.register w) => if s.registerMet core p.2.tenant w then s.unpark p.1 else s
    | some (.counter w) =>
      if s.counterMet core p.2 w then s.unpark p.1 else s
    | _ => s) s

/-! ### Effects to come -/

/-- A fibre begins to perform an effect (R29, R30, R39): it leaves its gang and stays PERFORMING until the search of R79
has been made. -/
def State.beginPerform (s : State) (key : Nat) (e : Effect) : State :=
  let s := s.modFibre key fun f => { f with state := .performing, effect := some e, request := none }
  (s.modUnit (coreOf key) fun u => u.unfile (indexOf key)).leaveGang key

/-- An effect without payload or result register, at a fibre's PC. -/
def Fibre.effectAt (f : Fibre) (tag : Nat) (addr info : DWord) : Effect :=
  { tag := tag, payload := info, addr := addr, info := info, pc := f.pc, result := 0xFF, wide := false }

/-- The register code by which a fibre names a location (R24, R72), and 0 where it names none. -/
def Fibre.codeOf (f : Fibre) : Loc → Nat
  | .frame _ w => w - f.fbWord
  | .shared _ i => 0x80 + i
  | _ => 0

/-- Mark registers orphaned (R93): a fibre already parked on one performs ORPHAN at once, with the register's code as its
INFO (R78). -/
def State.orphan (s : State) (locs : List Loc) : State :=
  let s := locs.foldl (fun s l => if s.awaits l then s.markCell l .orphaned else s) s
  s.fibres.foldl (fun s p =>
    match p.2.waiting with
    | some (.register (.cells ls)) =>
      match ls.find? locs.contains with
      | some l => s.beginPerform p.1 (p.2.effectAt 7 0 (BitVec.ofNat 64 (p.2.codeOf l)))
      | none => s
    | _ => s) s

/-! ### Barriers -/

/-- The fibres of a crew, by key. -/
def State.crewFibres (s : State) (crew : Nat) : Tbl Fibre := s.fibres.select fun _ f => decide (f.crew = some crew)

/-- A fibre counts for barriers: it is neither RETIRED nor KILLED (R45, R278). -/
def Fibre.counts (f : Fibre) : Bool := decide (f.state ≠ .killed) && decide (f.state ≠ .retired)

/-- Fibres of a list leave a barrier: each is filed at its next PC (R44, R45, R278). -/
def State.leaveBarrier (s : State) (l : Tbl Fibre) : State :=
  l.foldl (fun s p => (s.step_ p.1 1).unpark p.1) s

/-- The fibres of a rendezvous that is complete but for top segments that are away ask for their reload (R31, assumption
51): answers whether none is away. -/
def State.gather (s : State) (keys : List Nat) : Bool × State :=
  let away := keys.filter fun k =>
    match s.fibres.find k with
    | some f => match f.state with | .cold _ => true | _ => false
    | none => false
  (away.isEmpty, away.foldl State.askReload s)

/-- The crew barrier completes when every fibre that counts is parked on it (R45). A fibre that is COLD has not arrived: when the
last of the others has, those whose segments were evicted while they waited at the BAR ask for their reload, and the barrier
waits for them (DEDUCED, assumption 51). -/
def State.checkBar (s : State) (crew : Nat) : State :=
  let all := (s.crewFibres crew).select fun _ f => f.counts
  if !all.isEmpty && all.all fun p => decide (p.2.waiting = some (.barrier .bar)) then
    match s.gather (all.map Prod.fst) with
    | (false, s) => s
    | (true, s) => s.leaveBarrier all
  else s

/-- The bit bL of level L of a launch (R24). -/
def levelBit (r : LaunchRecord) (l : Nat) : Nat := (r.widths.take l).foldl (· + ·) 0

/-- The gang width of a launch (R53). -/
def gangWidth (r : LaunchRecord) : Nat := 16 * 2 ^ bits r.flags.toNat 5 4

/-- CREWLVL of a launch. -/
def crewLevel (r : LaunchRecord) : Nat := bits r.flags.toNat 8 6

/-- BANDLVL of a launch. -/
def bandLevel (r : LaunchRecord) : Nat := bits r.flags.toNat 11 9

/-- The fibres that CONVENE at a level gathers (R44): those of the crew whose work IDs agree from bL up, that have not
retired; spawned fibres are never members (R213). -/
def State.conveneSet (s : State) (f : Fibre) (level : Nat) : Tbl Fibre :=
  match f.crew, s.sched.launches.find f.launch with
  | some c, some l =>
    let b := levelBit l.record level
    (s.crewFibres c).select fun _ g =>
      !g.spawned && g.counts && decide (g.workId.toNat / 2 ^ b = f.workId.toNat / 2 ^ b)
  | _, _ => []

/-- A convened gang forms when the last member of a set has arrived (R44): the members continue as one gang at their
next PC, filed whole with their lanes, once their top segments are there. Members that wait at CONVENEs of different PCs go on
singly, each at its own next PC (DEDUCED, assumption 76). -/
def State.checkConvene (s : State) (key : Nat) (level : Nat) : State :=
  match s.fibres.find key with
  | none => s
  | some f =>
    let set := s.conveneSet f level
    if !set.isEmpty && set.all fun p => decide (p.2.waiting = some (.barrier (.convene level))) then
      match s.gather (set.map Prod.fst), f.crew, s.sched.launches.find f.launch with
      | (false, s), _, _ => s
      | (true, s), some c, some l =>
        let b := levelBit l.record level
        let lanes := set.map fun p => (p.2.workId.toNat % 2 ^ b, indexOf p.1)
        let id := s.nextId
        let s := s.fresh.2
        let g : Convened :=
          { core := coreOf key, crew := c, level := level, width := gangWidth l.record, members := lanes }
        let s := { s with convened := s.convened.put id g }
        let s := set.foldl (fun s p =>
            (s.modFibre p.1 fun g =>
              { g with conv := some id, lane := p.2.workId.toNat % 2 ^ b }).step_ p.1 1) s
        let pcs := set.map fun p => p.2.pc
        if pcs.all fun p => decide (p = f.pc) then
          (s.fileHeld (coreOf key) lanes).wake (coreOf key)
        else set.foldl (fun s p => s.unpark p.1) s
      | (true, s), _, _ => s
    else s

/-- The members of a convened gang that wait at a cross-lane instruction. -/
def State.atRendezvous (s : State) (g : Convened) : List (Nat × Nat) :=
  g.members.filter fun m =>
    match s.fibres.find (fibreKey g.core m.2) with
    | some f => decide (f.waiting = some (.barrier .crossLane))
    | none => false

/-- An arrival or a departure may leave every member at the rendezvous: the instruction then executes once, by the gang
of the members drawn whole (R44), once their top segments are there. -/
def State.checkCross (s : State) (conv : Nat) : State :=
  match s.convened.find conv with
  | none => s
  | some g =>
    if !g.members.isEmpty && decide ((s.atRendezvous g).length = g.members.length) then
      match s.gather (g.members.map fun m => fibreKey g.core m.2) with
      | (false, s) => s
      | (true, s) =>
        let s := g.members.foldl (fun s m => s.modFibre (fibreKey g.core m.2) fun f => { f with lane := m.1 }) s
        (s.fileHeld g.core g.members).wake g.core
    else s

/-- A band of a launch: the fibres that count at its barriers, those of crews that are not broken (R278). -/
def State.bandFibres (s : State) (launch band : Nat) : Tbl Fibre :=
  s.fibres.select fun _ f =>
    match f.crew with
    | some c =>
      match s.sched.crews.find c with
      | some k => decide (k.launch = launch) && decide (k.band = band) && !k.broken && f.counts
      | none => false
    | none => false

/-- Band barrier `k` completes when every fibre of the band that counts is parked on it (R278). Each arrival is a
REL.clu and each departure an ACQ.clu on its count word: the write-backs of the arrivals have been performed, and the cores
that took part drop their SHARED leases. Fibres whose segments were evicted meanwhile are waited for, as at BAR. -/
def State.checkBand (s : State) (launch band k : Nat) : State :=
  let all := s.bandFibres launch band
  let flushing := s.coh.ops.any fun p =>
    decide (p.2.kind = .flush) && match p.2.fibre with | some f => all.any fun q => decide (q.1 = f) | none => false
  if !all.isEmpty && !flushing && all.all fun p => decide (p.2.waiting = some (.barrier (.band k))) then
    match s.gather (all.map Prod.fst) with
    | (false, s) => s
    | (true, s) => (dedup (all.map fun p => coreOf p.1)).foldl State.dropLeases (s.leaveBarrier all)
  else s

/-- Every barrier that a fibre's departure may complete (R44, R45, R278). -/
def State.checkBarriers (s : State) (crew : Nat) : State :=
  let s := s.checkBar crew
  let s := (s.crewFibres crew).foldl (fun s p =>
    match p.2.waiting with
    | some (.barrier (.convene l)) => s.checkConvene p.1 l
    | _ => s) s
  let s := (s.convened.select fun _ g => decide (g.crew = crew)).foldl (fun s p => s.checkCross p.1) s
  match s.sched.crews.find crew with
  | some k => (List.range 8).foldl (fun s b => s.checkBand k.launch k.band b) s
  | none => s

/-- A fibre leaves its convened gang (R44). -/
def State.leaveConvened (s : State) (key : Nat) : State :=
  match s.fibres.find key with
  | none => s
  | some f =>
    match f.conv with
    | none => s
    | some id =>
      let s := s.setFibre key { f with conv := none }
      let s := { s with convened := s.convened.modify id fun g =>
        { g with members := g.members.filter fun m => decide (m.2 ≠ indexOf key) } }
      { s with convened := s.convened.select fun _ g => !g.members.isEmpty }

/-- A crew is broken (R46): its fibres parked with reason BARRIER perform BROKEN, those among them that are COLD too (DEDUCED,
assumption 77), and the band no longer counts it. -/
def State.breakCrew (s : State) (crew : Nat) : State :=
  let s := s.modCrew crew fun k => { k with broken := true }
  let s := (s.crewFibres crew).foldl (fun s p =>
    match p.2.waiting with
    | some (.barrier _) => s.beginPerform p.1 (p.2.effectAt 11 0 0)
    | _ => s) s
  match s.sched.crews.find crew with
  | some k => (List.range 8).foldl (fun s b => s.checkBand k.launch k.band b) s
  | none => s

/-! ### The end of fibres and crews -/

/-- A tenant has a fibre on a core, its clerk apart. -/
def State.tenantHere (s : State) (core tenant : Nat) : Bool :=
  s.fibres.any fun p => decide (coreOf p.1 = core) && decide (p.2.tenant = tenant) && !isClerk p.1

/-- What a tenant loses on a core when none of its crews is left there: its q registers' words and its deficit counter
(R67, R274). A fibre that waited for room there goes on (R167). -/
def State.tenantGone (s : State) (core tenant : Nat) : State :=
  if s.tenantHere core tenant then s
  else
    (s.modUnit core fun u =>
      { u with queues := u.queues.select fun _ q => decide (q.owner ≠ some tenant), wdc := u.wdc.del tenant }).recheck core

/-- A crew has no fibre left (R50, R62, R66): its s-registers, barrier and granules are freed, and the cycles it used
are taken from its queue's deficit, clamped at −2^31. -/
def State.endCrew (s : State) (id : Nat) : State :=
  match s.sched.crews.find id with
  | none => s
  | some k =>
    if k.ended ∨ !(s.crewFibres id).isEmpty then s
    else
      let tenant := match s.sched.launches.find k.launch with | some l => l.vf | none => 0
      let queue := match s.sched.launches.find k.launch with | some l => l.queue | none => 0
      let s := s.modSched fun c =>
        let q := c.queues.get (tenant * 64 + queue) .reset
        { c with crews := c.crews.put id { k with ended := true, sregs := [] }, retired := true,
                 queues := c.queues.put (tenant * 64 + queue)
                   { q with deficit := max (q.deficit - k.cycles) (-(2 ^ 31 : Int)) } }
      let lastHere := !(s.sched.crews.any fun p =>
        decide (p.2.core = k.core) && decide (p.2.launch = k.launch) && !p.2.ended)
      let s := s.modUnit k.core fun u =>
        { u with scratch := u.scratch.select fun _ h => decide (h ≠ (tenant, id)),
                 weight := if lastHere then u.weight.select fun _ h => decide (h ≠ (tenant, k.launch)) else u.weight }
      s.tenantGone k.core tenant

/-- Free a descriptor; the last one of a crew ends it. -/
def State.freeDescriptor (s : State) (key : Nat) : State :=
  match s.fibres.find key with
  | none => s
  | some f =>
    let s := { s with fibres := s.fibres.del key }
    match f.crew with
    | some c => s.endCrew c
    | none => s

/-- The locations that an engine operation writes a result to (MSTAT, CODEX). -/
def Job.targets : Job → List Loc
  | .mtx _ (.stat _ _ t) => t
  | .codex _ _ _ _ _ _ _ _ t _ => t
  | _ => []

/-- An engine operation whose result no one awaits any more. -/
def Job.dropTargets : Job → Job
  | .mtx c (.stat a b _) => .mtx c (.stat a b [])
  | .codex op h src len ofs vf i st _ w => .codex op h src len ofs vf i st [] w
  | j => j

/-- The s-registers that a fibre's deferred loads have poisoned: they are empty for the rest of its crew (R88, R169). -/
def State.poisonedBy (s : State) (key : Nat) : List Loc :=
  match (s.fibres.find key).bind Fibre.crew with
  | some c =>
    match s.sched.crews.find c with
    | some k => (k.sregs.select fun _ (r : RegCell) => decide (r.mark = .poisoned key)).map fun p => .shared c p.1
    | none => []
  | none => []

/-- The locations that await a value from a fibre: its results on their way, its ordering and engine operations, its
KRECVs and its deferred loads. -/
def State.awaitedFrom (s : State) (key : Nat) : List Loc :=
  ((s.landings.select fun _ l => decide (l.fibre = key)).flatMap fun p => p.2.writes.map Prod.fst) ++
    ((s.coh.ops.select fun _ o => decide (o.fibre = some key)).flatMap fun p => p.2.targets) ++
    ((s.engine.select fun _ o => decide (o.fibre = key)).flatMap fun p => p.2.job.targets) ++
    (((s.unit (coreOf key)).receives.filter fun r => decide (r.fibre = key)).flatMap (fun r => r.targets)) ++ s.poisonedBy key

/-- A fibre that ends gives nothing any more: what awaits it is orphaned, its results, watches and KRECVs are withdrawn
(R50, R93, R225). -/
def State.withdraw (s : State) (key : Nat) : State :=
  let locs := s.awaitedFrom key
  let s := { s with landings := s.landings.select fun _ l => decide (l.fibre ≠ key),
                    engine := s.engine.mapVals fun _ o =>
                      if o.fibre = key then { o with job := o.job.dropTargets } else o }
  let s := s.modCoh fun c =>
    let ops := c.ops.select fun _ o => !(decide (o.fibre = some key) && o.kind.isWait && decide (o.stage = .watching))
    { c with ops := ops.mapVals fun _ o => if o.fibre = some key then { o with fibre := none, targets := [] } else o }
  let s := s.modUnit (coreOf key) fun u =>
    { u with receives := u.receives.filter fun r => decide (r.fibre ≠ key),
             reloads := u.reloads.filter fun k => decide (k ≠ key) }
  s.orphan locs

/-- After the kill of one of a crew's fibres: a crew that survives is broken before its barriers count anew (R46), and a
crew that is being killed leaves its band's barriers (R278). -/
def State.afterKill (s : State) (crew : Nat) : State :=
  match s.sched.crews.find crew with
  | some k =>
    if k.killCause.isNone ∧ !k.ended then s.breakCrew crew
    else (List.range 8).foldl (fun s b => s.checkBand k.launch k.band b) s
  | none => s

/-- The slot of the continuation that a fibre waits with, while it is live: one that another has consumed or dropped, and its
segments, are the fibre's no longer (R84, R85). -/
def State.ownK (s : State) (tenant : Nat) (h : DWord) : Option Nat :=
  match s.kSlotAt tenant (h.toNat % 2 ^ 48) with
  | some slot =>
    match s.kobjs.find (kKey tenant slot) with
    | some k => if k.gen.toNat % 65536 = h.toNat / 2 ^ 48 ∧ k.state = 0 then some slot else none
    | none => none
  | none => none

/-- The record of a fibre killed while its KILL disposition waits for a mailbox slot is posted when one is free (R81). -/
def State.leaveNotice (s : State) (key : Nat) (f : Fibre) : State :=
  match f.notice with
  | some r => s.modUnit (coreOf key) fun u => { u with notices := u.notices ++ [r] }
  | none => s

/-- A network operation that the reset of its function has ended CANCELLED (R327, R342). -/
def State.cancelled (s : State) (op : Nat) : Bool :=
  match s.engine.find op with
  | some o => match o.job with | .net j => decide (j.state = .cancelled) | _ => false
  | none => false

/-- A kill takes effect (R51): the fibre leaves gangs, stalls and barriers, orphans what awaited it and loses its
segments; the slot of a continuation it waits with is freed. Its operations run on; the descriptor is freed when none is
left. -/
def State.killNow (s : State) (key : Nat) : State :=
  match s.fibres.find key with
  | none => s
  | some f =>
    if f.counts = false then s
    else
      let s := (s.leaveConvened key).leaveGang key
      let s := s.modUnit (coreOf key) fun u => u.unfile (indexOf key)
      let s := match f.kh with
        | none => s.freeSegs f.tenant (s.fibreSegs f)
        | some h =>
          match s.ownK f.tenant h with
          | some k =>
            let s := s.freeSegs f.tenant (s.fibreSegs f)
            { s with kobjs := s.kobjs.modify (kKey f.tenant k) fun o => { o with state := 2, free := true } }
          | none => s
      let s := s.leaveNotice key f
      let s := s.withdraw key
      let ends := fun (c : Counted) => c.done || c.stopped.isSome || s.cancelled c.op
      let ended := (f.counted.filter ends).map fun c => c.op
      let s := { s with engine := s.engine.select fun i _ => !ended.contains i }
      let s := s.modFibre key fun g =>
        { g with state := .killed, kh := none, effect := none, request := none, pending := [], heldStores := [],
                 counted := g.counted.filter fun c => !ends c }
      let s : State := match s.fibres.find key with
        | some g => if g.counted.isEmpty then s.freeDescriptor key else s
        | none => s
      match f.crew with
      | some c => s.afterKill c
      | none => s

/-- Order the kill of a fibre (R51): at once, or for an ISSUING fibre at its next safe point. -/
def State.killFibre (s : State) (key : Nat) : State :=
  match s.fibres.find key with
  | none => s
  | some f => if f.state = .issuing then s.setFibre key { f with killOrdered := true } else s.killNow key

/-- Kill one fibre (R87, R321): where its crew survives, the kill breaks it (R46). -/
def State.killOne (s : State) (key : Nat) : State := s.killFibre key

/-- Kill a crew (R51, R62, R381): a CREW_KILL event with the cause, and every fibre is killed. -/
def State.killCrew (s : State) (id cause : Nat) : State :=
  match s.sched.crews.find id with
  | none => s
  | some k =>
    if k.killCause.isSome ∨ k.ended then s
    else
      let vf := match s.sched.launches.find k.launch with | some l => l.vf | none => 0
      let s := s.modCrew id fun k => { k with killCause := some cause }
      let s := s.raiseCore k.core 0x000C vf k.number cause
      let s := (s.crewFibres id).foldl (fun s p => s.killFibre p.1) s
      s.endCrew id

end Sys2Proof.Machine
end

