-- ==== Sys2Proof/Machine/Spaces.lean ====
section
/-! DEFINITION. The address spaces as fibres and engines reach them (R20 to R22, R71, R117, R118, R124, R135, R136, R250,
R265). -/
namespace Sys2Proof.Machine

/-- Why an access is not made: ILLEGAL, PRIV, a translation fault, one of a page of the port that is not ACTIVE, a
poisoned line, or a frame word that is not full. -/
inductive Bad where
  | illegal
  | priv
  | fault
  | inactive
  | soft
  | waits (l : Loc)
  deriving DecidableEq, Repr

/-- Bytes of the SCRATCH region of a core (R119). -/
def State.scratchSize (s : State) (core : Nat) : Nat := s.coreF core 0x110 15 8 * 65536

/-- Bytes of the WEIGHT region of a core (R119). -/
def State.weightSize (s : State) (core : Nat) : Nat := s.coreF core 0x110 23 16 * 65536

/-- The key of a SCRATCH byte of a core in the pitch store. -/
def scratchKey (core a : Nat) : Nat := core * 2 ^ 22 + a

/-- The key of a WEIGHT byte of a core. -/
def weightKey (core a : Nat) : Nat := core * 2 ^ 22 + 2 ^ 21 + a

/-- A SCRATCH granule is held by a tenant's crew (R21, R118). -/
def State.holdsScratch (s : State) (core granule tenant : Nat) : Bool :=
  match (s.unit core).scratch.find granule with | some h => decide (h.1 = tenant) | none => false

/-- A WEIGHT granule is held by a tenant's launch (R118). -/
def State.holdsWeight (s : State) (core granule tenant : Nat) : Bool :=
  match (s.unit core).weight.find granule with | some h => decide (h.1 = tenant) | none => false

/-- The granules that a range of one region meets. -/
def granulesOf (a n : Nat) : List Nat := if n = 0 then [] else upto (a / 65536) ((a + n - 1) / 65536 - a / 65536 + 1)

/-- The pitch byte that a PITCH address of a core names (R20, R118): SCRATCH from 0, then WEIGHT. -/
def State.pitchKey (s : State) (core a : Nat) : Nat :=
  if a < s.scratchSize core then scratchKey core a else weightKey core (a - s.scratchSize core)

/-- The core and SCRATCH offset of a CLUSTER address of a core (R20). -/
def clusterPlace (core a : Nat) : Nat × Nat := (core / 8 * 8 + a / 2 ^ 21 % 8, a % 2 ^ 21)

/-- The checks of a PITCH range (R21, R118): inside SCRATCH + WEIGHT, and every granule held by the tenant. -/
def State.pitchRange (s : State) (core tenant a n : Nat) : Option Bad :=
  let scr := s.scratchSize core
  if scr + s.weightSize core < a + n then some .illegal
  else
    let low := granulesOf a (min n (scr - a))
    let high := if a + n ≤ scr then [] else granulesOf (max a scr - scr) (a + n - max a scr)
    if (low.all fun g => s.holdsScratch core g tenant) && high.all fun g => s.holdsWeight core g tenant then none
    else some .priv

/-- The checks of a CLUSTER range (R20, R21): bits [31:24] zero, inside that core's SCRATCH, its granules held by a crew
of the tenant. -/
def State.clusterRange (s : State) (core tenant a n : Nat) : Option Bad :=
  let p := clusterPlace core a
  if 2 ^ 24 ≤ a ∨ s.scratchSize p.1 < p.2 + n then some .illegal
  else if (granulesOf p.2 n).all fun g => s.holdsScratch p.1 g tenant then none
  else some .priv

/-- Bytes of one line of memory as a core sees them. -/
def State.readGlobalLine (s : State) (core vf va pa n : Nat) : State × List Byte :=
  let o := s.objectAt vf va
  let r := s.viewLine core vf va (lineOf pa) o.1 o.2
  (r.1, (r.2.drop (pa % 64)).take n)

/-- A load of a core from GLOBAL, within one line (R250, R251). The backing area reads as its slots do (R71). -/
def State.loadGlobal (s : State) (core vf va n : Nat) : Except Bad (State × List Byte) :=
  match s.translate vf 0 va false with
  | .fault => .error .fault
  | .inactive => .error .inactive
  | .soft => .error .soft
  | .ok pa =>
    if inAperture pa then .error .priv
    else if s.isPoisoned (lineOf pa) then .error .soft
    else if s.inBacking vf va then .ok (s, (upto va n).map (s.backingByte vf))
    else .ok (s.readGlobalLine core vf va pa n)

/-- What stands in the way of a store of a core to a translated line (R71, R124, R135, R366). -/
def State.storeBad (s : State) (core vf va pa : Nat) (clerk : Bool) : Option Bad :=
  let o := s.objectAt vf va
  if inAperture pa then some .priv
  else if s.inBacking vf va && !clerk then some .priv
  else if s.isSealed (lineOf pa) then some .priv
  else if o.1 = .ronly ∨ (o.1 = .priv ∧ o.2 ≠ core) then some .priv
  else if s.isPoisoned (lineOf pa) then some .soft
  else none

/-- A store of a core to GLOBAL, within one line. -/
def State.storeGlobal (s : State) (core : Nat) (crew : Option Nat) (clerk : Bool) (vf va : Nat) (data : List Byte) :
    Except Bad State :=
  match s.translate vf 0 va true with
  | .fault => .error .fault
  | .inactive => .error .inactive
  | .soft => .error .soft
  | .ok pa =>
    match s.storeBad core vf va pa clerk with
    | some b => .error b
    | none =>
      if s.inBacking vf va then
        .ok ((cellsAt va data).foldl (fun s p => s.setBackingByte vf p.1 p.2) s)
      else .ok (s.storeLine core crew vf pa (s.objectAt vf va).1 data)

/-- Write pitch bytes. -/
def State.writePitch (s : State) (key : Nat) (data : List Byte) : State :=
  s.modStore fun m => { m with pitch := m.pitch.writeBytes key data }

/-- The operations that watch a word of the pitch evaluate it again (R272). -/
def State.watchPitch (s : State) (key : Nat) (n : Nat) : State :=
  (s.coh.ops.select fun _ o =>
    decide (o.stage = .watching) && decide (o.space = 1) && decide (o.addr < key + n) &&
      decide (key < o.addr + o.size)).foldl (fun s p =>
    match p.2.kind with
    | .waita c => s.watchWord p.1 p.2 c (ofBytes (s.store.pitch.readBytes p.2.addr p.2.size))
    | _ => s) s

/-- A write applied by a pitch port (R140, R272). -/
def State.applyPitch (s : State) (key : Nat) (data : List Byte) : State :=
  (s.writePitch key data).watchPitch key data.length

/-- The frame words that a FRAME access of a fibre meets (R20, R22). -/
def Fibre.frameLocs (f : Fibre) (a n : Nat) : List Loc := (upto (a / 4) ((a + n - 1) / 4 - a / 4 + 1)).map f.gLoc

/-- Bytes of frame words, and the state after their reading: a load of a word that is a register reads it as an operand does, after
a last use with either of two values (R172; DESIGN CHOICE, assumption 81: R22 does not say that a load differs). -/
def State.frameBytes (s : State) (f : Fibre) (a n : Nat) : State × List Byte :=
  let r := (f.frameLocs a n).foldl (fun (r : State × List Byte) l =>
    let w := r.1.readCell l
    (w.2, r.2 ++ toBytes w.1.toNat 4)) (s, [])
  (r.1, (r.2.drop (a % 4)).take n)

/-- Write bytes of frame words. -/
def State.writeFrame (s : State) (f : Fibre) (a : Nat) (data : List Byte) : State :=
  (cellsAt a data).foldl (fun s p =>
    let l := f.gLoc (p.1 / 4)
    let v := setBits (s.cell l).val.toNat (p.1 % 4 * 8 + 7) (p.1 % 4 * 8) p.2.toNat
    s.setCell l { s.cell l with val := BitVec.ofNat 32 v, lastUsed := false, mark := .full }) s

/-- The constant segment of the object a fibre executes: its physical base and its length (R20). -/
def State.constSegment (s : State) (f : Fibre) : Nat × Nat :=
  match s.codeOf f.tenant f.pc.handle with
  | some e => (e.const, e.klen)
  | none => (0, 0)

/-- A load of a fibre of `n` bytes at an aligned address of a space (R20, R21, R250). -/
def State.loadSpace (s : State) (key : Nat) (f : Fibre) (space a n : Nat) : Except Bad (State × List Byte) :=
  let core := coreOf key
  match space with
  | 0 => s.loadGlobal core f.tenant a n
  | 1 =>
    match s.pitchRange core f.tenant a n with
    | some b => .error b
    | none => .ok (s, s.store.pitch.readBytes (s.pitchKey core a) n)
  | 2 =>
    match s.clusterRange core f.tenant a n with
    | some b => .error b
    | none =>
      let p := clusterPlace core a
      .ok (s, s.store.pitch.readBytes (scratchKey p.1 p.2) n)
  | 3 =>
    if 512 < a + n then .error .illegal
    else
      match (f.frameLocs a n).find? fun l => decide ((s.cell l).mark ≠ .full) with
      | some l => .error (.waits l)
      | none => .ok (s.frameBytes f a n)
  | 4 =>
    let k := s.constSegment f
    if k.2 < a + n then .error .illegal
    else if s.isPoisoned (lineOf (k.1 + a)) then .error .soft
    else .ok (s, s.store.phys.readBytes (k.1 + a) n)
  | _ => .error .illegal

/-- A store of a fibre at an aligned address of a space (R20, R21, R252). It is a wake event for the stalls in which another
fibre of its crew waits (R48). -/
def State.storeSpace (s : State) (key : Nat) (f : Fibre) (space a : Nat) (data : List Byte) : Except Bad State :=
  let core := coreOf key
  let n := data.length
  match space with
  | 0 => (s.storeGlobal core f.crew (isClerk key) f.tenant a data).map fun s => s.wakeCrew key f.crew
  | 1 =>
    if s.scratchSize core ≤ a ∧ a < s.scratchSize core + s.weightSize core then .error .priv
    else
      match s.pitchRange core f.tenant a n with
      | some b => .error b
      | none => .ok ((s.applyPitch (s.pitchKey core a) data).wakeCrew key f.crew)
  | 2 =>
    match s.clusterRange core f.tenant a n with
    | some b => .error b
    | none =>
      let p := clusterPlace core a
      .ok ((s.applyPitch (scratchKey p.1 p.2) data).wakeCrew key f.crew)
  | 3 =>
    if 512 < a + n then .error .illegal
    else
      match (f.frameLocs a n).find? fun l => decide ((s.cell l).mark ≠ .full ∧ (s.cell l).mark ≠ .orphaned) with
      | some l => .error (.waits l)
      | none => .ok ((s.writeFrame f a data).wakeCrew key f.crew)
  | _ => .error .priv

/-! ### Ranges, as engines read and write them -/

/-- The physical address of a byte under the pages an operation translated at issue (R265). -/
def pageAddress (pages : List (Nat × Nat)) (va : Nat) : Option Nat :=
  (pages.lookup (va / 4096)).map fun pa => pa / 4096 * 4096 + va % 4096

/-- One byte of memory as a core sees it, at a translated address. -/
def State.readByteAt (s : State) (core vf va pa : Nat) : State × Byte :=
  let r := s.readGlobalLine core vf va pa 1
  (r.1, r.2.headD 0)

/-- Why an engine stops at a byte (R270): the failing address, and whether the line is poisoned. -/
structure Stop where
  addr : Nat
  poisoned : Bool
  deriving DecidableEq, Repr

/-- An engine's read of one byte of a space, through its core's L1 for GLOBAL (R122, R265, R270). -/
def State.engineRead (s : State) (core vf : Nat) (pages : List (Nat × Nat)) (space a : Nat) :
    Except Stop (State × Byte) :=
  match space with
  | 0 =>
    match pageAddress pages a with
    | none => .error { addr := a, poisoned := false }
    | some pa =>
      if inAperture pa then .error { addr := a, poisoned := false }
      else if s.isPoisoned (lineOf pa) then .error { addr := a, poisoned := true }
      else if s.inBacking vf a then .ok (s, s.backingByte vf a)
      else .ok (s.readByteAt core vf a pa)
  | 1 => .ok (s, s.store.pitch.read (s.pitchKey core a))
  | _ => .ok (s, s.store.pitch.read (scratchKey (clusterPlace core a).1 (clusterPlace core a).2))

/-- An engine's write of one byte of a space. A store into a sealed line, or one that the line's object state forbids,
stops it (R124, R135, R270). DESIGN CHOICE: it, like a completion word (R268), leaves a line without a crew of its last store, so
that an error in the dirty line kills none and its notice names no tenant (R136; assumption 81). -/
def State.engineWrite (s : State) (core vf : Nat) (pages : List (Nat × Nat)) (space a : Nat) (v : Byte) :
    Except Stop State :=
  match space with
  | 0 =>
    match pageAddress pages a with
    | none => .error { addr := a, poisoned := false }
    | some pa =>
      match s.storeBad core vf a pa false with
      | some b => .error { addr := a, poisoned := decide (b = .soft) }
      | none => .ok (s.storeLine core none vf pa (s.objectAt vf a).1 [v])
  | 1 => .ok (s.applyPitch (s.pitchKey core a) [v])
  | _ => .ok (s.applyPitch (scratchKey (clusterPlace core a).1 (clusterPlace core a).2) [v])

/-- An engine's read of `n` bytes. -/
def State.engineReadBytes (s : State) (core vf : Nat) (pages : List (Nat × Nat)) (space a : Nat) :
    Nat → Except Stop (State × List Byte)
  | 0 => .ok (s, [])
  | n + 1 =>
    match s.engineRead core vf pages space a with
    | .error e => .error e
    | .ok r =>
      match State.engineReadBytes r.1 core vf pages space (a + 1) n with
      | .error e => .error e
      | .ok q => .ok (q.1, r.2 :: q.2)

/-- The checks of R265 on one range of an engine operation, made at issue: PITCH and CLUSTER ranges as a whole, and no
source byte in the WEIGHT region (R117). GLOBAL ranges are translated instead. -/
def State.engineRange (s : State) (core tenant space a n : Nat) (source : Bool) : Option Bad :=
  match space with
  | 0 => none
  | 1 =>
    match s.pitchRange core tenant a n with
    | some b => some b
    | none => if source ∧ n ≠ 0 ∧ s.scratchSize core < a + n then some .priv else none
  | _ => s.clusterRange core tenant a n

end Sys2Proof.Machine
end

