-- ==== Sys2Proof/Machine/Ops.lean ====
section
/-! DEFINITION. Named operations over registers, and the one way in which control leaves ordinary code: performing an
effect (the search, the capture of a continuation, the entry of a handler, the dispositions; R79 to R82, R87), with the
return from it beside it: RESUME and its replay (R84, R91). -/
namespace Sys2Proof.Machine

/-! ### Writing registers by operand code -/

/-- Append a word to a q register; one without an owner takes the appender's tenant (R274). It is a wake event (R48). -/
def State.pushQueue (s : State) (core tenant q : Nat) (word : Option Word) (neighbour : Bool) : State :=
  let place := s.nextId
  let s := s.fresh.2
  let s := s.modUnit core fun u =>
    let r := u.queues.get q { owner := none, places := [] }
    let owner := match r.owner with | some o => some o | none => some tenant
    let p : QPlace := { place := place, word := word, neighbour := neighbour }
    { u with queues := u.queues.put q { owner := owner, places := r.places ++ [p] } }
  (s.wake core).recheck core

/-- A code of a q register. -/
def isQueue (code : Nat) : Bool := decide (0xC0 ≤ code ∧ code < 0xD0)

/-- The owner of a q register is another tenant (R274). -/
def State.queueForeign (s : State) (core tenant q : Nat) : Bool :=
  match (s.queueReg core q).owner with | some t => decide (t ≠ tenant) | none => false

/-- Set a predicate of a fibre: true exactly when the value is nonzero (R164). -/
def State.setPred (s : State) (key i : Nat) (v : Bool) : State :=
  s.modFibre key fun f => { f with preds := if v then f.preds ||| (1#8 <<< i) else f.preds &&& ~~~(1#8 <<< i) }

/-- The location of a register code of a fibre: a frame word or an s-register (R164). -/
def Fibre.loc (f : Fibre) (code : Nat) : Option Loc :=
  if code < 0x80 then some (f.gLoc code) else if code < 0xC0 then some (f.sLoc (code - 0x80)) else none

/-- Write one register of a fibre by its code (R164): a frame word, an s-register, the tail of a q register, or a
predicate. A write of an s-register is a wake event (R48). -/
def State.writeCode (s : State) (key code : Nat) (v : Word) : State :=
  match s.fibres.find key with
  | none => s
  | some f =>
    if code < 0x80 then s.writeCell (f.gLoc code) v
    else if code < 0xC0 then ((s.writeCell (f.sLoc (code - 0x80)) v).wakeCrew key f.crew).recheck (coreOf key)
    else if code < 0xD0 then s.pushQueue (coreOf key) f.tenant (code - 0xC0) (some v) false
    else if 0xD1 ≤ code ∧ code < 0xD8 then s.setPred key (code - 0xD0) (decide (v ≠ 0))
    else s

/-- Write a register or, for a d-register, both words of the pair (R166). -/
def State.writePair (s : State) (key code : Nat) (wide : Bool) (v : DWord) : State :=
  if wide then (s.writeCode key code (loWord v)).writeCode key (code + 1) (hiWord v)
  else s.writeCode key code (loWord v)

/-! ### Handler records (R77) -/

/-- The fields of a handler record. -/
structure HandlerRecord where
  prev : Nat
  handler : DWord
  tagLo : Nat
  tagHi : Nat
  fbw : Nat
  gslide : Nat
  deriving DecidableEq, Repr

/-- The segment of a frame address. -/
def frameSeg (a : Nat) : Nat := a / 1024 * 1024

/-- The frame word at a frame address. -/
def frameWord (a : Nat) : Nat := (a % 1024 - 32) / 4

/-- A word of a segment of a tenant. -/
def State.segWord (s : State) (tenant seg word : Nat) : Word := (s.cell (.frame (segKey tenant seg) word)).val

/-- The words of the record at a frame address: those that HINST has on their way to it, else those of the frame (R218:
they read as the record's words), or of memory where the slot is not in use (R71). -/
def State.recordCells (s : State) (tenant a : Nat) : List Word :=
  let locs := (upto (frameWord a) 8).map (Loc.frame (segKey tenant (frameSeg a)))
  match s.landings.find? fun p => decide (p.2.writes.map Prod.fst = locs) with
  | some p => p.2.writes.map Prod.snd
  | none =>
    if (s.segs.find (segKey tenant (frameSeg a))).isNone then
      (List.range 8).map fun i => BitVec.ofNat 32 (ofBytes ((upto (a + 4 * i) 4).map (s.backingByte tenant)))
    else locs.map fun l => (s.cell l).val

/-- The record at a frame address (R77). -/
def State.recordAt (s : State) (tenant a : Nat) : HandlerRecord :=
  let words := s.recordCells tenant a
  let w := fun i => words.getD i 0
  { prev := (pair (w 0) (w 1)).toNat, handler := pair (w 2) (w 3), tagLo := bits (w 4).toNat 15 0,
    tagHi := bits (w 4).toNat 31 16, fbw := bits (w 5).toNat 15 0, gslide := bits (w 5).toNat 23 16 }

/-- A frame address that the search may follow (R79): a segment slot of the tenant's backing area, and a byte offset of
at least 32 that is a multiple of 32. -/
def State.recordOk (s : State) (tenant a : Nat) : Bool :=
  s.isSegSlot tenant (frameSeg a) && decide (32 ≤ a % 1024) && decide (a % 32 = 0)

/-- What the search of R79 finds: no record, a value that is no record's address, the matching record, a record whose
segment is not in the core's heap, or a chain that comes back upon itself and so has no end. -/
inductive Found where
  | none
  | bad (v : Nat)
  | record (a : Nat) (r : HandlerRecord)
  | away (a : Nat)
  | endless
  deriving DecidableEq, Repr

/-- The search for a tag from a record on (R79), through the heap of a core where it is made: records installed by the
performing frame are skipped. -/
def State.search (s : State) (core : Option Nat) (f : Fibre) (tag a : Nat) : Nat → Found
  | 0 => .endless
  | n + 1 =>
    if a = 0 then .none
    else if s.recordOk f.tenant a = false then .bad a
    else if core.isSome ∧ (s.segs.find (segKey f.tenant (frameSeg a))).any (fun g => decide (g.resident ≠ core)) = true then
      .away a
    else
      let r := s.recordAt f.tenant a
      if r.tagLo ≤ tag ∧ tag ≤ r.tagHi ∧ ¬(frameSeg a = f.fbSeg ∧ r.fbw = f.fbWord) then .record a r
      else State.search s core f tag r.prev n

/-- Records in a chain are at most as many as fit in the segments (31 in each). -/
def State.searchFuel (s : State) : Nat := s.segs.length * 31 + 1

/-- The search of R79 that a fibre's effect makes on its core, from where it stands. -/
def State.findHandler (s : State) (core : Nat) (f : Fibre) (e : Effect) : Found :=
  s.search (some core) f e.tag (e.cursor.getD f.hchain) s.searchFuel

/-- A search for a tag from a fibre's chain head would match a record (R81). One that would meet an invalid value, or no
end, matches none (assumption 52). -/
def State.hasHandler (s : State) (f : Fibre) (tag : Nat) : Bool :=
  match s.search none f tag f.hchain s.searchFuel with
  | .record _ _ => true
  | _ => false

/-- The addresses of the records from one to another, the second not among them. -/
def State.recordsTo (s : State) (tenant a stop : Nat) : Nat → List Nat
  | 0 => []
  | n + 1 =>
    if a = 0 ∨ a = stop ∨ s.recordOk tenant a = false then []
    else a :: State.recordsTo s tenant (s.recordAt tenant a).prev stop n

/-! ### Dispositions and the mailbox -/

/-- The default of a tag when no record matches (R78, R81). -/
inductive Disposition where
  | park
  | clerk
  | kill
  deriving DecidableEq, Repr

/-- The default of each tag (R78): SYSCALL tags and those so listed go to the clerk, YIELD and WAIT are filed again, every
other tag kills. -/
def disposition (tag : Nat) : Disposition :=
  if tag = 1 ∨ tag = 2 then .park
  else if tag ∈ [3, 4, 5, 8, 9, 10, 15, 17, 18] ∨ (0x40 ≤ tag ∧ tag < 0x80) then .clerk
  else .kill

/-- Tags that PERFORM and PERFORMV may name (R78). -/
def performable (tag : Nat) : Bool :=
  decide (tag = 1 ∨ tag = 2 ∨ tag = 5 ∨ (0x40 ≤ tag ∧ tag < 0x80) ∨ 0x100 ≤ tag)

/-- The effect record of an effect (R82), with the next sequence number. -/
def State.effectRecord (s : State) (key : Nat) (f : Fibre) (e : Effect) (h : DWord) : EffectRecord :=
  { tag := e.tag, vf := f.tenant, core := coreOf key, fibre := indexOf key, handle := h, payload := e.payload,
    pc := e.pc.pointer, addr := e.addr, info := e.info, gtc := s.gtc, seq := s.plat.seq % 2 ^ 32 }

/-- Post a record to the clerk's mailbox (R87, R315), which may end the clerk's wait. -/
def State.post (s : State) (core : Nat) (r : EffectRecord) (notice : Bool) : State :=
  let s := s.modPlat fun p => { p with seq := p.seq + 1 }
  (s.modUnit core fun u =>
    { u with mailbox := u.mailbox ++ [(r, notice)], mslots := u.mslots.put ((u.head + u.mailbox.length) % 32) r }).recheck
    core

/-- The mailbox has room (R87). -/
def State.mailboxRoom (s : State) (core : Nat) : Bool := decide ((s.unit core).mailbox.length < 32)

/-- Post a notice, or leave it to be posted when a slot is free (R81, R136). -/
def State.postNotice (s : State) (core : Nat) (r : EffectRecord) : State :=
  if s.mailboxRoom core then s.post core r true
  else s.modUnit core fun u => { u with notices := u.notices ++ [r] }

/-- Post the first `n` notices that wait, while there is room. -/
def State.postWaiting (s : State) (core : Nat) : Nat → State
  | 0 => s
  | n + 1 =>
    match (s.unit core).notices with
    | r :: rest =>
      if s.mailboxRoom core then
        State.postWaiting ((s.modUnit core fun u => { u with notices := rest }).post core { r with seq := s.plat.seq % 2 ^ 32 }
          true) core n
      else s
    | [] => s

/-- A core machine check (R80, R380): the log keeps the first check and counts every one, the PF is interrupted, and the
clerk stops. -/
def State.machineCheck (s : State) (core : Nat) (e : Effect) : State :=
  let off := 0xE000 + 0x10 * core
  let s : State :=
    if s.mgmtF off 63 63 = 1 then s.setMgmtF off 15 0 (min (s.mgmtF off 15 0 + 1) 0xFFFF)
    else
      ((s.setMgmtF off 63 63 1).setMgmtF off 47 32 e.tag).setMgmtF off 15 0 1 |>.setMgmt (off + 8) e.pc.pointer.toNat
  (s.modUnit core fun u => { u with stopped := true }).raiseCheck

/-! ### Capture (R82, R149) -/

/-- The words of records on their way to a segment are written, so that a split finds them there (R218). -/
def State.settleRecords (s : State) (seg : Nat) : State :=
  let aimed := fun (w : Loc × Word) => match w.1 with | .frame k _ => decide (k = seg) | _ => false
  (s.landings.select fun _ l => decide (l.writes.length = 8) && l.writes.all aimed).foldl (fun s p =>
    p.2.writes.foldl (fun s w => s.writeCell w.1 w.2) { s with landings := s.landings.del p.1 }) s

/-- Split the segment of an installer above its frame (R79): the words from `cut` on go to a new bottom segment, and
every NEXT, FB and record pointer into them follows. The words of `records` that HINST has on their way are written before. -/
def State.splitSeg (s : State) (key : Nat) (f : Fibre) (seg w g bottom : Nat) (records : List Nat) : State :=
  let cut := w + g
  let t := f.tenant
  let src := segKey t seg
  let dst := segKey t bottom
  let s := (dedup (src :: records.map fun a => segKey t (frameSeg a))).foldl State.settleRecords s
  let old := s.seg src
  let id := s.nextId
  let s := s.fresh.2
  let moved : Tbl RegCell := (old.words.select fun i _ => decide (cut ≤ i)).map fun p => (p.1 - cut, p.2)
  let moved := moved ++ openWords id (248 - cut)
  let ret := pair (s.segWord t seg (cut - 2)) (s.segWord t seg (cut - 1))
  let inside := fun (a : Nat) => decide (a ≠ 0) && decide (frameSeg a = seg) && decide (cut ≤ frameWord a)
  let move := fun (a : Nat) => if inside a then bottom + (a % 1024 - 4 * cut) else a
  let link : Segment :=
    { next := seg, hchain := move f.hchain, savedFbw := w, slide := g, retpc := ret, words := moved,
      resident := none, touched := 0 }
  let s := s.newSeg (coreOf key) t bottom link
  let still := fun (i : Nat) (c : RegCell) => if cut ≤ i then { c with mark := .full } else c
  let s := s.modSeg src fun x => { x with words := x.words.mapVals still }
  let s := s.retarget (movedLoc src dst cut 0)
  let s := records.foldl (fun s a =>
    let r := s.recordAt t (move a)
    let at_ := segKey t (frameSeg (move a))
    let n := frameWord (move a)
    let p := BitVec.ofNat 64 (move r.prev)
    let put := fun (s : State) (i : Nat) (v : Word) =>
      s.setCell (.frame at_ (n + i)) { s.cell (.frame at_ (n + i)) with val := v }
    let s := put (put s 0 (loWord p)) 1 (hiWord p)
    if inside a then
      put s 5 (BitVec.ofNat 32 (setBits (s.segWord t (frameSeg (move a)) (n + 5)).toNat 15 0 (r.fbw - cut)))
    else s) s
  let relink := fun (x : Segment) =>
    let x := { x with hchain := move x.hchain }
    if x.next = seg ∧ cut ≤ x.savedFbw then { x with next := bottom, savedFbw := x.savedFbw - cut } else x
  let above := ((s.fibreSegs f).takeWhile fun a => decide (a ≠ seg))
  let s := above.foldl (fun s a => s.modSeg (segKey t a) relink) s
  s.modFibre key fun x =>
    { x with hchain := move x.hchain, fbSeg := if x.fbSeg = seg then bottom else x.fbSeg,
             fbWord := if x.fbSeg = seg then x.fbWord - cut else x.fbWord }

/-- The segments of a continuation: from the top to the bottom, inclusive. -/
def upToBottom (bottom : Nat) : List Nat → List Nat
  | [] => []
  | a :: rest => if a = bottom then [a] else a :: upToBottom bottom rest

/-- A deferred load as the replay block names it (R91): its register by the frame base of the continuation, where the
window has moved since and still holds it. -/
def Fibre.rebase (f : Fibre) (d : Deferred) : Deferred :=
  match d.locs with
  | .frame seg w :: _ =>
    if seg = segKey f.tenant f.fbSeg ∧ f.fbWord ≤ w ∧ w < f.fbWord + 128 then { d with reg := w - f.fbWord } else d
  | _ => d

/-- Write a continuation into a K slot (R82): the header, the effect record and the replay block; GEN grows. The fibre's
counters, pending accesses and held stores go with it (R88, R149). Answers the handle. -/
def State.capture (s : State) (key slot : Nat) (e : Effect) (bottom : Nat) : DWord × State :=
  match s.fibres.find key with
  | none => (0, s)
  | some f =>
    let t := f.tenant
    let gen : DWord := match s.kobjs.find (kKey t slot) with | some k => k.gen + 1 | none => 1
    let h := s.kHandle t slot gen
    let segs := upToBottom bottom (s.fibreSegs f)
    let hrec := if segs.contains (frameSeg f.hchain) ∧ f.hchain ≠ 0 then f.hchain else 0
    let replay := f.pending.map f.rebase
    let flags := f.pending.length * 2 ^ 24 + f.fbWord * 2 ^ 16 + (if e.wide then 256 else 0) + e.result
    let crew : Word := match f.crew with
      | some c => match s.sched.crews.find c with | some k => BitVec.ofNat 32 k.number | none => 0xFFFFFFFF
      | none => 0xFFFFFFFF
    let k : KObject :=
      { magic := 0x4B4F, ver := 1, state := 0, owner := t, tag := e.tag, pc := e.pc.pointer, top := f.fbSeg,
        nseg := segs.length, live := f.live, feat := s.featOf t e.pc.handle, hrec := hrec, wid := f.workId,
        crew := crew, flags := BitVec.ofNat 32 flags, gen := gen, record := s.effectRecord key f e h,
        replay := replay, heldStores := f.heldStores, free := false, ofCrew := f.crew }
    let ops := f.counted.map fun c => c.op
    let s := { s with kobjs := s.kobjs.put (kKey t slot) k,
                      engine := s.engine.select fun i _ => !ops.contains i }
    let s := s.modPlat fun p => { p with seq := p.seq + 1 }
    (h, s.modFibre key fun x => { x with pending := [], heldStores := [], counted := [] })

/-- Raise the EFFECT event of a resolved effect (R346). -/
def State.effectEvent (s : State) (key tenant tag how : Nat) : State := s.raiseCore (coreOf key) 0x000B tenant tag how

/-- A fibre takes up the ordering mode of the object it begins to execute (R154). -/
def State.loadFsm (s : State) (key : Nat) : State :=
  s.modFibre key fun f => { f with fsm := s.isM0 f.tenant f.pc.handle }

/-! ### Performing (R79 to R81) -/

/-- What a handler receives in g2 and g3 (R79): the payload of a PERFORM or PERFORMV; for a system tag INFO, also where the
effect record's PAYLOAD is an operation's number (R270, R327; assumption 40). -/
def Effect.handed (e : Effect) : DWord := if e.tag ∈ [8, 9, 10] then e.info else e.payload

/-- The installer's frame becomes the fibre's, with d0 the handle and g2, g3 the payload, at the handler (R79, R154). A
HANDLER that is no listed entry makes the fibre perform ILLEGAL from that frame (R80), with the PC of the original effect in
ADDR: for a PERFORM the PC after it (DEDUCED, assumption 69). -/
def State.enterHandler (s : State) (key : Nat) (e : Effect) (h : DWord) (seg w prev : Nat) (handler : DWord) : State :=
  let s := s.modFibre key fun x =>
    { x with fbSeg := seg, fbWord := w, hchain := prev, live := 128, effect := none, kh := none }
  match s.fibres.find key with
  | none => s
  | some f =>
    let put := fun (s : State) (i : Nat) (v : Word) => s.setCell (f.gLoc i) { RegCell.zero with val := v, back := v }
    let s := put (put (put (put s 0 (loWord h)) 1 (hiWord h)) 2 (loWord e.handed)) 3 (hiWord e.handed)
    if s.listedEntry f.tenant handler then
      let pc := s.enter f.tenant (hiWord handler) (loWord handler)
      let s := s.modFibre key fun x => { x with pc := pc }
      ((s.loadFsm key).effectEvent key f.tenant e.tag 0).file key
    else
      let pc : Pc := { handle := hiWord handler, off := loWord handler, twin := none }
      let bad : Effect :=
        { tag := 12, payload := 0, addr := e.pc.pointer, info := 0, pc := pc, result := 0xFF, wide := false }
      (s.modFibre key fun x => { x with effect := some bad, pc := pc }).effectEvent key f.tenant e.tag 0

/-- An effect whose search matched a record (R79): the continuation up to the installer's call is captured and the
handler entered. The fibre stays PERFORMING while its counters hold running operations (R149) or a segment it needs has
no room; without a K slot or a backing slot the crew is killed (R76). -/
def State.performFound (s : State) (key : Nat) (f : Fibre) (e : Effect) (a : Nat) (r : HandlerRecord) : State :=
  if f.onlyStopped = false then s
  else
    let core := coreOf key
    let seg := frameSeg a
    match s.bringIn core (segKey f.tenant seg) with
    | none => s
    | some s =>
      let kill := match f.crew with | some c => s.killCrew c 0x10002 | none => s
      match s.freeK f.tenant with
      | none => kill
      | some slot =>
        let called := (s.fibreSegs f).find? fun b =>
          let x := s.seg (segKey f.tenant b)
          decide (x.next = seg) && decide (x.savedFbw = r.fbw) && decide (x.slide = r.gslide)
        match called with
        | some bottom =>
          let c := s.capture key slot e bottom
          c.2.enterHandler key e c.1 seg r.fbw r.prev r.handler
        | none =>
          match (s.heapRoom core false).filter fun s => decide ((s.seg (segKey f.tenant seg)).resident = some core) with
          | none => s
          | some s =>
            match s.freeSegFor key f.tenant with
            | none => kill
            | some bottom =>
              let records := s.recordsTo f.tenant f.hchain a s.searchFuel
              let s := s.splitSeg key f seg r.fbw r.gslide bottom records
              let c := s.capture key slot e bottom
              c.2.enterHandler key e c.1 seg r.fbw r.prev r.handler

/-- A KILL disposition (R81): the record is posted as a notice and the crew killed; with a full mailbox the fibre stays
PERFORMING. -/
def State.performKill (s : State) (key : Nat) (f : Fibre) (e : Effect) : State :=
  let r := s.effectRecord key f e 0
  if s.mailboxRoom (coreOf key) = false then s.modFibre key fun x => { x with notice := some r }
  else
    let s := (s.effectEvent key f.tenant e.tag 3).post (coreOf key) r true
    let s := s.modFibre key fun x => { x with effect := none, notice := none }
    match f.crew with
    | some c => s.killCrew c e.tag
    | none => s.killNow key

/-- A CLERK disposition (R79, R87): the whole chain is captured, the record posted, and the fibre SUSPENDED. -/
def State.performClerk (s : State) (key : Nat) (f : Fibre) (e : Effect) : State :=
  if f.onlyStopped = false ∨ s.mailboxRoom (coreOf key) = false then s
  else
    match s.freeK f.tenant with
    | none => match f.crew with | some c => s.killCrew c 0x10002 | none => s
    | some slot =>
      let root := ((s.fibreSegs f).getLast?).getD f.fbSeg
      let r := s.effectRecord key f e
      let c := s.capture key slot e root
      let s := c.2.modFibre key fun x => { x with state := .suspended, effect := none, kh := some c.1,
                                                    postedTag := e.tag }
      (s.effectEvent key f.tenant e.tag 2).post (coreOf key) (r c.1) false

/-- An effect that no record matches (R81): YIELD and WAIT file the fibre at K's PC, which it enters as after any safe point
(R203). -/
def State.performUnmatched (s : State) (key : Nat) (f : Fibre) (e : Effect) : State :=
  match disposition e.tag with
  | .park =>
    let pc := if e.pc.twin.isNone then s.enter f.tenant e.pc.handle e.pc.off else s.freshPc f.tenant e.pc
    let s := s.modFibre key fun x => { x with pc := pc, effect := none }
    (s.effectEvent key f.tenant e.tag 1).file key
  | .clerk => s.performClerk key f e
  | .kill => s.performKill key f e

/-- The ILLEGAL that a search performs where it meets a value that is no record's address (R79). -/
def Effect.invalid (e : Effect) (v : Nat) : Effect :=
  { e with tag := 12, addr := BitVec.ofNat 64 v, payload := 0, info := 0 }

/-- A clerk's effect is a machine check, and the clerk stops (R80). -/
def State.clerkCheck (s : State) (key : Nat) (e : Effect) : State :=
  (s.machineCheck (coreOf key) e).modFibre key fun x => { x with effect := none }

/-- A search stands at a record whose segment is away (R75, R79): the segment is brought in where a slot can be had, and
the search goes on at the next PERFORM_EFFECT. -/
def State.reloadRecord (s : State) (key : Nat) (f : Fibre) (e : Effect) (a : Nat) : State :=
  let s := ((s.bringIn (coreOf key) (segKey f.tenant (frameSeg a))).getD s)
  s.modFibre key fun x => { x with effect := some { e with cursor := some a } }

/-- TAKING AN EFFECT, the one operation (R79 to R81, R380): a PERFORMING fibre's search is made and its outcome taken. A
fibre that must wait stays PERFORMING, and the event PERFORM_EFFECT tries again. -/
def State.tryPerform (s : State) (key : Nat) : State :=
  match s.fibres.find key with
  | none => s
  | some f =>
    match f.state, f.effect with
    | .performing, some e =>
      if isClerk key ∧ e.tag ≠ 1 then s.clerkCheck key e
      else
        match s.findHandler (coreOf key) f e with
        | .none => s.performUnmatched key f e
        | .record a r => s.performFound key f e a r
        | .away a => s.reloadRecord key f e a
        | .endless => s
        | .bad v => if isClerk key then s.clerkCheck key (e.invalid v) else s.performKill key f (e.invalid v)
    | _, _ => s

/-- A fibre performs an effect (R39, R79). -/
def State.perform (s : State) (key : Nat) (e : Effect) : State := (s.beginPerform key e).tryPerform key

/-! ### Replay (R88, R89, R91) -/

/-- The model's kind of a replay that writes the value of a RESUME (R84): the last of a continuation's. -/
def resumeKind : Nat := 256

/-- Extend a loaded value as its kind gives: 2 by sign, others by zeros (R91, R251). -/
def extendLoad (v size : Nat) (signed : Bool) : DWord :=
  if signed then (BitVec.ofNat (8 * 2 ^ size) v).signExtend 64 else BitVec.ofNat 64 v

/-- The registers of a load of a fibre that may be poisoned: frame words and s-registers. -/
def Fibre.regLocs (f : Fibre) (reg : Nat) (wide : Bool) : List Loc :=
  (if wide then [reg, reg + 1] else [reg]).filterMap f.loc

/-- The registers of a deferred load are empty and poisoned (R88). -/
def State.poison (s : State) (key : Nat) (f : Fibre) (reg : Nat) (wide : Bool) : State :=
  (f.regLocs reg wide).foldl (fun s l => s.markCell l (.poisoned key)) s

/-- Write a loaded value into the registers that a deferred load left poisoned. -/
def State.writeLocs (s : State) (key : Nat) (locs : List Loc) (v : DWord) : State :=
  ((locs.zip [loWord v, hiWord v]).foldl (fun s p => s.writeCell p.1 p.2) s).recheck (coreOf key)

/-- Replay one access of a continuation (R91), a load into its own registers. One that faults again is deferred again
(R88); a store to the line of a store that is still pending stays held (R89). -/
def State.replay (s : State) (key : Nat) (d : Deferred) : State :=
  match s.fibres.find key with
  | none => s
  | some f =>
    let n := 2 ^ d.size
    let priv := fun (s : State) => s.beginPerform key (f.effectAt 13 (BitVec.ofNat 64 d.addr) 0)
    let soft := fun (s : State) => s.beginPerform key (f.effectAt 18 (BitVec.ofNat 64 d.addr) 0xFFFFFFFF)
    let write := fun (s : State) (v : DWord) =>
      if d.locs.isEmpty then s.writePair key d.reg (decide (d.size = 3)) v else s.writeLocs key d.locs v
    if isQueue d.reg && !isClerk key && s.queueForeign (coreOf key) f.tenant (d.reg - 0xC0) then priv s
    else if d.kind = resumeKind then write s d.data
    else if d.kind = 1 then
      if f.pending.any fun p => decide (p.kind = 1) && decide (lineOf p.addr = lineOf d.addr) then
        s.setFibre key { f with heldStores := f.heldStores ++ [d] }
      else
        match s.storeGlobal (coreOf key) f.crew (isClerk key) f.tenant d.addr (toBytes d.data.toNat n) with
        | .ok s => s.wakeCrew key f.crew
        | .error .priv => priv s
        | .error .soft => soft s
        | .error _ => s.setFibre key { f with pending := f.pending ++ [d] }
    else
      match s.loadGlobal (coreOf key) f.tenant d.addr n with
      | .ok (s, b) => write s (extendLoad (ofBytes b) d.size (decide (d.kind = 2)))
      | .error .priv => priv s
      | .error .soft => soft s
      | .error _ =>
        let s := s.setFibre key { f with pending := f.pending ++ [d] }
        if d.locs.isEmpty then s.poison key f d.reg (decide (d.size = 3))
        else d.locs.foldl (fun s l => s.markCell l (.poisoned key)) s

/-- The q register without room that an access of a replay appends to (R253, R275). -/
def State.replayWaits (s : State) (key : Nat) (d : Deferred) : Option Nat :=
  let core := coreOf key
  match s.fibres.find key with
  | some f =>
    if isQueue d.reg && decide (d.kind ≠ 1) && s.queueForeign core f.tenant (d.reg - 0xC0) = false &&
        decide (8 ≤ (s.queueReg core (d.reg - 0xC0)).places.length) then some (d.reg - 0xC0)
    else none
  | none => none

/-- Replay accesses in their order, up to one that finds its q register full: it and those after it are left to the fibre's
next draw (DEDUCED, assumption 72). -/
def State.runReplays (s : State) (key : Nat) : List Deferred → State
  | [] => s
  | d :: rest =>
    if (s.replayWaits key d).isSome then s.modFibre key fun f => { f with replays := d :: rest }
    else State.runReplays (s.replay key d) key rest

/-- A fibre that has been drawn first makes the replays that are left to it; where one still finds no room, it parks
(R275). -/
def State.catchUp (s : State) (key : Nat) : State :=
  match s.fibres.find key with
  | none => s
  | some f =>
    match f.replays with
    | [] => s
    | todo =>
      let s := (s.setFibre key { f with replays := [] }).runReplays key todo
      match s.fibres.find key with
      | none => s
      | some g =>
        if g.state = .performing then (s.leaveGang key).tryPerform key
        else
          match g.replays.head?.bind (s.replayWaits key) with
          | some q => s.park key (.register (.queueRoom q))
          | none => s

/-! ### RESUME (R84), the return from an effect -/

/-- The checks of RESUME, DROP and KSEND on a handle (R84, R85): the K slot, or the tag to perform. -/
def State.checkHandle (s : State) (vf : Nat) (h : DWord) : Except Nat (Nat × KObject) :=
  match s.kSlotAt vf (h.toNat % 2 ^ 48) with
  | none => .error 12
  | some slot =>
    match s.kobjs.find (kKey vf slot) with
    | none => .error 12
    | some k =>
      if k.magic ≠ 0x4B4F then .error 12
      else if k.owner ≠ vf then .error 13
      else if k.gen.toNat % 65536 ≠ h.toNat / 2 ^ 48 ∨ k.state ≠ 0 then .error 16
      else .ok (slot, k)

/-- The features of FEAT that the device lacks (R193). -/
def missingFeatures (feat : Word) : Word := feat &&& ~~~0x1F#32

/-- The further checks of RESUME (R84, R91): the version and features, the object of PC, the kinds of the replay block.
Answers the tag and INFO to perform. -/
def State.resumeRefused (s : State) (vf : Nat) (k : KObject) : Option (Nat × DWord) :=
  if 1 < k.ver ∨ missingFeatures k.feat ≠ 0 then some (15, (missingFeatures k.feat).setWidth 64)
  else if (s.codeOf vf (hiWord k.pc)).isNone then some (12, 0)
  else if k.replay.any fun d => decide (2 < d.kind) then some (12, 0)
  else none

/-- The segments of a continuation. -/
def State.kSegs (s : State) (vf : Nat) (k : KObject) : List Nat := s.chain vf k.top k.nseg

/-- Link a continuation onto the resumer (R84): its bottom returns into the resumer after the RESUME, and its outermost
record's PREV is the resumer's chain head, also where HINST had that record on its way. -/
def State.relink (s : State) (f : Fibre) (k : KObject) (ret : DWord) : State :=
  let t := f.tenant
  let segs := s.kSegs t k
  let bottom := segs.getLast?.getD k.top
  let s := s.modSeg (segKey t bottom) fun x =>
    { x with next := f.fbSeg, savedFbw := f.fbWord, retpc := ret, hchain := f.hchain }
  let records := (s.recordsTo t k.hrec 0 s.searchFuel).takeWhile fun a => segs.contains (frameSeg a)
  match records.getLast? with
  | none => s
  | some a =>
    let p := BitVec.ofNat 64 f.hchain
    let at_ := segKey t (frameSeg a)
    let n := frameWord a
    let s := s.settleRecords at_
    let s := s.setCell (.frame at_ n) { s.cell (.frame at_ n) with val := loWord p }
    s.setCell (.frame at_ (n + 1)) { s.cell (.frame at_ (n + 1)) with val := hiWord p }

/-- Continue a continuation whose checks have passed (R84): STATE 1, its frames become the resumer's, the replay block and
held stores are replayed and the value is written, the slot is freed, and the fibre is filed at PC, or waits COLD for its
top segment. `linked` is false for SRET, whose fibre resumes its own K. -/
def State.continueK (s : State) (key slot : Nat) (k : KObject) (value : DWord) (wide linked : Bool) (ret : DWord) :
    State :=
  match s.fibres.find key with
  | none => s
  | some f =>
    let t := f.tenant
    let flags := k.flags.toNat
    let s := if linked then (s.relink f k ret).touch (segKey t f.fbSeg) else s
    let freed : KObject := { k with state := 1, free := true, replay := [], heldStores := [] }
    let s := { s with kobjs := s.kobjs.put (kKey t slot) freed }
    let pc := s.enter t (hiWord k.pc) (loWord k.pc)
    let s := s.setFibre key
      { f with fbSeg := k.top, fbWord := bits flags 23 16, live := k.live, pc := pc, kh := none, request := none,
               hchain := if k.hrec ≠ 0 then k.hrec else f.hchain }
    let v : DWord := if wide then value else value &&& 0xFFFFFFFF
    let result : Deferred :=
      { Deferred.empty with data := v, kind := resumeKind, size := 2 + bits flags 8 8, reg := bits flags 7 0 }
    let s := s.runReplays key (k.replay ++ k.heldStores ++ if bits flags 7 0 = 0xFF then [] else [result])
    let s := s.loadFsm key
    match s.fibres.find key with
    | none => s
    | some g =>
      if g.state = .performing then (s.leaveGang key).tryPerform key
      else if (s.seg (segKey t k.top)).resident = some (coreOf key) then (s.leaveGang key).file key
      else
        let s := (s.setFibre key { g with state := .cold none, coldSince := s.gtc }).leaveGang key
        s.modUnit (coreOf key) fun u => { u with reloads := u.reloads ++ [key] }

/-- RESUME by a fibre (R84, R223): the checks, then the continuation; an effect of the checks is the resumer's. `own` is
the PC of the RESUME and `next` the PC after it. -/
def State.resume (s : State) (key : Nat) (h value : DWord) (wide : Bool) (own next : Pc) : State :=
  match s.fibres.find key with
  | none => s
  | some f =>
    let bad := fun (tag : Nat) (info : DWord) =>
      s.perform key { tag := tag, payload := info, addr := 0, info := info, pc := own, result := 0xFF, wide := false }
    match s.checkHandle f.tenant h with
    | .error tag => bad tag 0
    | .ok (slot, k) =>
      match s.resumeRefused f.tenant k with
      | some (tag, info) => bad tag info
      | none => s.continueK key slot k value wide true next.pointer

end Sys2Proof.Machine
end

