-- ==== Sys2Proof/Machine/Flags.lean ====
section
/-! DEFINITION. The arithmetic status word: raising flags, holding the first PC, and the ARITH effect (R92, R103,
R104). -/
namespace Sys2Proof.Machine

/-- FSR[5:0]. -/
def Fibre.flags (f : Fibre) : Flags := f.fsr.extractLsb' 0 6

/-- FSR.EN. -/
def Fibre.enables (f : Fibre) : Flags := f.fsr.extractLsb' 16 6

/-- FSR.FTZ. -/
def Fibre.ftz (f : Fibre) : Bool := f.fsr.getLsbD 8

/-- FSR.SEED. -/
def Fibre.seed (f : Fibre) : Word := f.fsr.extractLsb' 32 32

/-- FSR with its flags replaced. -/
def withFlags (fsr : DWord) (fl : Flags) : DWord := (fsr &&& ~~~0x3F#64) ||| fl.setWidth 64

/-- FSR with SEED replaced. -/
def withSeed (fsr : DWord) (seed : Word) : DWord := seed ++ fsr.extractLsb' 0 32

/-- An enabled flag is set. -/
def Fibre.trapping (f : Fibre) : Bool := decide (f.flags &&& f.enables ≠ 0)

/-- Raise flags at a PC: they are sticky, and the first PC that sets an enabled flag is held (R104). -/
def Fibre.raise (f : Fibre) (fl : Flags) (pc : DWord) : Fibre :=
  let held := if f.heldPc.isNone ∧ fl &&& f.enables ≠ 0 then some pc else f.heldPc
  { f with fsr := withFlags f.fsr (f.flags ||| fl), heldPc := held }

/-- Write FSR, or flags of it, by FSTAT at a PC (R104, R288): the held PC stays only while an enabled flag is set, and a
write that sets a flag together with its enable holds the FSTAT's PC. -/
def Fibre.writeFsr (f : Fibre) (v : DWord) (pc : DWord) : Fibre :=
  let g := { f with fsr := v &&& 0xFFFFFFFF003F013F#64 }
  { g with heldPc := if g.trapping then some (f.heldPc.getD pc) else none }

/-- Delivery clears the flags and the held PC (R92, R104). -/
def Fibre.clearFlags (f : Fibre) : Fibre := { f with fsr := withFlags f.fsr 0, heldPc := none }

/-- The ARITH effect of a fibre, delivering some flags, with its continuation at a PC (R92, R104, R222). -/
def Fibre.arith (f : Fibre) (fl : Flags) (pc : Pc) : Effect :=
  { tag := 4, payload := fl.setWidth 64, addr := f.heldPc.getD 0, info := fl.setWidth 64, pc := pc, result := 0xFF,
    wide := false }

/-- Perform ARITH (R92). -/
def State.performArith (s : State) (key : Nat) (f : Fibre) (fl : Flags) (pc : Pc) : State :=
  (s.setFibre key f.clearFlags).perform key (f.arith fl pc)

/-- INFO of a PAGE_FAULT (R78, R88): the pending count, whether the access is a store, and its size. -/
def faultInfo (count : Nat) (d : Deferred) : DWord :=
  BitVec.ofNat 64 (count % 8 + (if d.kind = 1 then 8 else 0) + d.size % 16 * 16)

/-- The PAGE_FAULT of a fibre's oldest pending access, with its continuation at a PC (R41, R88). -/
def Fibre.pageFault (f : Fibre) (pc : Pc) : Effect :=
  let d := f.pending.headD .empty
  let info := faultInfo f.pending.length d
  { tag := 3, payload := info, addr := BitVec.ofNat 64 d.addr, info := info, pc := pc, result := 0xFF, wide := false }

end Sys2Proof.Machine
end

