-- ==== Sys2Proof/Machine/Operands.lean ====
section
/-! DEFINITION. Operands: how sources resolve and are read, how destinations resolve and are written (R164 to R172, R183,
R275). -/
namespace Sys2Proof.Machine

/-- What one lane of an instruction has read: its fibre, its lane, the instruction's PC and the PC after it, the values
of B, C, D and of an A that is read, and a run of registers. -/
structure LaneIn where
  key : Nat
  lane : Nat
  f : Fibre
  own : Pc
  next : Pc
  a : DWord
  b : DWord
  c : DWord
  d : DWord
  run : List Word
  deriving DecidableEq, Repr

/-- What becomes of one lane: results to write (long-latency or not) with flags and SEED; long-latency results over a
changed state; an outcome that stands only when some destinations resolve; a changed state and the next PC, or another PC
(reached by a backward branch or not); an effect at once, on the state before the lane or on a changed one; a park at the
instruction, on the state before the lane or on a changed one, or one after it; or a fibre that has left the gang in some
other way. -/
inductive LaneRes where
  | outs (long : Bool) (o : List (Nat × Word)) (flags : Flags) (seed : Option Word)
  | outsIn (s : State) (o : List (Nat × Word))
  | checked (codes : List Nat) (res : LaneRes)
  | next (s : State)
  | jump (s : State) (pc : Pc) (back : Bool)
  | effect (e : Effect)
  | effectIn (s : State) (e : Effect)
  | park (w : Park)
  | waitIn (s : State) (w : Park)
  | parkIn (s : State) (w : Park)
  | stop (s : State)
  deriving DecidableEq, Repr

/-- An outcome of a lane that has changed the state before it came to it. -/
def LaneRes.on (s : State) : LaneRes → LaneRes
  | .effect e => .effectIn s e
  | .park w => .waitIn s w
  | r => r

/-- An effect at the instruction itself (R183), with INFO as its payload (R79). -/
def effectOf (pc : Pc) (tag : Nat) (addr info : DWord) : Effect :=
  { tag := tag, payload := info, addr := addr, info := info, pc := pc, result := 0xFF, wide := false }

/-- ILLEGAL. -/
def LaneIn.illegal (x : LaneIn) : LaneRes := .effect (effectOf x.own 12 0 0)

/-- PRIV. -/
def LaneIn.priv (x : LaneIn) (addr : DWord) : LaneRes := .effect (effectOf x.own 13 addr 0)

/-! ### Sources -/

/-- How a register resolves for a read (R169). -/
inductive SrcState where
  | ready
  | waits
  | fault
  | orphan
  deriving DecidableEq, Repr

/-- The state of a register of a fibre for a read or write (R169, R170): the poisoned mark of an s-register belongs to the
fibre whose load set it. -/
def State.srcState (s : State) (key : Nat) (f : Fibre) (code : Nat) : SrcState :=
  match f.loc code with
  | none => .ready
  | some l =>
    match (s.cell l).mark with
    | .full => .ready
    | .empty => .waits
    | .orphaned => .orphan
    | .poisoned k => if code < 0x80 ∨ k = key then .fault else .waits

/-- The register codes that an operand reads. -/
def readCodes (o : Operand) : List Nat :=
  let c := o.code.toNat
  match o.slot with
  | .src true | .upd true => if c < 0xC0 then [c, c + 1] else [c]
  | .src false | .upd false | .pop => [c]
  | .srcs n => (upto c n).filter fun k => decide (k < 0x80)
  | _ => []

/-- The codes read of some operands, each with its operand. -/
def readRefs (ops : List Operand) : List (Operand × Nat) := ops.flatMap fun o => (readCodes o).map fun c => (o, c)

/-- The q registers among some codes, in order. -/
def queuesOf (refs : List (Operand × Nat)) : List Nat := (refs.filter fun r => isQueue r.2).map fun r => r.2 - 0xC0

/-- The word that the n-th read of a q register by one lane takes: none while it is not there (R253, R275). -/
def State.queueWordAt (s : State) (core q n : Nat) : Option Word :=
  match (s.queueReg core q).places[n]? with
  | some p => p.word
  | none => none

/-- The q registers that do not hold a word for every read. -/
def State.queuesShort (s : State) (core : Nat) (qs : List Nat) : List Nat :=
  (List.range 16).filter fun q =>
    (List.range (qs.count q)).any fun n => (s.queueWordAt core q n).isNone

/-- How a lane's sources stop it, taken together (R183, step 5): PAGE_FAULT, ORPHAN, EMPTY, or a park. -/
def State.sourceStop (s : State) (key : Nat) (f : Fibre) (own : Pc) (ops : List Operand) : Option LaneRes :=
  let refs := readRefs ops
  let short := s.queuesShort (coreOf key) (queuesOf refs)
  let code := fun (r : Operand × Nat) => BitVec.ofNat 64 r.1.code.toNat
  if refs.any fun r => decide (s.srcState key f r.2 = .fault) then some (.effect (f.pageFault own))
  else
    match refs.find? fun r => decide (s.srcState key f r.2 = .orphan) with
    | some r => some (.effect (effectOf own 7 0 (code r)))
    | none =>
      let empty := refs.filter fun r =>
        decide (s.srcState key f r.2 = .waits) || (isQueue r.2 && short.contains (r.2 - 0xC0))
      match empty.find? fun r => r.1.t with
      | some r => some (.effect (effectOf own 6 0 (code r)))
      | none =>
        match empty.filterMap fun r => f.loc r.2 with
        | l :: ls => some (.park (.register (.cells (l :: ls))))
        | [] => short.head?.map fun q => .park (.register (.queueWord q))

/-- The value of field Fi of a work ID (R23, R27). -/
def workField (s : State) (f : Fibre) (i : Nat) : Nat :=
  match s.sched.launches.find f.launch with
  | some l =>
    let b := levelBit l.record i
    f.workId.toNat / 2 ^ b % 2 ^ (l.record.widths.getD i 0)
  | none => 0

/-- The special sources (R27, R165). What a fibre without a launch, a clerk, reads as %gw, %crew or a work field %wf the rules
leave open: a free value each (assumption 2). A convened member that is drawn singly between two rendezvous reads as %lane its place
in the draw (DEDUCED, assumption 66). -/
def State.special (s : State) (key lane : Nat) (f : Fibre) (code : Nat) : Word :=
  match code with
  | 0xD0 => 1
  | 0xD9 => BitVec.ofNat 32 lane
  | 0xDA =>
    match s.sched.launches.find f.launch with
    | some l => BitVec.ofNat 32 (gangWidth l.record)
    | none => Config.freeWord code
  | 0xDB => BitVec.ofNat 32 (indexOf key)
  | 0xDC => BitVec.ofNat 32 (coreOf key)
  | 0xDD => loWord f.workId
  | 0xDE => hiWord f.workId
  | 0xE5 => loWord (BitVec.ofNat 64 s.gtc)
  | 0xE6 => hiWord (BitVec.ofNat 64 s.gtc)
  | 0xE7 => loWord s.ptp
  | 0xE8 => hiWord s.ptp
  | 0xE9 =>
    match s.sched.launches.find f.launch with
    | some l => BitVec.ofNat 32 (f.workId.toNat / 2 ^ levelBit l.record (crewLevel l.record))
    | none => Config.freeWord code
  | 0xEA => BitVec.ofNat 32 f.tenant
  | c =>
    if 0xD1 ≤ c ∧ c < 0xD8 then (if f.preds.getLsbD (c - 0xD0) then 1 else 0)
    else if 0xDF ≤ c ∧ c < 0xE5 then
      (if (s.sched.launches.find f.launch).isSome then BitVec.ofNat 32 (workField s f (c - 0xDF)) else Config.freeWord c)
    else 0

/-- Read one code that is no q register (R164). -/
def State.readCode (s : State) (key lane : Nat) (f : Fibre) (code : Nat) : Word × State :=
  match f.loc code with
  | some l => s.readCell l
  | none => (s.special key lane f code, s)

/-- Take the word at the head of a q register (R167, R275). -/
def State.popQueue (s : State) (core q : Nat) : Option QPlace × State :=
  match (s.queueReg core q).places with
  | [] => (none, s)
  | p :: rest =>
    let r := { s.queueReg core q with places := rest }
    (some p, s.modUnit core fun u => { u with queues := u.queues.put q r })

/-- Put a taken place back where it stood: places rise in the order of their appends. -/
def insertPlace (p : QPlace) : List QPlace → List QPlace
  | [] => [p]
  | q :: rest => if p.place < q.place then p :: q :: rest else q :: insertPlace p rest

/-- What a lane has taken by reading its operands: words of queues, and the last uses of registers that it has noted. -/
structure Taken where
  words : List (Nat × QPlace)
  uses : List Loc
  deriving DecidableEq, Repr

/-- Nothing taken. -/
def Taken.none : Taken := { words := [], uses := [] }

/-- Give back what a lane has taken: it did not complete, and reads its operands again (R172, R275). -/
def State.unpop (s : State) (core : Nat) (taken : Taken) : State :=
  let s := taken.words.foldl (fun s t =>
    let r := s.queueReg core t.1
    s.modUnit core fun u => { u with queues := u.queues.put t.1 { r with places := insertPlace t.2 r.places } }) s
  taken.uses.foldl (fun s l => s.setCell l { s.cell l with lastUsed := false }) s

/-- What reading operands gathers: the words taken from queues, and the state. -/
structure Reading where
  taken : List (Nat × QPlace)
  s : State
  deriving DecidableEq, Repr

/-- Read one code, taking a word from a q register. -/
def Reading.code (r : Reading) (key lane : Nat) (f : Fibre) (code : Nat) : Word × Reading :=
  if isQueue code then
    match r.s.popQueue (coreOf key) (code - 0xC0) with
    | (some p, s) => (p.word.getD 0, { taken := r.taken ++ [(code - 0xC0, p)], s := s })
    | (none, s) => (0, { r with s := s })
  else
    let v := r.s.readCode key lane f code
    (v.1, { r with s := v.2 })

/-- Read an operand as 64 bits: a pair, or a word with zeros above (R166). -/
def Reading.operand (r : Reading) (key lane : Nat) (f : Fibre) (o : Operand) : DWord × Reading :=
  let c := o.code.toNat
  match o.slot with
  | .src true | .upd true =>
    if c = 0xD8 then (0, r)
    else
      let lo := r.code key lane f c
      let hi := lo.2.code key lane f (c + 1)
      (pair lo.1 hi.1, hi.2)
  | .src false | .upd false | .pop =>
    let v := r.code key lane f c
    (v.1.setWidth 64, v.2)
  | _ => (0, r)

/-- Read a run of registers in order. -/
def Reading.codes (r : Reading) (key lane : Nat) (f : Fibre) : List Nat → List Word × Reading
  | [] => ([], r)
  | c :: rest =>
    let v := r.code key lane f c
    let w := Reading.codes v.2 key lane f rest
    (v.1 :: w.1, w.2)

/-- The runs of registers that some operands read. -/
def runCodes (ops : List Operand) : List Nat :=
  ops.flatMap fun o => match o.slot with | .srcs _ => readCodes o | _ => []

/-- The registers that an instruction's operands use for the last time (R172): g codes only. -/
def lastRefs (f : Fibre) (ops : List Operand) : List Loc :=
  ((readRefs ops).filter fun r => r.1.l && decide (r.2 < 0x80)).map fun r => f.gLoc r.2

/-- Note the last uses of an instruction's operands (R172). -/
def State.lastUses (s : State) (f : Fibre) (ops : List Operand) : State := (lastRefs f ops).foldl State.useCell s

/-- Words delivered by a neighbour drop the popping core's SHARED leases (R276). -/
def State.popDrops (s : State) (core : Nat) (taken : List (Nat × QPlace)) : State :=
  if taken.any fun t => t.2.neighbour then s.dropLeases core else s

/-- Read the operands of one lane whose sources are all there. -/
def State.readLane (s : State) (key lane : Nat) (f : Fibre) (own next : Pc) (form : Form) :
    LaneIn × Taken × State :=
  let r : Reading := { taken := [], s := s }
  let a := r.operand key lane f form.a
  let b := a.2.operand key lane f form.b
  let c := b.2.operand key lane f form.c
  let d := c.2.operand key lane f form.d
  let ops := [form.a, form.b, form.c, form.d]
  let w := d.2.codes key lane f (runCodes ops)
  let cv := match form.lit with | some l => l.setWidth 64 | none => c.1
  let s := (w.2.s.lastUses f ops).popDrops (coreOf key) w.2.taken
  ({ key := key, lane := lane, f := f, own := own, next := next, a := a.1, b := b.1, c := cv, d := d.1, run := w.1 },
    { words := w.2.taken, uses := (lastRefs f ops).filter fun l => !(w.2.s.cell l).lastUsed }, s)

/-! ### Destinations -/

/-- How the destinations of a lane stop it, by the state before the instruction (R170). -/
def State.destStop (s : State) (x : LaneIn) (codes : List Nat) : Option LaneRes :=
  if codes.any fun c => decide (s.srcState x.key x.f c = .fault) then some (.effect (x.f.pageFault x.own))
  else
    match codes.filterMap fun c => if s.srcState x.key x.f c = .waits then x.f.loc c else none with
    | l :: ls => some (.park (.register (.cells (l :: ls))))
    | [] => none

/-- A q register among the destinations that has no room (R167, R275). -/
def State.queueStop (s : State) (core : Nat) (codes : List Nat) : Option LaneRes :=
  match (codes.filter isQueue).find? fun c => !s.queueHasRoom core (c - 0xC0) 1 with
  | some c => some (.park (.register (.queueRoom (c - 0xC0))))
  | none => none

/-- The code and value pairs of a result: one register, or the pair of a d-register (R166). -/
def outPair (code : Nat) (wide : Bool) (v : DWord) : List (Nat × Word) :=
  if wide then [(code, loWord v), (code + 1, hiWord v)] else [(code, loWord v)]

/-- The value and full mark that a code of a fibre shows, for the comparison of R48. -/
def State.codeCell (s : State) (f : Fibre) (code : Nat) : RegCell :=
  match f.loc code with
  | some l => s.cell l
  | none => { RegCell.zero with val := if f.preds.getLsbD (code - 0xD0) then 1 else 0 }

/-- Note that a run writes a register: its value before the run (R48). A q register never ends as it was. -/
def State.noteWrite (s : State) (x : LaneIn) (code : Nat) : State :=
  s.modGang s.cur fun g =>
    let k := indexOf x.key * 256 + code
    if isQueue code then { g with spinning := false }
    else if (g.before.find k).isSome then g
    else { g with before := g.before.put k (s.codeCell x.f code) }

/-- The place a long-latency result goes to; its register is empty, or its queue place reserved, until then (R168,
R253). -/
def State.reserve (s : State) (x : LaneIn) (code : Nat) : Option Loc × State :=
  if isQueue code then
    let place := s.nextId
    (some (.queue (coreOf x.key) (code - 0xC0) place), s.pushQueue (coreOf x.key) x.f.tenant (code - 0xC0) none false)
  else
    match x.f.loc code with
    | some l => (some l, s.markCell l .empty)
    | none => if 0xD1 ≤ code ∧ code < 0xD8 then (some (.pred x.key (code - 0xD0)), s) else (none, s)

/-- Reserve the places of several codes, in order. -/
def State.reserveAll (s : State) (x : LaneIn) : List Nat → List Loc × State
  | [] => ([], s)
  | c :: rest =>
    let r := (s.noteWrite x c).reserve x c
    let q := State.reserveAll r.2 x rest
    ((match r.1 with | some l => [l] | none => []) ++ q.1, q.2)

/-- Put a value into the landing buffer for reserved places (R171). -/
def State.land (s : State) (key : Nat) (writes : List (Loc × Word)) : State :=
  let id := s.nextId
  let s := s.fresh.2
  { s with landings := s.landings.put id { fibre := key, writes := writes } }

/-- Write long-latency results: the destinations are reserved, and the landing buffer delivers (R168, R171). -/
def State.writeLong (s : State) (x : LaneIn) (o : List (Nat × Word)) : State :=
  let r := s.reserveAll x (o.map Prod.fst)
  r.2.land x.key (r.1.zip (o.map Prod.snd))

/-- Write one result at once. Where an earlier lane of the same instruction has written the same s-register, either value
may stand (R10; assumption 9). -/
def State.writeNow (s : State) (x : LaneIn) (shared : List Loc) (code : Nat) (v : Word) : State :=
  let s := s.noteWrite x code
  let again := match x.f.loc code with | some l => shared.contains l | none => false
  if again then
    let d := s.drawBit
    if d.1 then d.2.writeCode x.key code v else d.2
  else s.writeCode x.key code v

/-- Write a lane's results. -/
def State.writeOuts (s : State) (x : LaneIn) (shared : List Loc) (long : Bool) (o : List (Nat × Word)) : State :=
  if long then s.writeLong x o else o.foldl (fun s p => s.writeNow x shared p.1 p.2) s

/-- The s-registers among the destinations of a lane. -/
def sharedOf (f : Fibre) (o : List (Nat × Word)) : List Loc :=
  o.filterMap fun p => if 0x80 ≤ p.1 ∧ p.1 < 0xC0 then f.loc p.1 else none

end Sys2Proof.Machine
end

