-- ==== Sys2Proof/Machine/Exec.lean ====
section
/-! DEFINITION. How an instruction runs on a gang: the checks of R183 in their order, its effect lane by lane, the end of a
run, safe points and filing (R38 to R43, R48, R66, R67, R173 to R177, R183, R203, R221). -/
namespace Sys2Proof.Machine

/-! ### Kinds of instructions -/

/-- The instructions that end a run (R38). -/
def endsRun : Instr → Bool
  | .braQb _ | .braWi _ | .call _ | .calli _ | .jmpi _ | .ret _ | .perform _ | .performv _ | .resume _ | .yield _
  | .krecv _ | .exit _ => true
  | _ => false

/-- The instructions whose run end is a safe point (R40). -/
def endsSafe : Instr → Bool
  | .call _ | .calli _ | .ret _ | .perform _ | .performv _ | .resume _ | .yield _ | .exit _ => true
  | _ => false

/-- The instructions that a spin run does not execute (R48). -/
def breaksSpin : Instr → Bool
  | .stW _ | .stX _ _ | .stq _ | .atom _ | .atomn _ | .scat _ | .cpy _ | .cpy2d _ | .cpyw _ | .qsend _ | .npost _ => true
  | _ => false

/-- The fixed latency of an instruction's results (R175); none for a long-latency producer. -/
def latency : Instr → Option Nat
  | .iaddQ _ | .iaddW _ | .iaddX _ _ | .isubQ _ | .isubW _ | .isubX _ _ | .iminQ _ | .iminW _ | .iminX _ _ | .imaxQ _
  | .imaxW _ | .imaxX _ _ | .iabsQ _ | .iabsW _ | .andQ _ | .andW _ | .andX _ _ | .orQ _ | .orW _ | .orX _ _ | .xorQ _
  | .xorW _ | .xorX _ _ | .andnQ _ | .andnW _ | .andnX _ _ | .notQ _ | .notW _ | .shlQi _ | .shlW _ | .shrQi _ | .shrW _
  | .sarQi _ | .sarW _ | .rotQi _ | .rotW _ | .bfxW _ | .bfxX _ _ | .bfiW _ | .bfiX _ _ | .popcQ _ | .popcW _ | .clzQ _
  | .clzW _ | .brevQ _ | .brevW _ | .prm8W _ | .prm8X _ _ | .movQ _ | .movW _ | .moviQi _ | .moviWi _ | .moviX _ _
  | .leaW _ | .leaX _ _ | .sel _ | .hadd2Q _ | .hadd2W _ | .hmnx2Q _ | .hmnx2W _ | .hmaxd2 _ | .p2g _ => some 1
  | .imulQ _ | .imulW _ | .imulX _ _ | .imulhQ _ | .imulhW _ | .imulhX _ _ | .imadW _ | .imadX _ _ => some 3
  | .faddQ _ | .faddW _ | .faddX _ _ | .fsubQ _ | .fsubW _ | .fsubX _ _ | .fmulQ _ | .fmulW _ | .fmulX _ _ | .fmaW _
  | .fmaX _ _ | .fminQ _ | .fminW _ | .fminX _ _ | .fmaxQ _ | .fmaxW _ | .fmaxX _ _ | .fmovQ _ | .fmovW _ | .fscaleQ _
  | .fscaleW _ | .fscaleX _ _ | .fclassQ _ | .fclassW _ | .frndQ _ | .frndW _ | .hfadd2Q _ | .hfadd2W _ | .hfmul2Q _
  | .hfmul2W _ | .hfma2 _ | .dot4f8 _ | .dot8f4 _ => some 4
  | .cvt _ | .cvtpk _ | .qpack _ | .qunpk _ | .scalex _ => some 3
  | .frcpQ _ | .frcpW _ | .frsqQ _ | .frsqW _ | .fsqrtQ _ | .fsqrtW _ | .fdivQ _ | .fdivW _ | .fdivX _ _ | .fexp2Q _
  | .fexp2W _ | .flog2Q _ | .flog2W _ | .fsinQ _ | .fsinW _ | .fcosQ _ | .fcosW _ | .ftanhQ _ | .ftanhW _ => some 8
  | .perm _ | .shfl _ | .bcast _ => some 3
  | .reduce _ | .scan _ => some 6
  | .icmpW _ | .icmpX _ _ | .fcmpW _ | .fcmpX _ _ | .plog _ | .pnot _ | .g2p _ | .vote _ => some 1
  | _ => none

/-! ### Before the lanes -/

/-- The instruction's own PC for a fibre, as effects record it: a twin that has been replaced is left, and in a twin the canonical
PC is the ORIGIN of the instruction (R203). -/
def State.ownPc (s : State) (f : Fibre) : Pc :=
  match s.codeOf f.tenant f.pc.handle with
  | some e =>
    let pc := f.pc.current e
    match pc.twin with
    | some (c, g) => { pc with off := e.originOf g c }
    | none => pc
  | none => f.pc

/-- A q register of another tenant is named (R274): PRIV at step 2, but for the clerk. -/
def State.queuePriv (s : State) (key tenant : Nat) (form : Form) : Bool :=
  !isClerk key && [form.a, form.b, form.c, form.d].any fun o =>
    let used : Bool := match o.slot with | .src _ | .dst _ | .upd _ | .push | .pop => true | _ => false
    used && isQueue o.code.toNat &&
      (match (s.queueReg (coreOf key) (o.code.toNat - 0xC0)).owner with | some t => decide (t ≠ tenant) | none => false)

/-- The codes that an instruction reads, each as an operand: those of its operands, and the predicates of P2G (R241). -/
def allRefs (i : Instr) (form : Form) : List (Operand × Nat) :=
  readRefs [form.a, form.b, form.c, form.d] ++
    match i with
    | .p2g _ => (upto 0xD1 7).map fun c => ({ code := BitVec.ofNat 8 c, t := false, l := false, slot := .src false }, c)
    | _ => []

/-- The operand code that breaks the latency contract first, with the earliest result it needs (R175 to R177). -/
def tooEarly (g : Gang) (i : Instr) (form : Form) : Option (Operand × Recent) :=
  (allRefs i form).findSome? fun r =>
    match g.recent.find? fun p => decide (p.code = r.2) with
    | some p => if g.pos - p.pos < p.distance then some (r.1, p) else none
    | none => none

/-- The LATENCY effect of a consumer (R177). -/
def latencyEffect (g : Gang) (own : Pc) (o : Operand) (p : Recent) : Effect :=
  effectOf own 14 p.pc (BitVec.ofNat 64 (o.code.toNat + (p.distance - (g.pos - p.pos)) * 256))

/-- What the reading of a lane's operands came to. -/
inductive LaneRead where
  | skip
  | stopped (r : LaneRes)
  | ready (x : LaneIn) (taken : Taken)
  deriving DecidableEq, Repr

/-- One lane of the reading pass. -/
structure ReadLane where
  key : Nat
  lane : Nat
  own : Pc
  next : Pc
  read : LaneRead
  deriving DecidableEq, Repr

/-- Read one lane (R183, steps 4 and 5): a lane whose guard is false reads nothing (R158). -/
def State.readOne (s : State) (form : Form) (parcels core : Nat) (m : Nat × Nat) : Option (ReadLane × State) :=
  let key := fibreKey core m.2
  match s.fibres.find key with
  | none => none
  | some f =>
    let own := s.ownPc f
    let next := s.advance f.tenant own parcels
    let out := fun (r : LaneRead) (s : State) =>
      (({ key := key, lane := m.1, own := own, next := next, read := r } : ReadLane), s)
    let p := form.hdr.pred.toNat
    if p ≠ 0 ∧ f.preds.getLsbD p = false then some (out .skip s)
    else
      match s.sourceStop key f own [form.a, form.b, form.c, form.d] with
      | some r => some (out (.stopped r) s)
      | none =>
        let r := s.readLane key m.1 f own next form
        some (out (.ready r.1 r.2.1) r.2.2)

/-- Read every lane, in increasing lane order. -/
def State.readLanes (s : State) (form : Form) (parcels core : Nat) : List (Nat × Nat) → List ReadLane × State
  | [] => ([], s)
  | m :: rest =>
    match s.readOne form parcels core m with
    | none => State.readLanes s form parcels core rest
    | some (r, s) =>
      let q := State.readLanes s form parcels core rest
      (r :: q.1, q.2)

/-! ### Lane by lane -/

/-- What the lanes so far have left: whether a backward branch was taken, the park that every later lane takes with the
first lane that found a queue full, and the s-registers written. -/
structure Lanes where
  back : Bool
  blocked : Option Park
  shared : List Loc
  s : State
  deriving DecidableEq, Repr

/-- A fibre is killed when its lane is masked off (R51). -/
def State.maskedKill (s : State) (key : Nat) : State :=
  match s.fibres.find key with
  | some f => if f.killOrdered ∧ f.state ≠ .issuing then s.killNow key else s
  | none => s

/-- A park that blocks the later lanes of the instruction (R275, R276). -/
def blocking : Park → Bool
  | .register (.queueRoom _) => true
  | .register (.room _ _) => true
  | _ => false

/-- A lane is masked off by an effect at once (R39, R183); what it took is given back. -/
def Lanes.effect (a : Lanes) (key : Nat) (taken : Taken) (e : Effect) : Lanes :=
  { a with s := ((a.s.unpop (coreOf key) taken).perform key e).maskedKill key }

/-- A lane parks at the instruction; what it took is given back. -/
def Lanes.park (a : Lanes) (key : Nat) (taken : Taken) (w : Park) : Lanes :=
  { a with s := ((a.s.unpop (coreOf key) taken).park key w).maskedKill key,
           blocked := if blocking w then some w else a.blocked }

/-- How the destinations of a lane stop it: by the registers before the instruction, and by the room of queues now. -/
def Lanes.stopAt (a : Lanes) (pre : State) (x : LaneIn) (codes : List Nat) : Option LaneRes :=
  (pre.destStop x codes).or (a.s.queueStop (coreOf x.key) codes)

/-- A lane's registers, flags and PC after results (R104). -/
def Lanes.commit (a : Lanes) (x : LaneIn) (long : Bool) (o : List (Nat × Word)) (flags : Flags) (seed : Option Word) :
    Lanes :=
  let s := a.s.writeOuts x a.shared long o
  let s := s.modFibre x.key fun f =>
    let f := { f with pc := x.next, fsr := match seed with | some v => withSeed f.fsr v | none => f.fsr }
    f.raise flags x.own.pointer
  { a with s := s, shared := a.shared ++ sharedOf x.f o }

/-- Give a lane its outcome, after its results have been checked against their destinations. `pre` is the state before the
instruction. -/
def Lanes.finish (pre : State) (x : LaneIn) (taken : Taken) (res : LaneRes) (a : Lanes) : Lanes :=
  let key := x.key
  match res with
  | .outs long o flags seed =>
    match a.stopAt pre x (o.map Prod.fst) with
    | some (.effect e) => a.effect key taken e
    | some (.park w) => a.park key taken w
    | _ => a.commit x long o flags seed
  | .outsIn s o =>
    match a.stopAt pre x (o.map Prod.fst) with
    | some (.effect e) => a.effect key taken e
    | some (.park w) => a.park key taken w
    | _ => Lanes.commit { a with s := s } x true o 0 none
  | .checked codes r =>
    match a.stopAt pre x codes with
    | some (.effect e) => a.effect key taken e
    | some (.park w) => a.park key taken w
    | _ => Lanes.finish pre x taken r a
  | .next s => { a with s := s.modFibre key fun f => { f with pc := x.next } }
  | .jump s pc back => { a with s := s.modFibre key fun f => { f with pc := pc }, back := a.back || back }
  | .effect e => a.effect key taken e
  | .effectIn s e => Lanes.effect { a with s := s } key taken e
  | .park w => a.park key taken w
  | .waitIn s w => Lanes.park { a with s := s } key taken w
  | .parkIn s w => { a with s := (s.park key w).maskedKill key, blocked := if blocking w then some w else a.blocked }
  | .stop s => { a with s := s.maskedKill key }

/-- A lane that reads nothing has its own PC and registers only. -/
def ReadLane.bare (r : ReadLane) (f : Fibre) : LaneIn :=
  { key := r.key, lane := r.lane, f := f, own := r.own, next := r.next, a := 0, b := 0, c := 0, d := 0, run := [] }

/-- Run one lane. -/
def Lanes.lane (body : LaneIn → State → LaneRes) (pre : State) (a : Lanes) (r : ReadLane) : Lanes :=
  match a.s.fibres.find r.key with
  | none => a
  | some f =>
    if f.state ≠ .issuing then a
    else
      match r.read with
      | .skip => { a with s := a.s.modFibre r.key fun f => { f with pc := r.next } }
      | .stopped res => Lanes.finish pre (r.bare f) .none res a
      | .ready x taken =>
        match a.blocked with
        | some w => Lanes.finish pre x taken (.park w) a
        | none => Lanes.finish pre x taken (body { x with f := f } a.s) a

/-- The members of a gang all perform an effect, each at its own PC (R183). -/
def State.allPerform (s : State) (core : Nat) (members : List (Nat × Nat)) (e : Pc → Effect) : State :=
  members.foldl (fun s m =>
    let key := fibreKey core m.2
    match s.fibres.find key with
    | some f => if f.state = .issuing then (s.perform key (e (s.ownPc f))).maskedKill key else s
    | none => s) s

/-! ### The end of a run -/

/-- Cycles of a run of `n` instructions (R66, R173; assumption 10): one for each in cured text, two in uncured. -/
def State.runCycles (s : State) (g : Gang) (n : Nat) : Nat := if s.isCured g.tenant g.runStart then n else 2 * n

/-- Charge the n-th instruction of a run to the launch's account and to its crew (R66): after n instructions the charges
add up to W × cycles / 128. The clerk is charged to no one. -/
def State.chargeStep (s : State) (g : Gang) (n : Nat) : State :=
  match s.sched.launches.find g.launch with
  | none => s
  | some l =>
    let used := g.width * s.runCycles g n / 128 - g.width * s.runCycles g (n - 1) / 128
    let s := s.charge (if l.record.tokcls = 0xFF then 128 else g.tenant) used
    match g.members.findSome? fun m => (s.fibres.find (fibreKey g.core m.2)).bind fun f => f.crew with
    | some c => s.modCrew c fun k => { k with cycles := k.cycles + used }
    | none => s

/-- At the end of a run of n instructions, the core's counter of the tenant falls; it is 0 where the tenant has no fibre
left there (R67). -/
def State.chargeEnd (s : State) (g : Gang) (n : Nat) : State :=
  match s.sched.launches.find g.launch with
  | none => s
  | some _ =>
    let left := fun (w : Int) => max (w - (g.width * s.runCycles g n : Nat)) (-(2 ^ 24 : Int))
    s.modUnit g.core fun u =>
      { u with wdc := if s.tenantHere g.core g.tenant then u.wdc.put g.tenant (left (u.wdc.get g.tenant 0))
                 else u.wdc.del g.tenant }

/-- A fibre that leaves a safe point finds g(LIVE) to g127 full (R42): those that awaited a value keep the one before it,
and what was on its way to them goes nowhere (crew 0 does not exist; DEDUCED, assumption 73). -/
def State.liveFull (s : State) (key : Nat) : State :=
  match s.fibres.find key with
  | none => s
  | some f =>
    let dead := ((upto f.live (128 - f.live)).map f.gLoc).filter fun l => decide ((s.cell l).mark ≠ .full)
    if dead.isEmpty then s
    else
      dead.foldl (fun s l => s.markCell l .full) (s.retarget fun l => if dead.contains l then .shared 0 0 else l)

/-- What a fibre does at a safe point (R41, R51, R221): it is killed, or performs the first of its oldest pending fault, an
enabled ARITH and its request. -/
def State.safePoint (s : State) (key : Nat) (own : Pc) : State :=
  match s.fibres.find key with
  | none => s
  | some f =>
    if f.state ≠ .issuing then s
    else if f.killOrdered then s.killNow key
    else
      let pc := if f.request.isSome then own else f.pc
      if !f.pending.isEmpty then (s.liveFull key).perform key (f.pageFault pc)
      else if f.trapping then (s.liveFull key).performArith key f f.flags pc
      else
        match f.request with
        | some (.perform e) => (s.liveFull key).perform key e
        | some (.resume h v wide) => s.resume key h v wide own f.pc
        | none => s

/-- Write a value of a fibre's landing to its destination (R168, R171): a register is full; a queue place holds its word;
a predicate is set. -/
def State.writeLanding (s : State) (fibre : Option Nat) (w : Loc × Word) : State :=
  match w.1 with
  | .queue core q place =>
    (s.modUnit core fun u =>
      { u with queues := u.queues.modify q fun r =>
          { r with places := r.places.map fun p => if p.place = place then { p with word := some w.2 } else p } }).wake core
  | .pred fibre i => s.setPred fibre i (decide (w.2 ≠ 0))
  | .shared crew i =>
    let s := s.writeCell (.shared crew i) w.2
    match fibre with | some key => s.wakeCrew key (some crew) | none => s
  | .frame seg i => (s.writeCell (.frame seg i) w.2).touch seg

/-- Deliver a landing. -/
def State.deliverLanding (s : State) (id : Nat) : State :=
  match s.landings.find id with
  | none => s
  | some l =>
    let s := { s with landings := s.landings.del id }
    (l.writes.foldl (State.writeLanding · (some l.fibre)) s).recheck (coreOf l.fibre)

/-- Deliver every landing of some fibres (R43). -/
def State.flushLandings (s : State) (keys : List Nat) : State :=
  ((s.landings.select fun _ l => keys.contains l.fibre).map Prod.fst).foldl State.deliverLanding s

/-- Results of ordering and engine operations that are still due to registers of some fibres (R43). -/
def State.owing (s : State) (keys : List Nat) : Bool :=
  let reg := fun (l : Loc) => match l with | .queue _ _ _ => false | _ => true
  (s.coh.ops.any fun p => (match p.2.fibre with | some k => keys.contains k | none => false) && p.2.targets.any reg) ||
    s.engine.any fun p => keys.contains p.2.fibre && p.2.job.targets.any reg

/-- At the end of a run a fibre leaves a twin that has been replaced (R201, R203). -/
def State.leaveTwin (s : State) (key : Nat) : State := s.modFibre key fun f => { f with pc := s.freshPc f.tenant f.pc }

/-- A fibre in the canonical text of an object with a twin changes over at a safe point (R203). -/
def State.changeOver (s : State) (key : Nat) : State :=
  s.modFibre key fun f =>
    { f with pc := if f.pc.twin.isNone then s.enter f.tenant f.pc.handle f.pc.off else s.freshPc f.tenant f.pc }

/-- A run was a spin run (R48): it ends at its own first instruction and every register it wrote is as before. -/
def State.spun (s : State) (g : Gang) (pc : Pc) (back : Bool) : Bool :=
  back && decide (pc = g.runStart) && g.spinning && g.before.all fun p =>
    match s.fibres.find (fibreKey g.core (p.1 / 256)) with
    | some f => decide ((s.codeCell f (p.1 % 256)).val = p.2.val)
    | none => true

/-- Count a run of a gang for the stall from which it was drawn (R48, R346): SPIN_N spin runs in a row demote the stall, and the
count starts anew. The clerk's stall is never demoted (R49). -/
def State.countSpin (s : State) (g : Gang) (spun : Bool) : State :=
  let n := s.coreF g.core 0x100 23 16
  let key : StallKey := { tenant := g.tenant, launch := g.launch, pc := g.stall }
  let reached := fun (t : Stall) => spun && decide (n ≠ 0) && decide (n ≤ t.spins + 1)
  let hit := (s.unit g.core).stalls.any fun t => decide (t.key = key) && reached t && !t.demoted
  let upd := fun (t : Stall) =>
    if t.key = key then
      { t with spins := if spun && !t.demoted && !reached t then t.spins + 1 else 0, demoted := t.demoted || reached t }
    else t
  if g.members.any fun m => isClerk (fibreKey g.core m.2) then s
  else
    let s := s.modUnit g.core fun u => { u with stalls := u.stalls.map upd }
    if hit then
      (s.setCoreF g.core 0x108 31 16 (s.coreF g.core 0x108 31 16 + 1)).raiseCore g.core 0x0008 g.tenant
        g.stall.off.toNat 0
    else s

/-- The runs that a kill outside an instruction has cut off end there, each with the cycles that it has run (R67), and as no spin
runs (R48). `before` is the state before the kill. -/
def State.endRuns (s before : State) : State :=
  before.gangs.foldl (fun s p =>
    if (s.gangs.find p.1).isSome then s
    else
      let s := if p.2.leaving.isSome then s else s.chargeEnd p.2 p.2.runLen
      s.countSpin p.2 false) s

/-- File the fibres of a gang whose lanes are given up (R38), which is their last use of their frames (R75). -/
def State.fileGang (s : State) (gid : Nat) (g : Gang) (whole : Bool) : State :=
  let s := { s with gangs := s.gangs.del gid }
  let s := g.members.foldl (fun s m => s.touchTop (fibreKey g.core m.2)) s
  let s := g.members.foldl (fun s m => s.modFibre (fibreKey g.core m.2) fun f =>
    { f with lane := m.1, reform := false }) s
  if whole then s.fileHeld g.core g.members
  else g.members.foldl (fun s m => s.file (fibreKey g.core m.2)) s

/-- The PC that every remaining lane goes to, where they agree. -/
def State.commonPc (s : State) (g : Gang) : Option Pc :=
  match g.members.filterMap fun m => (s.fibres.find (fibreKey g.core m.2)).map fun f => f.pc with
  | p :: rest => if rest.all fun q => decide (q = p) then some p else none
  | [] => none

/-- The lanes left after a run end: the gang persists, is filed whole, or its fibres are filed singly (R38). At a safe point
it keeps its lanes until every return aimed at a register of its lanes has been written (R43). -/
def State.settleGang (s : State) (gid rb : Nat) (safe back : Bool) : State :=
  match s.gangs.find gid with
  | none => s
  | some g =>
    let keys := g.members.map fun m => fibreKey g.core m.2
    let single := decide (rb = 3) || g.reform
    match s.commonPc g, safe || single with
    | some pc, false =>
      let s := keys.foldl State.leaveTwin (s.countSpin g false)
      s.modGang gid fun g => { g with runLen := 0, runStart := s.freshPc g.tenant pc, spinning := true, before := [] }
    | pc, _ =>
      let s := if safe then s.flushLandings keys else s
      if safe && s.owing keys then s.modGang gid fun g => { g with leaving := some (rb, back) }
      else
        let s := if safe then keys.foldl State.liveFull s else s
        let s := s.countSpin g (match pc with | some p => s.spun g p back | none => false)
        let s := if safe then keys.foldl State.changeOver s else keys.foldl State.leaveTwin s
        keys.foldl State.maskedKill (s.fileGang gid g (pc.isSome && safe && !single && !(keys.any isClerk)))

/-- The gangs that wait to leave their lanes, and have no return to wait for any more, leave them (R43). -/
def State.settleLeaving (s : State) : State :=
  s.gangs.foldl (fun s p =>
    match s.gangs.find p.1 with
    | some g =>
      match g.leaving with
      | some (rb, back) =>
        if s.owing (g.members.map fun m => fibreKey g.core m.2) then s else s.settleGang p.1 rb true back
      | none => s
    | none => s) s

/-- The PC of each member at the instruction just run. -/
def ownOf (rs : List ReadLane) (key : Nat) : Pc :=
  match rs.find? fun r => decide (r.key = key) with
  | some r => r.own
  | none => { handle := 0, off := 0, twin := none }

/-- The g, s, q and p registers that an instruction names as its destinations (R164, R218, R240, R256). -/
def destCodes (i : Instr) (form : Form) : List Nat :=
  let named := [form.a, form.b, form.c, form.d].flatMap fun o =>
    let c := o.code.toNat
    match o.slot with
    | .dst true | .upd true => [c, c + 1]
    | .dst false | .upd false => [c]
    | .dsts k => upto c k
    | _ => []
  let more := match i with
    | .hinst f => upto (fld f.mod 0 4 * 8) 8
    | .g2p _ => upto 0xD1 7
    | .acq f => if fld f.sub 2 3 = 0 then [] else [0xD0 + fld f.sub 2 3]
    | _ => []
  (named ++ more).filter fun c => decide (c < 0xD0 ∨ 0xD1 ≤ c ∧ c < 0xD8)

/-- Remember the fixed-latency results of an instruction (R174 to R176): one forwarding crossing for an s-register. -/
def recentOf (i : Instr) (codes : List Nat) (g : Gang) (pc : DWord) : List Recent :=
  match latency i with
  | none => []
  | some n => codes.map fun c => { code := c, pos := g.pos, distance := if 0x80 ≤ c ∧ c < 0xC0 then n + 1 else n, pc := pc }

/-- A lane has taken words from q registers. -/
def ReadLane.took (r : ReadLane) : Bool := match r.read with | .ready _ t => !t.words.isEmpty | _ => false

/-- Where words have been taken from q registers of a core, the fibres of its cluster that wait for room there look again (R167,
R275, R276). -/
def State.popsSeen (s : State) (core : Nat) (rs : List ReadLane) : State :=
  if rs.any ReadLane.took then (upto (clusterOf core * 8) 8).foldl State.recheck s else s

/-- After the lanes: the gang's sequence moves on, and where the run ends its lanes are settled (R38 to R43). A run whose
lanes have all left is no spin run (R48). -/
def State.afterLanes (s : State) (i : Instr) (form : Form) (g0 : Gang) (rs : List ReadLane) (back : Bool) : State :=
  let gid := s.cur
  let n := g0.runLen + 1
  let rb := form.hdr.rb.toNat
  let ends := decide (rb ≠ 0) || endsRun i || decide (24 ≤ n)
  let pc := match rs with | r :: _ => r.own.pointer | [] => 0
  let s := (s.popsSeen g0.core rs).modGang gid fun g =>
    let codes := destCodes i form
    let old := g.recent.filter fun p => decide (g.pos < p.pos + 10) && !codes.contains p.code
    let stores := breaksSpin i && rs.any fun r => decide (r.read ≠ .skip)
    { g with runLen := n, pos := g.pos + 1, recent := recentOf i codes g pc ++ old, spinning := g.spinning && !stores }
  let gone := fun (s : State) => (s.gangs.find gid).isNone
  if !ends then (if gone s then (s.chargeEnd g0 n).countSpin g0 false else s)
  else
    let safe := decide (2 ≤ rb) || back || endsSafe i
    let s := s.chargeEnd g0 n
    let s := if safe then
        g0.members.foldl (fun s m => let k := fibreKey g0.core m.2; s.safePoint k (ownOf rs k)) s
      else s
    if gone s then s.countSpin g0 false else s.settleGang gid rb safe back

/-! ### The driver -/

/-- An instruction that fails for every lane before its guard is looked at (R183): its cycles are charged like any other's (R66),
and every lane performs an effect. -/
def State.allFail (s : State) (i : Instr) (form : Form) (g : Gang) (e : Pc → Effect) : State :=
  ((s.chargeStep g (g.runLen + 1)).allPerform g.core g.members e).afterLanes i form g [] false

/-- The lanes of an instruction whose encoding is sound and which every active lane may execute. -/
def State.runLanes (s : State) (i : Instr) (form : Form) (g : Gang) (body : LaneIn → State → LaneRes) : State :=
  match (if s.isCured g.tenant ((s.fibres.find (fibreKey g.core (g.members.headD (0, 0)).2)).elim g.runStart Fibre.pc)
      then tooEarly g i form else none) with
  | some (o, p) =>
    s.allFail i form g fun own => latencyEffect g own o p
  | none =>
    let pre := s.chargeStep g (g.runLen + 1)
    let r := pre.readLanes form (encode i).length g.core g.members
    let a := r.1.foldl (Lanes.lane body pre) { back := false, blocked := none, shared := [], s := r.2 }
    a.s.afterLanes i form g r.1 a.back

/-- Run an instruction on the gang that issues (R183). `priv` is the privilege check of its description. -/
def State.lanes (s : State) (i : Instr) (priv : Nat → Bool) (body : LaneIn → State → LaneRes) :
    Host.Outcome State Fault Refusal :=
  match s.gangs.find s.cur, i.form with
  | some g, some form =>
    if i.wellFormed = false then
      .next (s.allFail i form g fun own => effectOf own 12 0 0)
    else if g.members.any fun m =>
        let key := fibreKey g.core m.2
        priv key || s.queuePriv key g.tenant form then
      .next (s.allFail i form g fun own => effectOf own 13 0 0)
    else .next (s.runLanes i form g body)
  | _, _ => .next s

/-- An instruction without a privilege check of its own. -/
def State.plain (s : State) (i : Instr) (body : LaneIn → State → LaneRes) : Host.Outcome State Fault Refusal :=
  s.lanes i (fun _ => false) body

end Sys2Proof.Machine
end

