-- ==== Sys2Proof/Machine/Launching.lean ====
section
/-! DEFINITION. Launch: the record, its checks, the head of a queue, the placement of bands, and the arbitration between
queues (R23 to R26, R53 to R59, R64 to R66, R120). -/
namespace Sys2Proof.Machine

/-- The launch scheduler's agent identifier (R16, R17). -/
def schedulerAgent : Nat := 6 * 512 + 2

/-! ### The service agents' accesses (R17) -/

/-- The pages of a range are readable or writable by a master class of a function, under one window (R368). -/
def State.mayReach (s : State) (vf cls va n : Nat) (write : Bool) : Bool :=
  let pages := (pagesOf va n).map fun p => s.translate vf cls (p * 4096) write
  pages.all (fun x => decide (x ≠ .fault ∧ x ≠ .soft)) &&
    s.targetsOk vf cls (pages.filterMap fun x =>
      match x with | .ok pa => if inAperture pa then none else some pa | _ => none) write

/-- The physical address of a byte for a master class, where the access may be made: not through the aperture, and not to
a page of the port that is not ACTIVE. -/
def State.agentAddress (s : State) (vf cls va : Nat) (write : Bool) : Option Nat :=
  match s.translate vf cls va write with
  | .ok pa => if inAperture pa then none else some pa
  | _ => none

/-- Bytes read at their homes by a service agent; none where an access is refused or a line is poisoned. -/
def State.agentRead (s : State) (vf cls va : Nat) : Nat → Option (List Byte)
  | 0 => some []
  | n + 1 =>
    match s.agentAddress vf cls va false, State.agentRead s vf cls (va + 1) n with
    | some pa, some rest => if s.isPoisoned (lineOf pa) then none else some (s.store.phys.read pa :: rest)
    | _, _ => none

/-- A write of an aligned word at its home by a service agent (R17, R127); a refused one is dropped and counted. Answers
the write's line and number. -/
def State.agentWrite (s : State) (vf va : Nat) (data : List Byte) : List (Nat × Nat) × State :=
  match s.agentAddress vf 6 va true with
  | some pa =>
    if s.isSealed (lineOf pa) then ([], s.countMgmt 0x7018 31 16)
    else
      let r := s.sendHome none vf (lineOf pa) (cellsAt pa data)
      ([(lineOf pa, r.1)], r.2)
  | none => ([], s.countMgmt 0x7018 31 16)

/-! ### The record (R53) -/

/-- A launch record from its 128 bytes. -/
def LaunchRecord.ofBytes (b : List Byte) : LaunchRecord :=
  { code := BitVec.ofNat 32 (field b 0 4), entry := field b 4 2, flags := BitVec.ofNat 16 (field b 6 2),
    widths := (List.range 6).map fun i => bits (field b 8 8) (6 * i + 5) (6 * i),
    counts := (List.range 6).map fun i => field b (16 + 2 * i) 2 + 1,
    frameW := field b 32 2, partFrame := field b 34 1, partScratch := field b 35 1, partWeight := field b 36 1,
    partCache := field b 37 1, actx := BitVec.ofNat 4 (field b 38 1), tokcls := field b 39 1, prio := field b 40 1,
    args := field b 48 8, start := field b 56 8, depAddr := field b 64 8, depVal := field b 72 8,
    doneAddr := field b 80 8, doneVal := BitVec.ofNat 64 (field b 88 8), msix := field b 96 2,
    runlim := field b 100 4 }

/-- A bit of FLAGS. -/
def LaunchRecord.flag (r : LaunchRecord) (i : Nat) : Bool := r.flags.getLsbD i

/-- The product of some counts (R24); an empty product is 1. -/
def product (l : List Nat) : Nat := l.foldl (· * ·) 1

/-- The fibres of a crew (R24). -/
def LaunchRecord.crewSize (r : LaunchRecord) : Nat := product (r.counts.take (crewLevel r))

/-- The crews of a band (R24). -/
def LaunchRecord.bandSize (r : LaunchRecord) : Nat := product ((r.counts.take (bandLevel r)).drop (crewLevel r))

/-- The bands of a launch. -/
def LaunchRecord.bands (r : LaunchRecord) : Nat := product (r.counts.drop (bandLevel r))

/-- The fields from Fi on hold the mixed-radix digits of a number, lowest first (R23). -/
def digitsAt (widths counts : List Nat) (shift i n : Nat) : Nat :=
  match widths, counts with
  | w :: ws, c :: cs => i % c * 2 ^ shift + digitsAt ws cs (shift + w) (i / c) (n - 1)
  | _, _ => 0

/-- The work ID whose fields lo to hi − 1 hold the number `i` (R23). -/
def LaunchRecord.widOf (r : LaunchRecord) (lo hi i : Nat) : Nat :=
  digitsAt ((r.widths.take hi).drop lo) ((r.counts.take hi).drop lo) (levelBit r lo) i (hi - lo)

/-- The conditions of R25 but GW. -/
def LaunchRecord.widBad (r : LaunchRecord) : Bool :=
  decide (64 < r.widths.foldl (· + ·) 0) || (r.widths.zip r.counts).any (fun p => decide (2 ^ p.1 < p.2)) ||
    decide (6 < crewLevel r) || decide (6 < bandLevel r) || decide (bandLevel r < crewLevel r) ||
    decide (1024 < r.crewSize)

/-- GRANULES of a launch that are not SCRATCH, on a core that it has to itself. -/
def LaunchRecord.fixedGranules (r : LaunchRecord) : Nat := r.partFrame + r.partWeight + r.partCache

/-- The most crews of a launch that one core could ever hold (R26, R59): 4095 descriptors, 24 granules. -/
def LaunchRecord.crewsPerCore (r : LaunchRecord) : Nat :=
  let byFibres := 4095 / max 1 r.crewSize
  if r.partScratch = 0 then byFibres else min byFibres ((24 - r.fixedGranules) / r.partScratch)

/-- The clusters where crews of a function may be placed (R68). -/
def State.clustersOf (s : State) (vf : Nat) : List Nat :=
  (List.range 32).filter fun c => decide (s.partitionOfCluster c = s.partitionOf vf)

/-- An address of a record that is used is misaligned or not translated (R54). -/
def State.addrBad (s : State) (vf : Nat) (r : LaunchRecord) : Bool :=
  (decide (r.args ≠ 0) && (decide (r.args % 64 ≠ 0) || !s.mayReach vf 6 r.args 256 false)) ||
    (r.flag 2 && (decide (r.depAddr % 8 ≠ 0) || !s.mayReach vf 6 r.depAddr 8 false)) ||
    (decide (r.doneAddr ≠ 0) && (decide (r.doneAddr % 8 ≠ 0) || !s.mayReach vf 6 r.doneAddr 8 true))

/-- A token class that its queue does not permit (R53, R55). -/
def State.tokenBad (s : State) (vf q : Nat) (r : LaunchRecord) : Bool :=
  match r.tokcls with
  | 0 => decide (s.queueF vf q 8 9 9 = 0)
  | 1 => decide (s.queueF vf q 8 10 10 = 0)
  | 0xFF => decide (s.queueF vf q 8 11 11 = 0)
  | _ => true

/-- The codes of every refusal of a record (R54). A vector is enabled where its number is below 256 and it is not
masked. -/
def State.recordErrors (s : State) (vf q : Nat) (r : LaunchRecord) : List Nat :=
  let e := s.codeOf vf r.code
  let meets := fun (p : CodeEntry → Bool) => match e with | some c => p c | none => false
  let tests : List (Nat × Bool) :=
    [ (1, r.widBad),
      (2, decide (bits r.flags.toNat 5 4 = 3) || meets fun c => decide (bits c.gwmask (bits r.flags.toNat 5 4) (bits r.flags.toNat 5 4) = 0)),
      (3, e.isNone),
      (4, meets fun c => decide (c.entries.length ≤ r.entry)),
      (5, decide (r.frameW < 128 ∨ 248 < r.frameW ∨ r.frameW % 8 ≠ 0) || meets fun c => decide (r.frameW < c.frameW)),
      (6, decide (r.partFrame < 4 ∨ r.partCache < 2 ∨ 24 < r.fixedGranules + r.partScratch)),
      (7, decide (r.actx &&& ~~~(BitVec.ofNat 4 (s.mgmtF (0x2000 + 0x10 * vf) 59 56)) ≠ 0)),
      (8, s.tokenBad vf q r),
      (9, r.flag 3 && (decide (256 ≤ r.msix) || s.vectorMasked vf r.msix)),
      (10, s.addrBad vf r),
      (11, (s.clustersOf vf).isEmpty || decide (8 * r.crewsPerCore < r.bandSize)),
      (12, meets fun c => decide (1 < c.model)) ]
  (tests.filter Prod.snd).map Prod.fst

/-- One of several causes: which one is reported the specification leaves open. -/
def State.pickOne (s : State) : List Nat → Nat × State
  | [] => (0, s)
  | [c] => (c, s)
  | c :: rest =>
    let d := s.drawBit
    if d.1 then (c, d.2) else State.pickOne d.2 rest

/-! ### The head of a queue -/

/-- A function consumes records: no FLR of it is in progress, and its TDISP interface is not in ERROR (R371, R376). -/
def State.mayConsume (s : State) (vf : Nat) : Bool := decide (s.tdisp vf ≠ .error) && (s.plat.flr.find vf).isNone

/-- The key of a queue. -/
def queueKey (vf q : Nat) : Nat := vf * 64 + q

/-- What the scheduler holds of a queue. -/
def State.queue (s : State) (vf q : Nat) : QueueUnit := s.sched.queues.get (queueKey vf q) .reset

/-- Change what the scheduler holds of a queue. -/
def State.modQueue (s : State) (vf q : Nat) (g : QueueUnit → QueueUnit) : State :=
  s.modSched fun c => { c with queues := c.queues.put (queueKey vf q) (g (s.queue vf q)) }

/-- Slots of a queue's ring (R55). -/
def State.ringSize (s : State) (vf q : Nat) : Nat := 2 ^ s.queueF vf q 8 4 0

/-- The ring holds records (R55). -/
def State.ringHolds (s : State) (vf q : Nat) : Bool :=
  decide (s.queueF vf q 0x10 15 0 % s.ringSize vf q ≠ s.queueF vf q 0x18 15 0 % s.ringSize vf q)

/-- Refuse the head record (R54). -/
def State.refuse (s : State) (vf q code : Nat) : State :=
  let slot := s.queueF vf q 0x18 15 0 % s.ringSize vf q
  let s := s.setQueueF vf q 0x28 7 0 code
  let s := s.setQueueF vf q 0x28 23 8 slot
  let s := s.setQueueF vf q 0x28 24 24 1
  s.raiseVector vf (s.queueF vf q 8 23 16)

/-- The wait for a dependence word begins (R58): the scheduler watches the word at its home, as an acquire. -/
def State.watchDepend (s : State) (vf q : Nat) (r : LaunchRecord) : State :=
  match s.agentAddress vf 6 r.depAddr false with
  | none => s
  | some pa =>
    let id := s.nextId
    let o : OrdOp :=
      { kind := .depend vf q, stage := .watching, agent := schedulerAgent, fibre := none, vf := vf, space := 0,
        addr := pa, size := 8, scope := 5, value := BitVec.ofNat 64 r.depVal, value2 := 0, targets := [],
        writes := [], lines := [], hostWrites := [], lost := false, result := 0, since := s.gtc }
    let s := (s.fresh.2).setOrd id o
    (s.modQueue vf q fun u => { u with watching := true }).serve id

/-- Look at the record at the head of a queue (R54, R56): it is read, checked, refused or taken up. A function in TDISP
ERROR, or under an FLR, consumes none (R371, R376). DESIGN CHOICE: a slot that cannot be read (not translated, refused by a
window, or poisoned) is refused with code ADDR; R17 and R54 say nothing of it (assumption 60). -/
def State.checkHead (s : State) (vf q : Nat) : State :=
  if s.mayConsume vf = false then s
  else if s.queueF vf q 8 15 15 = 0 ∨ s.queueF vf q 0x28 24 24 = 1 ∨ (s.queue vf q).head.isSome = true ∨
      s.ringHolds vf q = false then s
  else
    let at_ := s.bar0 vf (queueOff q 0) / 128 * 128 + 128 * (s.queueF vf q 0x18 15 0 % s.ringSize vf q)
    match s.agentRead vf 6 at_ 128 with
    | none => s.refuse vf q 10
    | some b =>
      let r := LaunchRecord.ofBytes b
      match s.pickOne (s.recordErrors vf q r) with
      | (0, s) =>
        if r.flag 2 ∧ (s.agentAddress vf 6 r.depAddr false).isNone = true then s.refuse vf q 10
        else
          let s := s.modQueue vf q fun u =>
            { u with head := some r, dependMet := !r.flag 2, watching := false, ready := false, launch := none }
          if r.flag 2 then s.watchDepend vf q r else s
      | (code, s) => s.refuse vf q code

/-- The head record becomes ready when its dependence is met and its time has come (R58). -/
def State.checkReady (s : State) (vf q : Nat) : State :=
  let u := s.queue vf q
  match u.head with
  | none => s
  | some r =>
    let due := !r.flag 1 || decide ((r.start : Int) - 1000 * s.mgmtF 0x1F08 15 0 ≤ s.ptp.toNat)
    if u.dependMet && due then s.modQueue vf q fun u => { u with ready := true } else s

/-! ### Placement (R59, R120) -/

/-- Granules of a core's split, in the order FRAME, SCRATCH, WEIGHT, CACHE: the one it is changing to where it changes. -/
def State.split (s : State) (core : Nat) : List Nat :=
  match (s.unit core).repartition with
  | some w => w
  | none => [s.coreF core 0x110 7 0, s.coreF core 0x110 15 8, s.coreF core 0x110 23 16, s.coreF core 0x110 31 24]

/-- The granules of a region of a core that operations of killed fibres touch: they are not reassigned before these end (R51,
R311). -/
def State.pinned (s : State) (core : Nat) (weight : Bool) : List Nat :=
  s.engine.flatMap fun (p : Nat × EngineOp) =>
    let o : EngineOp := p.2
    let dead : Bool := (s.fibres.find o.fibre).any fun (f : Fibre) => decide (f.state = .killed)
    let here := o.granules.filter fun (g : Nat × Bool × Nat) => decide (g.1 = core) && decide (g.2.1 = weight)
    if dead then here.map fun g => g.2.2 else []

/-- The granules of a region that cannot be assigned: those held, and those that operations of killed fibres touch. -/
def State.taken (s : State) (core : Nat) (weight : Bool) : Tbl (Nat × Nat) :=
  let u := s.unit core
  (s.pinned core weight).foldl (fun (t : Tbl (Nat × Nat)) g => if (t.find g).isNone then t.put g (0, 0) else t)
    (if weight then u.weight else u.scratch)

/-- The first base from which `n` granules are free, those beyond the region counting as free. -/
def freeRun (t : Tbl (Nat × Nat)) (size n : Nat) : Nat :=
  ((List.range (size + 1)).find? fun b => (upto b n).all fun g => (t.find g).isNone).getD size

/-- One more than the highest granule held. -/
def heldTop (t : Tbl (Nat × Nat)) : Nat := t.foldl (fun m p => max m (p.1 + 1)) 0

/-- The crews that are resident on a core. -/
def State.crewsOn (s : State) (core : Nat) : Tbl Crew := s.sched.crews.select fun _ k => decide (k.core = core) && !k.ended

/-- The record of a launch. -/
def State.recordOf (s : State) (launch : Nat) : Option LaunchRecord :=
  (s.sched.launches.find launch).map fun l => l.record

/-- The most that resident launches of a core need of FRAME or CACHE (R59). -/
def State.needed (s : State) (core : Nat) (part : LaunchRecord → Nat) : Nat :=
  (s.crewsOn core).foldl (fun m p => match s.recordOf p.2.launch with | some r => max m (part r) | none => m) 0

/-- The split of a core that has SCRATCH and WEIGHT up to given tops and the FRAME and CACHE needed (R120): FRAME gives
up first, then CACHE, then free granules at the tops of SCRATCH and WEIGHT. -/
def State.splitFor (s : State) (core scr wgt frame cache : Nat) : Option (List Nat) :=
  match s.split core with
  | [f, sc, w, c] =>
    let needF := max frame (s.needed core LaunchRecord.partFrame)
    let needC := max cache (s.needed core LaunchRecord.partCache)
    if scr ≤ sc ∧ wgt ≤ w ∧ needF ≤ f ∧ needC ≤ c then some [f, sc, w, c]
    else
      let leastS := max scr (heldTop (s.taken core false))
      let leastW := max wgt (heldTop (s.taken core true))
      if 24 < leastS + leastW + needF + needC then none
      else
        let sc := max leastS (min (max scr sc) (24 - leastW - needF - needC))
        let w := max leastW (min (max wgt w) (24 - sc - needF - needC))
        let c := max needC (min c (24 - sc - w - needF))
        some [24 - sc - w - c, sc, w, c]
  | _ => none

/-- Descriptors of a core that are free; 4095 is the clerk's. -/
def State.freeIndices (s : State) (core : Nat) : List Nat :=
  (List.range 4095).filter fun i => (s.fibres.find (fibreKey core i)).isNone

/-- How many descriptors of a core are free. -/
def State.freeCount (s : State) (core : Nat) : Nat :=
  4095 - (s.fibres.filter fun p => decide (coreOf p.1 = core) && !isClerk p.1).length

/-- The accumulator contexts of a core that a tenant's crews hold: those of resident launches that use it. -/
def State.contextHeld (s : State) (core ctx tenant : Nat) : Bool :=
  (s.crewsOn core).any fun p =>
    match s.sched.launches.find p.2.launch with
    | some l => decide (l.vf = tenant) && l.record.actx.getLsbD ctx
    | none => false

/-- A context that a launch uses is held by another tenant (R69), or executes commands of one still, those of killed fibres
(R311). -/
def State.contextTaken (s : State) (core tenant : Nat) (r : LaunchRecord) : Bool :=
  (List.range 4).any fun ctx =>
    let c := s.acc.get (core * 4 + ctx) .reset
    r.actx.getLsbD ctx &&
      match c.holder with
      | some t => decide (t ≠ tenant) && (s.contextHeld core ctx t || !c.queue.isEmpty)
      | none => !c.queue.isEmpty

/-- A tenant takes the contexts of its launch on a core; one that passes from another tenant is cleared (R121). -/
def State.takeContexts (s : State) (core tenant : Nat) (r : LaunchRecord) : State :=
  (List.range 4).foldl (fun s ctx =>
    if r.actx.getLsbD ctx = false ∨ (s.acc.get (core * 4 + ctx) .reset).holder = some tenant then s
    else { s with acc := s.acc.put (core * 4 + ctx) { AccContext.reset with holder := some tenant } }) s

/-- The initial SEED of a fibre: from its work ID, and never 0 (R103). -/
def seedOf (wid : DWord) : Word :=
  let v := loWord wid ^^^ hiWord wid ^^^ 0x9E3779B9
  if v = 0 then 0x9E3779B9 else v

/-- A fibre of a launch before its crew starts (R30, R60): its engine counters 0, FSR at its reset value (R103). -/
def Fibre.created (tenant launch crew : Nat) (wid : DWord) (pc : Pc) : Fibre :=
  { tenant := tenant, launch := launch, crew := some crew, workId := wid, state := .created, pc := pc, fbSeg := 0,
    fbWord := 0, hchain := 0, live := 128, fsr := pair 0 (seedOf wid), heldPc := none, preds := 1, counted := [],
    issued := [], pending := [], heldStores := [], lane := 0, conv := none, spawned := false, reform := false,
    pause := none, fsm := false, request := none, effect := none, kh := none, qsent := 0, killOrdered := false,
    killCause := none, coldSince := 0 }

/-- The entry PC of a launch (R53, R203). -/
def State.entryPc (s : State) (vf : Nat) (r : LaunchRecord) : Pc :=
  let off := match s.codeOf vf r.code with | some e => e.entries.getD r.entry 0 | none => 0
  s.enter vf r.code (BitVec.ofNat 32 off)

/-- Give the fibres of a crew their descriptors, lowest free first, their work IDs rising. -/
def State.createFibres (s : State) (core vf launch crew first : Nat) (r : LaunchRecord) (pc : Pc) : State :=
  (((s.freeIndices core).take r.crewSize).zip (List.range r.crewSize)).foldl (fun s p =>
    s.setFibre (fibreKey core p.1)
      (Fibre.created vf launch crew (BitVec.ofNat 64 (first + r.widOf 0 (crewLevel r) p.2)) pc)) s

/-- Hold granules of a region for a holder. -/
def holdGranules (t : Tbl (Nat × Nat)) (base n : Nat) (h : Nat × Nat) : Tbl (Nat × Nat) :=
  (upto base n).foldl (fun (t : Tbl (Nat × Nat)) g => t.put g h) t

/-- The WEIGHT granules that a launch holds on a core. -/
def State.weightOf (s : State) (core vf launch : Nat) : List Nat :=
  ((s.unit core).weight.select fun _ h => decide (h = (vf, launch))).map Prod.fst

/-- Place a crew on a core, where it fits (R59). The crew waits to start until a change of the split is done. -/
def State.placeCrew (s : State) (vf launch band core first relaunches : Nat) (r : LaunchRecord) : Option State :=
  let split := s.split core
  let held := s.weightOf core vf launch
  let scr := freeRun (s.taken core false) (split.getD 1 0) r.partScratch
  let wgt := match held with | g :: _ => g | [] => freeRun (s.taken core true) (split.getD 2 0) r.partWeight
  let top := if r.partScratch = 0 then 0 else scr + r.partScratch
  let wtop := if r.partWeight = 0 then 0 else wgt + r.partWeight
  if s.freeCount core < r.crewSize ∨ s.contextTaken core vf r = true then none
  else
    match s.splitFor core top wtop r.partFrame r.partCache with
    | none => none
    | some want =>
      let id := s.nextId
      let s := s.fresh.2
      let k : Crew :=
        { core := core, launch := launch, band := band, firstWid := BitVec.ofNat 64 first,
          number := first / 2 ^ levelBit r (crewLevel r) % 2 ^ 32, started := none, sregs := [], broken := false,
          scrBase := scr, scrCount := r.partScratch, wgtBase := wgt, wgtCount := r.partWeight,
          relaunches := relaunches, ended := false, killCause := none, noRelaunch := false, ecc := false,
          deadline := none, cycles := 0 }
      let s := s.takeContexts core vf r
      let s := s.modSched fun c => { c with crews := c.crews.put id k }
      let s := s.modUnit core fun u =>
        { u with scratch := holdGranules u.scratch scr r.partScratch (vf, id),
                 weight := holdGranules u.weight wgt r.partWeight (vf, launch),
                 repartition := if want = split then u.repartition else some want }
      some (s.createFibres core vf launch id first r (s.entryPc vf r))

/-- The cores of a cluster, those with the most free descriptors first and ties by number (R59). -/
def State.coresByRoom (s : State) (cluster : Nat) : List Nat :=
  sortBy (fun a b => decide (s.freeCount b < s.freeCount a)) (upto (cluster * 8) 8)

/-- Place crews `i` to `i + n − 1` of a band on a cluster. -/
def State.placeCrews (s : State) (vf launch band cluster i : Nat) (r : LaunchRecord) : Nat → Option State
  | 0 => some s
  | n + 1 =>
    let first := r.widOf (bandLevel r) 6 band + r.widOf (crewLevel r) (bandLevel r) i
    match (s.coresByRoom cluster).findSome? fun core => s.placeCrew vf launch band core first 0 r with
    | none => none
    | some s => State.placeCrews s vf launch band cluster (i + 1) r n

/-- Free descriptors of a cluster. -/
def State.clusterRoom (s : State) (cluster : Nat) : Nat := ((upto (cluster * 8) 8).map s.freeCount).foldl (· + ·) 0

/-- Place a band (R59): on the cluster with the most free descriptors among those that can hold it, ties to the lowest
number. A gated cluster holds nothing. -/
def State.placeBand (s : State) (vf launch band : Nat) (r : LaunchRecord) : Option State :=
  let order := sortBy (fun a b => decide (s.clusterRoom b < s.clusterRoom a)) (s.clustersOf vf)
  (order.filter fun c => !s.plat.gated.contains c).findSome? fun c =>
    s.placeCrews vf launch band c 0 r r.bandSize

/-- Count a launch that starts late, once (R60). -/
def State.countLate (s : State) (launch : Nat) : State :=
  match s.sched.launches.find launch with
  | none => s
  | some l =>
    if l.late then s
    else
      let s := s.modSched fun c => { c with launches := c.launches.put launch { l with late := true } }
      let s := s.setQueueF l.vf l.queue 0x28 47 32 (s.queueF l.vf l.queue 0x28 47 32 + 1)
      s.raise (8 + s.plat.activeController) 0x0016 l.vf schedulerAgent l.queue 0

/-- The head record of a queue has been placed whole (R57): QHEAD moves past it, and HEAD_WB is written. -/
def State.consume (s : State) (vf q : Nat) : State :=
  let head := (s.queueF vf q 0x18 15 0 + 1) % s.ringSize vf q
  let s := s.setQueueF vf q 0x18 15 0 head
  let s := s.modQueue vf q fun u => { QueueUnit.reset with deficit := u.deficit }
  let wb := s.bar0 vf (queueOff q 0x20) / 8 * 8
  let s := if wb = 0 then s else (s.agentWrite vf wb (toBytes head 8)).2
  (s.checkHead vf q).checkReady vf q

/-- Place the next band of a queue's head record (R59, R64): a band of a timed launch placed after START counts as late
(R60). -/
def State.placeNext (s : State) (vf q : Nat) : Option State :=
  match (s.queue vf q).head with
  | none => none
  | some r =>
    if (s.queue vf q).ready = false then none
    else
      let id := (s.queue vf q).launch.getD s.nextId
      let s := if (s.queue vf q).launch.isSome then s
        else
          let l : Launch :=
            { vf := vf, queue := q, record := { r with prio := min r.prio (s.queueF vf q 8 14 12) }, placed := 0,
              late := false, crewKilled := false, completing := false }
          let s := (s.fresh.2).modSched fun c => { c with launches := c.launches.put id l }
          s.modQueue vf q fun u => { u with launch := some id }
      match s.sched.launches.find id with
      | none => none
      | some l =>
        match s.placeBand vf id l.placed r with
        | none => none
        | some s =>
          let s := s.modSched fun c => { c with launches := c.launches.put id { l with placed := l.placed + 1 } }
          let s := if r.flag 1 ∧ r.start < s.ptp.toNat then s.countLate id else s
          some (if l.placed + 1 = r.bands then s.consume vf q else s)

/-! ### Arbitration (R64 to R66) -/

/-- A queue that may be chosen: its key, its account, its class, its priority. -/
structure Candidate where
  vf : Nat
  q : Nat
  acct : Nat
  cls : Nat
  prio : Nat
  deriving DecidableEq, Repr

/-- The queues of one partition whose next band fits now. -/
def State.candidates (s : State) (part : Option Nat) : List Candidate :=
  s.sched.queues.filterMap fun p =>
    let vf := p.1 / 64
    let q := p.1 % 64
    match p.2.head with
    | some r =>
      if s.partitionOf vf = part ∧ s.mayConsume vf = true ∧ (s.placeNext vf q).isSome = true then
        some { vf := vf, q := q, acct := if r.tokcls = 0xFF then 128 else vf, cls := r.tokcls,
               prio := min r.prio (s.queueF vf q 8 14 12) }
      else none
    | none => none

/-- The funded among the candidates. -/
def State.funded (s : State) (l : List Candidate) : List Candidate :=
  l.filter fun c => decide (s.mgmtF 0x1F00 0 0 = 1) && decide (c.cls ≠ 1) && decide (0 < s.bal c.acct)

/-- The first of two funded candidates by R64: PRIO, then the balance over the budget, then (tenant, queue). -/
def State.better (s : State) (a b : Candidate) : Candidate :=
  if a.prio ≠ b.prio then (if a.prio < b.prio then b else a)
  else
    let x := s.bal a.acct * s.budget b.acct
    let y := s.bal b.acct * s.budget a.acct
    if x < y then b else a

/-- One loan (R66). -/
def State.lend (s : State) (t u : Nat) : State :=
  let debt := s.sched.debt.get t 0
  let room : Int := (s.mgmtF (0x2000 + 0x10 * t) 47 32 * 1024 : Nat) - (debt : Int)
  let a := min (min (s.bal u) ((s.budget t / 4 : Nat) : Int)) room
  if 0 < a ∧ 0 < s.bal u ∧ s.bal t ≤ 0 then
    s.modSched fun c =>
      { c with bal := (c.bal.put u (s.bal u - a)).put t (s.bal t + a), debt := c.debt.put t (debt + a.toNat),
               lent := c.lent.put (u * 256 + t) (c.lent.get (u * 256 + t) 0 + a.toNat) }
  else s

/-- The functions of a partition. -/
def State.tenantsOf (s : State) (part : Option Nat) : List Nat :=
  (List.range 128).filter fun t => decide (s.partitionOf t = part)

/-- A tenant borrows from those of its partition that have no ready queue (R66). -/
def State.borrow (s : State) (part : Option Nat) (t : Nat) : State :=
  (s.tenantsOf part).foldl (fun s u =>
    if u = t ∨ s.sched.queues.any (fun p => decide (p.1 / 64 = u) && p.2.ready) then s else s.lend t u) s

/-- The first candidate after the pointer in ring order (R65). -/
def nextInRing (ptr : Nat) (l : List Candidate) : Option Candidate :=
  let key := fun (c : Candidate) => queueKey c.vf c.q
  let lowest : List Candidate → Option Candidate
    | [] => none
    | c :: rest => some (rest.foldl (fun a b => if key b < key a then b else a) c)
  match lowest (l.filter fun c => decide (ptr < key c)) with
  | some c => some c
  | none => lowest l

/-- The deficit round robin (R65), through at most `n` queues. -/
def State.drrNext (s : State) (l : List Candidate) : Nat → Option Candidate × State
  | 0 => (none, s)
  | n + 1 =>
    match nextInRing s.sched.drrPtr l with
    | none => (none, s)
    | some c =>
      let s := s.modSched fun x => { x with drrPtr := queueKey c.vf c.q }
      if 0 < (s.queue c.vf c.q).deficit then (some c, s)
      else
        State.drrNext
          (s.modQueue c.vf c.q fun u => { u with deficit := u.deficit + s.mgmtF 0x1F00 63 32 }) l n

/-- Passes that bring some queue above 0: a deficit is at least −2^31, and the quantum at least 1024. -/
def drrPasses (l : List Candidate) : Nat := (2 ^ 21 + 2) * l.length

/-- The choice of a queue (R64). -/
def State.selectQueue (s : State) (part : Option Nat) (l : List Candidate) : Option Candidate × State :=
  let f := s.funded l
  let s := if f.isEmpty ∧ s.mgmtF 0x1F00 0 0 = 1 ∧ s.mgmtF 0x1F00 1 1 = 1 then
      ((List.range 128).filter fun t => l.any fun c => decide (c.vf = t)).foldl (fun s t => s.borrow part t) s
    else s
  match s.funded l with
  | c :: rest => (some (rest.foldl s.better c), s)
  | [] => s.drrNext l (drrPasses l)

/-- A queue that holds no record and has no resident crew has no deficit (R65). -/
def State.clearDeficits (s : State) : State :=
  s.modSched fun c =>
    { c with queues := c.queues.mapVals fun k u =>
        let busy := u.head.isSome || s.ringHolds (k / 64) (k % 64) ||
          c.crews.any fun p => !p.2.ended &&
            match c.launches.find p.2.launch with | some l => decide (queueKey l.vf l.queue = k) | none => false
        if busy then u else { u with deficit := 0 } }

/-- The arbitration steps of one partition, while a band can be placed, at most `n`. -/
def State.arbitrateIn (s : State) (part : Option Nat) : Nat → State
  | 0 => s
  | n + 1 =>
    match s.candidates part with
    | [] => s
    | l =>
      match s.selectQueue part l with
      | (some c, s) =>
        match s.placeNext c.vf c.q with
        | some s => State.arbitrateIn s part n
        | none => s
      | (none, s) => s

/-- Arbitration in every partition (R64). A step places at least one fibre, so the device's descriptors bound the steps. -/
def State.arbitrate (s : State) : State :=
  (none :: (List.range 8).map some).foldl (fun s p => s.arbitrateIn p (256 * 4096)) s.clearDeficits

/-- The arbitration step of a crew's retiring (R64). -/
def State.arbitrateRetired (s : State) : State := (s.modSched fun c => { c with retired := false }).arbitrate

/-- Every head record is looked at, and bands are placed while they can be. -/
def State.schedule (s : State) (vf q : Nat) : State := ((s.checkHead vf q).checkReady vf q).arbitrate

/-- A doorbell (R56): QTAIL is replaced; a queue that was empty starts without a deficit (R65). A function in TDISP ERROR consumes
nothing for it (R376). -/
def State.ring (s : State) (vf q value : Nat) : State := (s.clearDeficits.setQueueF vf q 0x10 15 0 value).schedule vf q

end Sys2Proof.Machine
end

