-- ==== Sys2Proof/Machine/Ordering.lean ====
section
/-! DEFINITION. The ordering operations: how ATOM, ATOMN, ACQ, REL, ACQREL, FENCE, WAITA and a doorbell store begin, and
how they complete (R56, R90, R130, R131, R139, R140, R142 to R145, R250, R254 to R259, R272, R366). -/
namespace Sys2Proof.Machine

/-- The effective address of an access (R250). -/
def memAddr (space : Nat) (b c : DWord) : Nat :=
  if space = 0 then (b + (loWord c).signExtend 64).toNat else (loWord b + loWord c).toNat

/-- A PAGE_FAULT at once (R88): of an access that is no entry of the pending list. -/
def Fibre.faultAt (f : Fibre) (pc : Pc) (addr size : Nat) (store : Bool) : Effect :=
  let d : Deferred := { Deferred.empty with addr := addr, kind := if store then 1 else 0, size := size }
  effectOf pc 3 (BitVec.ofNat 64 addr) (faultInfo f.pending.length d)

/-- Why an access is not made, as an outcome of its lane (R21, R93, R136, R169). -/
def LaneIn.bad (x : LaneIn) (s : State) (addr size : Nat) (store : Bool) : Bad → LaneRes
  | .illegal => x.illegal
  | .priv => x.priv (BitVec.ofNat 64 addr)
  | .fault | .inactive => .effect (x.f.faultAt x.own addr size store)
  | .soft => .effect (effectOf x.own 18 (BitVec.ofNat 64 addr) 0xFFFFFFFF)
  | .waits l =>
    match (s.cell l).mark with
    | .orphaned => .effect (effectOf x.own 7 0 (BitVec.ofNat 64 (x.f.codeOf l)))
    | .poisoned _ => .effect (x.f.pageFault x.own)
    | _ => .park (.register (.cells [l]))

/-! ### Kinds -/

/-- It delivers pending faults first (R90): a release, a fence, and an atomic wider than .fib (R255). -/
def OrdKind.delivers (k : OrdKind) (scope : Nat) : Bool :=
  match k with
  | .rel | .acqrel _ | .fence | .doorbell _ _ => true
  | .atom _ | .atomn _ => decide (1 ≤ scope)
  | _ => false

/-- It reads its location. -/
def OrdKind.reads : OrdKind → Bool
  | .acq _ | .acqrel _ | .atom _ | .atomn _ | .waita _ => true
  | _ => false

/-- It writes its location. -/
def OrdKind.writes : OrdKind → Bool
  | .rel | .acqrel _ | .atom _ | .atomn _ => true
  | _ => false

/-- It acquires: its completion drops leases where its scope is .clu or wider (R130, R142, R144, R255). -/
def OrdKind.acquires : OrdKind → Bool
  | .acq _ | .acqrel _ | .atom _ | .waita _ | .fence => true
  | _ => false

/-- ACQ, REL, ACQREL and WAITA are not made on PRIVATE or RONLY lines (R256 to R258, R272). -/
def OrdKind.sync : OrdKind → Bool
  | .acq _ | .rel | .acqrel _ | .waita _ => true
  | _ => false

/-- An acquire that is done drops the core's SHARED leases, where its scope is .clu or wider (R142). -/
def State.acquired (s : State) (core scope : Nat) (k : OrdKind) : State :=
  if k.acquires ∧ 2 ≤ scope then s.dropLeases core else s

/-- Apply an operation to a word that a pitch port or the backing area holds: the old value, and the word rewritten. -/
def State.applyLocal (s : State) (o : OrdOp) : DWord × State :=
  let bytes := if o.space = 5 then (upto o.addr o.size).map (s.backingByte o.vf) else s.store.pitch.readBytes o.addr o.size
  let old := ofBytes bytes
  let s := match o.kind.newValue o.size old o.value.toNat o.value2.toNat with
    | none => s
    | some v =>
      let data := toBytes v o.size
      if o.space = 5 then (cellsAt o.addr data).foldl (fun s p => s.setBackingByte o.vf p.1 p.2) s
      else s.applyPitch o.addr data
  (BitVec.ofNat 64 old, s)

/-! ### Coherence objects (R123 to R125, R263, R264) -/

/-- Bytes of a row of an object. -/
def CohObject.rowLen (o : CohObject) : Nat := o.dim0 * 2 ^ o.esize

/-- The GLOBAL lines that an object covers (R123). -/
def CohObject.lines (o : CohObject) : List Nat :=
  (List.range o.dim1).flatMap fun r => (List.range (o.rowLen / 64)).map fun i => o.base + r * o.stride + 64 * i

/-- The physical lines that an object covers. -/
def State.objectLines (s : State) (o : CohObject) : List Nat :=
  o.lines.filterMap fun va => match s.translate o.vf 0 va false with | .ok pa => some (lineOf pa) | _ => none

/-- The object states by their codes (R123). -/
def objState : Nat → ObjState
  | 0 => .shared
  | 1 => .priv
  | 2 => .ronly
  | _ => .stream

/-- A shape record (R123) as an object of a function, not yet entered. -/
def CohObject.ofBytes (vf : Nat) (b : List Byte) : CohObject :=
  { gen := 1, open_ := true, vf := vf, base := field b 0 8, dim0 := field b 8 4, dim1 := field b 12 4,
    stride := field b 16 8, esize := field b 24 1, kind := objState (field b 25 1), owner := field b 26 2 }

/-- A core that may own PRIVATE lines of a function: one of its partition, or of the shared pool (R263). -/
def State.ownerOk (s : State) (vf owner : Nat) : Bool :=
  decide (owner < 256) && decide (s.partitionOfCluster (clusterOf owner) = s.partitionOf vf)

/-- An entry of the object table is free. -/
def State.objectFree (s : State) (i : Nat) : Bool := match s.coh.objects.find i with | some o => !o.open_ | none => true

/-- The failures that only the table decides: OVERLAP, FULL, VFFULL (R263). -/
def State.tableErrors (s : State) (o : CohObject) : List Nat :=
  let mine := s.coh.objects.select fun _ p => p.open_ && decide (p.vf = o.vf)
  (if o.lines.any fun l => mine.any fun p => p.2.covers l then [2] else []) ++
    (if (List.range 8192).any s.objectFree then [] else [3]) ++ (if 256 ≤ mine.length then [4] else [])

/-- The failures of OBJOPEN (R263), from the record's bytes. -/
def State.objectErrors (s : State) (o : CohObject) (state : Nat) : List Nat :=
  let dim := decide (o.dim0 = 0 ∨ 2 ^ 24 < o.dim0 ∨ o.dim1 = 0 ∨ 2 ^ 24 < o.dim1 ∨ 3 < o.esize)
  (if o.base % 64 ≠ 0 ∨ o.stride % 64 ≠ 0 ∨ o.rowLen % 64 ≠ 0 then [1] else []) ++
    (if dim then [] else s.tableErrors o) ++
    (if 3 < state ∨ (state = 1 ∧ s.ownerOk o.vf o.owner = false) then [5] else []) ++ (if dim then [6] else [])

/-- Every core writes back its dirty lines among some lines and drops its copies of them (R263). A RETAINED line goes as
by eviction. Answers the writes made. -/
def State.clearCopies (s : State) (vf : Nat) (lines : List Nat) : List (Nat × Nat) × State :=
  (s.coh.l1.filter fun p => lines.contains (p.1 % 2 ^ 58)).foldl (fun a p =>
    let core := p.1 / 2 ^ 58
    let line := p.1 % 2 ^ 58
    let r := if p.2.retained then a.2.releaseRetained core vf line else a.2.writeBack core vf line
    let s := match r.2.l1 core line with
      | some l => r.2.setL1 core line { l with copy := .none, expiry := .none }
      | .none => r.2
    (a.1 ++ r.1, s)) ([], s)

/-- The L2 copies of some lines go. -/
def State.clearL2 (s : State) (lines : List Nat) : State :=
  s.modCoh fun c => { c with l2 := c.l2.select fun k _ => !lines.contains (k % 2 ^ 58) }

/-- A change of an object away from its state (R125): the OWNER's dirty lines are written back, and copies of RONLY lines
go. -/
def State.leaveState (s : State) (o : CohObject) (lines : List Nat) : List (Nat × Nat) × State :=
  match o.kind with
  | .priv => s.clearCopies o.vf lines
  | .ronly => let r := s.clearCopies o.vf lines; (r.1, r.2.clearL2 lines)
  | _ => ([], s)

/-- What the change asks of copies made since the operation began. -/
def State.leaveNow (s : State) (index : Nat) : State :=
  match s.coh.objects.find index with
  | some o => (s.leaveState o (s.objectLines o)).2
  | none => s

/-- Enter an object at the lowest free entry, under that entry's generation (R263). -/
def State.enterObject (s : State) (o : CohObject) : DWord × State :=
  match s.pickOne (s.tableErrors o) with
  | (0, s) =>
    match (List.range 8192).find? s.objectFree with
    | some i =>
      let gen := match s.coh.objects.find i with | some p => p.gen | none => 1
      (BitVec.ofNat 64 (gen * 65536 + i), s.modCoh fun c => { c with objects := c.objects.put i { o with gen := gen } })
    | none => (0xFFFFFF03, s)
  | (code, s) => (BitVec.ofNat 64 (0xFFFFFF00 + code), s)

/-- Change the state of an object that is still the one the operation named (R264). -/
def State.setObject (s : State) (index gen : Nat) (kind : ObjState) (owner : Nat) : State :=
  s.modCoh fun c =>
    { c with objects := c.objects.modify index fun o =>
        if o.gen = gen ∧ o.open_ then { o with kind := kind, owner := owner } else o }

/-- Close an object: its entry's generation moves on, within 1 to 0xFFFE (R263, R264). -/
def State.closeObject (s : State) (index gen : Nat) : State :=
  s.modCoh fun c =>
    { c with objects := c.objects.modify index fun o =>
        if o.gen = gen ∧ o.open_ then { o with open_ := false, gen := if gen = 0xFFFE then 1 else gen + 1 } else o }

/-! ### The end of a launch (R62) -/

/-- The cores that ran a crew of a launch. -/
def State.launchCores (s : State) (launch : Nat) : List Nat :=
  dedup ((s.sched.crews.select fun _ k => decide (k.launch = launch)).map fun p => p.2.core)

/-- The last steps of a completion: KILLED and ERRVEC, then the vector of IRQ, and the launch leaves the table. -/
def State.endLaunch (s : State) (launch : Nat) : State :=
  match s.sched.launches.find launch with
  | none => s
  | some l =>
    let s := if l.crewKilled then
        let s := s.setQueueF l.vf l.queue 0x28 63 48 (s.queueF l.vf l.queue 0x28 63 48 + 1)
        s.raiseVector l.vf (s.queueF l.vf l.queue 8 23 16)
      else s
    let s := if l.record.flag 3 then s.raiseVector l.vf l.record.msix else s
    let s := s.modSched fun c =>
      { c with launches := c.launches.del launch, crews := c.crews.select fun _ k => decide (k.launch ≠ launch) }
    s.arbitrate

/-- The completion word is written (R62). -/
def State.writeDone (s : State) (l : Launch) : List (Nat × Nat) × State :=
  if l.record.doneAddr = 0 then ([], s) else s.agentWrite l.vf l.record.doneAddr (toBytes l.record.doneVal.toNat 8)

/-! ### Completion -/

/-- Answer a host port, a controller or an SPDM session. -/
def State.answer (s : State) (l : List Nat) : State := s.modPlat fun p => { p with answers := p.answers ++ [l] }

/-- What an operation waits for has come (R130, R142, R144, R255, R263). -/
def State.ripe (s : State) (o : OrdOp) : Bool :=
  let settled := s.performed o.writes o.lines && !s.hostPending o.hostWrites
  match o.kind with
  | .acq _ | .waita _ | .hostRead _ | .depend _ _ => decide (o.stage = .served ∨ o.stage = .unmet)
  | .rel => if o.space = 0 then decide (o.stage = .served) else settled
  | .acqrel _ =>
    if o.space = 0 then decide (o.stage = .served) else if o.space = 6 then decide (o.stage = .applied) else settled
  | .atom _ | .atomn _ => if o.space = 0 ∨ o.space = 6 then decide (o.stage = .applied) else settled
  | _ => settled

/-- An atomic operation whose write-backs are performed goes to its home (R127, R130, R255). -/
def State.arrive (s : State) (id : Nat) (o : OrdOp) : State :=
  if s.performed o.writes o.lines = false ∨ s.hostPending o.hostWrites = true ∨ o.stage ≠ .served then s
  else
    match o.kind, o.space with
    | .atom _, 0 | .atomn _, 0 => (s.serve id).evaluate (lineOf o.addr)
    | .atom _, 6 | .atomn _, 6 | .acqrel _, 6 => (s.queueAtomic id o).evaluate (lineOf o.addr)
    | _, _ => s

/-- Carry an operation out that is ripe: its result, and the state without it. Where it makes a write that must be
performed first, it goes on with that write: no result. -/
def State.finishOp (s : State) (id : Nat) (o : OrdOp) : Option DWord × State :=
  let gone := fun (s : State) => (s.modCoh fun c => { c with ops := c.ops.del id }).acquired o.agent o.scope o.kind
  match o.kind with
  | .acq _ | .waita _ => (some o.result, gone s)
  | .rel =>
    if o.space = 0 then (some 0, gone s)
    else if o.space = 6 then
      if o.value2 = 1 then (some 0, gone s)
      else
        let r := s.sendHome (some o.agent) o.vf (lineOf o.addr) (cellsAt o.addr (toBytes o.value.toNat o.size))
        (none, r.2.setOrd id { o with value2 := 1, writes := [(lineOf o.addr, r.1)], hostWrites := [] })
    else let r := s.applyLocal o; (some 0, gone r.2)
  | .acqrel _ =>
    if o.space = 0 ∨ o.space = 6 then (some o.result, gone s) else let r := s.applyLocal o; (some r.1, gone r.2)
  | .atom _ | .atomn _ =>
    if o.space = 0 ∨ o.space = 6 then (some o.result, gone s) else let r := s.applyLocal o; (some r.1, gone r.2)
  | .fence | .flush => (some 0, gone s)
  | .doorbell vf q => (some 0, if s.tdisp vf = .error then gone s else (gone s).ring vf q o.value.toNat)
  | .objOpen p => let r := s.enterObject p; (some r.1, gone r.2)
  | .objSet i kind owner =>
    (some 0, gone ((s.leaveNow i).setObject i o.value.toNat kind owner))
  | .objClose i => (some 0, gone ((s.leaveNow i).closeObject i o.value.toNat))
  | .hostRead port =>
    (some o.result, (gone s).answer [0, (if port = .a then 0 else 1), o.addr, o.result.toNat])
  | .depend vf q =>
    let s := (gone s).modQueue vf q fun u => { u with dependMet := true, watching := false }
    (some 0, (s.checkReady vf q).arbitrate)
  | .completion launch =>
    match o.stage, s.sched.launches.find launch with
    | .held, some l =>
      let r := s.writeDone l
      (none, r.2.setOrd id { o with stage := .served, writes := r.1, hostWrites := r.1.map Prod.snd })
    | _, _ => (some 0, (gone s).endLaunch launch)

/-- The predicate that an ACQ writes: whether a release was lost (R256). -/
def State.writeLost (s : State) (o : OrdOp) (key : Nat) : State :=
  match o.kind with
  | .acq p => if p = 0 then s else s.setPred key p o.lost
  | _ => s

/-- The fibres that wait on an operation. -/
def State.waitersOf (s : State) (id : Nat) : Tbl Fibre :=
  s.fibres.select fun _ f => decide (f.waiting = some (.address id))

/-- A WAITA whose first evaluation finds its condition unmet performs WAIT (R272). -/
def waitEffect (pc : Pc) (cls : Nat) : Effect := effectOf pc 2 0 (BitVec.ofNat 64 cls)

/-- The write-back of an arrival at a band barrier is performed (R278). -/
def State.flushed (s : State) (o : OrdOp) (key : Nat) : State :=
  match o.kind, s.fibres.find key with
  | .flush, some f =>
    match f.waiting, f.crew.bind s.sched.crews.find with
    | some (.barrier (.band k)), some c => s.checkBand c.launch c.band k
    | _, _ => s
  | _, _ => s

/-- The operation has ended: its result is written, the fibres that waited on it go on, and a gang that it kept on its
lanes leaves them (R43). -/
def State.deliverOp (s : State) (id : Nat) (o : OrdOp) (v : DWord) : State :=
  let s := (o.targets.zip [loWord v, hiWord v]).foldl (State.writeLanding · o.fibre) s
  let s := match o.fibre with | some key => ((s.writeLost o key).recheck (coreOf key)).flushed o key | none => s
  let s := (s.waitersOf id).foldl (fun s p =>
    match o.kind, o.stage with
    | .waita _, .unmet => s.perform p.1 (waitEffect p.2.pc 0)
    | .waita _, _ => (s.step_ p.1 2).unpark p.1
    | _, _ => s.unpark p.1) s
  s.settleLeaving

/-- An operation goes on as far as its home. -/
def State.arriveOp (s : State) (id : Nat) : State :=
  match s.coh.ops.find id with | some o => s.arrive id o | none => s

/-- ORDERING_COMPLETE: an operation goes on to its home, and one that is ripe is carried out, through at most two rounds
(R62: the completion word; R257: a write-through). -/
def State.tryComplete (s : State) (id : Nat) : State :=
  let s := s.arriveOp id
  match s.coh.ops.find id with
  | none => s
  | some o =>
    if s.ripe o = false then s
    else
      match s.finishOp id o with
      | (some v, s) => s.deliverOp id o v
      | (none, s) =>
        match s.coh.ops.find id with
        | none => s
        | some o =>
          if s.ripe o = false then s
          else match s.finishOp id o with | (some v, s) => s.deliverOp id o v | (none, s) => s

/-! ### Issue -/

/-- An operation begins: carried out at once where nothing keeps it, or left in flight with its destinations reserved; the
fibre waits where `waits` says so. -/
def LaneIn.begin_ (x : LaneIn) (s : State) (id : Nat) (codes : List Nat) (waits : Bool) : LaneRes :=
  let s := s.arriveOp id
  let inFlight := fun (s : State) (o : OrdOp) =>
    let r := s.reserveAll x codes
    let s := r.2.setOrd id { o with targets := r.1 }
    if waits then
      let s := if o.kind.isWait then s else s.modFibre x.key fun f => { f with pc := x.next }
      LaneRes.checked codes (.parkIn s (.address id))
    else .checked codes (.next s)
  match s.coh.ops.find id with
  | none => .next s
  | some o =>
    if o.stage = .unmet then .effectIn (s.modCoh fun c => { c with ops := c.ops.del id }) (waitEffect x.own 0)
    else if s.ripe o = false then inFlight s o
    else
      match s.finishOp id o with
      | (some v, t) => .outsIn (t.writeLost o x.key) (codes.zip [loWord v, hiWord v])
      | (none, t) =>
        match t.coh.ops.find id with
        | none => .next t
        | some o =>
          if t.ripe o = false then inFlight t o
          else
            match t.finishOp id o with
            | (some v, t) => .outsIn (t.writeLost o x.key) (codes.zip [loWord v, hiWord v])
            | (none, t) => inFlight t o

/-- The operation record of a lane's instruction. -/
def LaneIn.ordOp (x : LaneIn) (s : State) (k : OrdKind) (space addr size scope : Nat) (v v2 : DWord) : OrdOp :=
  { kind := k, stage := .served, agent := coreOf x.key, fibre := some x.key, vf := x.f.tenant, space := space,
    addr := addr, size := size, scope := scope, value := v, value2 := v2, targets := [], writes := [], lines := [],
    hostWrites := [], lost := false, result := 0, since := s.gtc }

/-- The write-back part of FENCE.S (R144): nothing below .clu; for .sys the write-through stores too. -/
def State.fencePart (s : State) (core vf scope : Nat) (o : OrdOp) : OrdOp × State :=
  if scope < 2 then (o, s)
  else
    let r := s.fenceWrites core vf
    ({ o with writes := o.writes ++ r.1, hostWrites := if scope = 5 then r.2.coreHostWrites core else [] }, r.2)

/-- The values that WAITA needs to know of a first evaluation: 1 where the search of R79 would find a WAIT handler. -/
def State.waitFlag (s : State) (f : Fibre) : DWord := if s.hasHandler f 2 then 1 else 0

/-- An operation on a word of a pitch port or of the backing area (R142, R255): the write-back part of FENCE.S first, where
it writes. -/
def LaneIn.syncLocal (x : LaneIn) (s : State) (k : OrdKind) (space addr size scope : Nat) (v v2 : DWord)
    (codes : List Nat) : LaneRes :=
  let id := s.nextId
  let s := s.fresh.2
  let o := x.ordOp s k space addr size scope v v2
  match k with
  | .waita cond => x.begin_ (s.watchWord id o cond (s.applyLocal { o with kind := .acq 0 }).1.toNat) id codes true
  | .acq _ =>
    let o := { o with result := (s.applyLocal o).1 }
    x.begin_ (s.setOrd id o) id codes true
  | _ =>
    let r := s.fencePart (coreOf x.key) x.f.tenant scope o
    x.begin_ ((r.2.setOrd id r.1).wakeCrew x.key x.f.crew) id codes true

/-- An operation on a line of memory (R130, R142, R255 to R258). A release to a line that the state machine does not govern
completes when its home has applied the write (R142), whatever its scope. -/
def LaneIn.syncLine (x : LaneIn) (s : State) (k : OrdKind) (va pa size scope : Nat) (v v2 : DWord) (codes : List Nat) :
    LaneRes :=
  let core := coreOf x.key
  let vf := x.f.tenant
  let n := 2 ^ size
  let line := lineOf pa
  let obj := s.objectAt vf va
  let free := isHostLine line || decide (obj.1 = .stream)
  let id := s.nextId
  let t := s.fresh.2
  let o := x.ordOp t k (if free then 6 else 0) pa n scope v v2
  let waits := match k with | .atom _ | .atomn _ => decide (1 ≤ scope) | _ => true
  match k with
  | .acq p =>
    if scope < 2 then
      let r := s.readGlobalLine core vf va pa n
      .outsIn (r.1.writeLost { o with kind := .acq p } x.key)
        (codes.zip [loWord (BitVec.ofNat 64 (ofBytes r.2)), hiWord (BitVec.ofNat 64 (ofBytes r.2))])
    else x.begin_ ((t.setOrd id o).serve id) id codes true
  | .waita _ => x.begin_ ((t.setOrd id o).serve id) id codes true
  | .rel =>
    if scope < 2 ∧ free = false then
      .next ((s.storeLine core x.f.crew vf pa obj.1 (toBytes v.toNat n)).wakeCrew x.key x.f.crew)
    else if free then
      let r := t.fencePart core vf scope o
      x.begin_ ((r.2.setOrd id { r.1 with value2 := 0 }).wakeCrew x.key x.f.crew) id codes true
    else x.begin_ (((((t.agedStamps core vf).setOrd id o).serve id).evaluate line).wakeCrew x.key x.f.crew) id codes true
  | .acqrel _ =>
    if free then
      let r := t.fencePart core vf scope o
      x.begin_ ((r.2.setOrd id r.1).wakeCrew x.key x.f.crew) id codes true
    else x.begin_ (((((t.agedStamps core vf).setOrd id o).serve id).evaluate line).wakeCrew x.key x.f.crew) id codes true
  | _ =>
    let r := t.fencePart core vf scope o
    let held := match r.2.l1 core line with | some l => l.retained | none => false
    let w := if held then r.2.releaseRetained core vf line else r.2.writeBack core vf line
    let t := match w.2.l1 core line with
      | some l => w.2.setL1 core line { l with copy := .none, expiry := .none }
      | none => w.2
    let t := t.setOrd id { r.1 with writes := r.1.writes ++ w.1 }
    x.begin_ (t.wakeCrew x.key x.f.crew) id codes waits

/-- What stands in the way of an operation on GLOBAL memory, or its physical address (R88, R124, R135, R136, R256 to
R258, R366). -/
def State.syncPlace (s : State) (key : Nat) (f : Fibre) (k : OrdKind) (va : Nat) : Except Bad Nat :=
  let r := if k.reads then s.translate f.tenant 0 va false else s.translate f.tenant 0 va true
  let w := if k.writes then s.translate f.tenant 0 va true else r
  match r, w with
  | .ok pa, .ok _ =>
    let o := s.objectAt f.tenant va
    if inAperture pa then .error .priv
    else if k.sync ∧ (o.1 = .priv ∨ o.1 = .ronly) then .error .illegal
    else
      match (if k.writes then s.storeBad (coreOf key) f.tenant va pa (isClerk key) else none) with
      | some b => .error b
      | none => if s.isPoisoned (lineOf pa) then .error .soft else .ok pa
  | .soft, _ | _, .soft => .error .soft
  | _, _ => .error .fault

/-- An ATOM or ATOMN of scope .fib that a fibre has on its way. -/
def State.atomUnderWay (s : State) (key : Nat) : Option Nat :=
  (s.coh.ops.first fun _ o =>
    decide (o.fibre = some key) && o.kind.isAtomic).map Prod.fst

/-- What a release, a fence or a release-type engine operation of a lane waits for at the instruction: its fibre's atomic
operations, which come before it (R142, R144, R147). -/
def LaneIn.ownAtoms (x : LaneIn) (s : State) : Option LaneRes :=
  (s.atomUnderWay x.key).map fun id => .park (.address id)

/-- The agent identifier of a die's walker (R16). -/
def walkerAgent (die : Nat) : Nat := 3 * 512 + die

/-- The walks of some addresses wait at the instruction for the recall of a release on a line of their tables, which the walker
acquires (R130, R365). -/
def LaneIn.awaitTables (x : LaneIn) (s : State) (vas : List Nat) : Option LaneRes :=
  (vas.findSome? (s.tableHeld x.f.tenant)).map fun line =>
    let id := s.nextId
    let o : OrdOp :=
      { kind := .acq 0, stage := .served, agent := walkerAgent (dieOfCore (coreOf x.key)), fibre := none, vf := x.f.tenant,
        space := 0, addr := line, size := 8, scope := 5, value := 0, value2 := 0, targets := [], writes := [], lines := [],
        hostWrites := [], lost := false, result := 0, since := s.gtc }
    .waitIn (((s.fresh.2).setOrd id o).serve id) (.address id)

/-- A pending access of a fibre was made in M0 code: no later access passes it (R141, R153; assumption 54). -/
def Fibre.pendingM0 (f : Fibre) : Bool := f.pending.any Deferred.m0

/-- An ordering instruction of one lane (R250): the address is B alone. -/
def LaneIn.sync (x : LaneIn) (s : State) (k : OrdKind) (space size scope : Nat) (v v2 : DWord) (codes : List Nat) :
    LaneRes :=
  let a := memAddr space x.b 0
  let n := 2 ^ size
  let core := coreOf x.key
  if a % n ≠ 0 then x.illegal
  else if (k.delivers scope || x.f.pendingM0) = true ∧ x.f.pending.isEmpty = false then .effect (x.f.pageFault x.own)
  else
  match (if k.delivers scope then x.ownAtoms s else none).or (if space = 0 then x.awaitTables s [a] else none) with
  | some r => r
  | none =>
    match space with
    | 0 =>
      match s.syncPlace x.key x.f k a with
      | .error b => x.bad s a size k.writes b
      | .ok pa =>
        if s.inBacking x.f.tenant a then x.syncLocal s k 5 a n scope v v2 codes
        else x.syncLine s k a pa size scope v v2 codes
    | 1 =>
      if k.writes ∧ s.scratchSize core ≤ a ∧ a < s.scratchSize core + s.weightSize core then x.priv (BitVec.ofNat 64 a)
      else
        match s.pitchRange core x.f.tenant a n with
        | some b => x.bad s a size k.writes b
        | none => x.syncLocal s k 1 (s.pitchKey core a) n scope v v2 codes
    | _ =>
      match s.clusterRange core x.f.tenant a n with
      | some b => x.bad s a size k.writes b
      | none => x.syncLocal s k 1 (scratchKey (clusterPlace core a).1 (clusterPlace core a).2) n scope v v2 codes

/-- The destination codes of a result (R166). -/
def outCodes (code : BitVec 8) (wide : Bool) : List Nat := if wide then [code.toNat, code.toNat + 1] else [code.toNat]

/-- The scope of MOD6[5:3] (R138). -/
def scopeOf (f : FormW) : Nat := fld f.mod 3 3

/-- ATOM (R255). -/
def execAtom (f : FormW) (s : State) : Host.Outcome State Fault Refusal :=
  s.plain (.atom f) fun x s =>
    x.sync s (.atom (fld f.sub 2 3)) (fld f.mod 0 3) (fld f.sub 0 2) (scopeOf f) x.c x.d (outCodes f.a (size64 f))

/-- ATOMN (R255). -/
def execAtomn (f : FormW) (s : State) : Host.Outcome State Fault Refusal :=
  s.plain (.atomn f) fun x s =>
    x.sync s (.atomn (fld f.sub 2 3)) (fld f.mod 0 3) (fld f.sub 0 2) (scopeOf f) x.c 0 []

/-- ACQ (R256). -/
def execAcq (f : FormW) (s : State) : Host.Outcome State Fault Refusal :=
  s.plain (.acq f) fun x s =>
    x.sync s (.acq (fld f.sub 2 3)) (fld f.mod 0 3) (fld f.sub 0 2) (scopeOf f) 0 0 (outCodes f.a (size64 f))

/-- REL (R257). -/
def execRel (f : FormW) (s : State) : Host.Outcome State Fault Refusal :=
  s.plain (.rel f) fun x s => x.sync s .rel (fld f.mod 0 3) (fld f.sub 0 2) (scopeOf f) x.c 0 []

/-- ACQREL (R258). -/
def execAcqrel (f : FormW) (s : State) : Host.Outcome State Fault Refusal :=
  s.plain (.acqrel f) fun x s =>
    x.sync s (.acqrel (fld f.sub 2 3)) (fld f.mod 0 3) (fld f.sub 0 2) (scopeOf f) x.c x.d (outCodes f.a (size64 f))

/-- WAITA (R272). -/
def execWaita (f : FormW) (s : State) : Host.Outcome State Fault Refusal :=
  s.plain (.waita f) fun x s =>
    x.sync s (.waita (fld f.sub 0 3)) (fld f.mod 0 3) (if bit f.sub 3 then 3 else 2) (scopeOf f) x.c (s.waitFlag x.f) []

/-- FENCE (R144, R259). Its earlier stores are in L1 or at their port already. -/
def execFence (f : FormQI) (s : State) : Host.Outcome State Fault Refusal :=
  s.plain (.fence f) fun x s =>
    let scope := fld f.imm 0 3
    if x.f.pending.isEmpty = false then .effect (x.f.pageFault x.own)
    else if scope = 0 then .next s
    else
    match x.ownAtoms s with
    | some r => r
    | none =>
      if scope < 2 then .next s else
      let id := s.nextId
      let t := s.fresh.2
      let r := t.fencePart (coreOf x.key) x.f.tenant scope (x.ordOp t .fence 0 0 0 scope 0 0)
      x.begin_ (r.2.setOrd id r.1) id [] true

/-- A doorbell store (R56, R90, R366): as REL.sys, with the write-back of every dirty SHARED line of the core; the queue
takes it after that. -/
def LaneIn.doorbell (x : LaneIn) (s : State) (queue value : Nat) : LaneRes :=
  if x.f.pending.isEmpty = false then .effect (x.f.pageFault x.own)
  else
  match x.ownAtoms s with
  | some r => r
  | none =>
    let id := s.nextId
    let t := s.fresh.2
    let o := x.ordOp t (.doorbell x.f.tenant queue) 0 0 8 5 (BitVec.ofNat 64 value) 0
    let r := t.fencePart (coreOf x.key) x.f.tenant 5 o
    x.begin_ (r.2.setOrd id r.1) id [] true

/-- OBJOPEN (R263). -/
def execObjopen (f : FormW) (s : State) : Host.Outcome State Fault Refusal :=
  s.plain (.objopen f) fun x s =>
    let a := x.b.toNat
    let out := fun (s : State) (code : Nat) => LaneRes.outsIn s [(f.a.toNat, BitVec.ofNat 32 (0xFFFFFF00 + code))]
    if a % 32 ≠ 0 then x.illegal
    else
      match x.awaitTables s [a] with
      | some r => r
      | none =>
      match s.loadGlobal (coreOf x.key) x.f.tenant a 32 with
      | .error b => x.bad s a 5 false b
      | .ok (s, b) =>
        let o := CohObject.ofBytes x.f.tenant b
        match s.pickOne (s.objectErrors o (field b 25 1)) with
        | (0, s) =>
          let id := s.nextId
          let s := s.fresh.2
          let lines := s.objectLines o
          let r := s.clearCopies x.f.tenant lines
          let op := { x.ordOp s (.objOpen o) 0 0 0 0 0 0 with writes := r.1, lines := lines }
          x.begin_ (r.2.setOrd id op) id [f.a.toNat] false
        | (code, s) => out s code

/-- The object that a handle names, or the tag to perform (R263, R264). -/
def State.objectOf (s : State) (vf : Nat) (h : Word) : Except Nat (Nat × CohObject) :=
  let i := bits h.toNat 12 0
  match s.coh.objects.find i with
  | none => .error 12
  | some o =>
    if bits h.toNat 15 13 ≠ 0 ∨ o.gen ≠ bits h.toNat 31 16 ∨ o.open_ = false then .error 12
    else if o.vf ≠ vf then .error 13
    else .ok (i, o)

/-- OBJCLOSE (R125, R264). -/
def execObjclose (f : FormQ) (s : State) : Host.Outcome State Fault Refusal :=
  s.plain (.objclose f) fun x s =>
    match s.objectOf x.f.tenant (loWord x.b) with
    | .error tag => .effect (effectOf x.own tag 0 0)
    | .ok (i, o) =>
      let id := s.nextId
      let s := s.fresh.2
      let r := s.leaveState o (s.objectLines o)
      let op := { x.ordOp s (.objClose i) 0 0 0 0 (BitVec.ofNat 64 o.gen) 0 with writes := r.1 }
      x.begin_ (r.2.setOrd id op) id [] false

/-- OBJSET (R125, R264): into PRIVATE, RONLY or STREAM the write-back and lease wait of OBJOPEN come first. -/
def execObjset (f : FormW) (s : State) : Host.Outcome State Fault Refusal :=
  s.plain (.objset f) fun x s =>
    match s.objectOf x.f.tenant (loWord x.b) with
    | .error tag => .effect (effectOf x.own tag 0 0)
    | .ok (i, o) =>
      let c := (loWord x.c).toNat
      let state := bits c 1 0
      let owner := bits c 23 16
      if bits c 15 2 ≠ 0 ∨ bits c 31 24 ≠ 0 ∨ (state ≠ 1 ∧ owner ≠ 0) ∨
          (state = 1 ∧ s.ownerOk x.f.tenant owner = false) then x.illegal
      else
        let id := s.nextId
        let s := s.fresh.2
        let lines := s.objectLines o
        let r := if state = 0 then s.leaveState o lines else s.clearCopies o.vf lines
        let op := { x.ordOp s (.objSet i (objState state) owner) 0 0 0 0 (BitVec.ofNat 64 o.gen) 0 with
                      writes := r.1, lines := if state = 0 then [] else lines }
        x.begin_ (r.2.setOrd id op) id [] false

end Sys2Proof.Machine
end

