-- ==== Sys2Proof/Machine/Memory.lean ====
section
/-! DEFINITION. Loads, stores and cache control without counters: LD, ST, LDQ, STQ, PREF, DLEASE (R21, R56, R88, R89, R250
to R253, R260, R262, R366). -/
namespace Sys2Proof.Machine

/-- A store of a fibre that is not performed, pending or held, overlaps a range (R89). -/
def Fibre.overlapsStore (f : Fibre) (a n : Nat) : Bool :=
  ((f.pending.filter fun d => decide (d.kind = 1)) ++ f.heldStores).any fun d =>
    decide (d.addr < a + n) && decide (a < d.addr + 2 ^ d.size)

/-- A store of a fibre to the line is pending (R89). -/
def Fibre.holdsLine (f : Fibre) (a : Nat) : Bool :=
  f.pending.any fun d => decide (d.kind = 1) && decide (lineOf d.addr = lineOf a)

/-- An atomic operation of a fibre that is on its way to a line: a later access of the fibre to the line waits for it, for
program order on a location is kept (R145). -/
def State.atomicOn (s : State) (key vf a : Nat) : Option Nat :=
  match s.translate vf 0 a false with
  | .ok pa =>
    (s.coh.ops.first fun _ o =>
      decide (o.fibre = some key) && decide (o.space = 0 ∨ o.space = 6) && decide (lineOf o.addr = lineOf pa)).map Prod.fst
  | _ => none

/-- A fibre runs under the fence-strengthening mode (R154). -/
def State.inM0 (s : State) (key : Nat) (f : Fibre) : Bool := f.fsm || decide (s.coreF (coreOf key) 0x120 1 1 = 1)

/-- What a plain access waits for under M0 (R141, R153; assumption 54): an access in M0 code keeps its order with a pending access
of its fibre, whose fault is delivered, and with an atomic operation that the fibre has on its way; one outside M0 code keeps its
order with a pending access that was made in M0 code. -/
def LaneIn.orderM0 (x : LaneIn) (s : State) (space : Nat) : Option LaneRes :=
  if 3 ≤ space then none
  else if x.f.pending.isEmpty = false ∧ (s.inM0 x.key x.f || x.f.pendingM0) = true then some (.effect (x.f.pageFault x.own))
  else if s.inM0 x.key x.f then x.ownAtoms s
  else none

/-- A load that does not translate (R88, R251): its registers are empty and poisoned, and it joins the pending list. -/
def LaneIn.deferLoad (x : LaneIn) (s : State) (d : Deferred) (codes : List Nat) : State :=
  let s := codes.foldl (fun s c => s.noteWrite x c) s
  let s := s.poison x.key x.f d.reg (decide (d.size = 3))
  let d := { d with locs := x.f.regLocs d.reg (decide (d.size = 3)) }
  s.modFibre x.key fun f => { f with pending := f.pending ++ [d] }

/-- A load (R251) into the register `reg`. -/
def LaneIn.load (x : LaneIn) (s : State) (reg : BitVec 8) (space size : Nat) (signed : Bool) : LaneRes :=
  let a := memAddr space x.b x.c
  let n := 2 ^ size
  let codes := outCodes reg (decide (size = 3))
  if a % n ≠ 0 then x.illegal
  else if space = 0 ∧ x.f.overlapsStore a n = true then .effect (x.f.pageFault x.own)
  else
    match (x.orderM0 s space).or (if space = 0 then x.awaitTables s [a] else none),
        (if space = 0 then s.atomicOn x.key x.f.tenant a else none) with
    | some r, _ => r
    | none, some id => .park (.address id)
    | none, none =>
      match s.loadSpace x.key x.f space a n with
      | .ok (s, b) => .outsIn s (outPair reg.toNat (decide (size = 3)) (extendLoad (ofBytes b) size signed))
      | .error .fault =>
        if 4 ≤ x.f.pending.length then .effect (x.f.faultAt x.own a size false)
        else
          let d : Deferred :=
            { addr := a, data := 0, pcOff := x.own.off, kind := if signed then 2 else 0, size := size,
              reg := reg.toNat, m0 := s.inM0 x.key x.f }
          .checked codes (.next (x.deferLoad s d codes))
      | .error b => x.bad s a size false b

/-- The queue that a store of 8 bytes rings: the QTAIL of a queue of the fibre's own function (R366). -/
def State.doorbellOf (s : State) (vf a size : Nat) : Option Nat :=
  match s.translate vf 0 a true with
  | .ok pa =>
    if inAperture pa ∧ size = 3 ∧ (pa - 2 ^ 51) / 4096 = vf ∧ pa % 64 = 0x10 then some (pa % 4096 / 64) else none
  | _ => none

/-- The place of a store that is written through to its home: of a STREAM or host-homed line (R124, R133). In M0 code, as a
REL.core, it completes when the home has applied it (R142, R153). -/
def State.throughPlace (s : State) (key : Nat) (f : Fibre) (a : Nat) : Option Nat :=
  match s.translate f.tenant 0 a true with
  | .ok pa =>
    if (isHostLine (lineOf pa) || decide ((s.objectAt f.tenant a).1 = .stream)) ∧
        (s.storeBad (coreOf key) f.tenant a pa (isClerk key)).isNone = true ∧ s.inBacking f.tenant a = false then some pa
    else none
  | _ => none

/-- A store (R252) of the low 2^size bytes of a value. -/
def LaneIn.store (x : LaneIn) (s : State) (space size : Nat) (v : DWord) : LaneRes :=
  let a := memAddr space x.b x.c
  let n := 2 ^ size
  let d : Deferred :=
    { addr := a, data := BitVec.ofNat 64 (v.toNat % 2 ^ (8 * n)), pcOff := x.own.off, kind := 1, size := size, reg := 0,
      m0 := s.inM0 x.key x.f }
  if a % n ≠ 0 then x.illegal
  else
  match x.orderM0 s space with
  | some r => r
  | none =>
  if space = 0 ∧ x.f.holdsLine a = true then
    .next (s.modFibre x.key fun f => { f with heldStores := f.heldStores ++ [d] })
  else
    match (if space = 0 then x.awaitTables s [a] else none), (if space = 0 then s.atomicOn x.key x.f.tenant a else none),
        (if space = 0 then s.doorbellOf x.f.tenant a size else none),
        (if space = 0 ∧ s.inM0 x.key x.f = true then s.throughPlace x.key x.f a else none) with
    | some r, _, _, _ => r
    | none, some id, _, _ => .park (.address id)
    | none, none, some q, _ => x.doorbell s q (v.toNat % 65536)
    | none, none, none, some pa => x.syncLine s .rel a pa size 1 (BitVec.ofNat 64 (v.toNat % 2 ^ (8 * n))) 0 []
    | none, none, none, none =>
      match s.storeSpace x.key x.f space a (toBytes v.toNat n) with
      | .ok s => .next s
      | .error .fault =>
        if 4 ≤ x.f.pending.length then .effect (x.f.faultAt x.own a size true)
        else .next (s.modFibre x.key fun f => { f with pending := f.pending ++ [d] })
      | .error b => x.bad s a size true b

/-- MOD6[2:0] of a memory instruction (R20). -/
def spaceOf (f : FormW) : Nat := fld f.mod 0 3

/-- SUB5[1:0] of a memory instruction. -/
def sizeOf_ (f : FormW) : Nat := fld f.sub 0 2

/-- LD, format W (R251). A queue register is not its destination. -/
def execLdW (f : FormW) (s : State) : Host.Outcome State Fault Refusal :=
  s.plain (.ldW f) fun x s =>
    if isQueue f.a.toNat then x.illegal else x.load s f.a (spaceOf f) (sizeOf_ f) (bit f.sub 2)

/-- LD, format X (R251). -/
def execLdX (f : FormW) (lit : Word) (s : State) : Host.Outcome State Fault Refusal :=
  s.plain (.ldX f lit) fun x s =>
    if isQueue f.a.toNat then x.illegal else x.load s f.a (spaceOf f) (sizeOf_ f) (bit f.sub 2)

/-- ST, format W (R252): a store to CONST is refused at the privilege check (R21). -/
def execStW (f : FormW) (s : State) : Host.Outcome State Fault Refusal :=
  s.lanes (.stW f) (fun _ => decide (spaceOf f = 4)) fun x s =>
    if isQueue f.d.toNat then x.illegal else x.store s (spaceOf f) (sizeOf_ f) x.d

/-- ST, format X (R252). -/
def execStX (f : FormW) (lit : Word) (s : State) : Host.Outcome State Fault Refusal :=
  s.lanes (.stX f lit) (fun _ => decide (spaceOf f = 4)) fun x s =>
    if isQueue f.d.toNat then x.illegal else x.store s (spaceOf f) (sizeOf_ f) x.d

/-- LDQ (R253): into a place at the tail of a queue register. -/
def execLdq (f : FormW) (s : State) : Host.Outcome State Fault Refusal :=
  s.plain (.ldq f) fun x s =>
    if isQueue f.a.toNat then x.load s f.a (spaceOf f) (sizeOf_ f) (bit f.sub 2) else x.illegal

/-- STQ (R253): of the word at the head of a queue register. A store to CONST is refused at the privilege check (R21, R250;
assumption 65). -/
def execStq (f : FormW) (s : State) : Host.Outcome State Fault Refusal :=
  s.lanes (.stq f) (fun _ => decide (spaceOf f = 4)) fun x s =>
    if isQueue f.d.toNat then x.store s (spaceOf f) (sizeOf_ f) x.d else x.illegal

/-- A line of memory that a range or an address meets, where it translates for a load. -/
def State.loadLine (s : State) (vf va : Nat) : Option Nat :=
  match s.translate vf 0 va false with
  | .ok pa => if inAperture pa then none else some (lineOf pa)
  | _ => none

/-- PREF (R260): a fill that no access shows. -/
def execPref (f : FormW) (s : State) : Host.Outcome State Fault Refusal :=
  s.plain (.pref f) fun x s =>
    let a := memAddr 0 x.b x.c
    let core := coreOf x.key
    let die := dieOfCore core
    match s.loadLine x.f.tenant a with
    | none => .next s
    | some line =>
      let o := s.objectAt x.f.tenant a
      if s.isPoisoned line || s.inBacking x.f.tenant a then .next s
      else if f.mod = 0 then
        if o.1 = .stream then .next s else .next (s.viewLine core x.f.tenant a line o.1 o.2).1
      else if dieOfLine line = die ∨ o.1 = .priv then .next s
      else .next (s.readL2 die x.f.tenant line).1

/-- The lines of memory that meet a range of GLOBAL addresses; pages that do not translate are skipped (R261). -/
def State.rangeLines (s : State) (vf a n : Nat) : List Nat :=
  if n = 0 then []
  else dedup ((upto (a / 64) ((a + n - 1) / 64 - a / 64 + 1)).filterMap fun l => s.loadLine vf (l * 64))

/-- DLEASE (R262): the SHARED clean copies of the range go. -/
def execDlease (f : FormW) (s : State) : Host.Outcome State Fault Refusal :=
  s.plain (.dlease f) fun x s =>
    let core := coreOf x.key
    .next ((s.rangeLines x.f.tenant x.b.toNat (loWord x.c).toNat).foldl (fun s line =>
      match s.l1 core line with
      | some l =>
        if l.kind = .shared ∧ l.retained = false ∧ l.dirty.isEmpty then
          s.setL1 core line { l with copy := .none, expiry := .none }
        else s
      | .none => s) s)

end Sys2Proof.Machine
end

