-- ==== Sys2Proof/Machine/EngineOps.lean ====
section
/-! DEFINITION. Engine operations: their counters, their issue, how far they run, and their ends (R51, R146 to R149, R265
to R270). -/
namespace Sys2Proof.Machine

/-! ### Counters (R146, R148, R149) -/

/-- Completed operations leave a fibre's counters in issue order: one waits until every older one of its class has
completed (R146). -/
def dropDone : List Counted → List Nat → List Counted
  | [], _ => []
  | c :: rest, open_ =>
    if c.done ∧ ¬ c.cls ∈ open_ then dropDone rest open_ else c :: dropDone rest (c.cls :: open_)

/-- Note what has become of a counted operation; the counters of a KILLED fibre are discarded, and its descriptor freed
when its last operation has ended (R51). -/
def State.settleOp (s : State) (key op : Nat) (stopped : Option Stopped) : State :=
  match s.fibres.find key with
  | none => s
  | some f =>
    if f.state = .killed then
      let left := f.counted.filter fun c => decide (c.op ≠ op)
      let s := s.setFibre key { f with counted := left }
      if left.isEmpty then s.freeDescriptor key else s
    else
      let upd := fun (c : Counted) =>
        if c.op = op then (match stopped with | some x => { c with stopped := some x } | none => { c with done := true }) else c
      let s := s.setFibre key { f with counted := dropDone (f.counted.map upd) [] }
      (s.recheck (coreOf key)).tryPerform key

/-- The clerks whose invalidations wait for an operation look again (R367). -/
def State.freeTranslations (s : State) (id : Nat) : State :=
  (s.coh.translations.filter fun p => decide (p.2 = id ∧ 128 ≤ p.1)).foldl (fun s p => s.recheck (p.1 - 128)) s

/-- An operation leaves its engine, and the copy engine's command queue (R276). -/
def State.dropEngine (s : State) (id : Nat) (o : EngineOp) : State :=
  let s := State.freeTranslations { s with engine := s.engine.del id } id
  if (s.unit o.core).copyQueue.contains id then
    (s.modUnit o.core fun u => { u with copyQueue := u.copyQueue.filter fun i => decide (i ≠ id) }).recheck o.core
  else s

/-- The operation completes: it leaves the engine and its counter falls. -/
def State.endEngine (s : State) (id : Nat) : State :=
  match s.engine.find id with
  | none => s
  | some o => (s.dropEngine id o).settleOp o.fibre id none

/-- The operation stops, and its counter holds (R148, R270). -/
def State.stopEngine (s : State) (id : Nat) (st : Stopped) : State :=
  match s.engine.find id with
  | none => s
  | some o => (s.dropEngine id o).settleOp o.fibre id (some st)

/-- Count an operation of a class for a fibre and hand it to its engine (R146); answers its number. -/
def State.startEngine (s : State) (key vf cls : Nat) (pages : List (Nat × Nat)) (job : Job) (writes : List (Nat × Nat))
    (hostWrites : List Nat) : Nat × State :=
  let id := s.nextId
  let o : EngineOp :=
    { core := coreOf key, fibre := key, vf := vf, cls := cls, issued := s.gtc, pages := pages, job := job,
      writes := writes, release := none, hostWrites := hostWrites,
      leaves := dedup (pages.map fun p => s.leafOf vf (p.1 * 4096)) }
  let s := s.fresh.2
  let s := { s with engine := s.engine.put id o }
  (id, s.modFibre key fun f =>
    { f with counted := f.counted ++ [{ cls := cls, op := id, num := f.issued.get cls 0, done := false, stopped := none }],
             issued := f.issued.put cls (f.issued.get cls 0 + 1) })

/-- The pitch granules that a range of an engine operation touches, with their core and whether they are of WEIGHT (R51). -/
def State.rangeGranules (s : State) (core space a n : Nat) : List (Nat × Bool × Nat) :=
  match space with
  | 1 =>
    let scr := s.scratchSize core
    ((granulesOf a (min n (scr - a))).map fun g => (core, false, g)) ++
      if a + n ≤ scr then [] else (granulesOf (max a scr - scr) (a + n - max a scr)).map fun g => (core, true, g)
  | 2 =>
    let p := clusterPlace core a
    (granulesOf p.2 n).map fun g => (p.1, false, g)
  | _ => []

/-- The granules that an operation touches go on its record. -/
def State.pin (s : State) (id : Nat) (gs : List (Nat × Bool × Nat)) : State :=
  { s with engine := s.engine.modify id fun o => { o with granules := dedup gs } }

/-- The effect that a WAITC reaching a stopped operation performs (R148, R270, R327). -/
def stoppedEffect (pc : Pc) (c : Counted) (st : Stopped) : Effect :=
  let payload : DWord := if st.tag = 18 then st.info else BitVec.ofNat 64 (c.num % 65536 + c.cls * 65536)
  { effectOf pc st.tag st.addr st.info with payload := payload }

/-- What keeps a lane from issuing an operation of a class: a pending fault, which a release delivers first (R147), a full
counter (R146), or, for a release, an atomic operation of the fibre on its way. -/
def LaneIn.engineStop (x : LaneIn) (s : State) (cls : Nat) (release : Bool) : Option LaneRes :=
  if release ∧ x.f.pending.isEmpty = false then some (.effect (x.f.pageFault x.own))
  else if 255 ≤ x.f.counter cls then some (.park (.counter (.room cls)))
  else if release then x.ownAtoms s
  else none

/-! ### Translation at issue (R265) -/

/-- The pages of a range: one that does not translate, or whose tables meet a poisoned line (R136), is the answer's error; one of
the port that is not ACTIVE is left out, and stops the operation when it is reached (R363). The check of R368 comes later, at the
target. -/
def State.enginePages (s : State) (vf : Nat) (write : Bool) : List Nat → Except (Nat × Bad) (List (Nat × Nat))
  | [] => .ok []
  | p :: rest =>
    match s.translateWalk vf (p * 4096) write with
    | .fault => .error (p, .fault)
    | .soft => .error (p, .soft)
    | .inactive => State.enginePages s vf write rest
    | .ok pa =>
      match State.enginePages s vf write rest with
      | .ok l => .ok ((p, pa) :: l)
      | .error e => .error e

/-- A range of an engine operation at issue: checked in PITCH and CLUSTER, translated in GLOBAL. -/
def LaneIn.engineRange (x : LaneIn) (s : State) (space a n : Nat) (write : Bool) :
    Except LaneRes (List (Nat × Nat)) :=
  if space = 0 then
    match x.awaitTables s ((pagesOf a n).map fun p => p * 4096), s.enginePages x.f.tenant write (pagesOf a n) with
    | some r, _ => .error r
    | none, .ok l => .ok l
    | none, .error (p, b) => .error (x.bad s (max a (p * 4096)) 0 write b)
  else
    match s.engineRange (coreOf x.key) x.f.tenant space a n (!write) with
    | some b => .error (x.bad s a 0 write b)
    | none => .ok []

/-- Several ranges, in order. -/
def LaneIn.engineRanges (x : LaneIn) (s : State) :
    List (Nat × Nat × Nat × Bool) → Except LaneRes (List (Nat × Nat))
  | [] => .ok []
  | (space, a, n, w) :: rest =>
    match x.engineRange s space a n w with
    | .error e => .error e
    | .ok l =>
      match LaneIn.engineRanges x s rest with
      | .ok m => .ok (l ++ m)
      | .error e => .error e

/-- An address operand of an engine instruction: the low word for a space other than GLOBAL. -/
def engineAddr (space : Nat) (v : DWord) : Nat := if space = 0 then v.toNat else (loWord v).toNat

/-- An address moved by a signed distance, in its space (R250). -/
def moveAddr (space a : Nat) (d : Int) : Nat := (((a : Int) + d) % (if space = 0 then 2 ^ 64 else 2 ^ 32 : Nat)).toNat

/-! ### How far an operation runs (R270) -/

/-- A host port has answered an access to this byte with an error (R149). -/
def hostFails (pages : List (Nat × Nat)) (a : Nat) (hostError : Option Nat) : Bool :=
  match hostError, pageAddress pages a with
  | some e, some pa => decide (e = a) && isHostLine (lineOf pa)
  | _, _ => false

/-- The failure of an engine's read of a byte: whether a poisoned line causes it. A page that a window keeps from the engine's
master class `cls` fails as it is reached (R368), and so does one of the port that is not ACTIVE by then (R363). -/
def State.readFails (s : State) (vf cls : Nat) (pages : List (Nat × Nat)) (space a : Nat) (hostError : Option Nat) :
    Option Bool :=
  if space ≠ 0 then none
  else
    match pageAddress pages a with
    | none => some (decide (s.translateWalk vf a false = .soft))
    | some pa =>
      if inAperture pa ∨ hostFails pages a hostError = true ∨ s.arrives vf cls pa false = false ∨ s.portInactive pa = true then
        some false
      else if s.isPoisoned (lineOf pa) then some true
      else none

/-- The failure of an engine's write of a byte, one of a write to [base, base + n). A write of a full line is no failure
for its poison (R136). -/
def State.writeFails (s : State) (core vf cls : Nat) (pages : List (Nat × Nat)) (space a base n : Nat)
    (hostError : Option Nat) : Option Bool :=
  if space ≠ 0 then none
  else
    match pageAddress pages a with
    | none => some (decide (s.translateWalk vf a true = .soft))
    | some pa =>
      if hostFails pages a hostError = true ∨ s.arrives vf cls pa true = false ∨ s.portInactive pa = true then some false
      else
        match s.storeBad core vf a pa false with
        | some .soft => if base ≤ lineOf a ∧ lineOf a + 64 ≤ base + n then none else some true
        | some _ => some false
        | none => none

/-- Lines written in full are no longer poisoned (R136). -/
def State.healLines (s : State) (pages : List (Nat × Nat)) (space base n : Nat) : State :=
  if space ≠ 0 ∨ s.store.poisoned.isEmpty then s
  else
    let full := (upto (base / 64) (n / 64 + 1)).filterMap fun l =>
      if base ≤ l * 64 ∧ l * 64 + 64 ≤ base + n then (pageAddress pages (l * 64)).map lineOf else none
    s.modStore fun m => { m with poisoned := m.poisoned.filter fun x => !full.contains x }

/-- Move `n` bytes: every source byte is read before any destination byte is written (R266). -/
def State.moveBytes (s : State) (o : EngineOp) (dspace dst sspace src n : Nat) : State :=
  let s := s.healLines o.pages dspace dst n
  match s.engineReadBytes o.core o.vf o.pages sspace src n with
  | .error _ => s
  | .ok (s, b) =>
    (cellsAt dst b).foldl (fun s p =>
      match s.engineWrite o.core o.vf o.pages dspace p.1 p.2 with
      | .ok s => s
      | .error _ => s) s

/-! ### Copies (R266 to R268) -/

/-- The source and destination of row r. -/
def CopyJob.row (j : CopyJob) (r : Nat) : Nat × Nat :=
  (moveAddr j.sspace j.src (r * j.sstride), moveAddr j.dspace j.dst (r * j.dstride))

/-- A failure of a copy: the address, whether it is of the source, and whether a poisoned line causes it. -/
structure CopyFailure where
  addr : Nat
  source : Bool
  poisoned : Bool
  deriving DecidableEq, Repr

/-- The first failing byte of a row, from byte `i` on. -/
def State.rowFailure (s : State) (o : EngineOp) (j : CopyJob) (h : Option Nat) (src dst i : Nat) :
    Nat → Option CopyFailure
  | 0 => none
  | n + 1 =>
    match s.readFails o.vf 1 o.pages j.sspace (src + i) h with
    | some p => some { addr := src + i, source := true, poisoned := p }
    | none =>
      match s.writeFails o.core o.vf 1 o.pages j.dspace (dst + i) dst j.rowLen h with
      | some p => some { addr := dst + i, source := false, poisoned := p }
      | none => State.rowFailure s o j h src dst (i + 1) n

/-- The first failing byte of a copy, from row r on. -/
def State.copyFailure (s : State) (o : EngineOp) (j : CopyJob) (h : Option Nat) (r : Nat) : Nat → Option CopyFailure
  | 0 => none
  | n + 1 =>
    match s.rowFailure o j h (j.row r).1 (j.row r).2 0 j.rowLen with
    | some e => some e
    | none => State.copyFailure s o j h (r + 1) n

/-- The bytes of a row before the first whose address on the failing side lies in the failing page. -/
def rowPrefix (page a : Nat) (n : Nat) : Nat :=
  if n = 0 ∨ a / 4096 = page then 0
  else if a / 4096 < page ∧ page * 4096 < a + n then page * 4096 - a
  else n

/-- Copy row after row up to a failure; answers the bytes done. -/
def State.copyRows (s : State) (o : EngineOp) (j : CopyJob) (e : Option CopyFailure) (r : Nat) : Nat → Nat × State
  | 0 => (0, s)
  | n + 1 =>
    let p := j.row r
    let len := match e with
      | none => j.rowLen
      | some e => rowPrefix (e.addr / 4096) (if e.source then p.1 else p.2) j.rowLen
    let s := s.moveBytes o j.dspace p.2 j.sspace p.1 len
    if len < j.rowLen then (len, s)
    else
      let q := State.copyRows s o j e (r + 1) n
      (len + q.1, q.2)

/-- What a stopped operation's WAITC performs (R270). -/
def stoppedAt (addr done : Nat) (poisoned : Bool) : Stopped :=
  if poisoned then { tag := 18, addr := BitVec.ofNat 64 addr, info := 0xFFFFFFFF }
  else { tag := 8, addr := BitVec.ofNat 64 addr, info := BitVec.ofNat 64 done }

/-- The end of a copy whose bytes are in place: COPY_DONE, and the counter falls (R346). -/
def State.copyDone (s : State) (id : Nat) (o : EngineOp) (j : CopyJob) : State :=
  (s.raise (dieOfCore o.core) 0x0018 o.vf (512 + o.core) (j.rows * j.rowLen) (s.gtc - o.issued)).endEngine id

/-- The release of a completion word begins (R268): as a 64-bit REL.S of the copy engine's core. -/
def State.startRelease (s : State) (o : EngineOp) (addr scope : Nat) (v : DWord) : Option (Nat × State) :=
  match pageAddress o.pages addr with
  | none => none
  | some pa =>
    if (s.storeBad o.core o.vf addr pa false).isSome ∨ s.arrives o.vf 1 pa true = false ∨ s.portInactive pa = true then none
    else
      let obj := s.objectAt o.vf addr
      let free := isHostLine (lineOf pa) || decide (obj.1 = .stream)
      if scope < 2 ∧ free = false then some (0, s.storeLine o.core none o.vf pa obj.1 (toBytes v.toNat 8))
      else
        let id := s.nextId
        let s := s.fresh.2
        let rel : OrdOp :=
          { kind := .rel, stage := .served, agent := o.core, fibre := none, vf := o.vf, space := if free then 6 else 0,
            addr := pa, size := 8, scope := scope, value := v, value2 := 0, targets := [], writes := [], lines := [],
            hostWrites := [], lost := false, result := 0, since := s.gtc }
        if free then
          let r := s.fencePart o.core o.vf scope rel
          some (id, (r.2.setOrd id r.1).tryComplete id)
        else
          some (id, ((((s.agedStamps o.core o.vf).setOrd id rel).serve id).evaluate (lineOf pa)).tryComplete id)

/-- The completion word of a CPYW that cannot be written lies in a poisoned line (R136). -/
def State.wordPoisoned (s : State) (o : EngineOp) (addr : Nat) : Bool :=
  match pageAddress o.pages addr with
  | some pa => s.arrives o.vf 1 pa true && !s.portInactive pa && decide (s.storeBad o.core o.vf addr pa false = some .soft)
  | none => false

/-- Run a copy to its end or to a failure (COPY_COMPLETE, ENGINE_STOP). A CPYW then writes its word, and ends when that
release is done; one whose word cannot be written stops there. -/
def State.runCopy (s : State) (id : Nat) (o : EngineOp) (j : CopyJob) (h : Option Nat) : State :=
  match o.release with
  | some r =>
    let s := s.tryComplete r
    if (s.coh.ops.find r).isNone then s.copyDone id o j else s
  | none =>
    let e := s.copyFailure o j h 0 j.rows
    let r := s.copyRows o j e 0 j.rows
    match e, j.word with
    | some e, _ => r.2.stopEngine id (stoppedAt e.addr r.1 e.poisoned)
    | none, none => r.2.copyDone id o j
    | none, some (addr, v, scope) =>
      match r.2.startRelease o addr scope v with
      | none => r.2.stopEngine id (stoppedAt addr r.1 (r.2.wordPoisoned o addr))
      | some (w, s) =>
        if (s.coh.ops.find w).isNone then s.copyDone id o j
        else { s with engine := s.engine.put id { o with release := some w } }

/-- The ranges of a copy, source and destination of each row. -/
def CopyJob.ranges (j : CopyJob) : List (Nat × Nat × Nat × Bool) :=
  (List.range j.rows).flatMap fun r =>
    [(j.sspace, (j.row r).1, j.rowLen, false), (j.dspace, (j.row r).2, j.rowLen, true)]

/-- Issue a copy: its ranges are checked and translated, and it is counted (R265). -/
def LaneIn.issueCopy (x : LaneIn) (s : State) (j : CopyJob) : LaneRes :=
  let word := match j.word with | some (a, _, _) => [(0, a, 8, true)] | none => []
  match x.engineRanges s (j.ranges ++ word) with
  | .error e => e
  | .ok pages =>
    let r := s.startEngine x.key x.f.tenant 0 pages (.copy j) [] []
    .next (r.2.pin r.1 (j.ranges.flatMap fun p => s.rangeGranules (coreOf x.key) p.1 p.2.1 p.2.2.1))

/-- A copy control block (R267); `scope` is given for CPYW. -/
def CopyJob.ofBytes (b : List Byte) (scope : Option Nat) : CopyJob :=
  { dst := field b 0 8, src := field b 8 8, rows := field b 16 4, rowLen := field b 20 4,
    dstride := (BitVec.ofNat 64 (field b 24 8)).toInt, sstride := (BitVec.ofNat 64 (field b 32 8)).toInt,
    dspace := field b 40 1, sspace := field b 41 1,
    word := scope.map fun c => (field b 48 8, BitVec.ofNat 64 (field b 56 8), c) }

/-- A copy control block that performs ILLEGAL (R267). -/
def CopyJob.illegal (j : CopyJob) : Bool :=
  decide (j.rows = 0 ∨ 2 ^ 24 < j.rows ∨ 2 ^ 24 < j.rowLen ∨ 2 < j.dspace ∨ 2 < j.sspace) ||
    match j.word with | some (a, _, _) => decide (a = 0 ∨ a % 8 ≠ 0) | none => false

/-- Read a 64-byte block of an engine instruction at issue, through the core's L1 (R267). No engine reads the WEIGHT region
(R117). -/
def LaneIn.readBlock (x : LaneIn) (s : State) (space a : Nat) : Except LaneRes (State × List Byte) :=
  if a % 64 ≠ 0 then .error x.illegal
  else
  match (if space = 0 then x.awaitTables s [a] else none) with
  | some r => .error r
  | none =>
    match (if space = 1 then (s.engineRange (coreOf x.key) x.f.tenant 1 a 64 true).map fun b => (Except.error b) else none).getD
        (s.loadSpace x.key x.f space a 64) with
    | .error b => .error (x.bad s a 6 false b)
    | .ok r => .ok r

/-- CPY2D or CPYW with the block at an address (R267, R268). -/
def LaneIn.copyBlock (x : LaneIn) (s : State) (space a : Nat) (scope : Option Nat) : LaneRes :=
  match x.engineStop s 0 true with
  | some r => r
  | none =>
    match x.readBlock s space a with
    | .error e => e
    | .ok (s, b) =>
      let j := CopyJob.ofBytes b scope
      if j.illegal then x.illegal
      else
        let narrow := fun (sp v : Nat) => if sp = 0 then v else v % 2 ^ 32
        x.issueCopy s { j with dst := narrow j.dspace j.dst, src := narrow j.sspace j.src }

/-! ### Gathers and scatters (R269) -/

/-- The address of the linear side's element i, and of the indexed side's. -/
def GsJob.places (j : GsJob) (i idx : Nat) : Nat × Nat :=
  let e := 2 ^ j.esize
  if j.scatter then (moveAddr j.sspace j.src (i * e), moveAddr j.dspace j.dst (idx * e))
  else (moveAddr j.sspace j.src (idx * e), moveAddr j.dspace j.dst (i * e))

/-- Why an element's range of a side stops the engine: its failing address, and whether a poisoned line causes it. The
index-dependent side is checked and translated as the engine reaches it. -/
def State.elementFails (s : State) (o : EngineOp) (space a n : Nat) (write : Bool) (h : Option Nat) :
    Option (Nat × Bool) :=
  if space = 0 then
    (upto a n).findSome? fun b =>
      (if write then s.writeFails o.core o.vf 1 o.pages space b a n h else s.readFails o.vf 1 o.pages space b h).map
        fun p => (b, p)
  else (s.engineRange o.core o.vf space a n (!write)).map fun _ => (a, false)

/-- A little-endian number that an engine reads from the index or mask table: the failing byte where it cannot. -/
def State.engineNumber (s : State) (o : EngineOp) (space a n : Nat) (h : Option Nat) :
    Except (Nat × Bool) (State × Nat) :=
  match (upto a n).findSome? fun b => (s.readFails o.vf 1 o.pages space b h).map fun p => (b, p) with
  | some e => .error e
  | none =>
    match s.engineReadBytes o.core o.vf o.pages space a n with
    | .ok (s, b) => .ok (s, ofBytes b)
    | .error e => .error (e.addr, e.poisoned)

/-- The pages of an index-dependent range, translated as the engine reaches it. -/
def State.reachPages (s : State) (o : EngineOp) (space a n : Nat) (write : Bool) : EngineOp :=
  if space ≠ 0 then o
  else
    let new := (pagesOf a n).filterMap fun p =>
      match s.translateWalk o.vf (p * 4096) write with | .ok pa => some (p, pa) | _ => none
    { o with pages := new ++ o.pages.filter fun p => !(pagesOf a n).contains p.1 }

/-- The index of an element: none where the mask leaves it out (R269). -/
def State.gsIndex (s : State) (o : EngineOp) (j : GsJob) (h : Option Nat) (i : Nat) :
    Except (Nat × Bool) (State × Option Nat) :=
  match (if j.mask = 0 then .ok (s, 1) else
      (s.engineNumber o j.ispace (j.mask + i / 8) 1 h).map fun r => (r.1, r.2 / 2 ^ (i % 8) % 2)) with
  | .error e => .error e
  | .ok (s, 0) => .ok (s, none)
  | .ok (s, _) => (s.engineNumber o j.ispace (j.idx + 4 * i) 4 h).map fun r => (r.1, some r.2)

/-- Run a gather or scatter from element i on; answers the elements done and the failure that stopped it. -/
def State.gsElements (s : State) (o : EngineOp) (j : GsJob) (h : Option Nat) (i : Nat) :
    Nat → Nat × Option (Nat × Bool) × State
  | 0 => (i, none, s)
  | n + 1 =>
    match s.gsIndex o j h i with
    | .error e => (i, some e, s)
    | .ok (s, none) => State.gsElements s o j h (i + 1) n
    | .ok (s, some ix) =>
      let p := j.places i ix
      let e := 2 ^ j.esize
      let o' := if j.scatter then s.reachPages o j.dspace p.2 e true else s.reachPages o j.sspace p.1 e false
      match (s.elementFails o' j.sspace p.1 e false h).or (s.elementFails o' j.dspace p.2 e true h) with
      | some f => (i, some f, s)
      | none => State.gsElements (s.moveBytes o' j.dspace p.2 j.sspace p.1 e) o j h (i + 1) n

/-- Run a gather or scatter to its end or to a failure (GS_COMPLETE, ENGINE_STOP). -/
def State.runGs (s : State) (id : Nat) (o : EngineOp) (j : GsJob) (h : Option Nat) : State :=
  let r := s.gsElements o j h 0 j.count
  match r.2.1 with
  | some (a, p) => r.2.2.stopEngine id (stoppedAt a r.1 p)
  | none => r.2.2.endEngine id

/-- A gather or scatter block (R269). -/
def GsJob.ofBytes (scatter : Bool) (b : List Byte) : GsJob :=
  { scatter := scatter, dst := field b 0 8, src := field b 8 8, idx := field b 16 8, mask := field b 24 8,
    count := field b 32 4, esize := field b 36 1, dspace := field b 37 1, sspace := field b 38 1,
    ispace := field b 39 1 }

/-- A block that performs ILLEGAL (R267, R269). -/
def GsJob.illegal (j : GsJob) : Bool := decide (2 ^ 24 < j.count ∨ 8 < j.esize ∨ 2 < j.dspace ∨ 2 < j.sspace ∨ 2 < j.ispace)

/-- The ranges that do not depend on indices: the linear side, the indices and the mask. -/
def GsJob.ranges (j : GsJob) : List (Nat × Nat × Nat × Bool) :=
  let n := j.count * 2 ^ j.esize
  [if j.scatter then (j.sspace, j.src, n, false) else (j.dspace, j.dst, n, true), (j.ispace, j.idx, 4 * j.count, false)] ++
    if j.mask = 0 then [] else [(j.ispace, j.mask, ceilDiv j.count 8, false)]

/-- The granules that the indexed side of a gather or scatter may touch: every one in reach that the tenant holds at issue,
since the indices are read as the engine runs (assumption 63). -/
def State.indexedGranules (s : State) (core tenant space : Nat) : List (Nat × Bool × Nat) :=
  let mine := fun (c : Nat) (w : Bool) (t : Tbl (Nat × Nat)) =>
    (t.select fun _ h => decide (h.1 = tenant)).map fun p => (c, w, p.1)
  match space with
  | 1 => mine core false (s.unit core).scratch ++ mine core true (s.unit core).weight
  | 2 => (upto (clusterOf core * 8) 8).flatMap fun c => mine c false (s.unit c).scratch
  | _ => []

/-- Issue a gather or scatter (R265, R269). -/
def LaneIn.issueGs (x : LaneIn) (s : State) (scatter : Bool) (space a : Nat) : LaneRes :=
  match x.engineStop s 1 true with
  | some r => r
  | none =>
    match x.readBlock s space a with
    | .error e => e
    | .ok (s, b) =>
      let j := GsJob.ofBytes scatter b
      if j.illegal then x.illegal
      else
        let narrow := fun (sp v : Nat) => if sp = 0 then v else v % 2 ^ 32
        let j := { j with dst := narrow j.dspace j.dst, src := narrow j.sspace j.src, idx := narrow j.ispace j.idx,
                          mask := narrow j.ispace j.mask }
        match x.engineRanges s j.ranges with
        | .error e => e
        | .ok pages =>
          let r := s.startEngine x.key x.f.tenant 1 pages (.gs j) [] []
          let linear := j.ranges.flatMap fun p => s.rangeGranules (coreOf x.key) p.1 p.2.1 p.2.2.1
          .next (r.2.pin r.1 (linear ++ s.indexedGranules (coreOf x.key) x.f.tenant (if scatter then j.dspace else j.sspace)))

/-! ### WB and INV (R261) -/

/-- The dirty lines of a list begin to be written back, a RETAINED one as by eviction. Answers the writes of the core to these
lines that wait at their homes, with those sent before (R147). -/
def State.flushLines (s : State) (core vf : Nat) (lines : List Nat) : List (Nat × Nat) × State :=
  let s := lines.foldl (fun (s : State) line =>
    let held := match s.l1 core line with | some l => l.retained | none => false
    (if held then s.releaseRetained core vf line else s.writeBack core vf line).2) s
  ((s.coreWrites core).filter fun w => lines.contains w.1, s)

/-- Issue a WB or INV: the range begins to be written back; for .sys it also waits for the write-through stores of the
range. -/
def LaneIn.issueWb (x : LaneIn) (s : State) (inval : Bool) (scope : Nat) : LaneRes :=
  match x.engineStop s 4 false with
  | some r => r
  | none =>
    let core := coreOf x.key
    let vf := x.f.tenant
    let lines := s.rangeLines vf x.b.toNat (loWord x.c).toNat
    let r := s.flushLines core vf lines
    let hosts := if scope ≠ 5 then []
      else (s.coh.hostWrites.filter fun w => decide (w.core = some core) && lines.contains w.line).map fun w => w.id
    .next (r.2.startEngine x.key vf 4 [] (.wb { inval := inval, lines := lines }) r.1 hosts).2

/-- Complete a WB or INV whose writes are performed (R147): INV removes the copies of the range. -/
def State.runWb (s : State) (id : Nat) (o : EngineOp) (j : WbJob) : State :=
  if s.performed o.writes [] ∧ s.hostPending o.hostWrites = false then
    let s := if j.inval then
        j.lines.foldl (fun s line =>
          match s.l1 o.core line with
          | some l => s.setL1 o.core line { l with copy := .none, expiry := .none }
          | .none => s) s
      else s
    s.endEngine id
  else s

end Sys2Proof.Machine
end

