-- ==== Sys2Proof/Machine/Queues.lean ====
section
/-! DEFINITION. Queue registers and band barriers: QSEND, QSTAT, MBAR (R274 to R278). -/
namespace Sys2Proof.Machine

/-- The core beside another in its cluster (R276). -/
def neighbourCore (core : Nat) (up : Bool) : Nat := core / 8 * 8 + (core % 8 + if up then 1 else 7) % 8

/-- The number by which the model names a consumer (see `hasRoom`). -/
def consumerOf (core q i : Nat) : Nat :=
  if i < 19 then i else 19 + neighbourCore core (decide (i = 19)) * 16 + q

/-- The q register that a consumer is, as core and number. -/
def consumerQueue (core q i : Nat) : Option (Nat × Nat) :=
  if i < 16 then some (core, i) else if 19 ≤ i then some (neighbourCore core (decide (i = 19)), q) else none

/-- Append one or two words to a q register, low first (R276). -/
def State.sendWords (s : State) (core tenant q : Nat) (v : DWord) (wide neighbour : Bool) : State :=
  let s := s.pushQueue core tenant q (some (loWord v)) neighbour
  if wide then s.pushQueue core tenant q (some (hiWord v)) neighbour else s

/-- Deliver a value to a consumer that is no copy engine and has room (R276). -/
def State.accept (s : State) (core tenant q i : Nat) (v : DWord) (wide : Bool) : State :=
  match consumerQueue core q i with
  | some (c, n) => s.sendWords c tenant n v wide (decide (19 ≤ i))
  | none =>
    (s.modUnit core fun u =>
      if i = 16 then { u with feedA := u.feedA ++ [(tenant, v)] }
      else { u with feedB := u.feedB ++ [(tenant, v)] }).recheck core

/-- The consumers of a mask that have not yet accepted, and whether each now does (R276); answers those that refuse. -/
def State.offerAll (s : State) (key tenant q : Nat) (v : DWord) (wide : Bool) : List Nat → List Nat × State
  | [] => ([], s)
  | i :: rest =>
    let core := coreOf key
    if s.hasRoom core (consumerOf core q i) (if wide then 2 else 1) then
      let s := (s.accept core tenant q i v wide).modFibre key fun f => { f with qsent := f.qsent + 2 ^ i }
      State.offerAll s key tenant q v wide rest
    else
      let r := State.offerAll s key tenant q v wide rest
      (i :: r.1, r.2)

/-- The fields of a QSEND that perform ILLEGAL (R276). -/
def qsendBad (mask d : Nat) (wide clu : Bool) : Bool :=
  decide (mask = 0 ∨ 2 ^ 21 ≤ mask ∨ 16 ≤ d) || (!wide && decide (bits mask 18 16 ≠ 0)) ||
    (!clu && decide (bits mask 20 19 ≠ 0))

/-- The copy engine's part of a QSEND (R276): the block at the address runs as a CPY2D of the sender. Answers the state, or
the outcome that ends the lane: what the other consumers have accepted stands. -/
def LaneIn.offerCopy (x : LaneIn) (s : State) (v : DWord) : Except LaneRes State :=
  let core := coreOf x.key
  if s.hasRoom core 18 1 = false then .error (.waitIn s (.register (.room 18 1)))
  else
    let id := s.nextId
    match x.copyBlock s 0 v.toNat none with
    | .next t =>
      let ids := (upto id (t.nextId - id)).filter fun i => (t.engine.find i).isSome
      .ok ((t.modUnit core fun u => { u with copyQueue := u.copyQueue ++ ids }).modFibre x.key fun f =>
        { f with qsent := f.qsent + 2 ^ 18 })
    | r => .error (r.on s)

/-- The consumers of a QSEND that are left to a lane. -/
def consumersLeft (mask sent : Nat) : List Nat :=
  (List.range 21).filter fun i => decide (bits mask i i = 1) && decide (bits sent i i = 0)

/-- QSEND (R276), a .core release (R152). A lane that parks gives back the words it took, and takes them when it executes again. -/
def execQsend (f : FormW) (s : State) : Host.Outcome State Fault Refusal :=
  s.plain (.qsend f) fun x s =>
    let core := coreOf x.key
    let mask := (loWord x.c).toNat
    let q := (loWord x.d).toNat
    let wide := bit f.sub 0
    let clu := decide (scopeOf f = 2)
    let left := consumersLeft mask x.f.qsent
    let foreign := left.any fun i =>
      match consumerQueue core (q % 16) i with | some (c, n) => s.queueForeign c x.f.tenant n | none => false
    if qsendBad mask q wide clu then x.illegal
    else if foreign && !isClerk x.key then x.priv 0
    else
    match x.ownAtoms s with
    | some r => r
    | none =>
      let id := s.nextId
      let t := s.fresh.2
      let part := if clu ∧ x.f.qsent = 0 then t.fencePart core x.f.tenant 2 (x.ordOp t .flush 0 0 0 2 0 0)
        else (x.ordOp t .flush 0 0 0 2 0 0, s)
      if part.2.writesPending part.1.writes then .waitIn (part.2.setOrd id part.1) (.address id)
      else
        let r := part.2.offerAll x.key x.f.tenant q x.b wide (left.filter fun i => decide (i ≠ 18))
        match (if left.contains 18 then x.offerCopy r.2 x.b else .ok r.2) with
        | .error e => e
        | .ok t =>
          match r.1 with
          | [] => .next (t.modFibre x.key fun f => { f with qsent := 0 })
          | i :: _ => .waitIn t (.register (.room (consumerOf core q i) (if wide then 2 else 1)))

/-- QSTAT (R277). -/
def execQstat (f : FormQ) (s : State) : Host.Outcome State Fault Refusal :=
  s.plain (.qstat f) fun x s =>
    if isQueue f.b.toNat = false then x.illegal
    else
      let r := s.queueReg (coreOf x.key) (f.b.toNat - 0xC0)
      let v := match r.owner with
        | none => r.places.length + 512
        | some t => if t = x.f.tenant then r.places.length + 256 else 1024
      .outs true [(f.a.toNat, BitVec.ofNat 32 v)] 0 none

/-- The crew of a fibre is broken (R46). -/
def State.crewBroken (s : State) (f : Fibre) : Bool :=
  match f.crew.bind s.sched.crews.find with | some c => c.broken | none => false

/-- MBAR (R278): the fibre arrives at a band barrier, as a REL.clu. The clerk has none (R49). -/
def execMbar (f : FormQI) (s : State) : Host.Outcome State Fault Refusal :=
  s.plain (.mbar f) fun x s =>
    if isClerk x.key then x.illegal
    else if s.crewBroken x.f then .effect (effectOf x.own 11 0 0)
    else
    match x.ownAtoms s with
    | some r => r
    | none =>
      let k := f.imm.toNat
      let id := s.nextId
      let t := s.fresh.2
      let r := t.fencePart (coreOf x.key) x.f.tenant 2 (x.ordOp t .flush 0 0 0 2 0 0)
      let t := if r.2.writesPending r.1.writes then r.2.setOrd id r.1 else r.2
      let t := t.park x.key (.barrier (.band k))
      match x.f.crew.bind t.sched.crews.find with
      | some c => .stop (t.checkBand c.launch c.band k)
      | none => .stop t

end Sys2Proof.Machine
end

