-- ==== Sys2Proof/Machine/Control.lean ====
section
/-! DEFINITION. Control transfer, gangs, barriers, fibres and exit, handlers and effects, but KSEND and KRECV (R206 to
R226). -/
namespace Sys2Proof.Machine

/-! ### Control transfer -/

/-- NOP, format Q (R206). -/
def execNopQ (f : FormQ) (s : State) : Host.Outcome State Fault Refusal := s.plain (.nopQ f) fun _ s => .next s

/-- NOP, format W (R206). -/
def execNopW (f : FormW) (s : State) : Host.Outcome State Fault Refusal := s.plain (.nopW f) fun _ s => .next s

/-- NOP, format X (R206). -/
def execNopX (f : FormW) (lit : Word) (s : State) : Host.Outcome State Fault Refusal :=
  s.plain (.nopX f lit) fun _ s => .next s

/-- A taken branch of `k` parcels (R207). -/
def LaneIn.branch (x : LaneIn) (s : State) (k : Int) : LaneRes :=
  let target := s.branchTo x.f.tenant x.own k
  .jump s target (isBackward x.own target)

/-- BRA, format QB (R207). -/
def execBraQb (f : FormQB) (s : State) : Host.Outcome State Fault Refusal :=
  s.plain (.braQb f) fun x s => x.branch s f.off.toInt

/-- BRA, format WI (R207). -/
def execBraWi (f : FormWI) (s : State) : Host.Outcome State Fault Refusal :=
  s.plain (.braWi f) fun x s => x.branch s f.imm.toInt

/-- The slide that a SUB5 names. -/
def slideOf (sub : BitVec 5) : Nat := fld sub 0 4 * 8

/-- A fibre takes up the ordering mode of the object whose code it enters (R154). -/
def State.setFsm (s : State) (key vf : Nat) (handle : Word) : State :=
  s.modFibre key fun f => { f with fsm := s.isM0 vf handle }

/-- Words copied from one segment to another, with their marks. -/
def copyCells (src : Tbl RegCell) (a : Nat) (dst : Tbl RegCell) (b n : Nat) : Tbl RegCell :=
  (List.range n).foldl (fun (t : Tbl RegCell) i => t.set (b + i) (src.find (a + i))) dst

/-- Locations of `n` words of one segment, moved to another. -/
def shiftLoc (src a dst b n : Nat) : Loc → Loc
  | .frame k i => if k = src ∧ a ≤ i ∧ i < a + n then .frame dst (b + (i - a)) else .frame k i
  | l => l

/-- The marks of copied words go with the copies (R73). -/
def clearMarks (t : Tbl RegCell) (a n : Nat) : Tbl RegCell :=
  t.mapVals fun i c => if a ≤ i ∧ i < a + n then { c with mark := .full } else c

/-- A segment hop into a new segment (R73). What the words hold that nothing is copied into is left open. -/
def State.hopInto (s : State) (key : Nat) (f : Fibre) (seg slide : Nat) (rp : DWord) : State :=
  let src := segKey f.tenant f.fbSeg
  let dst := segKey f.tenant seg
  let n := 128 - slide
  let id := s.nextId
  let s := s.fresh.2
  let words := copyCells (s.seg src).words (f.fbWord + slide) (openWords id n) 0 n
  let link : Segment :=
    { next := f.fbSeg, hchain := f.hchain, savedFbw := f.fbWord, slide := slide, retpc := rp, words := words,
      resident := none, touched := 0 }
  let s := s.newSeg (coreOf key) f.tenant seg link
  let s := s.modSeg src fun g => { g with words := clearMarks g.words (f.fbWord + slide) n, touched := s.gtc }
  let s := s.retarget (shiftLoc src (f.fbWord + slide) dst 0 n)
  s.modFibre key fun g => { g with fbSeg := seg, fbWord := 0, live := 128 }

/-- The return pointer goes into the caller's window at s − 2 and s − 1 (R208). -/
def State.writeReturn (s : State) (key slide : Nat) (rp : DWord) : State :=
  (s.writeCode key (slide - 2) (loWord rp)).writeCode key (slide - 1) (hiWord rp)

/-- The procedure of CALL and CALLI (R208): a call that must hop and finds no heap slot is filed again at its own PC; one
that finds no backing slot kills the crew (R76). -/
def LaneIn.callTo (x : LaneIn) (s : State) (slide : Nat) (target : Pc) : LaneRes :=
  let rp := x.next.pointer
  let f := x.f
  if f.fbWord + slide + 128 ≤ s.frameW f then
    let s := s.writeReturn x.key slide rp
    .checked [slide - 2, slide - 1]
      (.jump (s.modFibre x.key fun g => { g with fbWord := f.fbWord + slide, live := 128 }) target false)
  else
    match s.heapRoom (coreOf x.key) false with
    | none => .stop ((s.leaveGang x.key).file x.key)
    | some s =>
      let s := s.writeReturn x.key slide rp
      match s.freeSegFor x.key f.tenant with
      | none => .checked [slide - 2, slide - 1] (.stop (match f.crew with | some c => s.killCrew c 0x10002 | none => s))
      | some seg =>
        .checked [slide - 2, slide - 1] (.jump (s.hopInto x.key f seg slide rp) target false)

/-- CALL (R208). -/
def execCall (f : FormWI) (s : State) : Host.Outcome State Fault Refusal :=
  s.plain (.call f) fun x s => x.callTo s (slideOf f.sub) (s.branchTo x.f.tenant x.own f.imm.toInt)

/-- The PC that a code pointer enters (R203). -/
def State.enterPtr (s : State) (vf : Nat) (ptr : DWord) : Pc := s.enter vf (hiWord ptr) (loWord ptr)

/-- CALLI (R208). -/
def execCalli (f : FormW) (s : State) : Host.Outcome State Fault Refusal :=
  s.plain (.calli f) fun x s =>
    if s.listedEntry x.f.tenant x.b = false then x.illegal
    else
      match x.callTo s (slideOf f.sub) (s.enterPtr x.f.tenant x.b) with
      | .checked codes (.jump t pc back) => .checked codes (.jump (t.setFsm x.key x.f.tenant (hiWord x.b)) pc back)
      | r => r

/-- JMPI (R209). -/
def execJmpi (f : FormQ) (s : State) : Host.Outcome State Fault Refusal :=
  s.plain (.jmpi f) fun x s =>
    if s.listedEntry x.f.tenant x.b = false then x.illegal
    else .jump (s.setFsm x.key x.f.tenant (hiWord x.b)) (s.enterPtr x.f.tenant x.b) false

/-- The chain head without the records that the executing frame installed at its head (R74). -/
def State.dropOwn (s : State) (f : Fibre) (a : Nat) : Nat → Nat
  | 0 => a
  | n + 1 =>
    if a = 0 ∨ s.recordOk f.tenant a = false then a
    else
      let r := s.recordAt f.tenant a
      if frameSeg a = f.fbSeg ∧ r.fbw = f.fbWord then State.dropOwn s f r.prev n else a

/-- A hop return (R74): the overlapping words go back, FB and the chain head are restored, the segment is freed. -/
def State.hopBack (s : State) (key : Nat) (f : Fibre) (g : Segment) : State :=
  let src := segKey f.tenant f.fbSeg
  let dst := segKey f.tenant g.next
  let n := 128 - g.slide
  let w := g.savedFbw + g.slide
  let s := s.modSeg dst fun d => { d with words := copyCells g.words 0 d.words w n, touched := s.gtc }
  let s := s.retarget (shiftLoc src 0 dst w n)
  let s := s.freeSegs f.tenant [f.fbSeg]
  s.modFibre key fun x => { x with fbSeg := g.next, fbWord := g.savedFbw, hchain := g.hchain, live := 128 }

/-- A fibre whose top segment is away waits COLD for its reload, and is STALLED at a PC then (R30, R31). -/
def State.coldAt (s : State) (key : Nat) (pc : Pc) : State :=
  let s := s.modFibre key fun f => { f with state := .cold none, pc := pc, coldSince := s.gtc }
  (s.modUnit (coreOf key) fun u => { u with reloads := u.reloads ++ [key] }).leaveGang key

/-- Where a RET goes (R74): the pointer below FB, or the RETPC of the link that the slide names. -/
def State.returnPtr (s : State) (f : Fibre) (slide : Nat) : Option DWord :=
  let seg := segKey f.tenant f.fbSeg
  let g := s.seg seg
  if slide ≤ f.fbWord then
    some (pair (s.segWord f.tenant f.fbSeg (f.fbWord - 2)) (s.segWord f.tenant f.fbSeg (f.fbWord - 1)))
  else if f.fbWord = 0 ∧ g.slide = slide then some g.retpc
  else none

/-- RET (R74, R210). -/
def execRet (f : FormQI) (s : State) : Host.Outcome State Fault Refusal :=
  s.plain (.ret f) fun x s =>
    let slide := f.imm.toNat * 8
    match (if slide = 0 then none else s.returnPtr x.f slide) with
    | none => x.illegal
    | some ptr =>
      if s.validReturn x.f.tenant ptr = false then x.illegal
      else
        let pc := s.enterPtr x.f.tenant ptr
        let s := s.setFsm x.key x.f.tenant (hiWord ptr)
        if slide ≤ x.f.fbWord then
          let head := s.dropOwn x.f x.f.hchain s.searchFuel
          .jump (s.modFibre x.key fun g => { g with fbWord := x.f.fbWord - slide, hchain := head, live := 128 }) pc false
        else
          let g := s.seg (segKey x.f.tenant x.f.fbSeg)
          let here := decide ((s.seg (segKey x.f.tenant g.next)).resident = some (coreOf x.key))
          let s := s.hopBack x.key x.f g
          if here then .jump s pc false else .stop (s.coldAt x.key pc)

/-! ### Gangs, barriers, fibres and exit -/

/-- The run end of a fibre's gang files it singly (R211, R212, R213). -/
def State.markReform (s : State) (key : Nat) : State :=
  (s.modFibre key fun f => { f with reform := true }).modGang s.cur fun g => { g with reform := true }

/-- REFORM (R211). -/
def execReform (f : FormQ) (s : State) : Host.Outcome State Fault Refusal :=
  s.plain (.reform f) fun x s => .next (s.markReform x.key)

/-- PAUSE (R212). -/
def execPause (f : FormQI) (s : State) : Host.Outcome State Fault Refusal :=
  s.plain (.pause f) fun x s =>
    .next ((s.modFibre x.key fun g => { g with pause := some f.imm.toNat }).markReform x.key)

/-- SAFE (R217). -/
def execSafe (f : FormQI) (s : State) : Host.Outcome State Fault Refusal :=
  s.plain (.safe f) fun x s =>
    if 128 < f.imm.toNat then x.illegal else .next (s.modFibre x.key fun g => { g with live := f.imm.toNat })

/-- A level that CONVENE may name (R44, R213). -/
def State.levelOk (s : State) (f : Fibre) (level : Nat) : Bool :=
  match s.sched.launches.find f.launch with
  | some l =>
    decide (level < 7 ∧ level ≤ crewLevel l.record ∧ 2 ^ levelBit l.record level ≤ gangWidth l.record)
  | none => false

/-- The fibres that wait at CONVENE with another level and conflict with an arrival (R44). -/
def State.conveneConflicts (s : State) (key : Nat) (f : Fibre) (level : Nat) : Tbl Fibre :=
  match f.crew with
  | none => []
  | some c =>
    (s.crewFibres c).select fun k g =>
      match g.waiting with
      | some (.barrier (.convene l)) =>
        decide (l ≠ level) && ((s.conveneSet f level).any (fun p => decide (p.1 = k)) ||
          (s.conveneSet g l).any fun p => decide (p.1 = key))
      | _ => false

/-- CONVENE (R44, R213). -/
def execConvene (f : FormQI) (s : State) : Host.Outcome State Fault Refusal :=
  s.plain (.convene f) fun x s =>
    let level := f.imm.toNat
    if isClerk x.key then x.illegal
    else if s.crewBroken x.f then .effect (effectOf x.own 11 0 0)
    else if x.f.spawned ∨ x.f.conv.isSome ∨ s.levelOk x.f level = false then x.illegal
    else
      match s.conveneConflicts x.key x.f level with
      | [] => .stop ((s.park x.key (.barrier (.convene level))).checkConvene x.key level)
      | l =>
        let s := l.foldl (fun s p => s.perform p.1 (p.2.effectAt 12 0 0)) s
        .stop (s.perform x.key (effectOf x.own 12 0 0))

/-- DISBAND (R44, R213). -/
def execDisband (f : FormQ) (s : State) : Host.Outcome State Fault Refusal :=
  s.plain (.disband f) fun x s =>
    match (if isClerk x.key then none else x.f.conv) with
    | none => x.illegal
    | some id => .next (((s.leaveConvened x.key).markReform x.key).checkCross id)

/-- BAR (R45, R214): the arrival is a REL.core (R152). -/
def execBar (f : FormQ) (s : State) : Host.Outcome State Fault Refusal :=
  s.plain (.bar f) fun x s =>
    match x.f.crew with
    | none => x.illegal
    | some c =>
      if s.crewBroken x.f then .effect (effectOf x.own 11 0 0)
      else
        match x.ownAtoms s with
        | some r => r
        | none => .stop ((s.park x.key (.barrier .bar)).checkBar c)

/-- A fibre retires (R50, steps 3 to 5): SRET's RELEASE keeps the segments of its continuation. -/
def State.retire (s : State) (key : Nat) (freeFrames : Bool) : State :=
  match s.fibres.find key with
  | none => s
  | some f =>
    let s := (s.leaveConvened key).leaveGang key
    let s := s.modUnit (coreOf key) fun u => u.unfile (indexOf key)
    let s := s.withdraw key
    let s := if freeFrames then s.freeSegs f.tenant (s.fibreSegs f) else s
    let s := s.freeDescriptor key
    match f.crew with
    | some c => s.checkBarriers c
    | none => s

/-- The stopped operation whose effect an EXIT performs (R50): the oldest of the lowest class that holds one. -/
def Fibre.firstStopped (f : Fibre) : Option (Counted × Stopped) :=
  (List.range 5).findSome? fun cls =>
    f.counted.findSome? fun c => if c.cls = cls then c.stopped.map fun st => (c, st) else none

/-- EXIT (R50, R215). -/
def execExit (f : FormQ) (s : State) : Host.Outcome State Fault Refusal :=
  s.plain (.exit f) fun x s =>
    if isClerk x.key then x.illegal
    else if x.f.pending.isEmpty = false then .effect (x.f.pageFault x.own)
    else if x.f.trapping then .stop (s.performArith x.key x.f x.f.flags x.own)
    else if x.f.onlyStopped = false then .park (.counter .drain)
    else
      match x.f.firstStopped with
      | some (c, st) => .effect (stoppedEffect x.own c st)
      | none => .stop (s.retire x.key true)

/-- A new fibre of the spawner's crew, where there is room for one (R216); answers its descriptor index. -/
def State.spawnFibre (s : State) (key : Nat) (f : Fibre) (ptr : DWord) (v w : Word) : Option (Nat × State) :=
  let core := coreOf key
  let full := match f.crew with
    | some c => decide (1024 ≤ ((s.crewFibres c).select fun _ g => g.counts).length)
    | none => true
  if full then none
  else
    match (s.freeIndices core).head?, s.heapRoom core false with
    | some i, some s =>
      match s.freeSeg f.tenant with
      | none => none
      | some seg =>
        let full := fun (v : Word) => { RegCell.zero with val := v, back := v }
        let s := s.newSeg core f.tenant seg { Segment.empty with words := [(2, full v), (3, full w)] }
        let g : Fibre :=
          { Fibre.created f.tenant f.launch (f.crew.getD 0) f.workId (s.enterPtr f.tenant ptr) with
            fbSeg := seg, spawned := true }
        some (i, ((s.setFibre (fibreKey core i) g).loadFsm (fibreKey core i)).file (fibreKey core i))
    | _, _ => none

/-- SPAWN (R216), a .core release (R152). -/
def execSpawn (f : FormW) (s : State) : Host.Outcome State Fault Refusal :=
  s.plain (.spawn f) fun x s =>
    if isClerk x.key ∨ s.listedEntry x.f.tenant x.b = false then x.illegal
    else
      match x.ownAtoms s with
      | some r => r
      | none =>
        match s.spawnFibre x.key x.f x.b (loWord x.c) (loWord x.d) with
        | some (i, s) => .outsIn s [(f.a.toNat, BitVec.ofNat 32 i)]
        | none => .outs true [(f.a.toNat, 0xFFFFFFFF)] 0 none

/-! ### Handlers and effects -/

/-- The words of a handler record (R77). -/
def recordWords (prev : Nat) (handler : DWord) (tags : Word) (fbw gs : Nat) : List Word :=
  [loWord (BitVec.ofNat 64 prev), hiWord (BitVec.ofNat 64 prev), loWord handler, hiWord handler, tags,
    BitVec.ofNat 32 (fbw + gs * 2 ^ 16), 0, 0]

/-- HINST (R77, R218). -/
def execHinst (f : FormW) (s : State) : Host.Outcome State Fault Refusal :=
  s.plain (.hinst f) fun x s =>
    let n := fld f.mod 0 4 * 8
    let gs := slideOf f.sub
    if gs < n + 8 then x.illegal
    else
      let w := recordWords x.f.hchain x.b (loWord x.c) x.f.fbWord gs
      let t := s.writeLong x ((upto n 8).zip w)
      .checked (upto n 8)
        (.next (t.modFibre x.key fun g => { g with hchain := x.f.fbSeg + 32 + 4 * (x.f.fbWord + n) }))

/-- HPOP (R219). -/
def execHpop (f : FormQ) (s : State) : Host.Outcome State Fault Refusal :=
  s.plain (.hpop f) fun x s =>
    let a := x.f.hchain
    let r := s.recordAt x.f.tenant a
    if a = 0 ∨ s.recordOk x.f.tenant a = false ∨ frameSeg a ≠ x.f.fbSeg ∨ r.fbw ≠ x.f.fbWord then x.illegal
    else .next (s.modFibre x.key fun g => { g with hchain := r.prev })

/-- A request for an effect, made at the run end (R220). -/
def LaneIn.request (x : LaneIn) (s : State) (tag : Nat) (payload : DWord) (result : Nat) (wide : Bool) : LaneRes :=
  let e : Effect := { tag := tag, payload := payload, addr := 0, info := 0, pc := x.next, result := result, wide := wide }
  .next (s.modFibre x.key fun g => { g with request := some (.perform e) })

/-- The result register that PERFORM and PERFORMV leave in K.FLAGS (R220). -/
def resultCode (f : FormWI) : Nat := if bit f.mod 1 then 0xFF else f.a.toNat

/-- PERFORM (R78, R220). -/
def execPerform (f : FormWI) (s : State) : Host.Outcome State Fault Refusal :=
  s.lanes (.perform f) (fun _ => !performable (fld f.imm 0 16)) fun x s =>
    x.request s (fld f.imm 0 16) ((loWord x.b).setWidth 64) (resultCode f) (bit f.mod 0)

/-- PERFORMV (R78, R220). -/
def execPerformv (f : FormWI) (s : State) : Host.Outcome State Fault Refusal :=
  s.lanes (.performv f) (fun _ => !performable (fld f.imm 0 16)) fun x s =>
    x.request s (fld f.imm 0 16) x.b (resultCode f) (bit f.mod 0)

/-- YIELD (R220). -/
def execYield (f : FormQ) (s : State) : Host.Outcome State Fault Refusal :=
  s.plain (.yield f) fun x s => x.request s 1 0 0xFF false

/-- TRAP (R222). -/
def execTrap (f : FormQI) (s : State) : Host.Outcome State Fault Refusal :=
  s.plain (.trap f) fun x s =>
    let fl : Flags := x.f.flags &&& f.imm.setWidth 6
    if fl = 0 then .next s else .stop (s.performArith x.key x.f fl x.own)

/-- RESUME (R84, R223): made at the run end. -/
def execResume (f : FormW) (s : State) : Host.Outcome State Fault Refusal :=
  s.plain (.resume f) fun x s =>
    .next (s.modFibre x.key fun g => { g with request := some (.resume x.b x.c (bit f.mod 0)) })

/-- The crew that a continuation's CREW names, where it is still present: the one it was taken from, or else one of its
function with that number (R82, R85). -/
def State.crewOfK (s : State) (vf : Nat) (k : KObject) : Option Nat :=
  let here := fun (id : Nat) (c : Crew) =>
    decide (BitVec.ofNat 32 c.number = k.crew) && !c.ended && c.killCause.isNone &&
      (match s.sched.launches.find c.launch with | some l => decide (l.vf = vf) | none => false) &&
      match k.ofCrew with | some o => decide (o = id) | none => true
  (s.sched.crews.first here).map Prod.fst

/-- A continuation is dropped (R85): its segments and slot are freed, and a crew that it names is broken where it is still
present. -/
def State.dropK (s : State) (vf slot : Nat) (k : KObject) : State :=
  let s := s.freeSegs vf (s.kSegs vf k)
  let dead : KObject := { k with state := 2, free := true, replay := [], heldStores := [] }
  let s := { s with kobjs := s.kobjs.put (kKey vf slot) dead }
  match s.crewOfK vf k with
  | some c => s.breakCrew c
  | none => s

/-- DROP (R85, R224). -/
def execDrop (f : FormQ) (s : State) : Host.Outcome State Fault Refusal :=
  s.plain (.drop f) fun x s =>
    match s.checkHandle x.f.tenant x.b with
    | .error tag => .effect (effectOf x.own tag 0 0)
    | .ok (slot, k) => .next (s.dropK x.f.tenant slot k)

/-- The field that a KINFO selector names (R226). -/
def KObject.info (k : KObject) (sel : Nat) : DWord :=
  match sel with
  | 0 => BitVec.ofNat 64 k.state
  | 1 => BitVec.ofNat 64 k.tag
  | 2 => BitVec.ofNat 64 k.owner
  | 3 => BitVec.ofNat 64 k.nseg
  | 4 => BitVec.ofNat 64 k.live
  | 5 => k.feat.setWidth 64
  | 6 => k.flags.setWidth 64
  | 7 => k.crew.setWidth 64
  | 8 => k.pc
  | 9 => k.wid
  | 10 => k.gen
  | 11 => k.record.payload
  | 12 => k.record.addr
  | _ => k.record.info

/-- KINFO (R226): a consumed handle reads as stale (R84). -/
def execKinfo (f : FormW) (s : State) : Host.Outcome State Fault Refusal :=
  s.plain (.kinfo f) fun x s =>
    let sel := f.sub.toNat
    match (s.kSlotAt x.f.tenant (x.b.toNat % 2 ^ 48)).bind fun slot => s.kobjs.find (kKey x.f.tenant slot) with
    | none => x.illegal
    | some k =>
      if k.magic ≠ 0x4B4F then x.illegal
      else if k.owner ≠ x.f.tenant then x.priv 0
      else
        let stale := decide (k.gen.toNat % 65536 ≠ x.b.toNat / 2 ^ 48 ∨ k.state = 1)
        let v := if stale then (if sel = 0 then 0xFF else 0) else k.info sel
        .outs true (outPair f.a.toNat (kinfoWide f.sub) v) 0 none

end Sys2Proof.Machine
end

