-- ==== Sys2Proof/Machine/Integer.lean ====
section
/-! DEFINITION. Integer instructions, block 0x20 (R227 to R237). -/
namespace Sys2Proof.Machine

/-- How an integer instruction reads and narrows: 64 bits, signed, saturating (R227). -/
structure IntMode where
  wide : Bool
  signed : Bool
  sat : Bool
  deriving DecidableEq, Repr

/-- The mode of a W or X form (R227). -/
def intMode (f : FormW) : IntMode := { wide := bit f.mod 0, signed := bit f.mod 1, sat := bit f.mod 2 }

/-- The mode of the Q and QI forms (R181). -/
def plainMode : IntMode := { wide := false, signed := false, sat := false }

/-- The width in bits. -/
def IntMode.width (m : IntMode) : Nat := if m.wide then 64 else 32

/-- The bits of an operand at the width. -/
def IntMode.bitsOf (m : IntMode) (v : DWord) : Nat := v.toNat % 2 ^ m.width

/-- An operand as the exact integer it stands for. -/
def IntMode.value (m : IntMode) (signed : Bool) (v : DWord) : Int :=
  let n := m.bitsOf v
  if signed ∧ 2 ^ (m.width - 1) ≤ n then (n : Int) - 2 ^ m.width else n

/-- The least and the greatest value of the range. -/
def IntMode.range (m : IntMode) (signed : Bool) : Int × Int :=
  if signed then (-(2 ^ (m.width - 1) : Int), 2 ^ (m.width - 1) - 1) else (0, 2 ^ m.width - 1)

/-- A result of an integer instruction with its flags. -/
abbrev IntRes := DWord × Flags

/-- Wrap an exact result modulo 2^width. -/
def IntMode.wrap (m : IntMode) (v : Int) : DWord := BitVec.ofNat 64 (v % (2 ^ m.width : Int)).toNat

/-- Narrow an exact result: wrapped, or clamped with SAT in a saturating form (R96, R227). -/
def IntMode.narrow (m : IntMode) (signed : Bool) (v : Int) : IntRes :=
  let r := m.range signed
  if m.sat = false then (m.wrap v, 0)
  else if v < r.1 then (m.wrap r.1, flagSAT)
  else if r.2 < v then (m.wrap r.2, flagSAT)
  else (m.wrap v, 0)

/-- A literal extended to the width: by sign for a signed type, by zeros otherwise (R162). -/
def litArg (m : IntMode) (lit : Word) : DWord := if m.signed then lit.signExtend 64 else lit.setWidth 64

/-- Write a lane's integer result to A. -/
def LaneIn.write (_x : LaneIn) (code : BitVec 8) (wide : Bool) (r : IntRes) : LaneRes :=
  .outs false (outPair code.toNat wide r.1) r.2 none

/-- Write a lane's integer result of long latency to A: IDIV and IREM have no fixed latency (R175). -/
def LaneIn.writeLate (_x : LaneIn) (code : BitVec 8) (wide : Bool) (r : IntRes) : LaneRes :=
  .outs true (outPair code.toNat wide r.1) r.2 none

/-! ### The operations -/

/-- IADD. -/
def opAdd (m : IntMode) (b c : DWord) : IntRes := m.narrow m.signed (m.value m.signed b + m.value m.signed c)

/-- ISUB. -/
def opSub (m : IntMode) (b c : DWord) : IntRes := m.narrow m.signed (m.value m.signed b - m.value m.signed c)

/-- IMUL. -/
def opMul (m : IntMode) (b c : DWord) : IntRes := m.narrow m.signed (m.value m.signed b * m.value m.signed c)

/-- IMULH: the high half of the exact product. -/
def opMulh (m : IntMode) (b c : DWord) : IntRes :=
  (m.wrap (m.value m.signed b * m.value m.signed c / 2 ^ m.width), 0)

/-- IMAD. -/
def opMad (m : IntMode) (b c d : DWord) : IntRes :=
  m.narrow m.signed (m.value m.signed b * m.value m.signed c + m.value m.signed d)

/-- IDIV (R227, R228). -/
def opDiv (m : IntMode) (b c : DWord) : IntRes :=
  let x := m.value m.signed b
  let y := m.value m.signed c
  let r := m.range m.signed
  if y = 0 then
    if m.signed then (m.wrap (if 0 ≤ x then r.2 else r.1), flagDZ) else (m.wrap (-1), flagDZ)
  else m.narrow m.signed (x.tdiv y)

/-- IREM (R227, R228). -/
def opRem (m : IntMode) (b c : DWord) : IntRes :=
  let x := m.value m.signed b
  let y := m.value m.signed c
  if y = 0 then (m.wrap x, flagDZ) else (m.wrap (x.tmod y), 0)

/-- IMIN. -/
def opMin (m : IntMode) (b c : DWord) : IntRes := (m.wrap (min (m.value m.signed b) (m.value m.signed c)), 0)

/-- IMAX. -/
def opMax (m : IntMode) (b c : DWord) : IntRes := (m.wrap (max (m.value m.signed b) (m.value m.signed c)), 0)

/-- IABS (R229). -/
def opAbs (m : IntMode) (b : DWord) : IntRes := m.narrow true (m.value true b).natAbs

/-- AND. -/
def opAnd (_ : IntMode) (b c : DWord) : IntRes := (b &&& c, 0)

/-- OR. -/
def opOr (_ : IntMode) (b c : DWord) : IntRes := (b ||| c, 0)

/-- XOR. -/
def opXor (_ : IntMode) (b c : DWord) : IntRes := (b ^^^ c, 0)

/-- ANDN. -/
def opAndn (_ : IntMode) (b c : DWord) : IntRes := (b &&& ~~~c, 0)

/-- NOT. -/
def opNot (_ : IntMode) (b : DWord) : IntRes := (~~~b, 0)

/-- The set bits of a number, among its lowest `n`. -/
def popCount (v : Nat) : Nat → Nat
  | 0 => 0
  | n + 1 => v % 2 + popCount (v / 2) n

/-- POPC. -/
def opPopc (m : IntMode) (b : DWord) : IntRes := (BitVec.ofNat 64 (popCount (m.bitsOf b) m.width), 0)

/-- CLZ: the width for 0. -/
def opClz (m : IntMode) (b : DWord) : IntRes :=
  let v := m.bitsOf b
  (BitVec.ofNat 64 (if v = 0 then m.width else m.width - 1 - Nat.log2 v), 0)

/-- The lowest `n` bits of a number in the opposite order. -/
def reverseBits (v acc : Nat) : Nat → Nat
  | 0 => acc
  | n + 1 => reverseBits (v / 2) (2 * acc + v % 2) n

/-- BREV. -/
def opBrev (m : IntMode) (b : DWord) : IntRes := (BitVec.ofNat 64 (reverseBits (m.bitsOf b) 0 m.width), 0)

/-- SHL by k (R230). -/
def opShl (m : IntMode) (b : DWord) (k : Nat) : IntRes := m.narrow m.signed (m.value m.signed b * 2 ^ k)

/-- SHR by k. -/
def opShr (m : IntMode) (b : DWord) (k : Nat) : IntRes := (BitVec.ofNat 64 (m.bitsOf b / 2 ^ k), 0)

/-- SAR by k. -/
def opSar (m : IntMode) (b : DWord) (k : Nat) : IntRes := (m.wrap (m.value true b / 2 ^ k), 0)

/-- ROT by k to the left, k below the width. -/
def opRot (m : IntMode) (b : DWord) (k : Nat) : IntRes :=
  let v := m.bitsOf b
  (BitVec.ofNat 64 (v * 2 ^ k % 2 ^ m.width + v / 2 ^ (m.width - k)), 0)

/-- The count of a W shift: C mod width (R230). -/
def shiftCount (m : IntMode) (c : DWord) : Nat := m.bitsOf c % m.width

/-- The position and length that a control word gives (R231). -/
def bitField (m : IntMode) (control : DWord) : Nat × Nat :=
  let pos := control.toNat % 256
  (pos, min (control.toNat / 256 % 256) (m.width - pos))

/-- BFX (R231). -/
def opBfx (m : IntMode) (b control : DWord) : IntRes :=
  let p := bitField m control
  if m.width ≤ p.1 ∨ p.2 = 0 then (0, 0)
  else
    let v := m.bitsOf b / 2 ^ p.1 % 2 ^ p.2
    (m.wrap (if m.signed ∧ 2 ^ (p.2 - 1) ≤ v then (v : Int) - 2 ^ p.2 else v), 0)

/-- BFI (R231). -/
def opBfi (m : IntMode) (b d control : DWord) : IntRes :=
  let p := bitField m control
  if m.width ≤ p.1 ∨ p.2 = 0 then (b, 0)
  else
    let v := m.bitsOf b
    let old := v / 2 ^ p.1 % 2 ^ p.2
    (BitVec.ofNat 64 (v - old * 2 ^ p.1 + d.toNat % 2 ^ p.2 * 2 ^ p.1), 0)

/-- One byte of PRM8 (R232). -/
def permByte (pool : Nat) (sel : Nat) : Nat :=
  let v := pool / 2 ^ (8 * (sel % 8)) % 256
  if sel / 8 % 2 = 1 then (if 128 ≤ v then 0xFF else 0) else v

/-- PRM8 (R232). -/
def opPrm8 (b c d : DWord) : IntRes :=
  let pool := (pair (loWord b) (loWord d)).toNat
  let byte := fun (k : Nat) => permByte pool (c.toNat / 2 ^ (4 * k) % 16) * 2 ^ (8 * k)
  (BitVec.ofNat 64 (byte 0 + byte 1 + byte 2 + byte 3), 0)

/-- A 16-bit half as an integer. -/
def halfValue (signed : Bool) (v : DWord) (h : Nat) : Int :=
  let n := v.toNat / 2 ^ (16 * h) % 65536
  if signed ∧ 32768 ≤ n then (n : Int) - 65536 else n

/-- A half wrapped or clamped. -/
def narrowHalf (m : IntMode) (v : Int) : Nat × Flags :=
  let lo : Int := if m.signed then -32768 else 0
  let hi : Int := if m.signed then 32767 else 65535
  let code := fun (v : Int) => (v % 65536).toNat
  if m.sat = false then (code v, 0)
  else if v < lo then (code lo, flagSAT)
  else if hi < v then (code hi, flagSAT)
  else (code v, 0)

/-- Two halves in one register. -/
def twoHalves (lo hi : Nat × Flags) : IntRes := (BitVec.ofNat 64 (lo.1 + hi.1 * 65536), lo.2 ||| hi.2)

/-- HADD2 (R236). -/
def opHadd2 (m : IntMode) (b c : DWord) : IntRes :=
  let half := fun (h : Nat) => narrowHalf m (halfValue m.signed b h + halfValue m.signed c h)
  twoHalves (half 0) (half 1)

/-- HMNX2 (R236). -/
def opHmnx2 (isMax : Bool) (m : IntMode) (b c : DWord) : IntRes :=
  let half := fun (h : Nat) =>
    let x := halfValue m.signed b h
    let y := halfValue m.signed c h
    ((((if isMax then max x y else min x y) % 65536).toNat, 0) : Nat × Flags)
  twoHalves (half 0) (half 1)

/-- The decision of one half of HMAXD2 (R237). -/
def halfDecision (signed : Bool) (b c : DWord) (h : Nat) : Bool := decide (halfValue signed b h < halfValue signed c h)

/-- HMAXD2: the values of A and D (R237). -/
def opHmaxd2 (signed : Bool) (b c d : DWord) : DWord × DWord :=
  let pick := fun (h : Nat) =>
    (if halfDecision signed b c h then c else b).toNat / 2 ^ (16 * h) % 65536 * 2 ^ (16 * h)
  let dec := fun (h : Nat) => if halfDecision signed b c h then 1 else 0
  (BitVec.ofNat 64 (pick 0 + pick 1), BitVec.ofNat 64 ((d.toNat * 4 + 2 * dec 1 + dec 0) % 2 ^ 32))

/-! ### The forms -/

/-- A binary Q form: A := A op B (R159, R181). -/
def binQ (i : Instr) (f : FormQ) (op : IntMode → DWord → DWord → IntRes) (s : State) :
    Host.Outcome State Fault Refusal :=
  s.plain i fun x _ => x.write f.a false (op plainMode x.a x.b)

/-- A binary W form: A := B op C. -/
def binW (i : Instr) (f : FormW) (op : IntMode → DWord → DWord → IntRes) (s : State) :
    Host.Outcome State Fault Refusal :=
  s.plain i fun x _ => x.write f.a (w64 f) (op (intMode f) x.b x.c)

/-- A binary X form: A := B op LIT. -/
def binX (i : Instr) (f : FormW) (lit : Word) (op : IntMode → DWord → DWord → IntRes) (s : State) :
    Host.Outcome State Fault Refusal :=
  s.plain i fun x _ => x.write f.a (w64 f) (op (intMode f) x.b (litArg (intMode f) lit))

/-- A unary Q form: A := op B. -/
def unQ (i : Instr) (f : FormQ) (op : IntMode → DWord → IntRes) (s : State) : Host.Outcome State Fault Refusal :=
  s.plain i fun x _ => x.write f.a false (op plainMode x.b)

/-- A unary W form. -/
def unW (i : Instr) (f : FormW) (op : IntMode → DWord → IntRes) (s : State) : Host.Outcome State Fault Refusal :=
  s.plain i fun x _ => x.write f.a (w64 f) (op (intMode f) x.b)

/-- A shift by an immediate: A := A shifted by IMM9. -/
def shiftQi (i : Instr) (f : FormQI) (op : IntMode → DWord → Nat → IntRes) (s : State) :
    Host.Outcome State Fault Refusal :=
  s.plain i fun x _ => x.write f.a false (op plainMode x.a f.imm.toNat)

/-- A shift by a register. -/
def shiftW (i : Instr) (f : FormW) (op : IntMode → DWord → Nat → IntRes) (s : State) :
    Host.Outcome State Fault Refusal :=
  s.plain i fun x _ => x.write f.a (w64 f) (op (intMode f) x.b (shiftCount (intMode f) x.c))

/-! ### The meanings -/

/-- IADD, format Q (R227). -/
def execIaddQ (f : FormQ) (s : State) : Host.Outcome State Fault Refusal :=
  binQ (.iaddQ f) f opAdd s

/-- IADD, format W (R227). -/
def execIaddW (f : FormW) (s : State) : Host.Outcome State Fault Refusal :=
  binW (.iaddW f) f opAdd s

/-- IADD, format X (R227). -/
def execIaddX (f : FormW) (lit : Word) (s : State) : Host.Outcome State Fault Refusal :=
  binX (.iaddX f lit) f lit opAdd s

/-- ISUB, format Q (R227). -/
def execIsubQ (f : FormQ) (s : State) : Host.Outcome State Fault Refusal :=
  binQ (.isubQ f) f opSub s

/-- ISUB, format W (R227). -/
def execIsubW (f : FormW) (s : State) : Host.Outcome State Fault Refusal :=
  binW (.isubW f) f opSub s

/-- ISUB, format X (R227). -/
def execIsubX (f : FormW) (lit : Word) (s : State) : Host.Outcome State Fault Refusal :=
  binX (.isubX f lit) f lit opSub s

/-- IMUL, format Q (R227). -/
def execImulQ (f : FormQ) (s : State) : Host.Outcome State Fault Refusal :=
  binQ (.imulQ f) f opMul s

/-- IMUL, format W (R227). -/
def execImulW (f : FormW) (s : State) : Host.Outcome State Fault Refusal :=
  binW (.imulW f) f opMul s

/-- IMUL, format X (R227). -/
def execImulX (f : FormW) (lit : Word) (s : State) : Host.Outcome State Fault Refusal :=
  binX (.imulX f lit) f lit opMul s

/-- IMULH, format Q (R227). -/
def execImulhQ (f : FormQ) (s : State) : Host.Outcome State Fault Refusal :=
  binQ (.imulhQ f) f opMulh s

/-- IMULH, format W (R227). -/
def execImulhW (f : FormW) (s : State) : Host.Outcome State Fault Refusal :=
  binW (.imulhW f) f opMulh s

/-- IMULH, format X (R227). -/
def execImulhX (f : FormW) (lit : Word) (s : State) : Host.Outcome State Fault Refusal :=
  binX (.imulhX f lit) f lit opMulh s

/-- IDIV, format Q (R228). -/
def execIdivQ (f : FormQ) (s : State) : Host.Outcome State Fault Refusal :=
  s.plain (.idivQ f) fun x _ => x.writeLate f.a false (opDiv plainMode x.a x.b)

/-- IDIV, format W (R228). -/
def execIdivW (f : FormW) (s : State) : Host.Outcome State Fault Refusal :=
  s.plain (.idivW f) fun x _ => x.writeLate f.a (w64 f) (opDiv (intMode f) x.b x.c)

/-- IDIV, format X (R228). -/
def execIdivX (f : FormW) (lit : Word) (s : State) : Host.Outcome State Fault Refusal :=
  s.plain (.idivX f lit) fun x _ => x.writeLate f.a (w64 f) (opDiv (intMode f) x.b (litArg (intMode f) lit))

/-- IREM, format Q (R228). -/
def execIremQ (f : FormQ) (s : State) : Host.Outcome State Fault Refusal :=
  s.plain (.iremQ f) fun x _ => x.writeLate f.a false (opRem plainMode x.a x.b)

/-- IREM, format W (R228). -/
def execIremW (f : FormW) (s : State) : Host.Outcome State Fault Refusal :=
  s.plain (.iremW f) fun x _ => x.writeLate f.a (w64 f) (opRem (intMode f) x.b x.c)

/-- IREM, format X (R228). -/
def execIremX (f : FormW) (lit : Word) (s : State) : Host.Outcome State Fault Refusal :=
  s.plain (.iremX f lit) fun x _ => x.writeLate f.a (w64 f) (opRem (intMode f) x.b (litArg (intMode f) lit))

/-- IMIN, format Q (R227). -/
def execIminQ (f : FormQ) (s : State) : Host.Outcome State Fault Refusal :=
  binQ (.iminQ f) f opMin s

/-- IMIN, format W (R227). -/
def execIminW (f : FormW) (s : State) : Host.Outcome State Fault Refusal :=
  binW (.iminW f) f opMin s

/-- IMIN, format X (R227). -/
def execIminX (f : FormW) (lit : Word) (s : State) : Host.Outcome State Fault Refusal :=
  binX (.iminX f lit) f lit opMin s

/-- IMAX, format Q (R227). -/
def execImaxQ (f : FormQ) (s : State) : Host.Outcome State Fault Refusal :=
  binQ (.imaxQ f) f opMax s

/-- IMAX, format W (R227). -/
def execImaxW (f : FormW) (s : State) : Host.Outcome State Fault Refusal :=
  binW (.imaxW f) f opMax s

/-- IMAX, format X (R227). -/
def execImaxX (f : FormW) (lit : Word) (s : State) : Host.Outcome State Fault Refusal :=
  binX (.imaxX f lit) f lit opMax s

/-- AND, format Q (R229). -/
def execAndQ (f : FormQ) (s : State) : Host.Outcome State Fault Refusal :=
  binQ (.andQ f) f opAnd s

/-- AND, format W (R229). -/
def execAndW (f : FormW) (s : State) : Host.Outcome State Fault Refusal :=
  binW (.andW f) f opAnd s

/-- AND, format X (R229). -/
def execAndX (f : FormW) (lit : Word) (s : State) : Host.Outcome State Fault Refusal :=
  binX (.andX f lit) f lit opAnd s

/-- OR, format Q (R229). -/
def execOrQ (f : FormQ) (s : State) : Host.Outcome State Fault Refusal :=
  binQ (.orQ f) f opOr s

/-- OR, format W (R229). -/
def execOrW (f : FormW) (s : State) : Host.Outcome State Fault Refusal :=
  binW (.orW f) f opOr s

/-- OR, format X (R229). -/
def execOrX (f : FormW) (lit : Word) (s : State) : Host.Outcome State Fault Refusal :=
  binX (.orX f lit) f lit opOr s

/-- XOR, format Q (R229). -/
def execXorQ (f : FormQ) (s : State) : Host.Outcome State Fault Refusal :=
  binQ (.xorQ f) f opXor s

/-- XOR, format W (R229). -/
def execXorW (f : FormW) (s : State) : Host.Outcome State Fault Refusal :=
  binW (.xorW f) f opXor s

/-- XOR, format X (R229). -/
def execXorX (f : FormW) (lit : Word) (s : State) : Host.Outcome State Fault Refusal :=
  binX (.xorX f lit) f lit opXor s

/-- ANDN, format Q (R229). -/
def execAndnQ (f : FormQ) (s : State) : Host.Outcome State Fault Refusal :=
  binQ (.andnQ f) f opAndn s

/-- ANDN, format W (R229). -/
def execAndnW (f : FormW) (s : State) : Host.Outcome State Fault Refusal :=
  binW (.andnW f) f opAndn s

/-- ANDN, format X (R229). -/
def execAndnX (f : FormW) (lit : Word) (s : State) : Host.Outcome State Fault Refusal :=
  binX (.andnX f lit) f lit opAndn s

/-- IMAD, format W (R227). -/
def execImadW (f : FormW) (s : State) : Host.Outcome State Fault Refusal :=
  s.plain (.imadW f) fun x _ => x.write f.a (w64 f) (opMad (intMode f) x.b x.c x.d)

/-- IMAD, format X (R227). -/
def execImadX (f : FormW) (lit : Word) (s : State) : Host.Outcome State Fault Refusal :=
  s.plain (.imadX f lit) fun x _ =>
    x.write f.a (w64 f) (opMad (intMode f) x.b (litArg (intMode f) lit) x.d)

/-- IABS, format Q (R229). -/
def execIabsQ (f : FormQ) (s : State) : Host.Outcome State Fault Refusal :=
  unQ (.iabsQ f) f opAbs s

/-- IABS, format W (R229). -/
def execIabsW (f : FormW) (s : State) : Host.Outcome State Fault Refusal :=
  unW (.iabsW f) f opAbs s

/-- NOT, format Q (R229). -/
def execNotQ (f : FormQ) (s : State) : Host.Outcome State Fault Refusal :=
  unQ (.notQ f) f opNot s

/-- NOT, format W (R229). -/
def execNotW (f : FormW) (s : State) : Host.Outcome State Fault Refusal :=
  unW (.notW f) f opNot s

/-- POPC, format Q (R229). -/
def execPopcQ (f : FormQ) (s : State) : Host.Outcome State Fault Refusal :=
  unQ (.popcQ f) f opPopc s

/-- POPC, format W (R229). -/
def execPopcW (f : FormW) (s : State) : Host.Outcome State Fault Refusal :=
  unW (.popcW f) f opPopc s

/-- CLZ, format Q (R229). -/
def execClzQ (f : FormQ) (s : State) : Host.Outcome State Fault Refusal :=
  unQ (.clzQ f) f opClz s

/-- CLZ, format W (R229). -/
def execClzW (f : FormW) (s : State) : Host.Outcome State Fault Refusal :=
  unW (.clzW f) f opClz s

/-- BREV, format Q (R229). -/
def execBrevQ (f : FormQ) (s : State) : Host.Outcome State Fault Refusal :=
  unQ (.brevQ f) f opBrev s

/-- BREV, format W (R229). -/
def execBrevW (f : FormW) (s : State) : Host.Outcome State Fault Refusal :=
  unW (.brevW f) f opBrev s

/-- SHL, format QI (R230). -/
def execShlQi (f : FormQI) (s : State) : Host.Outcome State Fault Refusal :=
  shiftQi (.shlQi f) f opShl s

/-- SHL, format W (R230). -/
def execShlW (f : FormW) (s : State) : Host.Outcome State Fault Refusal :=
  shiftW (.shlW f) f opShl s

/-- SHR, format QI (R230). -/
def execShrQi (f : FormQI) (s : State) : Host.Outcome State Fault Refusal :=
  shiftQi (.shrQi f) f opShr s

/-- SHR, format W (R230). -/
def execShrW (f : FormW) (s : State) : Host.Outcome State Fault Refusal :=
  shiftW (.shrW f) f opShr s

/-- SAR, format QI (R230). -/
def execSarQi (f : FormQI) (s : State) : Host.Outcome State Fault Refusal :=
  shiftQi (.sarQi f) f opSar s

/-- SAR, format W (R230). -/
def execSarW (f : FormW) (s : State) : Host.Outcome State Fault Refusal :=
  shiftW (.sarW f) f opSar s

/-- ROT, format QI (R230). -/
def execRotQi (f : FormQI) (s : State) : Host.Outcome State Fault Refusal :=
  shiftQi (.rotQi f) f opRot s

/-- ROT, format W (R230). -/
def execRotW (f : FormW) (s : State) : Host.Outcome State Fault Refusal :=
  shiftW (.rotW f) f opRot s

/-- BFX, format W (R231). -/
def execBfxW (f : FormW) (s : State) : Host.Outcome State Fault Refusal :=
  s.plain (.bfxW f) fun x _ => x.write f.a (w64 f) (opBfx (intMode f) x.b x.c)

/-- BFX, format X (R231). -/
def execBfxX (f : FormW) (lit : Word) (s : State) : Host.Outcome State Fault Refusal :=
  s.plain (.bfxX f lit) fun x _ => x.write f.a (w64 f) (opBfx (intMode f) x.b (lit.setWidth 64))

/-- BFI, format W (R231). -/
def execBfiW (f : FormW) (s : State) : Host.Outcome State Fault Refusal :=
  s.plain (.bfiW f) fun x _ => x.write f.a (w64 f) (opBfi (intMode f) x.b x.d x.c)

/-- BFI, format X (R231). -/
def execBfiX (f : FormW) (lit : Word) (s : State) : Host.Outcome State Fault Refusal :=
  s.plain (.bfiX f lit) fun x _ => x.write f.a (w64 f) (opBfi (intMode f) x.b x.d (lit.setWidth 64))

/-- PRM8, format W (R232). -/
def execPrm8W (f : FormW) (s : State) : Host.Outcome State Fault Refusal :=
  s.plain (.prm8W f) fun x _ => x.write f.a false (opPrm8 x.b x.c x.d)

/-- PRM8, format X (R232). -/
def execPrm8X (f : FormW) (lit : Word) (s : State) : Host.Outcome State Fault Refusal :=
  s.plain (.prm8X f lit) fun x _ => x.write f.a false (opPrm8 x.b (lit.setWidth 64) x.d)

/-- MOV, format Q (R233). -/
def execMovQ (f : FormQ) (s : State) : Host.Outcome State Fault Refusal :=
  s.plain (.movQ f) fun x _ => x.write f.a false (x.b, 0)

/-- MOV, format W (R233). -/
def execMovW (f : FormW) (s : State) : Host.Outcome State Fault Refusal :=
  s.plain (.movW f) fun x _ => x.write f.a (w64 f) (x.b, 0)

/-- MOVI, format QI (R233). -/
def execMoviQi (f : FormQI) (s : State) : Host.Outcome State Fault Refusal :=
  s.plain (.moviQi f) fun x _ => x.write f.a false (f.imm.signExtend 64, 0)

/-- MOVI of an extended immediate: the plain move, or `.hi`, which keeps the low word (R233). -/
def opMovi (hi : Bool) (a imm : DWord) : IntRes := (if hi then pair (loWord a) (loWord imm) else imm, 0)

/-- MOVI, format WI (R233). -/
def execMoviWi (f : FormWI) (s : State) : Host.Outcome State Fault Refusal :=
  s.plain (.moviWi f) fun x _ =>
    x.write f.a (bit f.mod 0) (opMovi (decide (f.sub = 1)) x.a (f.imm.signExtend 64))

/-- MOVI, format X (R233). -/
def execMoviX (f : FormW) (lit : Word) (s : State) : Host.Outcome State Fault Refusal :=
  s.plain (.moviX f lit) fun x _ =>
    x.write f.a (w64 f) (opMovi (decide (f.sub = 1)) x.a (litArg (intMode f) lit))

/-- LEA (R234). -/
def opLea (f : FormW) (b : DWord) (c : Word) : IntRes :=
  let e : DWord := if bit f.mod 1 then c.signExtend 64 else c.setWidth 64
  (b + (e <<< fld f.mod 3 3), 0)

/-- LEA, format W (R234). -/
def execLeaW (f : FormW) (s : State) : Host.Outcome State Fault Refusal :=
  s.plain (.leaW f) fun x _ => x.write f.a true (opLea f x.b (loWord x.c))

/-- LEA, format X (R234). -/
def execLeaX (f : FormW) (lit : Word) (s : State) : Host.Outcome State Fault Refusal :=
  s.plain (.leaX f lit) fun x _ => x.write f.a true (opLea f x.b lit)

/-- SEL (R235). -/
def execSel (f : FormW) (s : State) : Host.Outcome State Fault Refusal :=
  s.plain (.sel f) fun x _ => x.write f.a (w64 f) (if loWord x.d ≠ 0 then x.b else x.c, 0)

/-- HADD2, format Q (R236). -/
def execHadd2Q (f : FormQ) (s : State) : Host.Outcome State Fault Refusal :=
  binQ (.hadd2Q f) f opHadd2 s

/-- HADD2, format W (R236). -/
def execHadd2W (f : FormW) (s : State) : Host.Outcome State Fault Refusal :=
  binW (.hadd2W f) f opHadd2 s

/-- HMNX2, format Q (R236): the unsigned minimum. -/
def execHmnx2Q (f : FormQ) (s : State) : Host.Outcome State Fault Refusal :=
  binQ (.hmnx2Q f) f (opHmnx2 false) s

/-- HMNX2, format W (R236). -/
def execHmnx2W (f : FormW) (s : State) : Host.Outcome State Fault Refusal :=
  binW (.hmnx2W f) f (opHmnx2 (bit f.mod 3)) s

/-- HMAXD2 (R237): A and D must be distinct g or s codes. -/
def execHmaxd2 (f : FormW) (s : State) : Host.Outcome State Fault Refusal :=
  s.plain (.hmaxd2 f) fun x _ =>
    if f.a = f.d ∨ 0xC0 ≤ f.a.toNat ∨ 0xC0 ≤ f.d.toNat then x.illegal
    else
      let r := opHmaxd2 (bit f.mod 1) x.b x.c x.d
      .outs false [(f.a.toNat, loWord r.1), (f.d.toNat, loWord r.2)] 0 none

end Sys2Proof.Machine
end

