-- ==== Sys2Proof/Machine/Convert.lean ====
section
/-! DEFINITION. Conversion instructions, block 0x50 (R243 to R248). -/
namespace Sys2Proof.Machine

/-- A result that was rounded: its draws change SEED only in .rsr (R106). -/
def LaneIn.rounded (_x : LaneIn) (code : BitVec 8) (wide : Bool) (mode : Nat) (r : FpOut) : LaneRes :=
  .outs false (outPair code.toNat wide (BitVec.ofNat 64 r.code)) r.flags (if mode = 4 then some r.seed else none)

/-- CVT of one value (R244). -/
def convert (f : FormW) (ftz : Bool) (seed : Word) (flags : Flags) (b : DWord) : FpOut :=
  roundDraw (cvDst f) (cvRnd f) ftz seed flags (decodeVal (cvSrc f) b.toNat ftz)

/-- The bits that one converted value takes in CVTPK (R245). -/
def packWidth (dst : Nat) : Nat := if dst ∈ [1, 5, 11, 12] then 16 else if dst = 8 then 4 else 8

/-- CVTPK (R245): B is converted first. -/
def opCvtpk (f : FormW) (ftz : Bool) (seed : Word) (a b c : DWord) : FpOut :=
  let w := packWidth (cvDst f)
  let x := convert f ftz seed 0 b
  let y := convert f ftz x.seed x.flags c
  let low := y.code % 2 ^ w * 2 ^ w + x.code % 2 ^ w
  { y with code := if w = 16 then low else (loWord a).toNat * 2 ^ (2 * w) % 2 ^ 32 + low }

/-- The 32 values that a run of registers holds in FP32, BF16 or FP16 (R246). -/
def blockValues (fmt : Nat) (ftz : Bool) (run : List Word) : List FVal :=
  (List.range 32).map fun i =>
    if fmt = 13 then decodeVal 13 (run.getD i 0).toNat ftz
    else decodeVal fmt ((run.getD (i / 2) 0).toNat / 2 ^ (16 * (i % 2))) ftz

/-- Join codes of `w` bits, the first lowest. -/
def joinCodes (w : Nat) : List Nat → Nat
  | [] => 0
  | c :: rest => c % 2 ^ w + 2 ^ w * joinCodes w rest

/-- Registers of codes of `w` bits (R98, R246). -/
def packCodes (w : Nat) (codes : List Nat) : List Word :=
  (List.range (32 * w / 32)).map fun k => BitVec.ofNat 32 (joinCodes w ((codes.drop (32 / w * k)).take (32 / w)))

/-- The code of element i in a run of registers. -/
def elementAt (w : Nat) (run : List Word) (i : Nat) : Nat :=
  (run.getD (i * w / 32) 0).toNat / 2 ^ (i * w % 32) % 2 ^ w

/-- Bits of an element of a block format. -/
def blockBits (fmt : Nat) : Nat := if fmt = 8 then 4 else 8

/-- A range of `n` g registers from a code on (R246). -/
def gRange (code : BitVec 8) (n : Nat) : Bool := decide (code.toNat + n ≤ 128)

/-- A side-word register: g or s, outside a range (R246, R247). -/
def sideOk (code start : BitVec 8) (n : Nat) : Bool :=
  decide (code.toNat < 0xC0) && !decide (start.toNat ≤ code.toNat ∧ code.toNat < start.toNat + n)

/-- The codes of a range with values. -/
def rangeOuts (start : BitVec 8) (ws : List Word) : List (Nat × Word) := (upto start.toNat ws.length).zip ws

/-- Round the 32 elements of a block in order. -/
def roundElements (dst mode : Nat) (ftz : Bool) (seed : Word) : List FVal → List Nat × Word × Flags
  | [] => ([], seed, 0)
  | v :: rest =>
    let r := roundDraw dst mode ftz seed 0 v
    let q := roundElements dst mode ftz r.seed rest
    (r.code :: q.1, q.2.1, r.flags ||| q.2.2)

/-- SCALEX from FP32: the side word (R248). -/
def scaleOf (fmt : Nat) (v : FVal) : Nat × Flags :=
  match v with
  | .nan => (0xFF, 0)
  | .inf _ => (0xFF, flagNV)
  | .fin _ m e _ =>
    if m = 0 then (0x7F, 0)
    else ((min (max (leadExp m e - blockEmax fmt) (blockLo fmt)) 127 + 127).toNat, 0)

/-- SCALEX to FP32 (R248). -/
def scaleValue (fmt scale : Nat) (ftz : Bool) : Nat × Flags :=
  if scale = 0xFF then (0x7FC00000, 0)
  else if blockInvalid fmt scale then (0x7FC00000, flagNV)
  else roundFloat 13 0 0 ftz (.fin false 1 ((scale : Int) - 127) false)

/-- CVT (R244). -/
def execCvt (f : FormW) (s : State) : Host.Outcome State Fault Refusal :=
  s.plain (.cvt f) fun x _ =>
    x.rounded f.a (wide64 (cvDst f)) (cvRnd f) (convert f x.f.ftz x.f.seed 0 x.b)

/-- CVTPK (R245). -/
def execCvtpk (f : FormW) (s : State) : Host.Outcome State Fault Refusal :=
  s.plain (.cvtpk f) fun x _ =>
    x.rounded f.a false (cvRnd f) (opCvtpk f x.f.ftz x.f.seed x.a x.b x.c)

/-- QPACK (R246): one block of 32 values; the side word goes to D. -/
def execQpack (f : FormW) (s : State) : Host.Outcome State Fault Refusal :=
  s.plain (.qpack f) fun x _ =>
    let dst := cvDst f
    let n := if dst = 8 then 4 else 8
    if !gRange f.a n || !gRange f.b (if cvSrc f = 13 then 32 else 16) || !sideOk f.d f.a n then x.illegal
    else
      let r := encodeBlock dst (cvRnd f) x.f.seed (blockValues (cvSrc f) x.f.ftz x.run)
      let side : Nat × Word := (f.d.toNat, BitVec.ofNat 32 (r.scale + r.extra * 256))
      .outs false (rangeOuts f.a (packCodes (blockBits dst) r.codes) ++ [side]) r.flags
        (if cvRnd f = 4 then some r.seed else none)

/-- QUNPK (R247): decode one block under the side word in C. -/
def execQunpk (f : FormW) (s : State) : Host.Outcome State Fault Refusal :=
  s.plain (.qunpk f) fun x _ =>
    let dst := cvDst f
    let src := cvSrc f
    let n := if dst = 13 then 32 else 16
    if !gRange f.a n || !gRange f.b (if src = 8 then 4 else 8) || !sideOk f.c f.a n then x.illegal
    else
      let scale := x.c.toNat % 256
      let extra := x.c.toNat / 256 % 256
      let vals := (List.range 32).map fun i => blockValue src (elementAt (blockBits src) x.run i) scale extra
      let r := roundElements dst (cvRnd f) x.f.ftz x.f.seed vals
      let nv : Flags := if blockInvalid src scale then flagNV else 0
      .outs false (rangeOuts f.a (packCodes (if dst = 13 then 32 else 16) r.1)) (r.2.2 ||| nv)
        (if cvRnd f = 4 then some r.2.1 else none)

/-- SCALEX (R248). -/
def execScalex (f : FormW) (s : State) : Host.Outcome State Fault Refusal :=
  s.plain (.scalex f) fun x _ =>
    let r := if cvSrc f = 13 then scaleOf (cvDst f) (decodeVal 13 x.b.toNat x.f.ftz)
      else scaleValue (cvSrc f) (x.b.toNat % 256) x.f.ftz
    x.write f.a false (BitVec.ofNat 64 r.1, r.2)

end Sys2Proof.Machine
end

