-- ==== Sys2Proof/Machine/Special.lean ====
section
/-! DEFINITION. The special functions FEXP2, FLOG2, FSIN, FCOS and FTANH (R280): exact cases and special operands, and
elsewhere the value to within 2^−300 of its scale, which fixes the correctly rounded result (assumption 12). -/
namespace Sys2Proof.Machine

/-- The fraction bits of the fixed-point evaluations. -/
def fxBits : Nat := 384

/-- One in fixed point. -/
def fxOne : Nat := 2 ^ fxBits

/-- A fixed-point product. -/
def fxMul (a b : Nat) : Nat := a * b / fxOne

/-- Σ z^(2i+1)/(2i+1), `n` terms from term `i` on, where `p` is z^(2i+1). -/
def fxOddSum (p z2 : Nat) (alternate : Bool) (i : Nat) : Nat → Int
  | 0 => 0
  | n + 1 =>
    let t : Int := (p / (2 * i + 1) : Nat)
    (if alternate ∧ i % 2 = 1 then -t else t) + fxOddSum (fxMul p z2) z2 alternate (i + 1) n

/-- atanh z for 0 ≤ z ≤ 1/3. -/
def fxAtanh (z : Nat) : Nat := (fxOddSum z (fxMul z z) false 0 130).toNat

/-- ln 2 = 2 atanh(1/3). -/
def fxLn2 : Nat := 2 * fxAtanh (fxOne / 3)

/-- atan(1/k). -/
def fxAtanInv (k : Nat) : Nat := (fxOddSum (fxOne / k) (fxOne / (k * k)) true 0 90).toNat

/-- π = 16 atan(1/5) − 4 atan(1/239). -/
def fxPi : Nat := 16 * fxAtanInv 5 - 4 * fxAtanInv 239

/-- Σ y^i/i! from the term `t` = y^i/i! on. -/
def fxExpSum (y t i : Nat) : Nat → Nat
  | 0 => 0
  | n + 1 => t + fxExpSum y (fxMul t y / (i + 1)) (i + 1) n

/-- 2^f for 0 ≤ f < 1. -/
def fxExp2 (f : Nat) : Nat := fxExpSum (fxMul f fxLn2) fxOne 0 90

/-- Σ (−1)^i y^(2i+k)/(2i+k)! from the term `t` on, where `t` is y^j/j!. -/
def fxAltSum (y2 t j : Nat) (neg : Bool) : Nat → Int
  | 0 => 0
  | n + 1 =>
    (if neg then -(t : Int) else t) + fxAltSum y2 (fxMul t y2 / ((j + 1) * (j + 2))) (j + 2) (!neg) n

/-- sin(π f) for 0 ≤ f ≤ 1/4. -/
def fxSinPi (f : Nat) : Nat :=
  let y := fxMul f fxPi
  (fxAltSum (fxMul y y) y 1 false 50).toNat

/-- cos(π f) for 0 ≤ f ≤ 1/4. -/
def fxCosPi (f : Nat) : Nat :=
  let y := fxMul f fxPi
  (fxAltSum (fxMul y y) fxOne 0 false 50).toNat

/-- sin(π f) for 0 ≤ f < 1/2. -/
def fxSinHalf (f : Nat) : Nat := if f ≤ fxOne / 4 then fxSinPi f else fxCosPi (fxOne / 2 - f)

/-- cos(π f) for 0 ≤ f < 1/2. -/
def fxCosHalf (f : Nat) : Nat := if f ≤ fxOne / 4 then fxCosPi f else fxSinPi (fxOne / 2 - f)

/-- A fixed-point magnitude whose exact value goes on below its last bit. -/
def fxVal (neg : Bool) (v : Nat) : FVal := .fin neg v (-(fxBits : Int)) true

/-- A magnitude in fixed point, exact for every operand of at least 2^−384. -/
def toFx (m : Nat) (e : Int) : Nat :=
  if 0 ≤ e + fxBits then m * 2 ^ (e + fxBits).toNat else m / 2 ^ (-(e + fxBits)).toNat

/-- 2^B (R280). -/
def fexp2 (a : FVal) : FRes :=
  match a with
  | .nan => (.nan, 0)
  | .inf neg => (if neg then .zero false else .inf false, 0)
  | .fin neg m e _ =>
    if m = 0 then (.fin false 1 0 false, 0)
    else if 12 ≤ leadExp m e then (.fin false 1 (if neg then -4096 else 4096) true, 0)
    else
      let v : Int := if neg then -(toFx m e : Int) else toFx m e
      let n := v / (fxOne : Int)
      let f := (v % (fxOne : Int)).toNat
      if f = 0 then (.fin false 1 n false, 0) else (.fin false (fxExp2 f) (n - fxBits) true, 0)

/-- log2 B (R280). -/
def flog2 (a : FVal) : FRes :=
  match a with
  | .nan => (.nan, 0)
  | .inf neg => if neg then (.nan, flagNV) else (.inf false, 0)
  | .fin neg m e _ =>
    if m = 0 then (.inf true, flagDZ)
    else if neg then (.nan, flagNV)
    else
      let k := Nat.log2 m
      if m = 2 ^ k then (.ofInt (k + e), 0)
      else
        let z := fxOne * (m - 2 ^ k) / (m + 2 ^ k)
        let l := 2 * fxAtanh z * fxOne / fxLn2
        let v : Int := (k + e) * fxOne + l
        (fxVal (decide (v < 0)) v.natAbs, 0)

/-- The quadrant of π × |B| and the position in it, for a finite B: |B| mod 2 = q/2 + f. -/
def quadrant (m : Nat) (e : Int) : Nat × Nat :=
  let r := if 1 ≤ e then 0 else toFx m e % (2 * fxOne)
  (2 * r / fxOne, r - 2 * r / fxOne * (fxOne / 2))

/-- sin(π × B) (R280). -/
def fsinpi (a : FVal) : FRes :=
  match a with
  | .fin neg m e _ =>
    let q := quadrant m e
    let turned := neg != decide (2 ≤ q.1)
    if q.2 = 0 then
      if q.1 % 2 = 0 then (.zero neg, 0) else (.fin turned 1 0 false, 0)
    else (fxVal turned (if q.1 % 2 = 0 then fxSinHalf q.2 else fxCosHalf q.2), 0)
  | _ => (.nan, 0)

/-- cos(π × B) (R280). -/
def fcospi (a : FVal) : FRes :=
  match a with
  | .fin _ m e _ =>
    let q := quadrant m e
    let turned := decide (q.1 = 1 ∨ q.1 = 2)
    if q.2 = 0 then
      if q.1 % 2 = 1 then (.zero false, 0) else (.fin turned 1 0 false, 0)
    else (fxVal turned (if q.1 % 2 = 0 then fxCosHalf q.2 else fxSinHalf q.2), 0)
  | _ => (.nan, 0)

/-- tanh B (R280): near B for a small operand, just below 1 for a large one, and (w − 1)/(w + 1) with w = e^(2|B|)
between. -/
def ftanh (a : FVal) : FRes :=
  match a with
  | .nan => (.nan, 0)
  | .inf neg => (.fin neg 1 0 false, 0)
  | .fin neg m e _ =>
    if m = 0 then (.zero neg, 0)
    else if 5 ≤ leadExp m e then (.fin neg (2 ^ 64 - 1) (-64) true, 0)
    else if leadExp m e < -40 then (.fin neg (m * 2 ^ 64 - 1) (e - 64) true, 0)
    else
      let y := 2 * toFx m e * fxOne / fxLn2
      let w := fxExp2 (y % fxOne) * 2 ^ (y / fxOne)
      (fxVal neg ((w - fxOne) * fxOne / (w + fxOne)), 0)

end Sys2Proof.Machine
end

