-- ==== Sys2Proof/Machine/FloatInstr.lean ====
section
/-! DEFINITION. Floating-point instructions, block 0xA0 (R279 to R288). -/
namespace Sys2Proof.Machine

/-- The format of a type code (R279). -/
def fpType (n : Nat) : Nat := match n with | 0 => 13 | 1 => 11 | _ => 12

/-- The format of a W or X form. -/
def fpFmt (f : FormW) : Nat := fpType (fld f.mod 0 2)

/-- The rounding mode of a W or X form. -/
def fpMode (f : FormW) : Nat := fld f.mod 3 3

/-- A rounded floating-point result (R107, R279). -/
def fpRound (fmt mode : Nat) (f : Fibre) (r : FRes) : FpOut := roundDraw fmt mode f.ftz f.seed r.2 r.1

/-- A value of a fibre's operand. -/
def fpVal (fmt : Nat) (f : Fibre) (v : DWord) : FVal := decodeVal fmt v.toNat f.ftz

/-- A binary operation on values: the mode decides the sign of an exact zero sum (R108). -/
abbrev FBin := Bool → FVal → FVal → FRes

/-- FADD. -/
def opFadd : FBin := fadd

/-- FSUB. -/
def opFsub : FBin := fun down b c => fadd down b c.negate

/-- FMUL. -/
def opFmul : FBin := fun _ b c => fmul b c

/-- FDIV. -/
def opFdiv : FBin := fun _ b c => fdiv b c

/-- A binary Q form, in .f32 and .rne (R181, R279). -/
def fbinQ (i : Instr) (f : FormQ) (op : FBin) (s : State) : Host.Outcome State Fault Refusal :=
  s.plain i fun x _ => x.rounded f.a false 0 (fpRound 13 0 x.f (op false (fpVal 13 x.f x.a) (fpVal 13 x.f x.b)))

/-- A binary result of a W or X form. -/
def fbin (f : FormW) (op : FBin) (x : LaneIn) (c : DWord) : LaneRes :=
  let fmt := fpFmt f
  x.rounded f.a false (fpMode f)
    (fpRound fmt (fpMode f) x.f (op (decide (fpMode f = 3)) (fpVal fmt x.f x.b) (fpVal fmt x.f c)))

/-- A binary W form. -/
def fbinW (i : Instr) (f : FormW) (op : FBin) (s : State) : Host.Outcome State Fault Refusal :=
  s.plain i fun x _ => fbin f op x x.c

/-- A binary X form. -/
def fbinX (i : Instr) (f : FormW) (lit : Word) (op : FBin) (s : State) : Host.Outcome State Fault Refusal :=
  s.plain i fun x _ => fbin f op x (lit.setWidth 64)

/-- A unary Q form, in .f32 and .rne. -/
def funQ (i : Instr) (f : FormQ) (op : FVal → FRes) (s : State) : Host.Outcome State Fault Refusal :=
  s.plain i fun x _ => x.rounded f.a false 0 (fpRound 13 0 x.f (op (fpVal 13 x.f x.b)))

/-- A unary W form. -/
def funW (i : Instr) (f : FormW) (op : FVal → FRes) (s : State) : Host.Outcome State Fault Refusal :=
  s.plain i fun x _ =>
    x.rounded f.a false (fpMode f) (fpRound (fpFmt f) (fpMode f) x.f (op (fpVal (fpFmt f) x.f x.b)))

/-- FMA's result (R279, R102). -/
def opFma (f : FormW) (x : LaneIn) (c : DWord) : LaneRes :=
  let fmt := fpFmt f
  x.rounded f.a false (fpMode f) (fpRound fmt (fpMode f) x.f
    (ffma (decide (fpMode f = 3)) (bit f.mod 2) (fpVal fmt x.f x.b) (fpVal fmt x.f c) (fpVal fmt x.f x.d)))

/-- A value that is written as it is: exact, and without flags. -/
def exactCode (fmt : Nat) (v : FVal) : IntRes := (BitVec.ofNat 64 (roundFloat fmt 0 0 false v).1, 0)

/-- Minimum or maximum of a form (R281). -/
def opMinMax (isMax strict : Bool) (fmt : Nat) (x : LaneIn) (b c : DWord) : IntRes :=
  exactCode fmt (fminmax isMax strict (fpVal fmt x.f b) (fpVal fmt x.f c))

/-- FMOV (R282). -/
def opFmov (fmt op : Nat) (x : LaneIn) : IntRes :=
  let v := fpVal fmt x.f x.b
  exactCode fmt (match op with | 0 => v | 1 => v.negate | 2 => v.abs | _ => v.abs.negate)

/-- FRND (R283): an operand that is not integral and below 2^m becomes one of its two neighbours. -/
def opFrnd (fmt mode : Nat) (f : Fibre) (v : FVal) : FpOut :=
  let u := drawFor mode f.seed
  let out := fun (v : FVal) (fl : Flags) =>
    ({ code := (roundFloat fmt 0 0 false v).1, seed := u, flags := fl } : FpOut)
  match v with
  | .fin neg m e _ =>
    if m = 0 ∨ ((floatFmt fmt).m : Int) ≤ leadExp m e then out v 0
    else
      let c := cutAt m e 0
      let k := c.1 + (if roundUp mode u.toNat neg c.1 c.2.1 c.2.2 false then 1 else 0)
      out (.fin neg k 0 false) (if c.2.1 = 0 then 0 else flagNX)
  | _ => out v 0

/-- FCLASS (R284), without FTZ. -/
def opFclass (fmt : Nat) (b : DWord) : IntRes :=
  let m := (floatFmt fmt).m
  let tiny := fun (k : Nat) => decide (k < 2 ^ m)
  let i := match decodeVal fmt b.toNat false with
    | .nan => 8
    | .inf neg => if neg then 0 else 7
    | .fin neg k _ _ => if k = 0 then (if neg then 3 else 4) else if tiny k then (if neg then 2 else 5) else (if neg then 1 else 6)
  (BitVec.ofNat 64 (2 ^ i), 0)

/-- FSCALE (R285). A scale beyond ±2000 rounds as ±2000 does. -/
def opFscale (v : FVal) (c : Word) : FRes := (v.scale (max (-2000) (min 2000 c.toInt)), 0)

/-- Both halves of a packed operation, low half first (R110, R286). -/
def packed (fmt mode : Nat) (f : Fibre) (op : Nat → FRes) : FpOut :=
  let lo := roundDraw fmt mode f.ftz f.seed (op 0).2 (op 0).1
  let hi := roundDraw fmt mode f.ftz lo.seed (lo.flags ||| (op 1).2) (op 1).1
  { hi with code := lo.code + hi.code * 65536 }

/-- The value of a half. -/
def halfVal (fmt : Nat) (f : Fibre) (v : DWord) (h : Nat) : FVal := decodeVal fmt (v.toNat / 2 ^ (16 * h)) f.ftz

/-- A packed binary Q form, in .h16 and .rne (R181). -/
def packQ (i : Instr) (f : FormQ) (op : FBin) (s : State) : Host.Outcome State Fault Refusal :=
  s.plain i fun x _ =>
    x.rounded f.a false 0 (packed 12 0 x.f fun h => op false (halfVal 12 x.f x.a h) (halfVal 12 x.f x.b h))

/-- A packed binary W form. -/
def packW (i : Instr) (f : FormW) (op : FBin) (s : State) : Host.Outcome State Fault Refusal :=
  s.plain i fun x _ =>
    let fmt := fpFmt f
    x.rounded f.a false (fpMode f) (packed fmt (fpMode f) x.f fun h =>
      op (decide (fpMode f = 3)) (halfVal fmt x.f x.b h) (halfVal fmt x.f x.c h))

/-- One scaled product of a dot instruction (R287). -/
def dotTerm (fb fc eb ec sb sc : Nat) : FRes := fmul (blockValue fb eb sb 0) (blockValue fc ec sc 0)

/-- D + Σ of the products, exactly (R287): a NaN product's NV is kept. The terms are added to D in order of their elements, which
settles NV where a NaN stands among infinities of both signs (DESIGN CHOICE, assumption 71). -/
def dotSum (down : Bool) (d : FVal) (ts : List FRes) : FRes :=
  let nv : Flags := ts.foldl (fun f t => f ||| t.2) 0
  let r := ts.foldl (fun (a : FRes) t => let q := fadd down a.1 t.1; (q.1, a.2 ||| q.2)) (d, nv)
  r

/-- A dot product (R287): `n` elements of `w` bits. B and C must be d-register codes in g or s. -/
def dotRes (f : FormW) (x : LaneIn) (fb fc n w : Nat) : LaneRes :=
  if 0xC0 ≤ f.b.toNat ∨ 0xC0 ≤ f.c.toNat then x.illegal
  else
    let mode := f.sub.toNat
    let sb := x.b.toNat / 2 ^ (32 + 8 * fld f.mod 0 2) % 256
    let sc := x.c.toNat / 2 ^ (32 + 8 * fld f.mod 2 2) % 256
    let el := fun (v : DWord) (i : Nat) => v.toNat / 2 ^ (w * i) % 2 ^ w
    let ts := (List.range n).map fun i => dotTerm fb fc (el x.b i) (el x.c i) sb sc
    let nv : Flags := if blockInvalid fb sb ∨ blockInvalid fc sc then flagNV else 0
    let r := dotSum (decide (mode = 3)) (fpVal 13 x.f x.d) ts
    x.rounded f.a false mode (fpRound 13 mode x.f (r.1, r.2 ||| nv))

/-- Change the fibre of a lane. -/
def LaneIn.modify (x : LaneIn) (s : State) (g : Fibre → Fibre) : State := s.modFibre x.key g

/-- FSTAT (R288): reading, writing, clearing, or setting SEED. -/
def opFstat (f : FormW) (x : LaneIn) (s : State) : LaneRes :=
  let fsr := x.f.fsr
  match f.sub.toNat with
  | 0 => .outs true (outPair f.a.toNat true fsr) 0 none
  | 1 => .next (x.modify s fun g => g.writeFsr x.b x.own.pointer)
  | 2 =>
    let new := withFlags fsr (x.f.flags &&& ~~~(x.b.extractLsb' 0 6))
    .outsIn (x.modify s fun g => g.writeFsr new x.own.pointer) [(f.a.toNat, x.f.flags.setWidth 32)]
  | _ => .next (x.modify s fun g => { g with fsr := withSeed g.fsr (loWord x.b) })

/-- FADD, format Q (R279). -/
def execFaddQ (f : FormQ) (s : State) : Host.Outcome State Fault Refusal :=
  fbinQ (.faddQ f) f opFadd s

/-- FADD, format W (R279). -/
def execFaddW (f : FormW) (s : State) : Host.Outcome State Fault Refusal :=
  fbinW (.faddW f) f opFadd s

/-- FADD, format X (R279). -/
def execFaddX (f : FormW) (lit : Word) (s : State) : Host.Outcome State Fault Refusal :=
  fbinX (.faddX f lit) f lit opFadd s

/-- FSUB, format Q (R279). -/
def execFsubQ (f : FormQ) (s : State) : Host.Outcome State Fault Refusal :=
  fbinQ (.fsubQ f) f opFsub s

/-- FSUB, format W (R279). -/
def execFsubW (f : FormW) (s : State) : Host.Outcome State Fault Refusal :=
  fbinW (.fsubW f) f opFsub s

/-- FSUB, format X (R279). -/
def execFsubX (f : FormW) (lit : Word) (s : State) : Host.Outcome State Fault Refusal :=
  fbinX (.fsubX f lit) f lit opFsub s

/-- FMUL, format Q (R279). -/
def execFmulQ (f : FormQ) (s : State) : Host.Outcome State Fault Refusal :=
  fbinQ (.fmulQ f) f opFmul s

/-- FMUL, format W (R279). -/
def execFmulW (f : FormW) (s : State) : Host.Outcome State Fault Refusal :=
  fbinW (.fmulW f) f opFmul s

/-- FMUL, format X (R279). -/
def execFmulX (f : FormW) (lit : Word) (s : State) : Host.Outcome State Fault Refusal :=
  fbinX (.fmulX f lit) f lit opFmul s

/-- FDIV, format Q (R279). -/
def execFdivQ (f : FormQ) (s : State) : Host.Outcome State Fault Refusal :=
  fbinQ (.fdivQ f) f opFdiv s

/-- FDIV, format W (R279). -/
def execFdivW (f : FormW) (s : State) : Host.Outcome State Fault Refusal :=
  fbinW (.fdivW f) f opFdiv s

/-- FDIV, format X (R279). -/
def execFdivX (f : FormW) (lit : Word) (s : State) : Host.Outcome State Fault Refusal :=
  fbinX (.fdivX f lit) f lit opFdiv s

/-- FMA, format W (R279). -/
def execFmaW (f : FormW) (s : State) : Host.Outcome State Fault Refusal :=
  s.plain (.fmaW f) fun x _ => opFma f x x.c

/-- FMA, format X (R279). -/
def execFmaX (f : FormW) (lit : Word) (s : State) : Host.Outcome State Fault Refusal :=
  s.plain (.fmaX f lit) fun x _ => opFma f x (lit.setWidth 64)

/-- FMIN, format Q (R281): the number rule. -/
def execFminQ (f : FormQ) (s : State) : Host.Outcome State Fault Refusal :=
  s.plain (.fminQ f) fun x _ => x.write f.a false (opMinMax false false 13 x x.a x.b)

/-- FMIN, format W (R281). -/
def execFminW (f : FormW) (s : State) : Host.Outcome State Fault Refusal :=
  s.plain (.fminW f) fun x _ => x.write f.a false (opMinMax false (bit f.mod 2) (fpFmt f) x x.b x.c)

/-- FMIN, format X (R281). -/
def execFminX (f : FormW) (lit : Word) (s : State) : Host.Outcome State Fault Refusal :=
  s.plain (.fminX f lit) fun x _ =>
    x.write f.a false (opMinMax false (bit f.mod 2) (fpFmt f) x x.b (lit.setWidth 64))

/-- FMAX, format Q (R281): the number rule. -/
def execFmaxQ (f : FormQ) (s : State) : Host.Outcome State Fault Refusal :=
  s.plain (.fmaxQ f) fun x _ => x.write f.a false (opMinMax true false 13 x x.a x.b)

/-- FMAX, format W (R281). -/
def execFmaxW (f : FormW) (s : State) : Host.Outcome State Fault Refusal :=
  s.plain (.fmaxW f) fun x _ => x.write f.a false (opMinMax true (bit f.mod 2) (fpFmt f) x x.b x.c)

/-- FMAX, format X (R281). -/
def execFmaxX (f : FormW) (lit : Word) (s : State) : Host.Outcome State Fault Refusal :=
  s.plain (.fmaxX f lit) fun x _ =>
    x.write f.a false (opMinMax true (bit f.mod 2) (fpFmt f) x x.b (lit.setWidth 64))

/-- FMOV, format Q (R282). -/
def execFmovQ (f : FormQ) (s : State) : Host.Outcome State Fault Refusal :=
  s.plain (.fmovQ f) fun x _ => x.write f.a false (opFmov 13 0 x)

/-- FMOV, format W (R282). -/
def execFmovW (f : FormW) (s : State) : Host.Outcome State Fault Refusal :=
  s.plain (.fmovW f) fun x _ => x.write f.a false (opFmov (fpFmt f) f.sub.toNat x)

/-- FRCP, format Q (R280). -/
def execFrcpQ (f : FormQ) (s : State) : Host.Outcome State Fault Refusal :=
  funQ (.frcpQ f) f frcp s

/-- FRCP, format W (R280). -/
def execFrcpW (f : FormW) (s : State) : Host.Outcome State Fault Refusal :=
  funW (.frcpW f) f frcp s

/-- FRSQ, format Q (R280). -/
def execFrsqQ (f : FormQ) (s : State) : Host.Outcome State Fault Refusal :=
  funQ (.frsqQ f) f frsqrt s

/-- FRSQ, format W (R280). -/
def execFrsqW (f : FormW) (s : State) : Host.Outcome State Fault Refusal :=
  funW (.frsqW f) f frsqrt s

/-- FSQRT, format Q (R280). -/
def execFsqrtQ (f : FormQ) (s : State) : Host.Outcome State Fault Refusal :=
  funQ (.fsqrtQ f) f fsqrt s

/-- FSQRT, format W (R280). -/
def execFsqrtW (f : FormW) (s : State) : Host.Outcome State Fault Refusal :=
  funW (.fsqrtW f) f fsqrt s

/-- FEXP2, format Q (R280). -/
def execFexp2Q (f : FormQ) (s : State) : Host.Outcome State Fault Refusal :=
  funQ (.fexp2Q f) f fexp2 s

/-- FEXP2, format W (R280). -/
def execFexp2W (f : FormW) (s : State) : Host.Outcome State Fault Refusal :=
  funW (.fexp2W f) f fexp2 s

/-- FLOG2, format Q (R280). -/
def execFlog2Q (f : FormQ) (s : State) : Host.Outcome State Fault Refusal :=
  funQ (.flog2Q f) f flog2 s

/-- FLOG2, format W (R280). -/
def execFlog2W (f : FormW) (s : State) : Host.Outcome State Fault Refusal :=
  funW (.flog2W f) f flog2 s

/-- FSIN, format Q (R280). -/
def execFsinQ (f : FormQ) (s : State) : Host.Outcome State Fault Refusal :=
  funQ (.fsinQ f) f fsinpi s

/-- FSIN, format W (R280). -/
def execFsinW (f : FormW) (s : State) : Host.Outcome State Fault Refusal :=
  funW (.fsinW f) f fsinpi s

/-- FCOS, format Q (R280). -/
def execFcosQ (f : FormQ) (s : State) : Host.Outcome State Fault Refusal :=
  funQ (.fcosQ f) f fcospi s

/-- FCOS, format W (R280). -/
def execFcosW (f : FormW) (s : State) : Host.Outcome State Fault Refusal :=
  funW (.fcosW f) f fcospi s

/-- FTANH, format Q (R280). -/
def execFtanhQ (f : FormQ) (s : State) : Host.Outcome State Fault Refusal :=
  funQ (.ftanhQ f) f ftanh s

/-- FTANH, format W (R280). -/
def execFtanhW (f : FormW) (s : State) : Host.Outcome State Fault Refusal :=
  funW (.ftanhW f) f ftanh s

/-- FRND, format Q (R283). -/
def execFrndQ (f : FormQ) (s : State) : Host.Outcome State Fault Refusal :=
  s.plain (.frndQ f) fun x _ => x.rounded f.a false 0 (opFrnd 13 0 x.f (fpVal 13 x.f x.b))

/-- FRND, format W (R283). -/
def execFrndW (f : FormW) (s : State) : Host.Outcome State Fault Refusal :=
  s.plain (.frndW f) fun x _ =>
    x.rounded f.a false (fpMode f) (opFrnd (fpFmt f) (fpMode f) x.f (fpVal (fpFmt f) x.f x.b))

/-- FCLASS, format Q (R284). -/
def execFclassQ (f : FormQ) (s : State) : Host.Outcome State Fault Refusal :=
  s.plain (.fclassQ f) fun x _ => x.write f.a false (opFclass 13 x.b)

/-- FCLASS, format W (R284). -/
def execFclassW (f : FormW) (s : State) : Host.Outcome State Fault Refusal :=
  s.plain (.fclassW f) fun x _ => x.write f.a false (opFclass (fpFmt f) x.b)

/-- FSCALE, format Q (R285). -/
def execFscaleQ (f : FormQ) (s : State) : Host.Outcome State Fault Refusal :=
  s.plain (.fscaleQ f) fun x _ =>
    x.rounded f.a false 0 (fpRound 13 0 x.f (opFscale (fpVal 13 x.f x.a) (loWord x.b)))

/-- FSCALE, format W (R285). -/
def execFscaleW (f : FormW) (s : State) : Host.Outcome State Fault Refusal :=
  s.plain (.fscaleW f) fun x _ =>
    x.rounded f.a false (fpMode f) (fpRound (fpFmt f) (fpMode f) x.f (opFscale (fpVal (fpFmt f) x.f x.b) (loWord x.c)))

/-- FSCALE, format X (R285). -/
def execFscaleX (f : FormW) (lit : Word) (s : State) : Host.Outcome State Fault Refusal :=
  s.plain (.fscaleX f lit) fun x _ =>
    x.rounded f.a false (fpMode f) (fpRound (fpFmt f) (fpMode f) x.f (opFscale (fpVal (fpFmt f) x.f x.b) lit))

/-- HFADD2, format Q (R286). -/
def execHfadd2Q (f : FormQ) (s : State) : Host.Outcome State Fault Refusal :=
  packQ (.hfadd2Q f) f opFadd s

/-- HFADD2, format W (R286). -/
def execHfadd2W (f : FormW) (s : State) : Host.Outcome State Fault Refusal :=
  packW (.hfadd2W f) f opFadd s

/-- HFMUL2, format Q (R286). -/
def execHfmul2Q (f : FormQ) (s : State) : Host.Outcome State Fault Refusal :=
  packQ (.hfmul2Q f) f opFmul s

/-- HFMUL2, format W (R286). -/
def execHfmul2W (f : FormW) (s : State) : Host.Outcome State Fault Refusal :=
  packW (.hfmul2W f) f opFmul s

/-- HFMA2 (R286). -/
def execHfma2 (f : FormW) (s : State) : Host.Outcome State Fault Refusal :=
  s.plain (.hfma2 f) fun x _ =>
    let fmt := fpFmt f
    x.rounded f.a false (fpMode f) (packed fmt (fpMode f) x.f fun h =>
      ffma (decide (fpMode f = 3)) (bit f.mod 2) (halfVal fmt x.f x.b h) (halfVal fmt x.f x.c h) (halfVal fmt x.f x.d h))

/-- DOT4F8 (R287). -/
def execDot4f8 (f : FormW) (s : State) : Host.Outcome State Fault Refusal :=
  s.plain (.dot4f8 f) fun x _ =>
    dotRes f x (if bit f.mod 4 then 10 else 9) (if bit f.mod 5 then 10 else 9) 4 8

/-- DOT8F4 (R287). -/
def execDot8f4 (f : FormW) (s : State) : Host.Outcome State Fault Refusal :=
  s.plain (.dot8f4 f) fun x _ => dotRes f x 8 8 8 4

/-- FSTAT (R288). -/
def execFstat (f : FormW) (s : State) : Host.Outcome State Fault Refusal :=
  s.plain (.fstat f) fun x s => opFstat f x s

end Sys2Proof.Machine
end

