-- ==== Sys2Proof/Machine/Predicates.lean ====
section
/-! DEFINITION. Compare and predicate instructions, block 0x40, but VOTE (R238 to R241). -/
namespace Sys2Proof.Machine

/-- Combine a comparison into A (R238). -/
def combine (f : FormW) (a : DWord) (c : Bool) : Bool :=
  match fld f.mod 4 2 with
  | 0 => c
  | 1 => c && decide (loWord a ≠ 0)
  | _ => c || decide (loWord a ≠ 0)

/-- A truth value as a result: 1 or 0. -/
def truth (c : Bool) : IntRes := (if c then 1 else 0, 0)

/-- ICMP on the operands' bits (R238). -/
def opIcmp (f : FormW) (a b c : DWord) : IntRes :=
  let fmt := fld f.mod 0 4
  truth (combine f a (condHolds f.sub.toNat (decodeInt fmt b.toNat - decodeInt fmt c.toNat)))

/-- FCMP on the operands' bits; it sets no flag (R239). -/
def opFcmp (f : FormW) (ftz : Bool) (a b c : DWord) : IntRes :=
  let fmt := fld f.mod 0 4
  truth (combine f a (fcmpHolds f.sub.toNat (decodeVal fmt b.toNat ftz) (decodeVal fmt c.toNat ftz)))

/-- A literal of ICMP, extended to 64 bits for a 64-bit format (R162). -/
def icmpLit (f : FormW) (lit : Word) : DWord := if fmtIs f 7 then lit.signExtend 64 else lit.setWidth 64

/-- The operations of PLOG (R240). -/
def plogOp (op : Nat) (b c d : Bool) : Bool :=
  match op with
  | 0 => b && c
  | 1 => b || c
  | 2 => b != c
  | 3 => b && !c
  | 4 => b || !c
  | 5 => !(b && c)
  | 6 => !(b || c)
  | 7 => b == c
  | 8 => b && c && d
  | 9 => b || c || d
  | 10 => (b && c) || (b && d) || (c && d)
  | _ => (b && c) || d

/-- A word is true when it is not zero. -/
def isTrue (v : DWord) : Bool := decide (loWord v ≠ 0)

/-- ICMP, format W (R238). -/
def execIcmpW (f : FormW) (s : State) : Host.Outcome State Fault Refusal :=
  s.plain (.icmpW f) fun x _ => x.write f.a false (opIcmp f x.a x.b x.c)

/-- ICMP, format X (R238). -/
def execIcmpX (f : FormW) (lit : Word) (s : State) : Host.Outcome State Fault Refusal :=
  s.plain (.icmpX f lit) fun x _ => x.write f.a false (opIcmp f x.a x.b (icmpLit f lit))

/-- FCMP, format W (R239). -/
def execFcmpW (f : FormW) (s : State) : Host.Outcome State Fault Refusal :=
  s.plain (.fcmpW f) fun x _ => x.write f.a false (opFcmp f x.f.ftz x.a x.b x.c)

/-- FCMP, format X (R239). -/
def execFcmpX (f : FormW) (lit : Word) (s : State) : Host.Outcome State Fault Refusal :=
  s.plain (.fcmpX f lit) fun x _ =>
    x.write f.a false (opFcmp f x.f.ftz x.a x.b (lit.setWidth 64))

/-- PLOG (R240). -/
def execPlog (f : FormW) (s : State) : Host.Outcome State Fault Refusal :=
  s.plain (.plog f) fun x _ =>
    x.write f.a false (truth (plogOp f.sub.toNat (isTrue x.b) (isTrue x.c) (isTrue x.d)))

/-- PNOT (R241). -/
def execPnot (f : FormQ) (s : State) : Host.Outcome State Fault Refusal :=
  s.plain (.pnot f) fun x _ => x.write f.a false (truth (!isTrue x.b))

/-- P2G (R241): p7 to p1 in bits [7:1], 1 in bit 0. -/
def execP2g (f : FormQ) (s : State) : Host.Outcome State Fault Refusal :=
  s.plain (.p2g f) fun x _ => x.write f.a false ((x.f.preds ||| 1).setWidth 64, 0)

/-- G2P (R241): pi := B[i] for i in 1 to 7. -/
def execG2p (f : FormQ) (s : State) : Host.Outcome State Fault Refusal :=
  s.plain (.g2p f) fun x _ =>
    .outs false ((upto 1 7).map fun i => (0xD0 + i, if x.b.getLsbD i then 1 else 0)) 0 none

end Sys2Proof.Machine
end

