-- ==== Sys2Proof/Machine/Lanes.lean ====
section
/-! DEFINITION. The lane network and the cross-lane instructions: PSET, PERM, SHFL, BCAST, REDUCE, SCAN, VOTE (R44, R114,
R115, R242, R289 to R293). -/
namespace Sys2Proof.Machine

/-! ### The rendezvous (R44) -/

/-- What a cross-lane instruction gives its members: the operand B and C of each lane of the convened gang that is active,
the gang's width, a member's lane and the state. -/
structure CrossIn where
  width : Nat
  lanes : Tbl LaneIn
  mask : Nat
  deriving DecidableEq, Repr

/-- The operand B of a lane; an inactive lane supplies zero. -/
def CrossIn.b (v : CrossIn) (lane : Nat) : DWord := match v.lanes.find lane with | some x => x.b | none => 0

/-- A cross-lane instruction: the codes it writes, its checks of one member, and its outcome for the member of a lane.
An MMA is one for the lanes that `joins` names (R300), and `alone` is its meaning for the others; `joinsFalse` says whether a
convened member whose guard is false takes part. The outcome sees the state before the lanes and the state that the lanes
before have left. -/
structure CrossOp where
  codes : List Nat
  joins : State → List ReadLane → LaneIn → Bool
  joinsFalse : State → List ReadLane → Nat → Bool
  alone : LaneIn → State → LaneRes
  check : State → List ReadLane → LaneIn → Option LaneRes
  result : State → State → CrossIn → Nat → LaneIn → LaneRes

/-- A cross-lane instruction for every lane, with a result in one register or pair. -/
def crossOp (a : BitVec 8) (wide : Bool) (check : State → LaneIn → Option LaneRes)
    (result : State → CrossIn → Nat → LaneIn → IntRes) : CrossOp :=
  { codes := if wide then [a.toNat, a.toNat + 1] else [a.toNat], joins := fun _ _ _ => true, joinsFalse := fun _ _ _ => true,
    alone := fun x _ => x.illegal, check := fun s _ x => check s x,
    result := fun _ s v i x => let r := result s v i x; .outs false (outPair a.toNat wide r.1) r.2 none }

/-- The convened gang of a fibre. -/
def State.gangConvened (s : State) (f : Fibre) : Option (Nat × Convened) :=
  f.conv.bind fun id => (s.convened.find id).map fun g => (id, g)

/-- What keeps one lane from the rendezvous. A lane whose guard is false arrives all the same (R158). Outside a convened gang
the ILLEGAL of R44 comes before the BROKEN of R46 (DESIGN CHOICE, assumption 68). -/
def State.crossStop (s : State) (op : CrossOp) (rs : List ReadLane) (f : Fibre) (r : ReadLane) : Option LaneRes :=
  match r.read with
  | .stopped res => some res
  | .skip =>
    match s.gangConvened f with
    | some (id, _) => if s.crewBroken f = false ∧ op.joinsFalse s rs id = true then none else some (.next s)
    | none => some (.next s)
  | .ready x _ =>
    if isClerk r.key ∨ (s.gangConvened f).isNone then some x.illegal
    else if s.crewBroken f then some (.effect (effectOf x.own 11 0 0))
    else (op.check s rs x).or ((s.destStop x op.codes).or (s.queueStop (coreOf r.key) op.codes))

/-- The lane of a member in its convened gang. -/
def Convened.laneOf (g : Convened) (index : Nat) : Nat :=
  match g.members.find? fun m => decide (m.2 = index) with
  | some m => m.1
  | none => 0

/-- The members of a convened gang that wait at a cross-lane instruction of another PC (R44). -/
def State.crossConflicts (s : State) (g : Convened) (own : Pc) : List Nat :=
  ((s.atRendezvous g).map fun m => fibreKey g.core m.2).filter fun k =>
    match s.fibres.find k with
    | some f => decide (f.pc.pointer ≠ own.pointer)
    | none => false

/-- A lane that has read its operands takes part in the rendezvous. -/
def ReadLane.joining (r : ReadLane) (s : State) (op : CrossOp) (rs : List ReadLane) : Bool :=
  match r.read with
  | .ready x _ => op.joins s rs x
  | _ => true

/-- The lanes of an issuing gang that arrive at the rendezvous of a convened gang. -/
def State.arrivals (s : State) (op : CrossOp) (id : Nat) (rs : List ReadLane) : List ReadLane :=
  rs.filter fun r =>
    match s.fibres.find r.key with
    | some f => decide (f.conv = some id) && r.joining s op rs && (s.crossStop op rs f r).isNone
    | none => false

/-- The operands of the members that execute, by lane. -/
def crossIn (g : Convened) (rs : List ReadLane) : CrossIn :=
  let lanes := rs.foldl (fun (t : Tbl LaneIn) r =>
    match r.read with
    | .ready x _ => t.put (g.laneOf (indexOf r.key)) x
    | _ => t) []
  { width := g.width, lanes := lanes, mask := g.members.foldl (fun m p => m ||| 2 ^ p.1) 0 }

/-- One lane at a cross-lane instruction: it executes when every current member has arrived in this gang, parks
otherwise, and where members wait at another PC performs ILLEGAL, as they do (R44). -/
def State.crossLane (pre : State) (op : CrossOp) (rs : List ReadLane) (a : Lanes) (r : ReadLane) : Lanes :=
  match pre.fibres.find r.key, a.s.fibres.find r.key with
  | some f, some now =>
    if now.state ≠ .issuing then a
    else if r.joining pre op rs = false then Lanes.lane op.alone pre a r
    else
      match pre.crossStop op rs f r with
      | some (.next _) => { a with s := a.s.modFibre r.key fun g => { g with pc := r.next } }
      | some res => Lanes.finish pre (r.bare f) (match r.read with | .ready _ t => t | _ => .none) res a
      | none =>
        match pre.gangConvened f with
        | none => a
        | some (id, g) =>
          let taken := match r.read with | .ready _ t => t | _ => .none
          match pre.crossConflicts g r.own with
          | k :: ks =>
            let s := (k :: ks).foldl (fun s k =>
              match s.fibres.find k with
              | some h => if h.waiting = some (.barrier .crossLane) then s.perform k (h.effectAt 12 0 0) else s
              | none => s) a.s
            Lanes.effect { a with s := s } r.key taken (effectOf r.own 12 0 0)
          | [] =>
            let here := pre.arrivals op id rs
            if here.length < g.members.length then a.park r.key taken (.barrier .crossLane)
            else
              match r.read with
              | .ready x t =>
                Lanes.finish pre { x with f := now } t
                  (op.result pre a.s (crossIn g here) (g.laneOf (indexOf r.key)) { x with f := now }) a
              | _ => { a with s := a.s.modFibre r.key fun g => { g with pc := r.next } }
  | _, _ => a

/-- Run a cross-lane instruction on the gang that issues. Its checks see the state before it, but for the words that it has
taken from q registers. -/
def State.runCross (s : State) (i : Instr) (form : Form) (g : Gang) (op : CrossOp) : State :=
  match (if s.isCured g.tenant ((s.fibres.find (fibreKey g.core (g.members.headD (0, 0)).2)).elim g.runStart Fibre.pc)
      then tooEarly g i form else none) with
  | some (o, p) =>
    s.allFail i form g fun own => latencyEffect g own o p
  | none =>
    let pre := s.chargeStep g (g.runLen + 1)
    let r := pre.readLanes form (encode i).length g.core g.members
    let now : State := { pre with cores := r.2.cores }
    let a := r.1.foldl (State.crossLane now op r.1) { back := false, blocked := none, shared := [], s := r.2 }
    let ids := dedup (r.1.filterMap fun l => (pre.fibres.find l.key).bind fun f => f.conv)
    (ids.foldl State.checkCross a.s).afterLanes i form g r.1 a.back

/-- A cross-lane instruction on the gang that issues (R183), with the privilege check of its description. -/
def State.cross (s : State) (i : Instr) (priv : Nat → Bool) (op : CrossOp) : Host.Outcome State Fault Refusal :=
  match s.gangs.find s.cur, i.form with
  | some g, some form =>
    if i.wellFormed = false then
      .next (s.allFail i form g fun own => effectOf own 12 0 0)
    else if g.members.any fun m => priv (fibreKey g.core m.2) || s.queuePriv (fibreKey g.core m.2) g.tenant form then
      .next (s.allFail i form g fun own => effectOf own 13 0 0)
    else .next (s.runCross i form g op)
  | _, _ => .next s

/-! ### The network (R289, R290) -/

/-- Bit b(s) of stage s for W = 2^k. -/
def stageBit (k s : Nat) : Nat := if s < k then k - 1 - s else s - k + 1

/-- The lane, or its partner, that switch j of stage s brings to position `i`. -/
def swapAt (k image s i : Nat) : Nat :=
  let b := stageBit k s
  let low := i % 2 ^ b
  let j := i / 2 ^ (b + 1) * 2 ^ b + low
  if bits image (s * 2 ^ (k - 1) + j) (s * 2 ^ (k - 1) + j) = 1 then Nat.xor i (2 ^ b) else i

/-- The lane whose value position `i` holds after the first `n` stages. -/
def networkSource (k image i : Nat) : Nat → Nat
  | 0 => i
  | n + 1 => networkSource k image (swapAt k image n i) n

/-- log2 of a gang width. -/
def widthLog (w : Nat) : Nat := Nat.log2 w

/-- apply(x, image)[i]: the lane whose value lane i receives. -/
def networkLane (w image i : Nat) : Nat := networkSource (widthLog w) image i (2 * widthLog w - 1)

/-- Bytes of an image by the width code. -/
def imageBytes (code : Nat) : Nat := match code with | 0 => 8 | 1 => 24 | _ => 48

/-- PSET (R291). -/
def execPset (f : FormW) (s : State) : Host.Outcome State Fault Refusal :=
  s.plain (.pset f) fun x s =>
    let code := fld f.mod 4 2
    let a := (loWord x.b).toNat
    if a % 8 ≠ 0 then x.illegal
    else
      match s.loadSpace x.key x.f 4 a (imageBytes code) with
      | .error .soft => x.bad s a 4 false .soft
      | .error _ => x.illegal
      | .ok (s, image) =>
        let slot : PermSlot := { width := 16 * 2 ^ code, owner := x.f.tenant, image := ofBytes image }
        .next (s.modUnit (coreOf x.key) fun u => { u with perms := u.perms.put f.sub.toNat slot })

/-- A permutation slot of another tenant is named (R289). -/
def State.permPriv (s : State) (slot key : Nat) : Bool :=
  match (s.unit (coreOf key)).perms.find slot, s.fibres.find key with
  | some p, some f => decide (p.owner ≠ f.tenant)
  | _, _ => false

/-- PERM on an empty slot, or one of another width, performs ILLEGAL (R289). -/
def permCheck (slot : Nat) (s : State) (x : LaneIn) : Option LaneRes :=
  match (s.unit (coreOf x.key)).perms.find slot, s.gangConvened x.f with
  | some p, some (_, g) => if p.width = g.width then none else some x.illegal
  | _, _ => some x.illegal

/-- PERM (R292). -/
def execPerm (f : FormW) (s : State) : Host.Outcome State Fault Refusal :=
  s.cross (.perm f) (s.permPriv f.sub.toNat)
    (crossOp f.a (fmtIs f 3) (permCheck f.sub.toNat) fun s v i x =>
        let image := match (s.unit (coreOf x.key)).perms.find f.sub.toNat with | some p => p.image | none => 0
        (v.b (networkLane v.width image i), 0))

/-- No check of its own. -/
def noCheck (_ : State) (_ : LaneIn) : Option LaneRes := none

/-- The source lane of SHFL (R292). -/
def shflSource (mode i : Nat) (c : Word) : Int :=
  match mode with
  | 0 => (c.toNat % 64 : Nat)
  | 1 => (i : Int) - c.toNat
  | 2 => (i : Int) + c.toNat
  | _ => (Nat.xor i (c.toNat % 64) : Nat)

/-- SHFL (R292). -/
def execShfl (f : FormW) (s : State) : Host.Outcome State Fault Refusal :=
  s.cross (.shfl f) (fun _ => false)
    (crossOp f.a (fmtIs f 3) noCheck fun _ v i x =>
        let t := shflSource f.sub.toNat i (loWord x.c)
        (if 0 ≤ t ∧ t < (v.width : Int) then v.b t.toNat else x.b, 0))

/-- BCAST (R292): the lane that the lowest-numbered active member names. -/
def execBcast (f : FormW) (s : State) : Host.Outcome State Fault Refusal :=
  s.cross (.bcast f) (fun _ => false)
    (crossOp f.a (fmtIs f 3) noCheck fun _ v _ _ =>
        match v.lanes with
        | (_, x) :: _ =>
          let t := x.c.toNat % 64
          (if t < v.width then v.b t else 0, 0)
        | [] => (0, 0))

/-! ### Reductions (R114, R115, R293) -/

/-- An operation on codes of a format, with the flags that it raises. -/
abbrev CodeOp := Nat → Nat → Nat × Flags

/-- tree(x, lo, 2^k) of R114. -/
def treeOf (op : CodeOp) (x : Nat → Nat) (lo : Nat) : Nat → Nat × Flags
  | 0 => (x lo, 0)
  | k + 1 =>
    let a := treeOf op x lo k
    let b := treeOf op x (lo + 2 ^ k) k
    let r := op a.1 b.1
    (r.1, a.2 ||| b.2 ||| r.2)

/-- prefix(x, i) of R115, from bit k − 1 of i + 1 down. -/
def prefixFrom (op : CodeOp) (x : Nat → Nat) (i : Nat) (acc : Option (Nat × Flags)) (lo : Nat) : Nat → Nat × Flags
  | 0 => acc.getD (0, 0)
  | k + 1 =>
    if (i + 1) / 2 ^ k % 2 = 1 then
      let t := treeOf op x lo k
      let r := match acc with
        | none => t
        | some a => let r := op a.1 t.1; (r.1, a.2 ||| t.2 ||| r.2)
      prefixFrom op x i (some r) (lo + 2 ^ k) k
    else prefixFrom op x i acc lo k

/-- The combining step of REDUCE and SCAN (R293): integers wrap within the format; floating-point results are rounded and
not flushed. -/
def combineOp (fmt op mode : Nat) : CodeOp := fun a b =>
  if fmt < 8 then
    let w := 2 ^ intWidth fmt
    match op with
    | 0 => ((a + b) % w, 0)
    | 1 => (if decodeInt fmt b < decodeInt fmt a then b else a, 0)
    | 2 => (if decodeInt fmt a < decodeInt fmt b then b else a, 0)
    | 3 => (Nat.land a b, 0)
    | 4 => (Nat.lor a b, 0)
    | _ => (Nat.xor a b, 0)
  else
    let x := decodeVal fmt a false
    let y := decodeVal fmt b false
    if op = 0 then
      let r := fadd (decide (mode = 3)) x y
      let q := roundTo fmt mode 0 false r.1
      (q.1, r.2 ||| q.2)
    else ((roundFloat fmt 0 0 false (fminmax (decide (op = 2)) false x y)).1, 0)

/-- A member's operand as a code of the format: the low bits of an integer, or a value read under its own FTZ. -/
def leafCode (fmt : Nat) (x : LaneIn) : Nat :=
  if fmt < 8 then x.b.toNat % 2 ^ intWidth fmt
  else (roundFloat fmt 0 0 false (decodeVal fmt x.b.toNat x.f.ftz)).1

/-- The codes of the lanes; an inactive lane supplies zero. -/
def leaves (fmt : Nat) (v : CrossIn) (lane : Nat) : Nat :=
  match v.lanes.find lane with
  | some x => leafCode fmt x
  | none => 0

/-- A result as a member receives it, under its own FTZ, with the flags of the tree (R293). -/
def receive (fmt code : Nat) (fl : Flags) (x : LaneIn) : IntRes :=
  if fmt < 8 then (BitVec.ofNat 64 code, fl)
  else
    let r := roundFloat fmt 0 0 x.f.ftz (decodeVal fmt code false)
    (BitVec.ofNat 64 r.1, fl ||| r.2)

/-- REDUCE's result (R114, R293). -/
def opReduce (f : FormW) (v : CrossIn) (x : LaneIn) : IntRes :=
  let fmt := fld f.mod 0 4
  let t := treeOf (combineOp fmt f.sub.toNat (fld f.mod 4 2)) (leaves fmt v) 0 (widthLog v.width)
  receive fmt t.1 t.2 x

/-- SCAN's result (R115, R293): the flags of every active member's prefix go to all. -/
def opScan (f : FormW) (v : CrossIn) (lane : Nat) (x : LaneIn) : IntRes :=
  let fmt := fld f.mod 0 4
  let at_ := fun (i : Nat) =>
    prefixFrom (combineOp fmt f.sub.toNat (fld f.mod 4 2)) (leaves fmt v) i none 0 (widthLog v.width + 1)
  receive fmt (at_ lane).1 (v.lanes.foldl (fun (fl : Flags) p => fl ||| (at_ p.1).2) 0) x

/-- REDUCE (R293). -/
def execReduce (f : FormW) (s : State) : Host.Outcome State Fault Refusal :=
  s.cross (.reduce f) (fun _ => false)
    (crossOp f.a (fmt64 f) noCheck fun _ v _ x => opReduce f v x)

/-- SCAN (R293). -/
def execScan (f : FormW) (s : State) : Host.Outcome State Fault Refusal :=
  s.cross (.scan f) (fun _ => false)
    (crossOp f.a (fmt64 f) noCheck fun _ v i x => opScan f v i x)

/-! ### VOTE (R242) -/

/-- The ballot: bit i is 1 when lane i's B is not 0. -/
def CrossIn.ballot (v : CrossIn) : Nat := v.lanes.foldl (fun m p => if loWord p.2.b = 0 then m else m + 2 ^ p.1) 0

/-- A 32-bit ballot of a gang of width 64 performs ILLEGAL. -/
def voteCheck (f : FormW) (s : State) (x : LaneIn) : Option LaneRes :=
  match s.gangConvened x.f with
  | some (_, g) => if f.sub = 2 ∧ fmtIs f 3 = false ∧ g.width = 64 then some x.illegal else none
  | none => none

/-- VOTE (R242). -/
def execVote (f : FormW) (s : State) : Host.Outcome State Fault Refusal :=
  s.cross (.vote f) (fun _ => false)
    (crossOp f.a (fmtIs f 3) (voteCheck f) fun _ v _ _ =>
        match f.sub.toNat with
        | 0 => (if v.ballot ≠ 0 then 1 else 0, 0)
        | 1 => (if v.ballot = v.mask then 1 else 0, 0)
        | _ => (BitVec.ofNat 64 v.ballot, 0))

end Sys2Proof.Machine
end

