-- ==== Sys2Proof/Machine/Matrix.lean ====
section
/-! DEFINITION. The matrix engine: MMA, MZERO, MDRAIN, MACC, MSTAT and its sequencer (R111 to R113, R294 to R311). -/
namespace Sys2Proof.Machine

/-! ### Elements (R111, R112) -/

/-- The bound at which an element overflows. -/
def accBound : Nat := 2 ^ 511 - 1

/-- A sum of elements without the bound. -/
def Acc.add : Acc → Acc → Acc
  | .nan, _ => .nan
  | _, .nan => .nan
  | .beyond a, .beyond b => if a = b then .beyond a else .nan
  | .beyond a, .fin _ => .beyond a
  | .fin _, .beyond b => .beyond b
  | .fin a, .fin b => .fin (a + b)

/-- An element after a command: checked once against the bound. Answers whether it overflowed. -/
def Acc.settle : Acc → Acc × Bool
  | .fin v => if accBound ≤ v.natAbs then (.beyond (decide (v < 0)), true) else (.fin v, false)
  | a => (a, false)

/-- An element with its sign turned. -/
def Acc.negate : Acc → Acc
  | .fin v => .fin (-v)
  | .beyond n => .beyond (!n)
  | .nan => .nan

/-- A value as a multiple of 2^−k. -/
def accOf (k : Int) : FVal → Acc
  | .fin n m e _ => .fin (signedAt n m e (-k))
  | .inf n => .beyond n
  | .nan => .nan

/-- A product of two operands in multiples of 2^−136 (R302), and whether it is the NaN of ∞ × 0 or makes an overflow. -/
def Acc.mul : Acc → Acc → Acc × Bool × Bool
  | .nan, _ => (.nan, false, false)
  | _, .nan => (.nan, false, false)
  | .fin a, .fin b => (.fin (a * b), false, false)
  | .fin a, .beyond n => if a = 0 then (.nan, true, false) else (.beyond (n != decide (a < 0)), false, true)
  | .beyond n, .fin b => if b = 0 then (.nan, true, false) else (.beyond (n != decide (b < 0)), false, true)
  | .beyond a, .beyond b => (.beyond (a != b), false, true)

/-- The value of an element (R113). -/
def Acc.value : Acc → FVal
  | .fin v => .fin (decide (v < 0)) v.natAbs (-272) false
  | .beyond n => .inf n
  | .nan => .nan

/-! ### Tiles -/

/-- The fields of an operand descriptor (R297). -/
structure Desc where
  kind : Nat
  rot : Nat
  tp : Nat
  rp : Nat
  base : Nat
  deriving DecidableEq, Repr

/-- A descriptor from its 64 bits. -/
def Desc.ofWord (v : DWord) : Desc :=
  let n := v.toNat
  { kind := bits n 63 60, rot := bits n 59 56, tp := bits n 55 44, rp := bits n 43 32, base := bits n 31 0 }

/-- Bits of an element of a matrix format. -/
def matBits (fmt : Nat) : Nat := if fmt = 8 then 4 else if fmt < 11 then 8 else if fmt = 13 then 32 else 16

/-- Bytes of the 32 elements of a block row. -/
def blockRow (fmt : Nat) : Nat := matBits fmt * 4

/-- A format whose elements carry block scales. -/
def scaled (fmt : Nat) : Bool := decide (fmt < 11)

/-- Where the block of a row in a k-tile lies, from BASE on (R298). -/
def Desc.blockAt (d : Desc) (r t : Nat) : Nat := t * d.tp * 256 + r * d.rp * 16 + 16 * (r * d.rot % 16)

/-- What stands in the way of ranges from BASE on, for a tenant on a core (R298). -/
def State.tileBad (s : State) (core tenant : Nat) (d : Desc) (ranges : List (Nat × Nat)) : Option Bad :=
  match d.kind with
  | 0 =>
    let p := clusterPlace core d.base
    if 2 ^ 24 ≤ d.base ∨ (ranges.any fun r => decide (s.scratchSize p.1 < p.2 + r.1 + r.2)) then some .illegal
    else if ranges.all fun r => (granulesOf (p.2 + r.1) r.2).all fun g => s.holdsScratch p.1 g tenant then none
    else some .priv
  | 1 =>
    if ranges.any fun r => decide (s.weightSize core < d.base + r.1 + r.2) then some .illegal
    else if ranges.all fun r => (granulesOf (d.base + r.1) r.2).all fun g => s.holdsWeight core g tenant then none
    else some .priv
  | _ => some .illegal

/-- The pitch byte at an offset from BASE. -/
def Desc.key (d : Desc) (core o : Nat) : Nat :=
  if d.kind = 0 then scratchKey (clusterPlace core d.base).1 ((clusterPlace core d.base).2 + o)
  else weightKey core (d.base + o)

/-- Pitch bytes at an offset from BASE, as a number. -/
def State.tileRead (s : State) (core : Nat) (d : Desc) (o n : Nat) : Nat := ofBytes (s.store.pitch.readBytes (d.key core o) n)

/-- The values of the 32 elements of a block row (R98 to R100), without the scale where the format has none. -/
def blockVals (fmt data side : Nat) : List FVal :=
  (List.range 32).map fun i =>
    let code := data / 2 ^ (matBits fmt * i) % 2 ^ matBits fmt
    if scaled fmt then blockValue fmt code (side % 256) (if fmt = 8 then side / 256 % 256 else 0)
    else decodePlain (floatFmt fmt) code false

/-- A scale row's place from BASE on. -/
def Desc.scaleAt (d : Desc) (sof t : Nat) : Nat := t * d.tp * 256 + sof * 16

/-- The K elements of a row of an operand in the pitch, and whether a block of it is invalid (R99, R302). -/
def State.pitchRow (s : State) (core fmt tiles sof : Nat) (d : Desc) (r : Nat) : List FVal × Bool :=
  (List.range tiles).foldl (fun a t =>
    let side := if scaled fmt then s.tileRead core d (d.scaleAt sof t + 2 * r) 2 else 127
    (a.1 ++ blockVals fmt (s.tileRead core d (d.blockAt r t) (blockRow fmt)) side,
      a.2 || (scaled fmt && blockInvalid fmt (side % 256)))) ([], false)

/-- Words as one number, the first lowest. -/
def wordsNat : List Word → Nat
  | [] => 0
  | w :: rest => w.toNat + 2 ^ 32 * wordsNat rest

/-- The K elements of a row from registers (R300). -/
def registerRow (fmt tiles : Nat) (data sides : List Word) : List FVal × Bool :=
  let n := wordsNat data
  (List.range tiles).foldl (fun a t =>
    let side := if scaled fmt then (sides.getD (t / 2) 0).toNat / 2 ^ (16 * (t % 2)) % 65536 else 127
    (a.1 ++ blockVals fmt (n / 2 ^ (32 * matBits fmt * t)) side, a.2 || (scaled fmt && blockInvalid fmt (side % 256))))
    ([], false)

/-- A row that no lane supplies: +0 elements (R300). -/
def zeroRow (tiles : Nat) : List FVal × Bool := (List.replicate (32 * tiles) (.zero false), false)

/-- The 128 rows of an operand. -/
def State.operandRows (s : State) (core fmt tiles sof : Nat) (d : Desc) (rows : List (Nat × List Word × List Word)) :
    List (List FVal × Bool) :=
  (List.range 128).map fun r =>
    if d.kind = 2 then
      match rows.find? fun p => decide (p.1 = r) with
      | some p => registerRow fmt tiles p.2.1 p.2.2
      | none => zeroRow tiles
    else s.pitchRow core fmt tiles sof d r

/-- The sum of the products of two rows (R112): its value, and whether an NV or an OVF arose. -/
def rowSum : List Acc → List Acc → Acc × Bool × Bool
  | a :: as, b :: bs =>
    let p := a.mul b
    let q := rowSum as bs
    (p.1.add q.1, p.2.1 || q.2.1, p.2.2 || q.2.2)
  | _, _ => (.fin 0, false, false)

/-! ### Contexts -/

/-- A context of a core. -/
def State.context (s : State) (core ctx : Nat) : AccContext := s.acc.get (core * 4 + ctx) .reset

/-- Change a context. -/
def State.modContext (s : State) (core ctx : Nat) (g : AccContext → AccContext) : State :=
  { s with acc := s.acc.put (core * 4 + ctx) (g (s.context core ctx)) }

/-- An element lies in a named quarter (R294). -/
def inMask (mask k : Nat) : Bool :=
  let q := 2 * (k / 128 / 64) + k % 128 / 64
  bits mask q q = 1

/-- The content of a key at the head of a table, and the rest. -/
def headAt {α : Type} (k : Nat) : Tbl α → Option α × Tbl α
  | (j, v) :: rest => if j = k then (some v, rest) else (none, (j, v) :: rest)
  | [] => (none, [])

/-- Add terms to elements, key by key, each element checked once against the bound (R112): an element of +0 is not listed.
Answers whether one overflowed. -/
def addElems : List Nat → Tbl (Acc × Bool × Bool) → Tbl Acc → Tbl Acc × Bool
  | [], _, t => (t, false)
  | k :: ks, adds, t =>
    let p := headAt k adds
    let q := headAt k t
    let old := q.1.getD (.fin 0)
    let new := match p.1 with | some v => (old.add v.1).settle | none => (old, false)
    let r := addElems ks p.2 q.2
    (if new.1 = .fin 0 then r.1 else (k, new.1) :: r.1, new.2 || r.2)

/-- Add to the elements of the named quarters; the sticky bits collect NV (bit 4) and OVF (bit 6). -/
def AccContext.addAll (c : AccContext) (mask : Nat) (v : Nat → Acc × Bool × Bool) (nv : Bool) : AccContext :=
  let adds := ((List.range 16384).filter (inMask mask)).map fun k => (k, v k)
  let r := addElems (List.range 16384) adds c.elems
  let high := r.2 || adds.any fun p => p.2.2.2
  let nv := nv || adds.any fun p => p.2.2.1
  { c with elems := r.1, sticky := c.sticky ||| (if high then 64 else 0) ||| (if nv then 16 else 0) }

/-! ### The commands as they execute -/

/-- MMA (R302). -/
def State.runMma (s : State) (core ctx fmt mask : Nat) (a b dd : DWord) (rowsA rowsB : List (Nat × List Word × List Word)) :
    State :=
  let tiles := bits dd.toNat 15 0 / 32
  let ra := s.operandRows core fmt tiles (bits dd.toNat 43 32) (.ofWord a) rowsA
  let rb := s.operandRows core fmt tiles (bits dd.toNat 55 44) (.ofWord b) rowsB
  let va := ra.map fun r => r.1.map (accOf 136)
  let vb := rb.map fun r => r.1.map (accOf 136)
  let invalid := (ra ++ rb).any fun r => r.2
  s.modContext core ctx fun c => c.addAll mask (fun k => rowSum (va.getD (k / 128) []) (vb.getD (k % 128) [])) invalid

/-- MZERO (R303). -/
def State.runMzero (s : State) (core ctx mask : Nat) : State :=
  s.modContext core ctx fun c =>
    { c with elems := c.elems.select fun k _ => !inMask mask k, poison := c.poison && decide (mask ≠ 15) }

/-- The ranges of a tile that MDRAIN writes and MACC reads (R304), from BASE on: rows and side words of the named
quarters. -/
def tileRanges (fmt mask : Nat) (d : Desc) : List (Nat × Nat) :=
  (List.range 128).flatMap fun i => (List.range 2).flatMap fun h =>
    if inMask mask (128 * i + 64 * h) = false then []
    else if scaled fmt then
      [(i * d.rp * 16 + 2 * h * blockRow fmt, 2 * blockRow fmt), (d.tp * 256 + 8 * i + 4 * h, 4)]
    else [(i * d.rp * 16 + 64 * h * (matBits fmt / 8), 8 * matBits fmt)]

/-- The blocks of 32 columns of the named quarters, by row and block, quarter by quarter: the order of their `.rsr` draws, which
R106 gives inside a block alone (DESIGN CHOICE, assumption 83). -/
def drainBlocks (mask : Nat) : List (Nat × Nat) :=
  ((List.range 4).filter fun q => bits mask q q = 1).flatMap fun q =>
    (upto (64 * (q / 2)) 64).flatMap fun i => (upto (2 * (q % 2)) 2).map fun b => (i, b)

/-- What draining one block gives: its bytes, where the format has them its side word, the seed and the flags. -/
structure Drained where
  data : List Byte
  side : Nat
  seed : Word
  flags : Flags
  deriving DecidableEq, Repr

/-- Round 32 elements one by one (R113). -/
def drainRound (fmt mode : Nat) (seed : Word) : List FVal → Drained
  | [] => { data := [], side := 0, seed := seed, flags := 0 }
  | v :: rest =>
    let r := roundDraw fmt mode false seed 0 v
    let q := drainRound fmt mode r.seed rest
    { q with data := toBytes r.code (matBits fmt / 8) ++ q.data, flags := r.flags ||| q.flags }

/-- The codes of a block as bytes (R98). -/
def packBytes (w : Nat) (codes : List Nat) : List Byte :=
  toBytes ((codes.zip (List.range codes.length)).foldl (fun n p => n + p.1 % 2 ^ w * 2 ^ (w * p.2)) 0) (w * codes.length / 8)

/-- Drain one block (R113, R304). An infinite element of an F8E5 block makes it a NaN block, and so does ±OVF in an F8E4 one, as
R101 gives (DEDUCED, assumption 70). -/
def drainBlock (fmt mode : Nat) (seed : Word) (v : List FVal) : Drained :=
  if scaled fmt then
    let o := encodeBlock fmt mode seed v
    { data := packBytes (matBits fmt) o.codes, side := o.scale + 256 * o.extra, seed := o.seed, flags := o.flags }
  else drainRound fmt mode seed v

/-- Drain blocks in order into the pitch. -/
def State.drainAll (s : State) (core fmt mode : Nat) (d : Desc) (elems : Tbl Acc) (seed : Word) (fl : Flags) :
    List (Nat × Nat) → State × Flags
  | [] => (s, fl)
  | (i, b) :: rest =>
    let v := (upto (128 * i + 32 * b) 32).map fun k => (elems.get k (.fin 0)).value
    let r := drainBlock fmt mode seed v
    let s := s.applyPitch (d.key core (i * d.rp * 16 + b * blockRow fmt)) r.data
    let s := if scaled fmt then s.applyPitch (d.key core (d.tp * 256 + 8 * i + 2 * b)) (toBytes r.side 2) else s
    State.drainAll s core fmt mode d elems r.seed (fl ||| r.flags) rest

/-- MDRAIN (R304). -/
def State.runDrain (s : State) (core ctx fmt mask mode seed : Nat) (clear : Bool) (dst : DWord) : State :=
  let r := s.drainAll core fmt mode (.ofWord dst) (s.context core ctx).elems (BitVec.ofNat 32 seed) 0 (drainBlocks mask)
  r.1.modContext core ctx fun c =>
    { c with sticky := c.sticky ||| r.2.setWidth 7,
             elems := if clear then c.elems.select fun k _ => !inMask mask k else c.elems }

/-- An element of a tile laid out as MDRAIN writes it (R305), and whether its block is invalid. -/
def State.tileElem (s : State) (core fmt : Nat) (d : Desc) (k : Nat) : FVal × Bool :=
  let i := k / 128
  let j := k % 128
  if scaled fmt then
    let side := s.tileRead core d (d.tp * 256 + 8 * i + 2 * (j / 32)) 2
    let w := matBits fmt
    let byte := s.tileRead core d (i * d.rp * 16 + j * w / 8) 1
    let code := if w = 4 then byte / 2 ^ (4 * (j % 2)) % 16 else byte
    (blockValue fmt code (side % 256) (if fmt = 8 then side / 256 else 0), blockInvalid fmt (side % 256))
  else
    (decodePlain (floatFmt fmt) (s.tileRead core d (i * d.rp * 16 + j * (matBits fmt / 8)) (matBits fmt / 8)) false, false)

/-- MACC (R305). -/
def State.runMacc (s : State) (core ctx fmt mask : Nat) (subtract : Bool) (src : DWord) : State :=
  let d := Desc.ofWord src
  let keys := (List.range 16384).filter (inMask mask)
  let invalid := keys.any fun k => (s.tileElem core fmt d k).2
  s.modContext core ctx fun c =>
    c.addAll mask (fun k =>
      let a := accOf 272 (s.tileElem core fmt d k).1
      let inf := match a with | .beyond _ => true | _ => false
      (if subtract then a.negate else a, false, inf)) invalid

/-- MSTAT (R307): the state of the context goes to its targets. -/
def State.runStat (s : State) (key core ctx : Nat) (clear busy : Bool) (targets : List Loc) : State :=
  let c := s.context core ctx
  let v := c.sticky.toNat + (if c.poison then 128 else 0) + if busy then 256 else 0
  let s := s.land key (targets.map fun l => (l, BitVec.ofNat 32 v))
  if clear then s.modContext core ctx fun c => { c with sticky := 0 } else s

/-- A command has ended: every fibre that counts it settles it (R300, R311), and its context's queue has room. -/
def State.endCommand (s : State) (core ctx id : Nat) : State :=
  let s := s.modContext core ctx fun c => { c with queue := c.queue.filter fun i => decide (i ≠ id) }
  let s := { s with engine := s.engine.del id }
  let s := (s.fibres.select fun _ f => f.counted.any fun c => decide (c.op = id)).foldl (fun s p =>
    s.settleOp p.1 id none) s
  s.recheck core

/-- The machine as an engine sees it that has read some units of the pitch before (R309). -/
def State.seeUnits (s : State) (units : Tbl (List Byte)) : State :=
  units.foldl (fun s p => s.modStore fun m => { m with pitch := m.pitch.writeBytes p.1 p.2 }) s

/-- Units that a drain has written before stand as they are now (R309). -/
def State.keepUnits (s old : State) (units : Tbl (List Byte)) : State :=
  s.seeUnits (units.mapVals fun k _ => old.store.pitch.readBytes k 16)

/-- Execute a command (R302 to R307): a unit that it has read before counts with what it read, and one that it has written
before is not written again (R309). -/
def State.runCommand (s : State) (core ctx : Nat) (o : EngineOp) (cmd : MtxCommand) : State :=
  match cmd with
  | .mma fmt mask a b d ra rb => { (s.seeUnits o.units).runMma core ctx fmt mask a b d ra rb with store := s.store }
  | .zero mask => s.runMzero core ctx mask
  | .drain fmt mask rnd seed clear d => (s.runDrain core ctx fmt mask rnd seed clear d).keepUnits s o.units
  | .acc fmt mask subtract d => { (s.seeUnits o.units).runMacc core ctx fmt mask subtract d with store := s.store }
  | .stat clear busy targets => s.runStat o.fibre core ctx clear busy targets

/-- The moment at which a command in a queue reads one unit of the pitch, or a drain whose turn it is writes one (R309). -/
def State.unitNow (s : State) (id place : Nat) : State :=
  match s.engine.find id with
  | none => s
  | some o =>
    let place := place / 16 * 16
    let note := fun (s : State) =>
      { s with engine := s.engine.put id { o with units := o.units.put place (s.store.pitch.readBytes place 16) } }
    match o.job with
    | .mtx ctx (.drain fmt mask rnd seed clear d) =>
      if (s.context o.core ctx).queue.head? ≠ some id ∨ (o.units.find place).isSome then s
      else note (s.applyPitch place ((s.runDrain o.core ctx fmt mask rnd seed clear d).store.pitch.readBytes place 16))
    | .mtx _ (.mma _ _ _ _ _ _ _) | .mtx _ (.acc _ _ _ _) => if (o.units.find place).isSome then s else note s
    | _ => s

/-- The cycles for which an MMA holds the engine where nothing slows it (R306): K over the rate of its format, for its
quarters. -/
def mmaCycles (fmt mask : Nat) (dd : DWord) : Nat :=
  let rate := if fmt = 8 then 4 else if scaled fmt then 2 else 1
  ceilDiv (bits dd.toNat 15 0 / rate * ((List.range 4).filter fun q => bits mask q q = 1).length) 4

/-- The event of a command's completion (R346): MMA_DONE of an MMA. DEDUCED: V1 is the rate of R306, for the model counts no bank
conflict (assumption 62). -/
def State.commandDone (s : State) (core ctx : Nat) (o : EngineOp) : MtxCommand → State
  | .mma fmt mask _ _ dd _ _ => s.raise (dieOfCore core) 0x0019 o.vf (1024 + core) ctx (mmaCycles fmt mask dd)
  | _ => s

/-- MTX_COMMAND_COMPLETE (R296, R346): the oldest command of a context executes. -/
def execMtxCommandComplete (core ctx : Nat) (s : State) : Host.Outcome State Fault Refusal :=
  match (s.context core ctx).queue with
  | [] => .next s
  | id :: _ =>
    match s.engine.find id with
    | some o =>
      match o.job with
      | .mtx _ cmd => .next (((s.runCommand core ctx o cmd).commandDone core ctx o cmd).endCommand core ctx id)
      | _ => .next s
    | none => .next (s.modContext core ctx fun c => { c with queue := c.queue.drop 1 })

/-! ### Issue -/

/-- A matrix instruction whose context the launch of the fibre does not use performs PRIV (R294). -/
def State.contextPriv (s : State) (ctx key : Nat) : Bool :=
  match (s.fibres.find key).bind fun f => s.recordOf f.launch with
  | some r => !r.actx.getLsbD ctx
  | none => true

/-- MTX_POISON (R308). -/
def poisonEffect (pc : Pc) (ctx : Nat) : Effect := effectOf pc 17 0 (BitVec.ofNat 64 ctx)

/-- A pending fault, which an MMA or MACC delivers before its own checks (R147, R295). -/
def LaneIn.faultFirst (x : LaneIn) : Option LaneRes :=
  if x.f.pending.isEmpty then none else some (.effect (x.f.pageFault x.own))

/-- What keeps a lane from issuing a command to a context (R146, R295, R308). -/
def LaneIn.mtxStop (x : LaneIn) (s : State) (ctx : Nat) (release poisonable : Bool) : Option LaneRes :=
  let c := s.context (coreOf x.key) ctx
  if poisonable ∧ c.poison then some (.effect (poisonEffect x.own ctx))
  else
    match x.engineStop s 2 release with
    | some r => some r
    | none => if 16 ≤ c.queue.length then some (.park (.counter (.context ctx))) else none

/-- The outcome of a tile that may not be used. -/
def LaneIn.badTile (x : LaneIn) (b : Bad) : LaneRes := if b = .priv then x.priv 0 else x.illegal

/-- The descriptor that an MMA takes from a feed queue (R301): the oldest entry of its tenant. -/
def State.feedHead (s : State) (core tenant : Nat) (second : Bool) : Option DWord :=
  ((if second then (s.unit core).feedB else (s.unit core).feedA).find? fun e => decide (e.1 = tenant)).map Prod.snd

/-- Drop the oldest entry of a tenant. -/
def dropFirst (tenant : Nat) : List (Nat × DWord) → List (Nat × DWord)
  | [] => []
  | e :: rest => if e.1 = tenant then rest else e :: dropFirst tenant rest

/-- An entry leaves a feed queue. -/
def State.takeFeed (s : State) (core tenant : Nat) (second : Bool) : State :=
  (s.modUnit core fun u =>
    if second then { u with feedB := dropFirst tenant u.feedB } else { u with feedA := dropFirst tenant u.feedA }).recheck core

/-- The fields of an MMA's D operand (R299). -/
def mmaShapeBad (fmt : Nat) (dd : DWord) : Bool :=
  let n := dd.toNat
  let k := bits n 15 0
  decide (k % 32 ≠ 0 ∨ k < 32 ∨ 4096 < k ∨ bits n 31 16 ≠ 0 ∨ bits n 63 56 ≠ 0) ||
    (!scaled fmt && decide (bits n 43 32 ≠ 0 ∨ bits n 55 44 ≠ 0))

/-- The g registers of an operand of kind 2 (R300): its data, then its side words. -/
def Desc.registers (d : Desc) (fmt tiles sof : Nat) : List Nat :=
  upto d.base (tiles * matBits fmt) ++ (if scaled fmt then upto sof ((tiles + 1) / 2) else [])

/-- The ranges of one operand of an MMA, from BASE on (R298). -/
def Desc.ranges (d : Desc) (fmt tiles sof : Nat) : List (Nat × Nat) :=
  ((List.range tiles).flatMap fun t => (List.range 128).map fun r => (d.blockAt r t, blockRow fmt)) ++
    if scaled fmt then (List.range tiles).map fun t => (d.scaleAt sof t, 256) else []

/-- What is wrong with one operand of an MMA (R298, R300). -/
def State.operandBad (s : State) (core tenant fmt tiles sof : Nat) (d : Desc) : Option Bad :=
  if d.kind = 2 then
    if d.rp ≠ 0 ∨ d.tp ≠ 0 ∨ d.rot ≠ 0 ∨ (d.registers fmt tiles sof).any fun c => decide (127 < c) then some .illegal
    else none
  else if d.rp * 16 < blockRow fmt then some .illegal
  else
    s.tileBad core tenant d (d.ranges fmt tiles sof)

/-- What is wrong with an MMA (R298 to R300). -/
def State.mmaBad (s : State) (core tenant fmt : Nat) (a b dd : DWord) : Option Bad :=
  if mmaShapeBad fmt dd then some .illegal
  else
    let tiles := bits dd.toNat 15 0 / 32
    let da := Desc.ofWord a
    let db := Desc.ofWord b
    let sa := bits dd.toNat 43 32
    let sb := bits dd.toNat 55 44
    let overlap := decide (da.kind = 2 ∧ db.kind = 2) &&
      (da.registers fmt tiles sa).any fun c => (db.registers fmt tiles sb).contains c
    match s.operandBad core tenant fmt tiles sa da, s.operandBad core tenant fmt tiles sb db with
    | some .illegal, _ => some .illegal
    | _, some .illegal => some .illegal
    | some e, _ => some e
    | none, some e => some e
    | none, none => if overlap then some .illegal else none

/-- The descriptors of an MMA: its operands, or the heads of feed queues; none where an entry is missing. -/
def LaneIn.mmaDescs (x : LaneIn) (s : State) (f : FormW) : Option DWord × Option DWord :=
  let core := coreOf x.key
  (if f.b = 0xD8 then s.feedHead core x.f.tenant false else some x.b,
    if f.c = 0xD8 then s.feedHead core x.f.tenant true else some x.c)

/-- The entries that an MMA takes leave their queues. -/
def State.takeFeeds (s : State) (core tenant : Nat) (f : FormW) : State :=
  let s := if f.b = 0xD8 then s.takeFeed core tenant false else s
  if f.c = 0xD8 then s.takeFeed core tenant true else s

/-- The context, mask and format of a W form of the matrix engine. -/
def mtxCtx (f : FormW) : Nat := fld f.mod 4 2

/-- The granules of the pitch that a tile's ranges touch (R51, R311). -/
def Desc.granules (d : Desc) (core : Nat) (ranges : List (Nat × Nat)) : List (Nat × Bool × Nat) :=
  match d.kind with
  | 0 =>
    let p := clusterPlace core d.base
    (dedup (ranges.flatMap fun r => granulesOf (p.2 + r.1) r.2)).map fun g => (p.1, false, g)
  | 1 => (dedup (ranges.flatMap fun r => granulesOf (d.base + r.1) r.2)).map fun g => (core, true, g)
  | _ => []

/-- The pitch granules that a command touches. -/
def MtxCommand.granules (core : Nat) : MtxCommand → List (Nat × Bool × Nat)
  | .mma fmt _ a b dd _ _ =>
    let tiles := bits dd.toNat 15 0 / 32
    (Desc.ofWord a).granules core ((Desc.ofWord a).ranges fmt tiles (bits dd.toNat 43 32)) ++
      (Desc.ofWord b).granules core ((Desc.ofWord b).ranges fmt tiles (bits dd.toNat 55 44))
  | .drain fmt mask _ _ _ d | .acc fmt mask _ d => (Desc.ofWord d).granules core (tileRanges fmt mask (.ofWord d))
  | _ => []

/-- Accept a command into its context's queue, counted for a fibre (R295), the pitch granules that it touches on record. -/
def State.accept_ (s : State) (key vf core ctx : Nat) (cmd : MtxCommand) : Nat × State :=
  let r := s.startEngine key vf 2 [] (.mtx ctx cmd) [] []
  (r.1, (r.2.pin r.1 (cmd.granules core)).modContext core ctx fun c => { c with queue := c.queue ++ [r.1] })

/-- An entry of kind 2 that an MMA would take from a feed queue (R301): whether it is of the B queue. -/
def LaneIn.badFeed (x : LaneIn) (s : State) (f : FormW) : Option Bool :=
  match x.mmaDescs s f with
  | (some a, some b) =>
    if f.b = 0xD8 ∧ (Desc.ofWord a).kind = 2 then some false
    else if f.c = 0xD8 ∧ (Desc.ofWord b).kind = 2 then some true
    else none
  | _ => none

/-- An entry of kind 2 performs ILLEGAL at the MMA that takes it, and is discarded (R301). -/
def LaneIn.feedIllegal (x : LaneIn) (s : State) (second : Bool) : LaneRes :=
  .effectIn (s.takeFeed (coreOf x.key) x.f.tenant second) (effectOf x.own 12 0 0)

/-- What keeps a lane from an MMA whatever its tiles are (R147, R295, R301): a pending fault first; then a feed queue without an
entry, or an entry of kind 2. -/
def LaneIn.feedStop (x : LaneIn) (s : State) (f : FormW) : Option LaneRes :=
  match x.faultFirst, x.badFeed s f, x.mmaDescs s f with
  | some r, _, _ => some r
  | none, some second, _ => some (x.feedIllegal s second)
  | none, none, (none, _) => some (.park (.register (.feed false)))
  | none, none, (_, none) => some (.park (.register (.feed true)))
  | none, none, _ => none

/-- Issue an MMA (R295, R301, R302), its rows of kind 2 already read. -/
def LaneIn.issueMma (x : LaneIn) (s : State) (f : FormW) (rowsA rowsB : List (Nat × List Word × List Word)) : LaneRes :=
  let core := coreOf x.key
  let fmt := fld f.mod 0 4
  let ctx := mtxCtx f
  match x.feedStop s f, x.mmaDescs s f with
  | some r, _ => r
  | none, (some a, some b) =>
    match s.mmaBad core x.f.tenant fmt a b x.d with
    | some e => x.badTile e
    | none =>
      match x.mtxStop s ctx true true with
      | some r => r
      | none =>
        .next ((s.takeFeeds core x.f.tenant f).accept_ x.key x.f.tenant core ctx
          (.mma fmt (fld f.sub 0 4) a b x.d rowsA rowsB)).2
  | none, _ => .next s

/-- A lane's MMA has an operand in registers (R300). -/
def LaneIn.fromRegisters (x : LaneIn) (f : FormW) : Bool :=
  (decide (f.b ≠ 0xD8) && decide (bits x.b.toNat 63 60 = 2)) || (decide (f.c ≠ 0xD8) && decide (bits x.c.toNat 63 60 = 2))

/-- The operands of kind 2 of a lane: whether A and B are, and their registers. -/
def LaneIn.tileRegs (x : LaneIn) (f : FormW) (second : Bool) : Option (List Nat × List Nat) :=
  let fmt := fld f.mod 0 4
  let d := Desc.ofWord (if second then x.c else x.b)
  let tiles := bits x.d.toNat 15 0 / 32
  let sof := if second then bits x.d.toNat 55 44 else bits x.d.toNat 43 32
  if d.kind = 2 ∧ (if second then f.c else f.b) ≠ 0xD8 then
    some (upto d.base (tiles * matBits fmt), if scaled fmt then upto sof ((tiles + 1) / 2) else [])
  else none

/-- The members of a convened gang among the lanes that issue, those that have not stopped. -/
def State.membersHere (s : State) (rs : List ReadLane) (id : Nat) : List ReadLane :=
  rs.filter fun r =>
    match r.read, s.fibres.find r.key with
    | .stopped _, _ => false
    | _, some h => decide (h.conv = some id)
    | _, none => false

/-- The lowest active member of a convened gang whose members all issue (R300): none where one of them is not here, or none
of them is active. -/
def State.mmaLead (s : State) (rs : List ReadLane) (id : Nat) (g : Convened) : Option LaneIn :=
  if (s.membersHere rs id).length < g.members.length then none else (crossIn g (s.membersHere rs id)).lanes.head?.map Prod.snd

/-- The checks of a member of an MMA rendezvous (R300): its own pending fault first; then, where every member is there, those of
the operands that it takes from the lowest active member, and every register of its row there. What a feed queue lacks, or
holds of kind 2, shows when the command is issued. -/
def mmaCheck (f : FormW) (s : State) (rs : List ReadLane) (x : LaneIn) : Option LaneRes :=
  match x.faultFirst, (s.gangConvened x.f).bind fun g => s.mmaLead rs g.1 g.2 with
  | some r, _ => some r
  | none, none => none
  | none, some y =>
    if (y.badFeed s f).isSome then none
    else
      match y.mmaDescs s f with
      | (some a, some b) =>
        match s.mmaBad (coreOf x.key) x.f.tenant (fld f.mod 0 4) a b y.d with
        | some e => some (x.badTile e)
        | none =>
          let codes := [y.tileRegs f false, y.tileRegs f true].flatMap fun r =>
            match r with | some (p, q) => p ++ q | none => []
          let ops := codes.map fun c =>
            ({ code := BitVec.ofNat 8 c, t := false, l := false, slot := .src false } : Operand)
          s.sourceStop x.key x.f x.own ops
      | _ => none

/-- The rows that the members supply for one operand (R300). -/
def memberRows (s : State) (v : CrossIn) (regs : Option (List Nat × List Nat)) : List (Nat × List Word × List Word) :=
  match regs with
  | none => []
  | some (p, q) =>
    let read := fun (x : LaneIn) (c : Nat) => (s.cell (x.f.gLoc c)).val
    v.lanes.map fun l => (l.1, p.map (read l.2), q.map (read l.2))

/-- Count a command for the other members of a gang (R300). -/
def State.countAll (s : State) (id first : Nat) (keys : List Nat) : State :=
  (keys.filter fun k => decide (k ≠ first)).foldl (fun s k => s.modFibre k fun f =>
    let c : Counted := { cls := 2, op := id, num := f.issued.get 2 0, done := false, stopped := none }
    { f with counted := f.counted ++ [c], issued := f.issued.put 2 (f.issued.get 2 0 + 1) }) s

/-- The rendezvous of an MMA from registers (R300): the lowest active member issues the command, which every member counts;
where it must wait, the others wait at the rendezvous; where it takes a feed entry of kind 2, all perform ILLEGAL (R301). -/
def mmaMember (f : FormW) (pre s : State) (v : CrossIn) (lane : Nat) (x : LaneIn) : LaneRes :=
  match v.lanes with
  | [] => .next s
  | (first, y) :: _ =>
    let ctx := mtxCtx f
    if (y.badFeed pre f).isSome then (if lane = first then x.feedIllegal s ((y.badFeed pre f).getD false) else x.illegal)
    else if lane = first then
      let room := match (s.gangConvened x.f).map fun g => g.2.members.map fun m => fibreKey g.2.core m.2 with
        | some keys => keys.all fun k =>
            match s.fibres.find k with | some h => decide (h.counter 2 < 255) | none => true
        | none => true
      if room = false then .park (.counter (.room 2))
      else
        let id := s.nextId
        match x.issueMma s f (memberRows s v (x.tileRegs f false)) (memberRows s v (x.tileRegs f true)) with
        | .next t =>
          match s.gangConvened x.f with
          | some (_, g) => .next (t.countAll id x.key (g.members.map fun m => fibreKey g.core m.2))
          | none => .next t
        | r => r
    else if (s.context (coreOf x.key) ctx).poison then .effect (poisonEffect x.own ctx)
    else
      match s.fibres.find y.key with
      | some h => if h.state = .issuing then .next s else .park (.barrier .crossLane)
      | none => .next s

/-- An MMA is a rendezvous of a convened gang of width 64 (R300): one of its lanes has an operand in registers, or a member waits
at it. A member whose guard is false takes part then (R158). One that arrives while nothing says so goes on (DESIGN CHOICE,
assumption 85). -/
def mmaMeets (f : FormW) (s : State) (rs : List ReadLane) (id : Nat) : Bool :=
  match s.convened.find id with
  | none => false
  | some g =>
    decide (g.width = 64) && ((s.membersHere rs id).any (fun r => match r.read with
      | .ready x _ => x.fromRegisters f
      | _ => false) ||
      match rs with
      | r :: _ => decide ((s.atRendezvous g) ≠ []) && decide (s.crossConflicts g r.own = [])
      | [] => false)

/-- A lane takes part in an MMA's rendezvous (R300). -/
def mmaJoins (f : FormW) (s : State) (rs : List ReadLane) (x : LaneIn) : Bool :=
  match x.f.conv with
  | some id => mmaMeets f s rs id
  | none => false

/-- An MMA outside a rendezvous: a pending fault comes before the ILLEGAL of an operand in registers (R295, R300). -/
def LaneIn.mmaAlone (x : LaneIn) (f : FormW) (s : State) : LaneRes :=
  if x.fromRegisters f then x.faultFirst.getD x.illegal else x.issueMma s f [] []

/-- MMA (R295 to R302). -/
def execMma (f : FormW) (s : State) : Host.Outcome State Fault Refusal :=
  s.cross (.mma f) (s.contextPriv (mtxCtx f))
    { codes := [], joins := mmaJoins f, joinsFalse := mmaMeets f, alone := fun x s => x.mmaAlone f s,
      check := mmaCheck f, result := mmaMember f }

/-- MZERO (R303). -/
def execMzero (f : FormQI) (s : State) : Host.Outcome State Fault Refusal :=
  s.lanes (.mzero f) (s.contextPriv (fld f.imm 0 2)) fun x s =>
    match x.mtxStop s (fld f.imm 0 2) false false with
    | some r => r
    | none =>
      .next (s.accept_ x.key x.f.tenant (coreOf x.key) (fld f.imm 0 2) (.zero (fld f.imm 2 4))).2

/-- The limits of a drain destination (R304). -/
def tileShapeBad (fmt : Nat) (d : Desc) : Bool :=
  decide (d.rot ≠ 0 ∨ d.rp * 16 < 4 * blockRow fmt) || (!scaled fmt && decide (d.tp ≠ 0))

/-- What is wrong with the tile of an MDRAIN or MACC (R304, R305). -/
def State.drainBad (s : State) (core tenant fmt mask : Nat) (d : Desc) (weight : Bool) : Option Bad :=
  if tileShapeBad fmt d ∨ 1 < d.kind ∨ (d.kind = 1 ∧ weight = false) then some .illegal
  else s.tileBad core tenant d (tileRanges fmt mask d)

/-- SEED after `n` roundings. -/
def seedAfter (seed : Word) : Nat → Word
  | 0 => seed
  | n + 1 => seedAfter (advanceSeed seed) n

/-- The elements of the named quarters. -/
def maskCount (mask : Nat) : Nat := 4096 * ((List.range 4).filter fun q => bits mask q q = 1).length

/-- MDRAIN (R304). In .rsr the fibre's SEED is taken, and advanced once for each element, at issue (DESIGN CHOICE, assumption 83). -/
def execMdrain (f : FormW) (s : State) : Host.Outcome State Fault Refusal :=
  s.lanes (.mdrain f) (s.contextPriv (mtxCtx f)) fun x s =>
    let fmt := fld f.mod 0 4
    let mask := fld f.sub 0 4
    let mode := f.a.toNat
    match s.drainBad (coreOf x.key) x.f.tenant fmt mask (.ofWord x.b) false with
    | some e => x.badTile e
    | none =>
      match x.mtxStop s (mtxCtx f) false true with
      | some r => r
      | none =>
        let cmd : MtxCommand := .drain fmt mask mode x.f.seed.toNat (bit f.sub 4) x.b
        let s := (s.accept_ x.key x.f.tenant (coreOf x.key) (mtxCtx f) cmd).2
        .next (if mode = 4 then
            s.modFibre x.key fun g => { g with fsr := withSeed g.fsr (seedAfter g.seed (maskCount mask)) }
          else s)

/-- MACC (R305). -/
def execMacc (f : FormW) (s : State) : Host.Outcome State Fault Refusal :=
  s.lanes (.macc f) (s.contextPriv (mtxCtx f)) fun x s =>
    let fmt := fld f.mod 0 4
    let mask := fld f.sub 0 4
    match x.faultFirst, s.drainBad (coreOf x.key) x.f.tenant fmt mask (.ofWord x.b) true with
    | some r, _ => r
    | none, some e => x.badTile e
    | none, none =>
      match x.mtxStop s (mtxCtx f) true true with
      | some r => r
      | none =>
        .next (s.accept_ x.key x.f.tenant (coreOf x.key) (mtxCtx f) (.acc fmt mask (bit f.sub 4) x.b)).2

/-- MSTAT (R307): not counted; A is written when the commands before it have completed. -/
def execMstat (f : FormQI) (s : State) : Host.Outcome State Fault Refusal :=
  s.lanes (.mstat f) (s.contextPriv (fld f.imm 0 2)) fun x s =>
    let core := coreOf x.key
    let ctx := fld f.imm 0 2
    if 0xC0 ≤ f.a.toNat then x.illegal
    else if 16 ≤ (s.context core ctx).queue.length then .park (.counter (.context ctx))
    else
      let busy := !(s.context core ctx).queue.isEmpty
      let r := s.reserveAll x [f.a.toNat]
      let id := r.2.nextId
      let t := r.2.fresh.2
      let o : EngineOp :=
        { core := core, fibre := x.key, vf := x.f.tenant, cls := 2, issued := s.gtc, pages := [],
          job := .mtx ctx (.stat (bit f.imm 2) busy r.1), writes := [], release := none, hostWrites := [] }
      let t := { t with engine := t.engine.put id o }
      .checked [f.a.toNat] (.next (t.modContext core ctx fun c => { c with queue := c.queue ++ [id] }))

end Sys2Proof.Machine
end

