-- ==== Sys2Proof/Machine/Sysregs.lean ====
section
/-! DEFINITION. System registers and the clerk's instructions: SRD, SWR, SRET, HALT, KILL, the mailbox and the invalidation
of translations (R51, R52, R87, R119, R154, R312 to R317, R320, R321, R367). -/
namespace Sys2Proof.Machine

/-! ### Reading -/

/-- The 512-bit number of an accumulator element (R111, R312). -/
def Acc.word : Acc → BitVec 512
  | .fin v => BitVec.ofInt 512 v
  | .beyond neg => BitVec.ofInt 512 (if neg then -(2 ^ 511 - 1) else 2 ^ 511 - 1)
  | .nan => BitVec.ofInt 512 (-(2 ^ 511))

/-- A word of the accumulator debug window (R312). -/
def State.debugWord (s : State) (core off : Nat) : DWord :=
  let o := off - 0x400000
  let e := (s.acc.get (core * 4 + o / 0x100000) .reset).elems.get (o % 0x100000 / 64) (.fin 0)
  e.word.extractLsb' (64 * (o % 64 / 8)) 64

/-- A word of a mailbox slot (R315): what was last posted there. -/
def State.mailSlot (s : State) (core off : Nat) : DWord :=
  let o := off - 0x1000
  match (s.unit core).mslots.find (o / 64) with
  | some r => BitVec.ofNat 64 (field r.toBytes (o % 64) 8)
  | none => 0

/-- MBOX_STAT (R315). -/
def State.mboxStat (s : State) (core : Nat) : DWord :=
  let u := s.unit core
  let notice := match u.mailbox with | (_, true) :: _ => 1 | _ => 0
  BitVec.ofNat 64 (notice * 2 ^ 16 + u.head * 256 + u.mailbox.length)

/-- PITCH_VIEW of a fibre (R119): its crew's share; zero for the clerk. -/
def State.pitchView (s : State) (f : Fibre) : DWord :=
  match f.crew.bind s.sched.crews.find with
  | some c => BitVec.ofNat 64 (c.scrBase + c.scrCount * 2 ^ 8 + c.wgtBase * 2 ^ 16 + c.wgtCount * 2 ^ 24)
  | none => 0

/-- Bit 0 of ORD_CFG (R154): the reading fibre runs with FSM. -/
def State.ordCfg (s : State) (core : Nat) (f : Fibre) : DWord :=
  let forced := s.coreF core 0x120 1 1
  BitVec.ofNat 64 (forced * 2 + if f.fsm ∨ forced = 1 then 1 else 0)

/-- The value that SRD returns (R314). An offset that names no register reads as zero. -/
def State.readCore (s : State) (core : Nat) (f : Fibre) (off : Nat) : DWord :=
  if off = 0x108 then
    BitVec.ofNat 64 (setBits (s.coreReg core 0x108) 6 0 (s.unit core).busyStalls.length)
  else if off = 0x118 then s.pitchView f
  else if off = 0x120 then s.ordCfg core f
  else if off = 0x130 then s.mboxStat core
  else if off = 0x150 then BitVec.ofNat 64 (s.mgmtF 0x4008 15 0)
  else if 0x1000 ≤ off ∧ off < 0x1800 then s.mailSlot core off
  else if 0x400000 ≤ off ∧ off < 0x800000 then s.debugWord core off
  else BitVec.ofNat 64 (readValue (coreFields off) (s.coreReg core off))

/-- SRD of an offset is the clerk's alone (R314). -/
def srdClerk (off : Nat) : Bool :=
  decide (off = 0x130 ∨ off = 0x138 ∨ (0x1000 ≤ off ∧ off < 0x1800) ∨ (0x400000 ≤ off ∧ off < 0x800000))

/-- The offsets that the clerk may write (R314). -/
def swrClerk (off : Nat) : Bool := decide (off ∈ [0x100, 0x120, 0x138, 0x140, 0x148, 0x158])

/-- An offset names a register (R314). -/
def coreNamed (off : Nat) : Bool :=
  decide (off ∈ [0x100, 0x108, 0x110, 0x118, 0x120, 0x128, 0x130, 0x138, 0x140, 0x148, 0x150, 0x158] ∨
    (0x1000 ≤ off ∧ off < 0x1800) ∨ (0x400000 ≤ off ∧ off < 0x800000))

/-- The offset that SRD and SWR reach (R314). -/
def sysOffset (imm : BitVec 24) (b : Word) : Nat := (imm.toNat + b.toNat) % 2 ^ 24

/-- SRD, and SRD .wait (R314, R315). -/
def execSrd (f : FormWI) (s : State) : Host.Outcome State Fault Refusal :=
  s.plain (.srd f) fun x s =>
    let core := coreOf x.key
    let off := sysOffset f.imm (loWord x.b)
    let out := LaneRes.outs true (outPair f.a.toNat true (s.readCore core x.f off)) 0 none
    if off % 8 ≠ 0 then x.illegal
    else if f.sub = 1 ∧ off ≠ 0x130 then x.illegal
    else if srdClerk off ∧ isClerk x.key = false then x.priv 0
    else if f.sub = 1 ∧ (s.unit core).mailbox.isEmpty = true then
      .checked [f.a.toNat, f.a.toNat + 1]
        (.waitIn (s.modUnit core fun u => { u with waitSince := s.gtc }) (.register .mailbox))
    else out

/-! ### Writing -/

/-- MBOX_POP: the head record goes (R315). -/
def State.mboxPop (s : State) (core : Nat) : State :=
  s.modUnit core fun u =>
    match u.mailbox with
    | [] => u
    | _ :: rest => { u with mailbox := rest, head := (u.head + 1) % 32 }

/-- The engine operations that hold a translation of a function (R265, R367): of one page, which may be part of a larger one, or
of any. -/
def State.holders (s : State) (vf page : Nat) (all : Bool) : List Nat :=
  (s.engine.select fun _ o =>
    decide (o.vf = vf) && ((o.pages.any fun p => all || decide (p.1 = page)) ||
      o.leaves.any fun l => decide (l.1 ≤ page ∧ page < l.1 + l.2))).map Prod.fst

/-- An invalidation begins for a waiter (R367): a function, or 128 more than a core. Translations are cached by engine
operations alone; those that have ended are forgotten. -/
def State.invalidate (s : State) (waiter vf page : Nat) (all : Bool) : State :=
  let ids := s.holders vf page all
  s.modCoh fun c =>
    { c with translations :=
        (c.translations.filter fun p => (s.engine.find p.2).isSome) ++ ids.map fun i => (waiter, i) }

/-- A waiter's invalidation has not completed. -/
def State.invalidating (s : State) (waiter : Nat) : Bool :=
  s.coh.translations.any fun p => decide (p.1 = waiter) && (s.engine.find p.2).isSome

/-- XLINV_C (R367): the function in [63:57], the page in [47:12], ALL in [0]. -/
def State.writeXlinvC (s : State) (core v : Nat) : State :=
  s.invalidate (128 + core) (bits v 63 57) (bits v 47 12) (decide (bits v 0 0 = 1))

/-- A write of a core system register by its own rules (R8, R52, R314): by SWR or through the PF's window. XLINV_C is the clerk's
alone (R367), and SWR writes it. -/
def State.writeCore (s : State) (core off v : Nat) : State :=
  if off = 0x100 then s.setCoreReg core off (issueCfg (s.coreReg core off) v)
  else if off = 0x138 then s.mboxPop core
  else if off = 0x158 then s
  else if swrClerk off then s.setCoreReg core off (writeValue (coreFields off) (s.coreReg core off) v)
  else s

/-- An offset of a scheduler register of the management window (R69): a write by SWR performs PRIV. -/
def schedulerOffset (off : Nat) : Bool :=
  decide ((0x1E00 ≤ off ∧ off < 0x2810) ∧ mgmtFields off ≠ [])

/-- The clerk's write of XLINV_C (R367): its invalidation begins once, and the clerk waits until it has completed. -/
def State.swrXlinv (s : State) (core v : Nat) : LaneRes :=
  let mine := fun (p : Nat × Nat) => decide (p.1 = 128 + core)
  let clear := fun (s : State) =>
    s.modCoh fun c => { c with translations := c.translations.filter fun p => !mine p }
  let t := if (s.unit core).xlinvBegun then s else (clear s).writeXlinvC core v
  if t.invalidating (128 + core) then
    .waitIn (t.modUnit core fun u => { u with xlinvBegun := true }) (.counter .xlinv)
  else .next ((clear t).modUnit core fun u => { u with xlinvBegun := false })

/-- SWR (R314). -/
def execSwr (f : FormWI) (s : State) : Host.Outcome State Fault Refusal :=
  s.plain (.swr f) fun x s =>
    let core := coreOf x.key
    let off := sysOffset f.imm 0
    if off % 8 ≠ 0 then x.illegal
    else if schedulerOffset off then x.priv 0
    else if coreNamed off = false then x.illegal
    else if swrClerk off = false ∨ isClerk x.key = false then x.priv 0
    else if off = 0x158 then s.swrXlinv core x.b.toNat
    else .next (s.writeCore core off x.b.toNat)

/-- HALT (R320). -/
def execHalt (f : FormQ) (s : State) : Host.Outcome State Fault Refusal :=
  s.lanes (.halt f) (fun key => !isClerk key) fun x s => .next (s.setCoreF (coreOf x.key) 0x148 0 0 1)

/-! ### Events of these registers -/

/-- MBOX_POP (R315). -/
def execMboxPop (core : Nat) (s : State) : Host.Outcome State Fault Refusal := .next (s.mboxPop core)

/-- The LaneIn of a fibre at its own instruction, when it is no longer ISSUING. -/
def State.laneOf (s : State) (key : Nat) (f : Fibre) (parcels : Nat) : LaneIn :=
  let own := s.ownPc f
  { key := key, lane := f.lane, f := f, own := own, next := s.advance f.tenant own parcels, a := 0, b := 0, c := 0,
    d := 0, run := [] }

/-- The clerk's SRD .wait returns with no record after HB_PERIOD ÷ 2 µs (R315): dA receives MBOX_STAT, and the clerk is
filed after the SRD. -/
def State.mboxTimeout (s : State) (core : Nat) : State :=
  let key := fibreKey core 4095
  match s.fibres.find key with
  | none => s
  | some f =>
    if f.state ≠ .parked (.register .mailbox) ∨ s.gtc < (s.unit core).waitSince + s.mgmtF 0x7200 15 0 * 500 then s
    else
      match s.fetch f.tenant (s.ownPc f) with
      | some (.srd g, n) =>
        let x := s.laneOf key f n
        let s := s.writeLong x (outPair g.a.toNat true (s.mboxStat core))
        (s.modFibre key fun f => { f with pc := x.next }).unpark key
      | _ => s

/-- MBOX_WAIT_TIMEOUT (R315). -/
def execMboxWaitTimeout (core : Nat) (s : State) : Host.Outcome State Fault Refusal := .next (s.mboxTimeout core)

/-- HALTED_WRITE (R320): the core grants issue opportunities to its clerk alone while HALTED is 1. -/
def execHaltedWrite (core : Nat) (value : BitVec 64) (s : State) : Host.Outcome State Fault Refusal :=
  .next (s.accepted fun s => s.writeCore core 0x148 value.toNat)

/-- XLINV_C (R367): the write as it acts, without the clerk's wait for it. -/
def execXlinvC (core : Nat) (value : BitVec 64) (s : State) : Host.Outcome State Fault Refusal :=
  .next (s.writeXlinvC core value.toNat)

/-! ### SRET (R87, R317) -/

/-- The SUSPENDED fibre of a core that a handle answers. -/
def State.suspendedBy (s : State) (core : Nat) (h : DWord) : Option (Nat × Fibre) :=
  s.fibres.first fun k f => decide (coreOf k = core) && decide (f.state = .suspended) && decide (f.kh = some h)

/-- The K slot and header of a suspended fibre. -/
def State.kOf (s : State) (f : Fibre) (h : DWord) : Option (Nat × KObject) :=
  (s.kSlotAt f.tenant (h.toNat % 2 ^ 48)).bind fun slot => (s.kobjs.find (kKey f.tenant slot)).map fun k => (slot, k)

/-- A RESUME reply (R84, R87, R317): the fibre's first access after it is ordered as after ACQ.pkg. A check that fails is
performed by the fibre. -/
def State.replyResume (s : State) (core key : Nat) (f : Fibre) (h v : DWord) (wide : Bool) : State :=
  match s.checkHandle f.tenant h with
  | .error tag => s.perform key (f.effectAt tag 0 0)
  | .ok (slot, k) =>
    match s.resumeRefused f.tenant k with
    | some (tag, info) => s.perform key (f.effectAt tag 0 info)
    | none => (s.dropLeases core).continueK key slot k v wide false 0

/-- A RELEASE reply (R87): the fibre retires, and its continuation stays live in no crew. -/
def State.replyRelease (s : State) (key : Nat) (f : Fibre) (h : DWord) : State :=
  match s.kOf f h with
  | none => s
  | some (slot, k) =>
    State.retire { s with kobjs := s.kobjs.put (kKey f.tenant slot) { k with crew := 0xFFFFFFFF } } key false

/-- A reply to a suspended fibre (R87). A crew that it kills carries the tag of the effect that was posted (R381). -/
def State.reply (s : State) (core key : Nat) (f : Fibre) (h : DWord) (code : Nat) (v : DWord) (wide : Bool) : State :=
  match code with
  | 0 => s.replyResume core key f h v wide
  | 1 => s.killOne key
  | 3 => s.replyRelease key f h
  | _ =>
    match f.crew with
    | some c => s.killCrew c f.postedTag
    | none => s.killNow key

/-- SRET (R317): a REL.pkg by the clerk, then the reply. One that answers no suspended fibre is ignored. -/
def execSret (f : FormW) (s : State) : Host.Outcome State Fault Refusal :=
  s.lanes (.sret f) (fun key => !isClerk key) fun x s =>
    let core := coreOf x.key
    if f.b.toNat = 0xD8 then x.illegal
    else if x.f.pending.isEmpty = false then .effect (x.f.pageFault x.own)
    else
      let id := s.nextId
      let t := s.fresh.2
      let r := t.fencePart core x.f.tenant 4 (x.ordOp t .flush 0 0 0 4 0 0)
      if r.2.writesPending r.1.writes then .waitIn (r.2.setOrd id r.1) (.address id)
      else
        match s.suspendedBy core x.b with
        | some (key, g) => .next (r.2.reply core key g x.b (loWord x.c).toNat x.d (bit f.mod 0))
        | none => .next r.2

/-! ### KILL (R51, R321) -/

/-- A crew is killed by KILL: it is never relaunched, and a deadline may bound the kill (R51, R321). -/
def State.killByOrder (s : State) (crew deadline : Nat) : State :=
  let by_ := if deadline = 0 then none else some (s.gtc + deadline * 1000)
  (s.modCrew crew fun k => { k with noRelaunch := true, deadline := by_.or k.deadline }).killCrew crew 0x10000

/-- KILL (R321): A is written before the kill takes effect. -/
def execKill (f : FormW) (s : State) : Host.Outcome State Fault Refusal :=
  s.plain (.kill f) fun x s =>
    let target := (loWord x.b).toNat
    let key := fibreKey (coreOf x.key) target
    let out := fun (v : Word) => LaneRes.outs true [(f.a.toNat, v)] 0 none
    let found := s.fibres.find key
    let mine := match found with | some g => decide (g.crew = x.f.crew) | none => false
    if 4095 ≤ target then x.illegal
    else if isClerk x.key = false ∧ mine = false then x.priv 0
    else
      match found with
      | none => out 1
      | some g =>
        if g.counts = false then out 2
        else
          let t := (s.noteWrite x f.a.toNat).writeCode x.key f.a.toNat 0
          let t := match f.sub.toNat, g.crew with
            | 1, some c => t.killByOrder c (loWord x.c).toNat
            | _, _ => t.killOne key
          .checked [f.a.toNat] (.next t)

/-- A kill that was ordered with a deadline takes effect now, in any state (R51). -/
def State.deadlineKill (s : State) (crew : Nat) : State :=
  match s.sched.crews.find crew with
  | none => s
  | some k =>
    match k.deadline with
    | none => s
    | some d =>
      if s.gtc < d ∨ k.killCause.isNone then s
      else (((s.crewFibres crew).foldl (fun s p => s.killNow p.1) s).endRuns s).endCrew crew

/-- KILL_DEADLINE (R51). -/
def execKillDeadline (crew : Nat) (s : State) : Host.Outcome State Fault Refusal := .next (s.deadlineKill crew)

end Sys2Proof.Machine
end

