-- ==== Sys2Proof/Machine/Codex.lean ====
section
/-! DEFINITION. CODEX and IFENCE: the code table, the validation of images, the sealing of text, patches and twins (R135,
R157, R178, R192 to R204, R318, R319). -/
namespace Sys2Proof.Machine

/-! ### Reading a text (R155, R157, R178) -/

/-- The parcels of an instruction, by L of parcel 0; one for the reserved L. -/
def lengthOf (p : Word) : Nat := (parcelCount p).getD 1

/-- The indices of the parcels 0 of a text, read in sequence (R155); `skip` parcels belong to an instruction already
begun. -/
def startsOf : List Word → Nat → Nat → List Nat
  | [], _, _ => []
  | p :: rest, 0, i => i :: startsOf rest (lengthOf p - 1) (i + 1)
  | _ :: rest, k + 1, i => startsOf rest k (i + 1)

/-- The instruction at a parcel of a text; none where the parcels make none (R182). -/
def instrAt (ps : List Word) (i : Nat) : Option Instr :=
  match decodeList (ps.drop i) with
  | .ok r => some r.1
  | .error _ => none

/-- RB of a parcel 0 (R156). -/
def markOf (ps : List Word) (i : Nat) : Nat := bits (ps.getD i 0).toNat 3 2

/-- The distance of a direct branch in parcels (R207, R208). -/
def directBranch : Instr → Option Int
  | .braQb f => some f.off.toInt
  | .braWi f => some f.imm.toInt
  | .call f => some f.imm.toInt
  | _ => none

/-- The parcel index that a direct branch at a parcel reaches. -/
def branchTarget (ps : List Word) (i : Nat) : Option Int :=
  ((instrAt ps i).bind directBranch).map fun k => (i : Int) + k

/-- Every direct branch and every entry offset names a parcel 0 within the text (R199: TARGET). -/
def targetsOk (ps : List Word) (starts entries : List Nat) : Bool :=
  (starts.all fun i =>
    match branchTarget ps i with
    | some t => decide (0 ≤ t) && starts.contains t.toNat
    | none => true) &&
  entries.all fun e => decide (e % 4 = 0) && starts.contains (e / 4)

/-- A run ends at an instruction: by its mark or by its kind (R38, R157). -/
def runEndsAt (ps : List Word) (i : Nat) : Bool :=
  decide (markOf ps i ≠ 0) || match instrAt ps i with | some k => endsRun k | none => false

/-- No run of cured text is longer than 24 instructions, and no control transfer lacks its mark (R199: RUN); `n`
instructions of the run lie before. -/
def runsOk (ps : List Word) (n : Nat) : List Nat → Bool
  | [] => true
  | i :: rest =>
    if markOf ps i ≠ 0 then decide (n < 24) && runsOk ps 0 rest
    else decide (n < 24) && (match instrAt ps i with | some k => !endsRun k | none => true) && runsOk ps (n + 1) rest

/-- The register codes of an operand that the bank rule counts: of a range of QPACK or QUNPK only the first (R178, R246,
R247). -/
def bankCodes (o : Operand) : List Nat := match o.slot with | .srcs _ => [o.code.toNat] | _ => readCodes o

/-- The g sources of an instruction, each register once (R178). -/
def gSources (i : Instr) : List Nat :=
  match i.form with
  | none => []
  | some f => dedup (([f.a, f.b, f.c, f.d].flatMap bankCodes).filter fun c => decide (c < 0x80))

/-- At most two g sources of an instruction lie in one bank (R178). -/
def banksOk (i : Instr) : Bool :=
  (List.range 4).all fun b => decide (((gSources i).filter fun c => decide (c % 4 = b)).length ≤ 2)

/-- A cured text keeps the bank rule (R199: BANK). -/
def bankOk (ps : List Word) (starts : List Nat) : Bool :=
  starts.all fun i => match instrAt ps i with | some k => banksOk k | none => true

/-- The parcel after an instruction. -/
def afterAt (ps : List Word) (i : Nat) : Nat := i + lengthOf (ps.getD i 0)

/-- The parcel after the 24th instruction of a run that starts at a parcel, where no mark ends it before (R38). -/
def fullRun (ps : List Word) (i : Nat) : Nat → Option Nat
  | 0 => some i
  | n + 1 => if runEndsAt ps i then none else fullRun ps (afterAt ps i) n

/-- Add the run starts that follow a full run, in rising order of their places. -/
def closeStarts (ps : List Word) (set : List Nat) : List Nat → List Nat
  | [] => set
  | i :: rest =>
    if set.contains i then
      match fullRun ps i 24 with
      | some j => closeStarts ps (j :: set) rest
      | none => closeStarts ps set rest
    else closeStarts ps set rest

/-- The run starts of an uncured text (R204): entries, targets of direct branches, what follows the end of a run. A safe
point's PC is the start of the next run. -/
def runStarts (ps : List Word) (starts entries : List Nat) : List Nat :=
  let targets := starts.filterMap fun i => (branchTarget ps i).map Int.toNat
  let after := (starts.filter (runEndsAt ps)).map (afterAt ps)
  let set := closeStarts ps (dedup ((entries.map fun e => e / 4) ++ targets ++ after)) starts
  starts.filter set.contains

/-! ### Images (R192) -/

/-- The parts of an image that CODEX uses. -/
structure Image where
  model : Nat
  gwmask : Nat
  oflags : Nat
  frameW : Nat
  feat : Word
  text : List Byte
  const : List Byte
  reloc : List Byte
  entries : List Nat
  data : Nat
  spmap : List Byte
  origin : List Byte
  deriving DecidableEq, Repr

/-- A list of numbers of `n` bytes each. -/
def numbers (b : List Byte) (n : Nat) : List Nat := (List.range (b.length / n)).map fun i => field b (n * i) n

/-- The section table (R192): kind, offset, length and the reserved word of each entry. -/
def sectionTable (b : List Byte) (n : Nat) : List (Nat × Nat × Nat × Nat) :=
  (List.range n).map fun i =>
    (field b (64 + 16 * i) 4, field b (68 + 16 * i) 4, field b (72 + 16 * i) 4, field b (76 + 16 * i) 4)

/-- The bytes of a section; none where it is missing. -/
def sectionOf (b : List Byte) (t : List (Nat × Nat × Nat × Nat)) (kind : Nat) : List Byte :=
  match t.find? fun e => decide (e.1 = kind) with
  | some e => (b.drop e.2.1).take e.2.2.1
  | none => []

/-- An image breaks the form of R192 (R199: FORMAT). A section that passes the image's end, and a kind of no section, are
refused with it (assumption 14); an entry of LENGTH 0 is a missing section, wherever it points (R192). -/
def formatBad (b : List Byte) : Bool :=
  let n := field b 10 2
  let t := sectionTable b n
  let kinds := t.map Prod.fst
  let len := fun k => (sectionOf b t k).length
  decide (b.length < 64 ∨ field b 0 4 ≠ 0x544C5247 ∨ field b 4 1 ≠ 1 ∨ n < 2 ∨ 8 < n ∨ b.length < 64 + 16 * n) ||
    decide (8 ≤ field b 6 1 ∨ 4 ≤ field b 7 1 ∨ field b 16 48 ≠ 0) ||
    decide ((dedup kinds).length ≠ n) || (kinds.any fun k => decide (k = 0 ∨ 8 < k)) ||
    (t.any fun e => decide (e.2.2.2 ≠ 0 ∨ (e.2.2.1 ≠ 0 ∧ b.length < e.2.1 + e.2.2.1))) ||
    decide (len 1 = 0 ∨ len 1 % 4 ≠ 0 ∨ len 4 = 0 ∨ len 4 % 4 ≠ 0 ∨ 4 * 65536 < len 4)

/-- The parts of an image. -/
def imageOf (b : List Byte) : Image :=
  let t := sectionTable b (field b 10 2)
  { model := field b 5 1, gwmask := field b 6 1, oflags := field b 7 1, frameW := field b 8 2,
    feat := BitVec.ofNat 32 (field b 12 4), text := sectionOf b t 1, const := sectionOf b t 2, reloc := sectionOf b t 3,
    entries := numbers (sectionOf b t 4) 4, data := (sectionOf b t 5).length, spmap := sectionOf b t 7,
    origin := sectionOf b t 8 }

/-- FRAMEW or GWMASK out of range (R199: SHAPE). -/
def Image.shapeBad (m : Image) : Bool :=
  decide (m.frameW < 128 ∨ 248 < m.frameW ∨ m.frameW % 8 ≠ 0 ∨ m.gwmask % 8 = 0)

/-- Bytes that a relocation type writes (R197). -/
def relocWidth (type : Nat) : Nat := if type < 2 then 8 else 4

/-- A relocation entry that is refused (R197); `starts` are the parcels 0 of TEXT. DESIGN CHOICE: its reserved bytes read as zero
(R9); they are not among the reserved bits that R199 refuses with FORMAT, which are the header's and the section table's
(assumption 61). -/
def Image.relocBad (m : Image) (ps : List Word) (starts : List Nat) (e : List Byte) : Bool :=
  let off := field e 0 4
  let sec := field e 4 1
  let type := field e 5 1
  let size := match sec with | 1 => m.text.length | 2 => m.const.length | _ => m.data
  let third := decide (off % 4 = 0 ∧ 8 ≤ off) && starts.contains (off / 4 - 2) &&
    decide ((ps.getD (off / 4 - 2) 0).toNat % 4 = 2)
  decide (4 < type ∨ sec ∉ [1, 2, 5] ∨ size < off + relocWidth type) ||
    (decide (sec = 1) && (decide (type < 2) || !third))

/-- The entries of RELOC, 16 bytes each. -/
def chunks16 (b : List Byte) : List (List Byte) := (List.range (ceilDiv b.length 16)).map fun i => (b.drop (16 * i)).take 16

/-- RELOC is refused (R199: RELOC): an entry is refused, or cut off. -/
def Image.relocsBad (m : Image) (ps : List Word) (starts : List Nat) : Bool :=
  (chunks16 m.reloc).any fun e => decide (e.length ≠ 16) || m.relocBad ps starts e

/-- The first of some statuses whose cause applies. -/
def firstStatus : List (Nat × Bool) → Nat
  | [] => 0
  | (c, b) :: rest => if b then c else firstStatus rest

/-- The status of R199 for a text of an object: TARGET, RUN and BANK, the last two of cured text alone. -/
def textStatus (ps : List Word) (entries : List Nat) (cured : Bool) : List (Nat × Bool) :=
  let starts := startsOf ps 0 0
  [(6, !targetsOk ps starts entries), (4, cured && !runsOk ps 0 starts), (5, cured && !bankOk ps starts)]

/-- The checks of R199 that an image of SEAL or SWAP shares, in their order. -/
def imageStatus (b : List Byte) (cured : Image → Bool) : List (Nat × Bool) :=
  let m := imageOf b
  let ps := parcelsOf m.text
  if formatBad b then [(1, true)]
  else
    [(2, decide (1 < m.model)), (3, decide (missingFeatures m.feat ≠ 0)), (10, m.shapeBad),
      (7, m.relocsBad ps (startsOf ps 0 0))] ++ textStatus ps m.entries (cured m)

/-- The SPMAP as pairs. -/
def spPairs (b : List Byte) : List (Nat × Nat) :=
  (List.range (b.length / 8)).map fun i => (field b (8 * i) 4, field b (8 * i + 4) 4)

/-- An instruction is a NOP. -/
def isNop : Instr → Bool
  | .nopQ _ | .nopW _ | .nopX _ _ => true
  | _ => false

/-- An instruction of a text is a NOP. -/
def nopAt (ps : List Word) (k : Nat) : Bool := match instrAt ps k with | some m => isNop m | none => false

/-- An added NOP has the origin of the instruction after it (R204). One that has not must be a NOP of the old text, and of these
each may stand once: `used` holds the origins that have. -/
def nopsOk (old ps : List Word) (or_ used : List Nat) : List Nat → Bool
  | [] => true
  | i :: rest =>
    let o := or_.getD i 0
    let stands := nopAt ps i && match rest with | j :: _ => decide (o ≠ or_.getD j 0) | [] => true
    (!stands || (nopAt old (o / 4) && !used.contains o)) && nopsOk old ps or_ (if stands then o :: used else used) rest

/-- The SPMAP and ORIGIN of a twin keep R204, with `old` the canonical text and `ps` the twin. -/
def mapOk (old ps : List Word) (entries : List Nat) (m : Image) : Bool :=
  let sp := spPairs m.spmap
  let or_ := numbers m.origin 4
  let oldStarts := startsOf old 0 0
  let starts := startsOf ps 0 0
  decide (m.spmap.length % 8 = 0) && decide (sp.map Prod.fst = (runStarts old oldStarts entries).map fun i => 4 * i) &&
    (sp.all fun p => decide (p.2 % 4 = 0) && starts.contains (p.2 / 4)) &&
    decide (m.origin.length = 4 * ps.length) && nopsOk old ps or_ [] starts &&
    (List.range ps.length).all fun i =>
      let o := or_.getD i 0
      if starts.contains i then decide (o % 4 = 0) && oldStarts.contains (o / 4) else decide (o = 0xFFFFFFFF)

/-! ### Places of sealed bytes -/

/-- The lines of a range of device memory. -/
def linesOf (a n : Nat) : List Nat := (List.range (ceilDiv n 64)).map fun i => a + 64 * i

/-- `n` bytes can be placed: device memory, whole lines, none of them sealed. -/
def State.roomAt (s : State) (place n : Nat) : Bool :=
  decide (place % 64 = 0) && decide (place + n ≤ 2 ^ 39) && (linesOf place n).all fun l => !s.isSealed l

/-- The lines of a range of device memory can be sealed now: no write to them waits at its home, which R127 applies before (R135). -/
def State.quietAt (s : State) (place n : Nat) : Bool := (linesOf place n).all fun l => (s.home l).waiting.isEmpty

/-- No place has room for `n` bytes (R199: FULL): neither the start of memory nor the line after a sealed one. -/
def State.noRoom (s : State) (n : Nat) : Bool :=
  !((0 :: s.store.sealedLines.map fun l => l + 64).any fun p => s.roomAt p n)

/-- Copies of some lines leave every cache (R200). -/
def State.forgetLines (s : State) (lines : List Nat) : State :=
  s.modCoh fun c =>
    { c with l1 := c.l1.select fun k _ => !lines.contains (k % 2 ^ 58),
             l2 := c.l2.select fun k _ => !lines.contains (k % 2 ^ 58) }

/-- Write sealed bytes. -/
def State.putSealed (s : State) (place : Nat) (data : List Byte) : State :=
  (s.modStore fun m => { m with phys := m.phys.writeBytes place data }).forgetLines (linesOf (lineOf place) (data.length + 64))

/-- Seal lines, whose poison goes with their writing (R135, R136). -/
def State.sealLines (s : State) (lines : List Nat) : State :=
  s.modStore fun m =>
    { m with sealedLines := lines ++ m.sealedLines, poisoned := m.poisoned.filter fun x => !lines.contains x }

/-- Unseal lines. -/
def State.unseal (s : State) (lines : List Nat) : State :=
  s.modStore fun m => { m with sealedLines := m.sealedLines.filter fun x => !lines.contains x }

/-- Bytes rounded up to whole lines. -/
def lineCeil (n : Nat) : Nat := ceilDiv n 64 * 64

/-- The lines of an entry's text and constants. -/
def CodeEntry.ownLines (e : CodeEntry) : List Nat := linesOf e.text e.tlen ++ linesOf e.const e.klen

/-- The lines of a twin, with its SPMAP and ORIGIN. -/
def OldTwin.lines (t : OldTwin) : List Nat := linesOf t.ctext t.clen ++ linesOf t.map (lineCeil (8 * t.pairs) + 4 * t.origin.length)

/-- The lines of an entry's twin. -/
def CodeEntry.twinLines (e : CodeEntry) : List Nat := if e.twin then e.current.lines else []

/-! ### Entries -/

/-- A code-table entry that has never been used: GEN starts at 1 (R195). -/
def CodeEntry.blank : CodeEntry :=
  { reserved := false, valid := false, text := 0, tlen := 0, clen := 0, ctext := 0, const := 0, klen := 0,
    entries := [], frameW := 0, gwmask := 0, model := 0, twin := false, cured := false, spmap := [], origin := [],
    map := 0, feat := 0, gen := 1, twinGen := 0 }

/-- An entry of a function's code table. -/
def State.entryAt (s : State) (vf i : Nat) : CodeEntry := s.code.get (codeKey vf i) .blank

/-- Set an entry. -/
def State.setEntry (s : State) (vf i : Nat) (e : CodeEntry) : State := { s with code := s.code.put (codeKey vf i) e }

/-- An entry may be reserved (R194, R198): entry 0 never. -/
def State.entryFree (s : State) (vf i : Nat) : Bool :=
  decide (0 < i ∧ i < 4096) && !(s.entryAt vf i).reserved && !(s.entryAt vf i).valid

/-- The entry that a handle names by index and generation. -/
def State.namedEntry (s : State) (vf handle : Nat) : Option CodeEntry :=
  let i := handle / 4096
  let e := s.entryAt vf i
  if vf < 128 ∧ 0 < i ∧ i < 4096 ∧ e.gen = handle % 4096 then some e else none

/-- The runs of a generation of an entry's twin that gangs are in (R201): gang and place of the run's start. -/
def State.runsOf (s : State) (vf i gen : Nat) : List (Nat × Nat) :=
  (s.gangs.filter fun p =>
    decide (p.2.tenant = vf) && decide (handleIndex p.2.runStart.handle = i) &&
      p.2.leaving.isNone && match p.2.runStart.twin with | some (_, g) => decide (g = gen) | none => false).map
    fun p => (p.1, p.2.pos - p.2.runLen)

/-- The runs that gangs are in of the twin that is installed. -/
def State.twinRuns (s : State) (vf i : Nat) (e : CodeEntry) : List (Nat × Nat) := if e.twin then s.runsOf vf i e.twinGen else []

/-- A gang is still in a run: it is no more in one that has ended, while it waits to leave its lanes (R43). -/
def State.inRun (s : State) (r : Nat × Nat) : Bool :=
  match s.gangs.find r.1 with | some g => decide (g.pos - g.runLen = r.2) && g.leaving.isNone | none => false

/-- The twins that gangs still finish a run in, with the one installed where it goes while `busy` (R201). -/
def CodeEntry.kept (e : CodeEntry) (busy : Bool) : List OldTwin := if busy then e.olds ++ [e.current] else e.olds

/-- An entry without its twin (R201): the twin generation moves on. -/
def CodeEntry.dropTwin (e : CodeEntry) (busy : Bool) : CodeEntry :=
  { e with twin := false, clen := 0, ctext := 0, map := 0, spmap := [], origin := [], twinGen := e.twinGen + 1,
           olds := e.kept busy, ctextVa := 0, mapVa := 0 }

/-- The lines of a twin that goes are sealed no more, but for one that gangs still finish a run in. -/
def State.unsealTwin (s : State) (e : CodeEntry) (busy : Bool) : State := if busy then s else s.unseal e.twinLines

/-- The twins of an entry that no gang is in a run of any more go, and their lines with them (R201). -/
def State.retireTwins (s : State) (vf i : Nat) : State :=
  let e := s.entryAt vf i
  let gone := e.olds.filter fun t => (s.runsOf vf i t.gen).isEmpty
  if gone.isEmpty then s
  else
    (s.unseal (gone.flatMap OldTwin.lines)).setEntry vf i
      { e with olds := e.olds.filter fun t => !(s.runsOf vf i t.gen).isEmpty }

/-- Every line that an entry holds sealed. -/
def CodeEntry.allLines (e : CodeEntry) : List Nat :=
  (if e.valid then e.ownLines ++ e.twinLines else []) ++ e.olds.flatMap OldTwin.lines

/-- The GLOBAL addresses that CODEX gives what it places for a function (R194): the spec says nothing of them, and each is a free
value (assumption 56). -/
def placedAt (op k : Nat) : DWord :=
  let at_ := 2 ^ 40 + 16 * op + 2 * k
  pair (Config.freeWord at_) (Config.freeWord (at_ + 1))

/-! ### The operations (R198) -/

/-- The request of a CODEX in flight: op, handle, src, len, ofs, vf. -/
structure CodexReq where
  op : Nat
  handle : Nat
  src : Nat
  len : Nat
  ofs : Nat
  vf : Nat
  deriving DecidableEq, Repr

/-- The request of an engine operation that is a CODEX and has no status yet. -/
def EngineOp.codexReq (o : EngineOp) : Option CodexReq :=
  match o.job with
  | .codex op handle src len ofs vf _ none _ _ => some { op := op, handle := handle, src := src, len := len, ofs := ofs, vf := vf }
  | _ => none

/-- Record the status of a CODEX, its handle, and the runs that it waits for. -/
def State.codexDone (s : State) (id status : Nat) (handle : Option Nat) (runs : List (Nat × Nat)) : State :=
  match s.engine.find id with
  | none => s
  | some o =>
    match o.job with
    | .codex op h src len ofs vf _ _ t _ =>
      { s with engine := s.engine.put id { o with job := .codex op h src len ofs vf handle (some status) t runs } }
    | _ => s

/-- The bytes at SRC, read as the clerk's core reads them (R17, R198); what cannot be read is an error, with the address where a
poisoned line is met. DESIGN CHOICE: SRC lies in the PF's address space, the clerk's own (assumption 84). -/
def State.imageBytes (s : State) (o : EngineOp) (src len : Nat) : Except (Option Nat) (State × List Byte) :=
  match (pagesOf src len).find? fun p => decide (s.translate 0 0 (p * 4096) false = .soft) with
  | some p => .error (some (max src (p * 4096)))
  | none =>
    match s.translatePages 0 0 false (pagesOf src len) with
    | none => .error none
    | some pages =>
      match s.engineReadBytes o.core 0 pages 0 src len with
      | .ok r => .ok r
      | .error e => .error (if e.poisoned then some e.addr else none)

/-- A CODEX whose SRC cannot be read. One that does not translate gets FORMAT (DESIGN CHOICE: no code is named for it; assumption
84). At a poisoned line the access, which is the clerk's, performs SOFT_ERROR (R17, R136): for the clerk a machine check, which
ends the CODEX (R80, R380). -/
def State.codexUnread (s : State) (id : Nat) (o : EngineOp) : Option Nat → State
  | none => s.codexDone id 1 none []
  | some a =>
    match s.fibres.find o.fibre with
    | some f => (s.dropEngine id o).clerkCheck o.fibre (effectOf f.pc 18 (BitVec.ofNat 64 a) 0xFFFFFFFF)
    | none => s.dropEngine id o

/-- RESERVE (R198): a free entry; FULL where there is none, and for a VF that does not exist (DESIGN CHOICE, assumption 84). An
entry that is not free is not taken. -/
def State.codexReserve (s : State) (id index : Nat) (r : CodexReq) : State :=
  if (List.range 4096).any (s.entryFree r.vf) = false ∨ 128 ≤ r.vf then s.codexDone id 9 none []
  else if s.entryFree r.vf index then
    let e := s.entryAt r.vf index
    (s.setEntry r.vf index { e with reserved := true }).codexDone id 0 (some (index * 4096 + e.gen)) []
  else s

/-- The entry that SEAL `op` makes of an image. -/
def CodeEntry.ofImage (old : CodeEntry) (m : Image) (op place : Nat) : CodeEntry :=
  { old with
    reserved := true, valid := true, text := place, tlen := m.text.length, const := place + lineCeil m.text.length,
    klen := m.const.length, entries := m.entries, frameW := m.frameW, gwmask := m.gwmask, model := m.model,
    cured := decide (m.oflags % 2 = 1), feat := m.feat, textVa := placedAt op 0, constVa := placedAt op 1,
    entVa := placedAt op 2 }

/-- SEAL (R198, R199): the image is checked, its TEXT and CONST are copied to `place` and sealed, and the entry becomes
VALID. A place that has no room is not taken. -/
def State.codexSeal (s : State) (id place : Nat) (o : EngineOp) (r : CodexReq) : State :=
  match s.namedEntry r.vf r.handle with
  | none => s.codexDone id 12 none []
  | some e =>
    if e.reserved = false ∨ e.valid = true then s.codexDone id 12 none []
    else
      match s.imageBytes o r.src r.len with
      | .error e => s.codexUnread id o e
      | .ok (s, b) =>
        let m := imageOf b
        let n := lineCeil m.text.length + m.const.length
        let status := firstStatus (imageStatus b (fun m => decide (m.oflags % 2 = 1)) ++ [(9, s.noRoom n)])
        if status ≠ 0 then s.codexDone id status none []
        else if s.roomAt place n = false ∨ s.quietAt place n = false then s
        else
          let e := e.ofImage m id place
          let s := ((s.putSealed e.text m.text).putSealed e.const m.const).sealLines e.ownLines
          (s.setEntry r.vf (r.handle / 4096) e).codexDone id 0 none []

/-- The bytes of a text after a PATCH. -/
def patchBytes (text new : List Byte) (ofs : Nat) : List Byte := text.take ofs ++ new ++ text.drop (ofs + new.length)

/-- The status of a PATCH of a text (R199, R200): whole instructions, whose boundaries stay. -/
def patchStatus (e : CodeEntry) (old new : List Byte) (ofs : Nat) : Nat :=
  let text := patchBytes old new ofs
  let ps := parcelsOf text
  let starts := startsOf (parcelsOf old) 0 0
  let bounds := fun i => decide (i % 4 = 0) && (decide (i = old.length) || starts.contains (i / 4))
  let whole := decide (ofs + new.length ≤ old.length) && bounds ofs && bounds (ofs + new.length) &&
    decide (startsOf ps 0 0 = starts)
  firstStatus ((6, !whole) :: textStatus ps e.entries e.cured)

/-- PATCH (R198 to R201): the bytes are replaced, and a twin goes. -/
def State.codexPatch (s : State) (id : Nat) (o : EngineOp) (r : CodexReq) : State :=
  match s.namedEntry r.vf r.handle with
  | none => s.codexDone id 12 none []
  | some e =>
    if e.valid = false then s.codexDone id 12 none []
    else
      match s.imageBytes o r.src r.len with
      | .error e => s.codexUnread id o e
      | .ok (s, new) =>
        let old := s.store.phys.readBytes e.text e.tlen
        let status := patchStatus e old new r.ofs
        if status ≠ 0 then s.codexDone id status none []
        else
          let i := r.handle / 4096
          let runs := s.twinRuns r.vf i e
          let s := (s.putSealed (e.text + r.ofs) new).unsealTwin e (!runs.isEmpty)
          (s.setEntry r.vf i (if e.twin then e.dropTwin (!runs.isEmpty) else e)).codexDone id 0 none runs

/-- The entry with a twin that SWAP `op` installs (R201); `busy` says that gangs are in a run of the one it replaces. -/
def CodeEntry.withTwin (e : CodeEntry) (m : Image) (op place : Nat) (busy : Bool) : CodeEntry :=
  { e with
    twin := true, clen := m.text.length, ctext := place, map := place + lineCeil m.text.length,
    spmap := spPairs m.spmap, origin := numbers m.origin 4, twinGen := e.twinGen + 1, olds := e.kept busy,
    ctextVa := placedAt op 0, mapVa := placedAt op 1 }

/-- SWAP (R201): a twin is checked and installed at `place`, or with LEN 0 removed. -/
def State.codexSwap (s : State) (id place : Nat) (o : EngineOp) (r : CodexReq) : State :=
  match s.namedEntry r.vf r.handle with
  | none => s.codexDone id 12 none []
  | some e =>
    if e.valid = false then s.codexDone id 12 none []
    else
      let i := r.handle / 4096
      let runs := s.twinRuns r.vf i e
      let busy := !runs.isEmpty
      if r.len = 0 then ((s.unsealTwin e busy).setEntry r.vf i (e.dropTwin busy)).codexDone id 0 none runs
      else
        match s.imageBytes o r.src r.len with
        | .error e => s.codexUnread id o e
        | .ok (s, b) =>
          let m := imageOf b
          let old := parcelsOf (s.store.phys.readBytes e.text e.tlen)
          let n := lineCeil m.text.length + lineCeil m.spmap.length + m.origin.length
          let status := firstStatus (imageStatus b (fun _ => true) ++
            [(8, !mapOk old (parcelsOf m.text) e.entries m), (9, s.noRoom n)])
          if status ≠ 0 then s.codexDone id status none []
          else if s.roomAt place n = false ∨ s.quietAt place n = false then s
          else
            let new := e.withTwin m id place busy
            let s := (s.unsealTwin e busy).putSealed new.ctext m.text
            let s := (s.putSealed new.map m.spmap).putSealed (new.map + lineCeil m.spmap.length) m.origin
            ((s.sealLines new.twinLines).setEntry r.vf i new).codexDone id 0 none runs

/-- A launch that names a handle is incomplete (R199: BUSY): in the launch table, or at the head of its queue. -/
def State.codeBusy (s : State) (vf handle : Nat) : Bool :=
  (s.sched.launches.any fun p => decide (p.2.vf = vf) && decide (p.2.record.code.toNat = handle)) ||
    s.sched.queues.any fun p =>
      decide (p.1 / 64 = vf) && match p.2.head with | some h => decide (h.code.toNat = handle) | none => false

/-- FREE (R195, R198): the entry is VALID no more, its generation moves on, and its lines are sealed no more. -/
def State.codexFree (s : State) (id : Nat) (r : CodexReq) : State :=
  match s.namedEntry r.vf r.handle with
  | none => s.codexDone id 12 none []
  | some e =>
    if e.reserved = false ∧ e.valid = false then s.codexDone id 12 none []
    else if s.codeBusy r.vf r.handle then s.codexDone id 11 none []
    else
      let e' := { CodeEntry.blank with gen := if e.gen = 4095 then 1 else e.gen + 1, twinGen := e.twinGen + 1 }
      ((s.unseal e.allLines).setEntry r.vf (r.handle / 4096) e').codexDone id 0 none []

/-- An act on a CODEX in flight of a given operation that has no status yet. -/
def State.onCodex (s : State) (id op : Nat) (g : EngineOp → CodexReq → State) : Host.Outcome State Fault Refusal :=
  match s.engine.find id with
  | none => .next s
  | some o =>
    match o.codexReq with
    | some r => .next (if r.op = op then g o r else s)
    | none => .next s

/-- CODEX_RESERVE (R198). -/
def execCodexReserve (op index : Nat) (s : State) : Host.Outcome State Fault Refusal :=
  s.onCodex op 0 fun _ r => s.codexReserve op index r

/-- CODEX_SEAL (R199). -/
def execCodexSeal (op place : Nat) (s : State) : Host.Outcome State Fault Refusal :=
  s.onCodex op 1 fun o r => s.codexSeal op place o r

/-- CODEX_PATCH (R198, R200). -/
def execCodexPatch (op : Nat) (s : State) : Host.Outcome State Fault Refusal :=
  s.onCodex op 2 fun o r => s.codexPatch op o r

/-- CODEX_SWAP (R201). -/
def execCodexSwap (op place : Nat) (s : State) : Host.Outcome State Fault Refusal :=
  s.onCodex op 3 fun o r => s.codexSwap op place o r

/-- CODEX_FREE (R198). -/
def execCodexFree (op : Nat) (s : State) : Host.Outcome State Fault Refusal :=
  s.onCodex op 4 fun _ r => s.codexFree op r

/-- The status of a CODEX is written when the operation has completed (R319): for one that took a twin away, when the runs
of that twin have ended (R201). -/
def State.codexComplete (s : State) (id : Nat) : State :=
  match s.engine.find id with
  | none => s
  | some o =>
    match o.job with
    | .codex _ h _ _ _ vf handle (some status) targets runs =>
      if runs.any s.inRun then s
      else
        let v := [BitVec.ofNat 32 status, BitVec.ofNat 32 (handle.getD 0)]
        (((s.retireTwins vf (h / 4096)).dropEngine id o).land o.fibre (targets.zip v)).recheck o.core
    | _ => s

/-- CODEX_COMPLETION (R319). -/
def execCodexCompletion (op : Nat) (s : State) : Host.Outcome State Fault Refusal := .next (s.codexComplete op)

/-! ### The instructions -/

/-- CODEX (R198, R319): the request block is read, and the operation begins. An OP above 4 is refused at once. -/
def execCodex (f : FormW) (s : State) : Host.Outcome State Fault Refusal :=
  s.lanes (.codex f) (fun key => !isClerk key) fun x s =>
    match x.readBlock s 0 x.b.toNat with
    | .error r => r
    | .ok (s, b) =>
      let op := field b 0 1
      let codes := [f.a.toNat, f.a.toNat + 1]
      if 4 < op then .outsIn s (codes.zip [1, 0])
      else
        let r := s.reserveAll x codes
        let id := r.2.nextId
        let t := r.2.fresh.2
        let o : EngineOp :=
          { core := coreOf x.key, fibre := x.key, vf := x.f.tenant, cls := 5, issued := s.gtc, pages := [],
            job := .codex op (field b 4 4) (field b 8 8) (field b 16 4) (field b 20 4) (field b 24 2) none none r.1 [],
            writes := [], release := none, hostWrites := [] }
        .checked codes (.next { t with engine := t.engine.put id o })

/-- IFENCE (R200, R318): a clerk waits for its PATCHes. A fetch reads the text itself, so nothing else is left to
discard. -/
def execIfence (f : FormQ) (s : State) : Host.Outcome State Fault Refusal :=
  s.plain (.ifence f) fun x s =>
    if isClerk x.key ∧ s.counterMet (coreOf x.key) x.f .patches = false then .park (.counter .patches) else .next s

end Sys2Proof.Machine
end

