-- ==== Sys2Proof/Machine/Bitterns.lean ====
section
/-! DEFINITION. The bittern telemetry coprocessors: marks and reads by fibres, filters and their machine, items, triggers,
ownership (R322, R323, R345 to R359), and the gate of host writes (R363). -/
namespace Sys2Proof.Machine

/-- A register or doorbell write through a host port (R363): through the one that is not ACTIVE it is dropped and
counted. -/
def State.fromPort (s : State) (port : HostPort) (g : State → State) : State :=
  if s.plat.recovery then s else if port = s.activePort then g s else s.countMgmt 0x7018 15 0

/-! ### Owners and items -/

/-- The groups of bittern resources (R349). -/
inductive BtKind where
  | histogram
  | sketch
  | pairs
  | trigger
  | slot
  | attachment
  | ring
  deriving DecidableEq, Repr

/-- The management register and byte that own an item (R349), the register by its offset from a die's first. -/
def ownerByte (k : BtKind) (i : Nat) : Nat × Nat :=
  match k with
  | .histogram => (0, i / 8)
  | .sketch => (8, i / 8)
  | .pairs => (8, 2 + i / 8)
  | .trigger => (8, 6 + i / 8)
  | .slot => (16, i / 8)
  | .attachment => (16, i / 16)
  | .ring => (16, 2)

/-- The function that an owner byte names, where it is VALID. -/
def ownerOf (byte : Nat) : Option Nat := if 128 ≤ byte then some (byte % 128) else none

/-- The owner of an item of a die's bittern (R349). -/
def State.btOwner (s : State) (die : Nat) (k : BtKind) (i : Nat) : Option Nat :=
  let p := ownerByte k i
  ownerOf (s.mgmtF (0x6000 + 0x20 * die + p.1) (8 * p.2 + 7) (8 * p.2))

/-- A word of a bittern's window. -/
def Bittern.reg (b : Bittern) (off : Nat) : Nat := (b.regs.get off 0).toNat

/-- Set a word of a bittern's window. -/
def Bittern.setReg (b : Bittern) (off v : Nat) : Bittern := { b with regs := b.regs.put off (BitVec.ofNat 64 v) }

/-- Set bits of a word of a bittern's window. -/
def Bittern.setRegF (b : Bittern) (off hi lo v : Nat) : Bittern := b.setReg off (setBits (b.reg off) hi lo v)

/-- The offsets of the window's registers (R350). -/
def attachOff (n : Nat) : Nat := 0x1000 + 8 * n

/-- FCTL of a slot. -/
def fctlOff (f : Nat) : Nat := 0x1200 + 8 * f

/-- The control word of a trigger. -/
def triggerOff (t : Nat) : Nat := 0x1300 + 16 * t

/-- The largest count of an item. -/
def countMax : Nat := 2 ^ 32 - 1

/-- Remove the entries of a table from a key on, `n` of them. -/
def dropRange {α : Type} (t : Tbl α) (a n : Nat) : Tbl α := t.select fun k _ => decide (k < a ∨ a + n ≤ k)

/-- An item back at its reset value (R349, R350). -/
def Bittern.clearItem (b : Bittern) (k : BtKind) (i : Nat) : Bittern :=
  match k with
  | .histogram => { b with live := dropRange b.live (64 * i) 64, snap := dropRange b.snap (64 * i) 64 }
  | .sketch => { b with sketch := dropRange b.sketch (1024 * i) 1024 }
  | .pairs => { b with mins := b.mins.del i, maxs := b.maxs.del i }
  | .trigger => { b with times := b.times.del i, regs := (b.regs.del (triggerOff i)).del (triggerOff i + 8) }
  | .slot => b.setRegF (fctlOff i) 0 0 0
  | .attachment => b.setRegF (attachOff i) 44 44 0
  | .ring => { b with ring := [], head := 0, frozen := false }

/-- The items of the group that an owner byte owns. -/
def groupItems (reg byte : Nat) : List (BtKind × Nat) :=
  match reg, byte with
  | 0, g => (upto (8 * g) 8).map fun i => (BtKind.histogram, i)
  | 8, 0 | 8, 1 => (upto (8 * byte) 8).map fun i => (BtKind.sketch, i)
  | 8, 6 | 8, 7 => (upto (8 * (byte - 6)) 8).map fun i => (BtKind.trigger, i)
  | 8, _ => (upto (8 * (byte - 2)) 8).map fun i => (BtKind.pairs, i)
  | 16, 0 | 16, 1 =>
    ((upto (8 * byte) 8).map fun i => (BtKind.slot, i)) ++ (upto (16 * byte) 16).map fun i => (BtKind.attachment, i)
  | 16, 2 => [(.ring, 0)]
  | _, _ => []

/-- The group of an owner byte is cleared (R349). -/
def Bittern.clearGroup (b : Bittern) (reg byte : Nat) : Bittern :=
  (groupItems reg byte).foldl (fun b p => b.clearItem p.1 p.2) b

/-- A write of an owner register (R349): the group of every byte that changes is cleared. -/
def State.writeOwner (s : State) (off v : Nat) : State :=
  let die := (off - 0x6000) / 0x20
  let reg := (off - 0x6000) % 0x20
  if off < 0x6000 ∨ 10 ≤ die ∨ reg ∉ [0, 8, 16] then s
  else
    let old := s.mgmt off
    let new := writeValue (mgmtFields off) old v
    let changed := (List.range 8).filter fun i => decide (bits old (8 * i + 7) (8 * i) ≠ bits new (8 * i + 7) (8 * i))
    (s.setMgmt off new).modBittern die fun b => changed.foldl (fun b i => b.clearGroup reg i) b

/-- An FLR of a function clears every group that it owns; its events in the tap are dropped without count, and its drop
counters return to zero (R349, R356). -/
def State.btFlr (s : State) (vf : Nat) : State :=
  (List.range 10).foldl (fun s die =>
    let groups := ([0, 8, 16].flatMap fun reg => (List.range 8).map fun i => (reg, i)).filter fun p =>
      decide (ownerOf (s.mgmtF (0x6000 + 0x20 * die + p.1) (8 * p.2 + 7) (8 * p.2)) = some vf)
    s.modBittern die fun b =>
      let b := groups.foldl (fun b p => b.clearGroup p.1 p.2) b
      { b with tap := b.tap.filter fun e => decide (e.tenant ≠ vf), tapDrops := b.tapDrops.del vf,
               budgetDrops := b.budgetDrops.del vf }) s

/-! ### Triggers (R358) -/

/-- A trigger word (R358): written at its home with the owner's tables; one that is refused sets ERR, and one of a page of
the port that is not ACTIVE is dropped and counted (R363). The write is a wake event on the die when its home applies it (R48). -/
def State.triggerWord (s : State) (die t vf : Nat) : State :=
  let b := s.bittern die
  let wa := bits (b.reg (triggerOff t + 8)) 47 3 * 8
  let err := s.modBittern die fun b => b.setRegF (triggerOff t) 7 7 1
  match s.translate vf 6 wa true with
  | .inactive => s.countMgmt 0x7018 31 16
  | .fault | .soft => err
  | .ok pa =>
    if inAperture pa ∨ s.isSealed (lineOf pa) = true then err
    else
      (s.sendHomeAs { id := 0, core := none, vf := vf, since := 0, data := cellsAt pa (toBytes (b.times.get t 0) 8),
                      wakes := some die } (lineOf pa)).2

/-- Trigger t fires (R358). -/
def State.fireTrigger (s : State) (die t vf : Nat) : State :=
  let s := s.modBittern die fun b => { b with times := b.times.put t (min (b.times.get t 0 + 1) countMax) }
  let c := (s.bittern die).reg (triggerOff t)
  let s := if bits c 5 5 = 1 then s.modBittern die fun b => b.setRegF (triggerOff t) 6 6 0 else s
  let s := if bits c 2 2 = 1 then s.triggerWord die t vf else s
  let s := if bits c 3 3 = 1 then s.raiseVector vf (bits c 15 8) else s
  if bits c 4 4 = 1 ∧ s.btOwner die .ring 0 = some vf then s.modBittern die fun b => { b with frozen := true } else s

/-! ### The filter machine (R353, R354) -/

/-- What a filter run is made for: the die, the attachment and its owner, its slot, and the event. -/
structure FilterRun where
  die : Nat
  attachment : Nat
  owner : Nat
  slot : Nat
  event : Event
  deriving DecidableEq, Repr

/-- A field of the event, by its selector (R354). -/
def FilterRun.selected (r : FilterRun) (sel : Nat) : Nat :=
  match sel with
  | 0 => r.event.type
  | 1 => r.event.gtc % 2 ^ 32
  | 2 => r.event.gtc / 2 ^ 32 % 2 ^ 32
  | 3 => r.event.src
  | 4 => r.event.tenant
  | 5 => r.event.v0.toNat
  | 6 => r.event.v1.toNat
  | 7 => r.attachment
  | _ => r.event.die

/-- Bits that a number needs. -/
def bitLength (v : Nat) : Nat := if v = 0 then 0 else Nat.log2 v + 1

/-- The two-operand arithmetic of filters (R354), opcodes 3 to 10. -/
def filterAlu (op a y : Nat) : Nat :=
  match op with
  | 3 => (a + y) % 2 ^ 32
  | 4 => (a + 2 ^ 32 - y % 2 ^ 32) % 2 ^ 32
  | 5 => Nat.land a y
  | 6 => Nat.lor a y
  | 7 => a * 2 ^ (y % 32) % 2 ^ 32
  | 8 => a / 2 ^ (y % 32)
  | 9 => min a y
  | _ => max a y

/-- The condition of a filter branch (R354), opcodes 13 to 16. -/
def filterCond (op a y : Nat) : Bool :=
  match op with
  | 13 => decide (a = y)
  | 14 => decide (a ≠ y)
  | 15 => decide (a < y)
  | _ => decide (y ≤ a)

/-- The multipliers of the sketch rows (R354). -/
def sketchMul (r : Nat) : Nat := [0x9E3779B1, 0x85EBCA77, 0xC2B2AE3D, 0x27D4EB2F].getD r 0

/-- HINC (R354): the new count, and the bittern. -/
def Bittern.hinc (b : Bittern) (h a inc : Nat) : Nat × Bittern :=
  let k := 64 * h + min a 63
  let v := min (b.live.get k 0 + inc) countMax
  (v, { b with live := b.live.put k v })

/-- MMUPD (R354). -/
def Bittern.mmupd (b : Bittern) (p a : Nat) : Nat × Bittern :=
  (0, { b with mins := b.mins.put p (min (b.mins.get p countMax) a), maxs := b.maxs.put p (max (b.maxs.get p 0) a) })

/-- CMS (R354): the smallest of the four new cells, and the bittern. -/
def Bittern.cms (b : Bittern) (s a inc : Nat) : Nat × Bittern :=
  (List.range 4).foldl (fun (x : Nat × Bittern) r =>
    let k := 1024 * s + 256 * r + a * sketchMul r % 2 ^ 32 / 2 ^ 24
    let v := min (x.2.sketch.get k 0 + inc) countMax
    (min x.1 v, { x.2 with sketch := x.2.sketch.put k v })) (countMax, b)

/-- SAMPLE (R354, R359). -/
def Bittern.sample (b : Bittern) (e : Event) (a y : Nat) : Bittern :=
  if b.frozen then b
  else
    let e' := { e with v0 := BitVec.ofNat 32 a, v1 := BitVec.ofNat 32 y }
    { b with ring := b.ring.put b.head e', head := (b.head + 1) % 1024 }

/-- The kind of item that an item instruction names (R354). -/
def itemKind (op : Nat) : BtKind :=
  match op with
  | 17 => .histogram
  | 18 => .pairs
  | 19 => .sketch
  | 20 => .trigger
  | _ => .ring

/-- An item instruction (R354): its result, and the state. An item of another owner is left as it is. -/
def State.filterItem (s : State) (r : FilterRun) (op item a y inc : Nat) : Nat × State :=
  if s.btOwner r.die (itemKind op) item ≠ some r.owner then (0, s)
  else
    let b := s.bittern r.die
    let put := fun (x : Nat × Bittern) => (x.1, s.modBittern r.die fun _ => x.2)
    match op with
    | 17 => put (b.hinc item a inc)
    | 18 => put (b.mmupd item a)
    | 19 => put (b.cms item a inc)
    | 20 =>
      let c := b.reg (triggerOff item)
      if bits c 6 6 = 1 ∧ bits c 63 32 ≤ a then (1, s.fireTrigger r.die item r.owner) else (0, s)
    | _ => put (0, b.sample r.event a y)

/-- Run a filter from a word on, with its registers, through at most `n` more words (R353). Every instruction counts
against the budget. The second operand of format R without IMM14 is bA, as R353's table gives it; that of a branch without
IMM8 is bB (DEDUCED, assumption 64). -/
def State.filterFrom (s : State) (r : FilterRun) (pc : Nat) (regs : List Nat) : Nat → State
  | 0 => s
  | n + 1 =>
    if 64 ≤ pc then s
    else
      let w := (s.bittern r.die).reg (0x100 * r.slot + 4 * pc)
      let s := s.modBittern r.die fun b => { b with used := b.used.put r.owner (b.used.get r.owner 0 + 1) }
      let op := bits w 31 27
      let d := bits w 26 23
      let a := regs.getD (bits w 22 19) 0
      let b := regs.getD (bits w 18 15) 0
      let imm := decide (bits w 14 14 = 1)
      let set := fun (v : Nat) => regs.set d v
      if op = 0 then s
      else if op = 1 then State.filterFrom s r (pc + 1) (set (r.selected (bits w 13 0))) n
      else if op = 2 then
        let v := bits w 13 0 + bits w 22 21 * 2 ^ 14
        let v := if bits w 19 19 = 1 then regs.getD d 0 % 2 ^ 16 + v * 2 ^ 16 else v
        State.filterFrom s r (pc + 1) (set v) n
      else if op ≤ 10 then State.filterFrom s r (pc + 1) (set (filterAlu op a (if imm then bits w 13 0 else a))) n
      else if op = 11 then State.filterFrom s r (pc + 1) (set (32 - bitLength a)) n
      else if op = 12 then State.filterFrom s r (pc + 1) (set (bitLength a)) n
      else if op ≤ 16 then
        let y := if imm then bits w 7 0 else b
        State.filterFrom s r (pc + if filterCond op a y then bits w 13 8 else 1) regs n
      else if op ≤ 21 then
        let x := s.filterItem r op (bits w 13 8) a b (if imm then bits w 7 0 else b)
        State.filterFrom x.2 r (pc + 1) (set x.1) n
      else s

/-! ### Matching and budgets (R348, R351, R355) -/

/-- The attachment that an event matches: what its filter is run for (R351). -/
def State.matchEvent (s : State) (die n : Nat) (e : Event) : Option FilterRun :=
  let c := (s.bittern die).reg (attachOff n)
  let slot := bits c 39 36
  match s.btOwner die .attachment n with
  | none => none
  | some o =>
    let all := decide (bits c 43 43 = 1 ∧ o = 0)
    if bits c 44 44 = 1 ∧ bits c 15 0 ≤ e.type ∧ e.type ≤ bits c 31 16 ∧ slot / 8 = n / 16 ∧
        bits ((s.bittern die).reg (fctlOff slot)) 0 0 = 1 ∧ (e.tenant = o ∨ all = true) then
      some { die := die, attachment := n, owner := o, slot := slot, event := e }
    else none

/-- The filter instructions of this period of the functions of a partition (R355). -/
def State.usedBy (s : State) (die n : Nat) : Nat :=
  (s.bittern die).used.foldl (fun a p => if s.partitionOf p.1 = some n then a + p.2 else a) 0

/-- The budgets let a function start a run (R355). -/
def State.budgetLeft (s : State) (die vf : Nat) : Bool :=
  decide ((s.bittern die).used.get vf 0 < s.mgmtF (0x6200 + 8 * vf) 10 0) &&
    match s.partitionOf vf with
    | some n =>
      let share := s.mgmtF (0x1E18 + 0x20 * n) 63 48
      decide (share = 0) || decide (s.usedBy die n < share)
    | none => true

/-- The largest value of a drop counter (R356). -/
def dropMax : Nat := 2 ^ 64 - 1

/-- Offer an event to one attachment. -/
def State.offerFilter (s : State) (die n : Nat) (e : Event) : State :=
  match s.matchEvent die n e with
  | none => s
  | some r =>
    let s := s.modBittern die s.budgetPeriods
    if s.budgetLeft die r.owner then s.filterFrom r 0 (List.replicate 16 0) 64
    else
      s.modBittern die fun b =>
        { b with budgetDrops := b.budgetDrops.put r.owner (min (b.budgetDrops.get r.owner 0 + 1) dropMax) }

/-- The bittern takes the next event from its tap (R348). -/
def State.takeEvent (s : State) (die : Nat) : State :=
  match (s.bittern die).tap with
  | [] => s
  | e :: rest =>
    (List.range 32).foldl (fun s n => s.offerFilter die n e) (s.modBittern die fun b => { b with tap := rest })

/-- FILTER_RUN (R348). -/
def execFilterRun (die : Nat) (s : State) : Host.Outcome State Fault Refusal := .next (s.takeEvent die)

/-- BITTERN_PERIOD (R355): the periods that have begun since the last one, and none where none has. -/
def execBitternPeriod (s : State) : Host.Outcome State Fault Refusal :=
  .next { s with bitterns := s.bitterns.mapVals fun _ b => s.budgetPeriods b }

/-! ### Validation (R352) -/

/-- The items of a kind (R354). -/
def itemLimit (op : Nat) : Nat :=
  match op with
  | 17 => 64
  | 18 => 32
  | 19 => 16
  | 20 => 16
  | _ => 1

/-- A filter word that validation refuses (R352 to R354); `i` is its place, `owns` says which items the slot's owner
owns. -/
def filterWordBad (owns : BtKind → Nat → Bool) (i w : Nat) : Bool :=
  let op := bits w 31 27
  if op = 0 then decide (bits w 26 0 ≠ 0)
  else if op = 1 then decide (bits w 22 14 ≠ 0 ∨ 8 < bits w 13 0)
  else if op = 2 then decide (bits w 20 20 ≠ 0 ∨ bits w 18 14 ≠ 0)
  else if op ≤ 10 then false
  else if op ≤ 12 then decide (bits w 18 0 ≠ 0)
  else if op ≤ 16 then
    decide (bits w 26 23 ≠ 0 ∨ bits w 13 8 = 0 ∨ 64 < i + bits w 13 8)
  else if op ≤ 21 then
    let item := bits w 13 8
    let fixed :=
      if op = 18 ∨ op = 20 then decide (bits w 18 14 ≠ 0 ∨ bits w 7 0 ≠ 0)
      else if op = 21 then decide (bits w 14 14 ≠ 0 ∨ bits w 7 0 ≠ 0)
      else false
    fixed || decide (itemLimit op ≤ item) || !owns (itemKind op) item
  else true

/-- A write of FCTL by a function (R350, R352): only the slot's owner's has effect. -/
def State.writeFctl (s : State) (vf die slot v : Nat) : State :=
  if s.btOwner die .slot slot ≠ some vf then s
  else if bits v 0 0 = 0 then s.modBittern die fun b => b.setRegF (fctlOff slot) 0 0 0
  else
    let owns := fun k i => decide (s.btOwner die k i = some vf)
    let bad := (List.range 64).any fun i => filterWordBad owns i ((s.bittern die).reg (0x100 * slot + 4 * i))
    s.modBittern die fun b => b.setReg (fctlOff slot) (if bad then 2 else 1)

/-- FCTL_ENABLE (R352). -/
def execFctlEnable (port : HostPort) (vf die slot : Nat) (value : BitVec 64) (s : State) :
    Host.Outcome State Fault Refusal := .next (s.fromPort port fun s => s.writeFctl vf die slot value.toNat)

/-! ### The window (R350, R357) -/

/-- HSNAP (R357). -/
def State.writeHsnap (s : State) (vf die v : Nat) : State :=
  (List.range 64).foldl (fun s h =>
    if bits v h h = 1 ∧ s.btOwner die .histogram h = some vf then
      s.modBittern die fun b =>
        { b with snap := (b.live.select fun k _ => decide (k / 64 = h)).foldl (fun (t : Tbl Nat) p => t.put p.1 p.2)
                   (dropRange b.snap (64 * h) 64),
                 live := dropRange b.live (64 * h) 64 }
    else s) s

/-- HSNAP (R357). -/
def execHsnap (port : HostPort) (vf die : Nat) (value : BitVec 64) (s : State) : Host.Outcome State Fault Refusal :=
  .next (s.fromPort port fun s => s.writeHsnap vf die value.toNat)

/-- The kind of item that ICLR names (R350). -/
def iclrKind : Nat → Option BtKind
  | 0 => some .histogram
  | 2 => some .sketch
  | 3 => some .pairs
  | 4 => some .trigger
  | 6 => some .ring
  | _ => none

/-- Items of a kind on a die (R350). -/
def kindCount : BtKind → Nat
  | .histogram => 64
  | .sketch => 16
  | .pairs => 32
  | .trigger => 16
  | .slot => 16
  | .attachment => 32
  | .ring => 64

/-- ICLR (R350). -/
def State.writeIclr (s : State) (vf die v : Nat) : State :=
  match iclrKind (bits v 10 8) with
  | none => s
  | some k =>
    let i := bits v 5 0
    if i < kindCount k ∧ s.btOwner die k i = some vf then s.modBittern die fun b => b.clearItem k i else s

/-- ICLR (R350). -/
def execIclr (port : HostPort) (vf die : Nat) (value : BitVec 64) (s : State) : Host.Outcome State Fault Refusal :=
  .next (s.fromPort port fun s => s.writeIclr vf die value.toNat)

/-- BT_OWNER_WRITE (R349), by the PF or the management controller. -/
def execBtOwnerWrite (offset : Nat) (value : BitVec 64) (s : State) : Host.Outcome State Fault Refusal :=
  .next (s.accepted fun s => s.writeOwner offset value.toNat)

/-- A write of a function's bittern window of a die (R350). -/
def State.writeWindow (s : State) (vf die off v : Nat) : State :=
  let owns := fun (k : BtKind) (i : Nat) => decide (s.btOwner die k i = some vf)
  if off < 0x1000 then
    let slot := off / 0x100
    if owns .slot slot = true ∧ off % 4 = 0 ∧ bits ((s.bittern die).reg (fctlOff slot)) 0 0 = 0 then
      s.modBittern die fun b => b.setReg off (v % 2 ^ 32)
    else s
  else if off < 0x1100 then
    if off % 8 = 0 ∧ owns .attachment ((off - 0x1000) / 8) = true then
      s.modBittern die fun b => b.setReg off (writeValue [rw 44 44 0, rw 43 43 0, rw 39 36 0, rw 31 0 0] 0 v)
    else s
  else if 0x1200 ≤ off ∧ off < 0x1280 then
    if off % 8 = 0 then s.writeFctl vf die ((off - 0x1200) / 8) v else s
  else if 0x1300 ≤ off ∧ off < 0x1400 then
    if off % 8 ≠ 0 ∨ owns .trigger ((off - 0x1300) / 16) = false then s
    else if off % 16 = 0 then
      s.modBittern die fun b =>
        b.setReg off (writeValue [rw 63 32 0, rw 15 8 0, w1c 7 7, rw 6 6 0, rw 5 5 0, rw 4 4 0, rw 3 3 0, rw 2 2 0] (b.reg off) v)
    else s.modBittern die fun b => b.setReg off (writeValue [rw 47 3 0] 0 v)
  else if off = 0x1400 then s.writeHsnap vf die v
  else if off = 0x1408 then s.writeIclr vf die v
  else if off = 0x1410 then
    if owns .ring 0 ∧ bits v 0 0 = 1 then s.modBittern die fun b => { b with frozen := false } else s
  else s

/-- The 8-byte word of a trace record at a byte of it (R345). -/
def Event.word (e : Event) (o : Nat) : Nat :=
  match o / 8 with
  | 0 => e.type + e.tenant * 2 ^ 16 + e.die * 2 ^ 24 + e.src * 2 ^ 32
  | 1 => e.gtc
  | 2 => e.v0.toNat + e.v1.toNat * 2 ^ 32
  | _ => 0

/-- What a function reads of its bittern window of a die (R349, R350, R359): a register of a group that it does not own reads
zero, and so do those that are write-only. -/
def State.readWindow (s : State) (vf die off : Nat) : Nat :=
  let b := s.bittern die
  let owned := fun (k : BtKind) (i v : Nat) => if s.btOwner die k i = some vf then v else 0
  if off < 0x1000 then owned .slot (off / 0x100) (b.reg (off / 4 * 4))
  else if off < 0x1100 then owned .attachment ((off - 0x1000) / 8) (b.reg (off / 8 * 8))
  else if 0x1200 ≤ off ∧ off < 0x1280 then owned .slot ((off - 0x1200) / 8) (b.reg (off / 8 * 8))
  else if 0x1300 ≤ off ∧ off < 0x1400 then owned .trigger ((off - 0x1300) / 16) (b.reg (off / 8 * 8))
  else if off = 0x1410 then owned .ring 0 (b.head * 2 ^ 16 + if b.frozen then 1 else 0)
  else if 0x10000 ≤ off ∧ off < 0x14000 then
    let i := (off - 0x10000) / 4
    owned .histogram (i / 64) (b.live.get i 0)
  else if 0x14000 ≤ off ∧ off < 0x18000 then
    let i := (off - 0x14000) / 4
    owned .histogram (i / 64) (b.snap.get i 0)
  else if 0x20000 ≤ off ∧ off < 0x30000 then
    let i := (off - 0x20000) / 4
    owned .sketch (i / 1024) (b.sketch.get i 0)
  else if 0x30000 ≤ off ∧ off < 0x30100 then
    let p := (off - 0x30000) / 8
    owned .pairs p (b.mins.get p countMax + b.maxs.get p 0 * 2 ^ 32)
  else if 0x30100 ≤ off ∧ off < 0x30140 then
    let t := (off - 0x30100) / 4
    owned .trigger t (b.times.get t 0)
  else if 0x31000 ≤ off ∧ off < 0x39000 then
    owned .ring 0 (match b.ring.find ((off - 0x31000) / 32) with | some e => e.word ((off - 0x31000) % 32) | none => 0)
  else 0

/-! ### The fibres' side -/

/-- TMARK (R322). -/
def execTmark (f : FormWI) (s : State) : Host.Outcome State Fault Refusal :=
  s.plain (.tmark f) fun x s =>
    .next (s.raiseCore (coreOf x.key) (0x100 + fld f.imm 0 8) x.f.tenant (loWord x.a).toNat (loWord x.b).toNat)

/-- A selector of TRD names an item (R323). -/
def trdRange (kind index : Nat) : Bool :=
  match kind with
  | 0 | 1 => decide (index < 4096)
  | 2 => decide (index < 65536 ∧ bits index 11 10 = 0)
  | 3 => decide (index < 32)
  | 4 => decide (index < 16)
  | _ => decide (index < 3)

/-- The owner of the item of a TRD selector (R323, R349); none for kind 5, the reader's own. -/
def State.trdOwner (s : State) (die kind index : Nat) : Option Nat :=
  match kind with
  | 0 | 1 => s.btOwner die .histogram (index / 64)
  | 2 => s.btOwner die .sketch (index / 4096)
  | 3 => s.btOwner die .pairs index
  | _ => s.btOwner die .trigger index

/-- The value of a TRD selector (R323). -/
def Bittern.trd (b : Bittern) (vf kind index : Nat) : Nat :=
  match kind with
  | 0 => b.live.get index 0
  | 1 => b.snap.get index 0
  | 2 => b.sketch.get (1024 * (index / 4096) + 256 * bits index 9 8 + index % 256) 0
  | 3 => b.mins.get index countMax + b.maxs.get index 0 * 2 ^ 32
  | 4 => b.times.get index 0 + bits (b.reg (triggerOff index)) 6 6 * 2 ^ 32
  | _ =>
    match index with
    | 0 => b.tapDrops.get vf 0
    | 1 => b.budgetDrops.get vf 0
    | _ => b.used.get vf 0

/-- TRD (R323). -/
def execTrd (f : FormWI) (s : State) : Host.Outcome State Fault Refusal :=
  s.plain (.trd f) fun x s =>
    let die := dieOfCore (coreOf x.key)
    let kind := fld f.imm 21 3
    let index := (fld f.imm 0 20 + (loWord x.b).toNat) % 2 ^ 20
    let out := fun (v : Nat) => LaneRes.outs true (outPair f.a.toNat true (BitVec.ofNat 64 v)) 0 none
    if trdRange kind index = false then x.illegal
    else if kind = 5 then out ((s.bittern die).trd x.f.tenant 5 index)
    else
      match s.trdOwner die kind index with
      | none => out 0
      | some o => if o = x.f.tenant then out ((s.bittern die).trd o kind index) else x.priv 0

end Sys2Proof.Machine
end

