-- ==== Sys2Proof/Machine/Engines.lean ====
section
/-! DEFINITION. The instructions that drive engines, and what the engines do of themselves: CPY, CPY2D, CPYW, GATH, SCAT,
WB, INV, WAITC, CNTRD, and the ends of their operations (R147, R148, R261, R265 to R273). -/
namespace Sys2Proof.Machine

/-- CPY (R266). -/
def execCpy (f : FormW) (s : State) : Host.Outcome State Fault Refusal :=
  s.plain (.cpy f) fun x s =>
    let dspace := fld f.mod 0 3
    let sspace := fld f.mod 3 3
    match x.engineStop s 0 true with
    | some r => r
    | none =>
      x.issueCopy s
        { dst := engineAddr dspace x.b, src := engineAddr sspace x.c, dspace := dspace, sspace := sspace, rows := 1,
          rowLen := (loWord x.d).toNat, dstride := 0, sstride := 0, word := none }

/-- CPY2D (R267). -/
def execCpy2d (f : FormW) (s : State) : Host.Outcome State Fault Refusal :=
  s.plain (.cpy2d f) fun x s => x.copyBlock s (spaceOf f) (engineAddr (spaceOf f) x.b) none

/-- CPYW (R268). -/
def execCpyw (f : FormW) (s : State) : Host.Outcome State Fault Refusal :=
  s.plain (.cpyw f) fun x s => x.copyBlock s (spaceOf f) (engineAddr (spaceOf f) x.b) (some (scopeOf f))

/-- GATH (R269). -/
def execGath (f : FormW) (s : State) : Host.Outcome State Fault Refusal :=
  s.plain (.gath f) fun x s => x.issueGs s false (spaceOf f) (engineAddr (spaceOf f) x.b)

/-- SCAT (R269). -/
def execScat (f : FormW) (s : State) : Host.Outcome State Fault Refusal :=
  s.plain (.scat f) fun x s => x.issueGs s true (spaceOf f) (engineAddr (spaceOf f) x.b)

/-- WB (R261). -/
def execWb (f : FormW) (s : State) : Host.Outcome State Fault Refusal :=
  s.plain (.wb f) fun x s => x.issueWb s false (scopeOf f)

/-- INV (R261). -/
def execInv (f : FormW) (s : State) : Host.Outcome State Fault Refusal :=
  s.plain (.inv f) fun x s => x.issueWb s true (scopeOf f)

/-- WAITC (R148, R271): met; or the effect of a stopped operation that it reaches; or WAIT where a handler would take it;
or a park. -/
def execWaitc (f : FormWI) (s : State) : Host.Outcome State Fault Refusal :=
  s.plain (.waitc f) fun x s =>
    let n := fld f.imm 0 8
    let cls := fld f.imm 8 3
    if x.f.counter cls ≤ n then .next s
    else
      match x.f.reached cls n with
      | some c => .effect (stoppedEffect x.own c (c.stopped.getD { tag := 8, addr := 0, info := 0 }))
      | none =>
        if s.hasHandler x.f 2 then .effect (waitEffect x.own cls) else .park (.counter (.waitc cls n))

/-- CNTRD (R273). -/
def execCntrd (f : FormQI) (s : State) : Host.Outcome State Fault Refusal :=
  s.plain (.cntrd f) fun x _ =>
    let cls := f.imm.toNat
    if 4 < cls then x.illegal
    else
      let held := x.f.counted.any fun c => decide (c.cls = cls) && c.stopped.isSome
      .outs true [(f.a.toNat, BitVec.ofNat 32 (x.f.counter cls + if held then 256 else 0))] 0 none

/-- COPY_COMPLETE: a copy runs to its end, or to the failure that stops it (R266 to R268, R270). -/
def execCopyComplete (op : Nat) (s : State) : Host.Outcome State Fault Refusal :=
  match s.engine.find op with
  | some o => match o.job with | .copy j => .next (s.runCopy op o j none) | _ => .next s
  | none => .next s

/-- GS_COMPLETE: a gather or scatter runs to its end, or to the failure that stops it (R269, R270). -/
def execGsComplete (op : Nat) (s : State) : Host.Outcome State Fault Refusal :=
  match s.engine.find op with
  | some o => match o.job with | .gs j => .next (s.runGs op o j none) | _ => .next s
  | none => .next s

/-- WB_COMPLETE: the range of a WB or INV has been performed (R147, R261). -/
def execWbComplete (op : Nat) (s : State) : Host.Outcome State Fault Refusal :=
  match s.engine.find op with
  | some o => match o.job with | .wb j => .next (s.runWb op o j) | _ => .next s
  | none => .next s

/-- ENGINE_STOP: an operation stops at a failure (R270): one that it would meet of itself, or an error that a host port
answers for the page of `hostError`. One that meets none runs to its end. -/
def execEngineStop (op : Nat) (hostError : Option Nat) (s : State) : Host.Outcome State Fault Refusal :=
  match s.engine.find op with
  | some o =>
    match o.job with
    | .copy j => .next (s.runCopy op o j hostError)
    | .gs j => .next (s.runGs op o j hostError)
    | _ => .next s
  | none => .next s

end Sys2Proof.Machine
end

