-- ==== Sys2Proof/Machine/NetCode.lean ====
section
/-! DEFINITION. The Porong fragment code, and the ways of messages: engines, path entries and packets (R324, R331 to R334,
R382). -/
namespace Sys2Proof.Machine

/-! ### The field (R332) -/

/-- Multiply by x in GF(2^8). -/
def gfDouble (a : Nat) : Nat := if 128 ≤ a then Nat.xor (2 * a) 0x11D else 2 * a

/-- The product of two elements, over `n` bits of the second. -/
def gfMulFrom (a b : Nat) : Nat → Nat
  | 0 => 0
  | n + 1 => Nat.xor (if b % 2 = 1 then a else 0) (gfMulFrom (gfDouble a) (b / 2) n)

/-- The product of two elements. -/
def gfMul (a b : Nat) : Nat := gfMulFrom a b 8

/-- The n-th power of an element. -/
def gfPow (a : Nat) : Nat → Nat
  | 0 => 1
  | n + 1 => gfMul a (gfPow a n)

/-- The inverse: a^254. -/
def gfInv (a : Nat) : Nat := gfPow a 254

/-- The coefficient c(i, j) (R332). -/
def cauchy (i j : Nat) : Nat := gfInv (Nat.xor i (16 + j))

/-- A row times a coefficient, added to another. -/
def gfAddRow (c : Nat) (row onto : List Nat) : List Nat := List.zipWith (fun a b => Nat.xor (gfMul c a) b) row onto

/-- A row whose first column is not 0, brought to the front. -/
def gfPivot : List (List Nat) → Option (List Nat × List (List Nat))
  | [] => none
  | r :: rest =>
    if r.headD 0 ≠ 0 then some (r, rest) else (gfPivot rest).map fun p => (p.1, r :: p.2)

/-- Solve linear equations over GF(2^8): each row holds the coefficients of the `n` unknowns and then its right side. The
unknowns in order. -/
def gfSolve (rows : List (List Nat)) : Nat → List Nat
  | 0 => []
  | n + 1 =>
    match gfPivot rows with
    | none => List.replicate (n + 1) 0
    | some (p, rest) =>
      let inv := gfInv (p.headD 0)
      let p := p.map (gfMul inv)
      let left := rest.map fun r => (gfAddRow (r.headD 0) p r).drop 1
      let tail := gfSolve left n
      let rhs := (p.drop 1).getD n 0
      let x := ((p.drop 1).zip tail).foldl (fun v q => Nat.xor v (gfMul q.1 q.2)) rhs
      x :: tail

/-- Parity fragment j of some data fragments (R332), `n` bytes. -/
def parityOf (data : List (List Byte)) (j n : Nat) : List Byte :=
  (List.range n).map fun b =>
    BitVec.ofNat 8 (((List.range data.length).zip data).foldl
      (fun v p => Nat.xor v (gfMul (cauchy p.1 j) (p.2.getD b 0).toNat)) 0)

/-- Rebuild the missing data fragments of a stripe (R332) from those held and as many parity fragments; answers them with
their indices. -/
def rebuild (held parity : List (Nat × List Byte)) (missing : List Nat) (n : Nat) : List (Nat × List Byte) :=
  let par := parity.take missing.length
  let cols := (List.range n).map fun b =>
    gfSolve
      (par.map fun p =>
        (missing.map fun d => cauchy d p.1) ++
          [held.foldl (fun v h => Nat.xor v (gfMul (cauchy h.1 p.1) (h.2.getD b 0).toNat)) (p.2.getD b 0).toNat])
      missing.length
  ((List.range missing.length).zip missing).map fun m =>
    (m.2, cols.map fun c => BitVec.ofNat 8 (c.getD m.1 0))

/-! ### Cutting a message (R331) -/

/-- F of a message. -/
def fragSize (len k : Nat) : Nat := max 64 (min 4096 (64 * ceilDiv len (64 * k)))

/-- S of a message. -/
def stripeCount (len k f : Nat) : Nat := max 1 (ceilDiv len (k * f))

/-- A data fragment lies wholly beyond the message. -/
def beyond (len k f stripe d : Nat) : Bool := decide (len ≤ (stripe * k + d) * f)

/-! ### Engines and paths (R334, R382) -/

/-- The Ethernet ports that a function may use (R68, R334). -/
def State.portsOf (s : State) (vf : Nat) : List Nat :=
  (List.range 12).filter fun p =>
    match s.partitionOf vf with
    | some n => decide (s.mgmtF (0x1E18 + 0x20 * n) p p = 1)
    | none => (List.range 8).all fun n => decide (s.mgmtF (0x1E18 + 0x20 * n) p p = 0)

/-- The network engine of a function (R382): 0 for IOA, 1 for IOB. -/
def State.engineOf (s : State) (vf : Nat) : Option Nat := (s.portsOf vf).head?.map fun p => p / 6

/-- The offset of a register of an I/O die (R344). -/
def netOff (io off : Nat) : Nat := 0x4000 + 0x1000 * io + off

/-- This device's number. -/
def State.deviceId (s : State) (io : Nat) : Nat := s.mgmtF (netOff io 0x008) 15 0

/-- EPOCH of a function, as its engine keeps it. -/
def State.epochOf (s : State) (io vf : Nat) : Nat := s.mgmtF (netOff io (0x808 + 0x10 * vf)) 39 32

/-- NTIMEOUT in ticks. -/
def State.ntimeout (s : State) (io : Nat) : Nat := s.mgmtF (netOff io 0) 47 32 * 1000

/-- STRIPE_WAIT in ticks. -/
def State.stripeWait (s : State) (io : Nat) : Nat := s.mgmtF (netOff io 0) 31 16 * 1000

/-- The agent identifier of a network engine (R16). -/
def netAgent (io : Nat) : Nat := 4 * 512 + io

/-- The VALID path entries of a device (R334), in table order: port and entropy. None where the table cannot be read. -/
def State.pathEntries (s : State) (io dev : Nat) : List (Nat × Nat) :=
  if s.mgmtF (netOff io 0x018) 15 0 ≤ dev then []
  else
    match s.agentRead 0 4 (s.mgmtF (netOff io 0x010) 47 6 * 64 + 64 * dev) 64 with
    | none => []
    | some b =>
      ((List.range 16).map fun i => field b (4 * i) 4).filterMap fun e =>
        if bits e 31 31 = 1 ∧ bits e 30 27 < 12 then some (bits e 30 27, bits e 15 0) else none

/-- The usable path entries of a function to a device (R334), in table order. -/
def State.pathsTo (s : State) (io vf dev : Nat) : List (Nat × Nat) :=
  (s.pathEntries io dev).filter fun e => (s.portsOf vf).contains e.1

/-- The source unit of a sluice, of an Ethernet port (R345). -/
def sluiceUnit (io : Nat) : Nat := unit7 3 io

/-- Raise an event of the sluice of an I/O die. -/
def State.raiseSluice (s : State) (io type vf v0 v1 : Nat) : State := s.raise (8 + io) type vf (sluiceUnit io) v0 v1

/-! ### The Porong header (R333) -/

/-- The bytes of a packet: the 48-byte Porong header, in little-endian words, and the data. -/
def packetBytes (p : Packet) : List Byte :=
  toBytes (p.type % 16 * 2 ^ 60 + p.ver % 16 * 2 ^ 56 + p.k % 32 * 2 ^ 51 + p.m % 8 * 2 ^ 48 + p.msgId % 2 ^ 48) 8 ++
    toBytes (p.stripe % 2 ^ 32 * 2 ^ 32 + p.index % 32 * 2 ^ 27 + p.flen % 128 * 2 ^ 20 + p.round % 16 * 2 ^ 16 +
      p.epoch % 256 * 2 ^ 8 + p.op % 4) 8 ++
    toBytes (p.msgLen % 2 ^ 32 * 2 ^ 32 + p.immv.toNat) 8 ++
    toBytes (p.rkey.toNat * 2 ^ 32 + p.dcore % 256 * 2 ^ 24 + p.dvf % 128 * 2 ^ 17 + p.srcDev % 2 ^ 16) 8 ++
    toBytes (p.roff % 2 ^ 64) 8 ++
    toBytes (p.srcVf % 256 * 2 ^ 40 + (if p.atomWide then 2 ^ 35 else 0) + p.aop % 8 * 2 ^ 32) 8 ++ p.data

/-- The packet for a device whose bytes these are; reserved bits are read as zero (R9). -/
def packetOf (dev : Nat) (b : List Byte) : Packet :=
  let w := fun (i : Nat) => field b (8 * i) 8
  { type := bits (w 0) 63 60, ver := bits (w 0) 59 56, k := bits (w 0) 55 51, m := bits (w 0) 50 48,
    msgId := bits (w 0) 47 0, stripe := bits (w 1) 63 32, index := bits (w 1) 31 27, flen := bits (w 1) 26 20,
    round := bits (w 1) 19 16, epoch := bits (w 1) 15 8, op := bits (w 1) 1 0, msgLen := bits (w 2) 63 32,
    immv := BitVec.ofNat 32 (bits (w 2) 31 0), rkey := BitVec.ofNat 32 (bits (w 3) 63 32), dcore := bits (w 3) 31 24,
    dvf := bits (w 3) 23 17, dstDev := dev, srcDev := bits (w 3) 15 0, roff := w 4, srcVf := bits (w 5) 47 40,
    atomWide := decide (bits (w 5) 35 35 = 1), aop := bits (w 5) 34 32, data := b.drop 48 }

/-- The packet of some bytes, or the transport's own answer that they stand for (assumption 30). -/
def packetFrom (dev type : Nat) (b : List Byte) : Packet :=
  let p := packetOf dev b
  if 16 ≤ type then { p with type := type } else p

/-! ### Die links (R14, R340) -/

/-- The key of the link from one die to another. -/
def linkKey (src dst : Nat) : Nat := src * 16 + dst

/-- The link from one die to another. -/
def State.link (s : State) (src dst : Nat) : DieLink := s.net.links.get (linkKey src dst) .reset

/-- Set the link from one die to another. -/
def State.setLink (s : State) (src dst : Nat) (l : DieLink) : State :=
  s.modNet fun n => { n with links := n.links.put (linkKey src dst) l }

/-- The groups of a link that are in service. -/
def DieLink.groups (l : DieLink) : List Nat := (List.range 4).filter fun g => !l.lost.contains g

/-- k and m over g working groups (R340). -/
def linkCode (g : Nat) : Nat × Nat := if g ≤ 1 then (1, 0) else (g - 1, 1)

/-- The flits of a stripe: k of data, then the parity (R332, R340). -/
def linkFlits (b : List Byte) (k m : Nat) : List (List Byte) :=
  let data := (List.range k).map fun d => ((b.drop (64 * d)).take 64 ++ List.replicate 64 0).take 64
  data ++ (List.range m).map fun j => parityOf data j 64

/-- Send some flits of a stripe, one over each group in service (R340): each arrives as an act to come. Without a group no
traffic passes (R14). -/
def State.sendFlits (s : State) (src dst stripe : Nat) (indices : List Nat) : State :=
  let l := s.link src dst
  let groups := l.groups
  match l.sent.find stripe with
  | none => s
  | some t =>
    let flits := ((List.range indices.length).zip indices).filterMap fun p =>
      match groups[p.1 % max 1 groups.length]?, t.flits[p.2]? with
      | some g, some d => some (Act.flit src dst
          { stripe := stripe, index := p.2, group := g, k := t.k, m := t.m, data := d })
      | _, _ => none
    { s with agenda := s.agenda ++ flits }

/-- A packet crosses from one die to another in stripes of flits (R340, R382). -/
def State.sendLink (s : State) (src dst : Nat) (p : Packet) (port : Option (Nat × Nat)) : State :=
  let l := s.link src dst
  let c := linkCode l.groups.length
  let b := packetBytes p
  let n := ceilDiv b.length (64 * c.1)
  let first := max l.made l.next
  let stripes := (List.range n).map fun i =>
    (first + i, ({ k := c.1, m := c.2, flits := linkFlits (b.drop (64 * c.1 * i)) c.1 c.2, sentAt := s.gtc } : SentStripe))
  let cargo : LinkCargo :=
    { first := first, last := first + n - 1, len := b.length, dev := p.dstDev, type := p.type, port := port }
  let s := s.setLink src dst { l with made := first + n, cargo := l.cargo ++ [cargo],
                                      sent := stripes.foldl (fun (t : Tbl SentStripe) e => t.put e.1 e.2) l.sent }
  stripes.foldl (fun s e => s.sendFlits src dst e.1 (List.range (c.1 + c.2))) s

/-! ### Packets -/

/-- A packet leaves the package by one of its own I/O die's ports (R324, R334). -/
def State.onWire (s : State) (p : Packet) (port entropy : Nat) : State :=
  let w : WirePacket :=
    { port := port, entropy := entropy, reliable := decide (p.m = 0), dev := p.dstDev, type := p.type,
      payload := packetBytes p }
  s.modNet fun n => { n with wire := n.wire ++ [w] }

/-- A packet leaves by a path entry; one for a port of the other I/O die crosses the link between them (R382). -/
def State.sendPort (s : State) (io : Nat) (p : Packet) (e : Nat × Nat) : State :=
  if e.1 / 6 = io then s.onWire p e.1 e.2 else s.sendLink (8 + io) (8 + e.1 / 6) p (some e)

/-- A packet for a function of this device reaches its engine (R334, R382): as die-to-die traffic where that lies on the
other I/O die (R340), as an act to come. -/
def State.sendHere (s : State) (io : Nat) (p : Packet) : State :=
  let dst := (s.engineOf p.dvf).getD io
  if dst = io then { s with agenda := s.agenda ++ [.packet io p] } else s.sendLink (8 + io) (8 + dst) p none

/-- Send a packet of a function: to another device over path entry `e` of those usable (R334), or within this device.
Without a usable entry a packet is lost. Types from 16 on are the transport's own answers (R324, R335; assumption 30): 16 a
NACK of the resource kind, 17 a refusal of the message, 18 an unsupported part, 19 the congestion signal of a trimmed
packet. -/
def State.sendPacket (s : State) (io vf : Nat) (p : Packet) (e : Nat) : State :=
  if p.dstDev = s.deviceId io then s.sendHere io p
  else
    let paths := s.pathsTo io vf p.dstDev
    match paths[e % max 1 paths.length]? with
    | some q => s.sendPort io p q
    | none => s

/-- The path entry of a fragment (R334). -/
def pathIndex (msg stripe n i round : Nat) : Nat := msg + stripe * n + i + round * n

/-- An answer to the sender of a packet, from the function it was for. -/
def State.answerTo (s : State) (io : Nat) (p : Packet) (type stripe : Nat) (immv : Word) (round : Nat) (data : List Byte) :
    State :=
  let r : Packet :=
    { p with type := type, ver := 1, stripe := stripe, index := 0, round := round, immv := immv, dvf := p.srcVf,
             dstDev := p.srcDev, srcDev := s.deviceId io, srcVf := p.dvf,
             epoch := s.net.peers.get (p.srcDev * 128 + p.srcVf) 0, data := data }
  s.sendPacket io p.dvf r (pathIndex p.msgId stripe (p.k + p.m) 0 round)

/-- A message for a function without an engine is refused (R382): by the engine of the I/O die it has come to, over any VALID
entry of that engine's path table, since the function has no port of its own (assumption 53). -/
def State.refuseHere (s : State) (io : Nat) (p : Packet) : State :=
  let r : Packet :=
    { p with type := 17, ver := 1, index := 0, immv := 0, dvf := p.srcVf, dstDev := p.srcDev, srcDev := s.deviceId io,
             srcVf := p.dvf, data := [] }
  if p.srcDev = s.deviceId io then s.sendHere io r
  else match s.pathEntries io p.srcDev with | e :: _ => s.sendPort io r e | [] => s

/-- A target-reset indication of a function, to a peer (R342). -/
def State.indicateReset (s : State) (io vf dev peer : Nat) (p : Packet) : State :=
  let r : Packet :=
    { p with type := 6, ver := 1, dvf := peer, dstDev := dev, srcDev := s.deviceId io, srcVf := vf,
             epoch := s.epochOf io vf, data := [] }
  s.sendPacket io vf r p.msgId

/-- Packets are late when their EPOCH is older than their destination's (R339), modulo 256 by half the range (DEDUCED,
assumption 75). -/
def epochOlder (e now : Nat) : Bool := decide (0 < (now + 256 - e % 256) % 256 ∧ (now + 256 - e % 256) % 256 < 128)

end Sys2Proof.Machine
end

