-- ==== Sys2Proof/Machine/NetSend.lean ====
section
/-! DEFINITION. The sending side of the network engines: NPOST, NPOLL and KSEND, the fragments sent, and the ends of
operations (R85, R224, R325 to R328, R331, R334, R335, R337, R338). -/
namespace Sys2Proof.Machine

/-! ### Work requests (R325) -/

/-- A work request. -/
structure NetRequest where
  op : Nat
  cntInc : Bool
  kmOvr : Bool
  imm : Bool
  rclass : Nat
  k : Nat
  m : Nat
  dcore : Nat
  dvf : Nat
  ddev : Nat
  laddr : Nat
  len : Nat
  immv : Word
  roff : Nat
  rkey : Nat
  aop : Nat
  cntAddr : Nat
  aarg : DWord
  aarg2 : DWord
  deriving DecidableEq, Repr

/-- A work request from its 64 bytes; the low three bits of CNTADDR are read as zero (assumption 31). -/
def NetRequest.ofBytes (b : List Byte) : NetRequest :=
  { op := field b 0 1, cntInc := decide (bits (field b 1 1) 0 0 = 1), kmOvr := decide (bits (field b 1 1) 1 1 = 1),
    imm := decide (bits (field b 1 1) 2 2 = 1), rclass := field b 2 1, k := bits (field b 3 1) 7 4 + 1,
    m := bits (field b 3 1) 2 0, dcore := field b 4 1, dvf := field b 5 1, ddev := field b 6 2, laddr := field b 8 8,
    len := field b 16 4, immv := BitVec.ofNat 32 (field b 20 4), roff := field b 24 8, rkey := field b 32 4,
    aop := field b 36 1, cntAddr := field b 40 8 / 8 * 8, aarg := BitVec.ofNat 64 (field b 48 8),
    aarg2 := BitVec.ofNat 64 (field b 56 8) }

/-- A work request that performs ILLEGAL (R326). -/
def NetRequest.illegal (q : NetRequest) : Bool :=
  decide (3 < q.op ∨ 7 < q.rclass ∨ 127 < q.dvf ∨ 4 < q.m) || (decide (q.op = 3) && decide (7 < q.aop ∨ (q.len ≠ 4 ∧ q.len ≠ 8)))

/-- k and m of a message (R331). -/
def State.codeFor (s : State) (io : Nat) (q : NetRequest) : Nat × Nat :=
  let c := netOff io (0x020 + 8 * q.rclass)
  let km := if q.kmOvr then (q.k, q.m) else (s.mgmtF c 7 4 + 1, s.mgmtF c 2 0)
  if q.op = 3 then (1, km.2) else km

/-- The number of a function's next message (R333). -/
def State.newMessage (s : State) (vf : Nat) : Nat × State :=
  let n := s.net.nextMsg.get vf 0
  (n, s.modNet fun t => { t with nextMsg := t.nextMsg.put vf ((n + 1) % 2 ^ 48) })

/-- A posted operation. An engine number of 2 says that the function has none (R382). -/
def State.netJob (s : State) (vf space request len : Nat) (q : NetRequest) (kslot : Option Nat) : NetJob × State :=
  let io := (s.engineOf vf).getD 2
  let km := s.codeFor io q
  let f := fragSize len km.1
  let r := s.newMessage vf
  ({ op := q.op, io := io, vf := vf, request := request, space := space, laddr := q.laddr, len := len,
     immv := if q.imm then q.immv else 0, roff := q.roff, rkey := q.rkey, aop := q.aop, aarg := q.aarg,
     aarg2 := q.aarg2, counter := if q.cntInc then some q.cntAddr else none, ddev := q.ddev, dvf := q.dvf,
     dcore := q.dcore, k := km.1, m := km.2, frag := f, stripes := stripeCount len km.1 f, msgId := r.1,
     epoch := s.net.peers.get (q.ddev * 128 + q.dvf) 0, state := .waiting, rounds := 0, sent := [], acked := [],
     progress := s.gtc, probed := none, kslot := kslot, replied := false }, r.2)

/-! ### The ends of operations (R327) -/

/-- The pages of an operation are held no more: who waits for their invalidation looks again (R367). -/
def State.releasePages (s : State) (id : Nat) : State :=
  let waiting := s.coh.translations.filter fun p => decide (p.2 = id ∧ 128 ≤ p.1)
  let s := s.modCoh fun c => { c with translations := c.translations.filter fun p => decide (p.2 ≠ id) }
  waiting.foldl (fun s p => s.recheck (p.1 - 128)) s

/-- An operation that has ended. -/
def NetState.ended : NetState → Bool
  | .waiting | .inFlight => false
  | _ => true

/-- The record of an operation lasts until the operation leaves its fibre's counter (R328). -/
def State.pruneNet (s : State) (key : Nat) : State :=
  let kept : List Nat := match s.fibres.find key with | some f => f.counted.map Counted.op | none => []
  { s with engine := s.engine.select fun id o =>
      match o.job with
      | .net j => !(decide (o.fibre = key) && j.state.ended && !kept.contains id)
      | _ => true }

/-- What becomes of the continuation that an operation has sent (R85, R327): delivered, its slot and segments are freed;
else it may be consumed again. -/
def State.settleK (s : State) (j : NetJob) (done : Bool) : State :=
  match j.kslot with
  | none => s
  | some slot =>
    match s.kobjs.find (kKey j.vf slot) with
    | none => s
    | some k =>
      if done then
        let s := s.freeSegs j.vf (s.kSegs j.vf k)
        { s with kobjs := s.kobjs.put (kKey j.vf slot) { k with free := true, replay := [], heldStores := [] } }
      else { s with kobjs := s.kobjs.put (kKey j.vf slot) { k with state := 0 } }

/-- An operation ends. -/
def State.netEnd (s : State) (id : Nat) (o : EngineOp) (j : NetJob) (st : NetState) (stop : Option Stopped) : State :=
  let s := s.settleK j (decide (st = .done))
  let ended : EngineOp := { o with pages := [], writes := [], release := none, job := .net { j with state := st } }
  let s := { s with engine := s.engine.put id ended }
  (((s.releasePages id).settleOp o.fibre id stop)).pruneNet o.fibre

/-- ADDR of an operation's effect (R327). -/
def NetJob.addr (j : NetJob) : DWord := BitVec.ofNat 64 (if j.op = 2 then j.laddr else j.request)

/-- An operation ends with NET_LOSS. -/
def State.netLoss (s : State) (id : Nat) (o : EngineOp) (j : NetJob) (st : NetState) : State :=
  s.netEnd id o j st (some { tag := 9, addr := j.addr, info := 0 })

/-- The counter word of an operation is incremented at its home, as an atomic add ordered as REL.core (R327). -/
def State.startCount (s : State) (id : Nat) (o : EngineOp) (j : NetJob) (va : Nat) : State :=
  let bad := fun (soft : Bool) => s.netEnd id o j .lost (some (stoppedAt va 0 soft))
  match pageAddress o.pages va with
  | none => bad false
  | some pa =>
    if s.arrives o.vf 4 pa true = false then s.netLoss id o j .refused
    else if s.portInactive pa then bad false
    else
    match s.storeBad o.core o.vf va pa false with
    | some b => bad (decide (b = .soft))
    | none =>
      let r := s.nextId
      let s := s.fresh.2
      let free := isHostLine (lineOf pa) || decide ((s.objectAt o.vf va).1 = .stream)
      let add : OrdOp :=
        { kind := .atomn 0, stage := .served, agent := netAgent j.io, fibre := none, vf := o.vf,
          space := if free then 6 else 0, addr := pa, size := 8, scope := 1, value := 1, value2 := 0, targets := [],
          writes := [], lines := [], hostWrites := [], lost := false, result := 0, since := s.gtc }
      let s := s.setOrd r add
      let s := s.tryComplete r
      { s with engine := s.engine.put id { o with release := some r } }

/-- An operation whose every stripe is acknowledged, and whose atomic's result is written, counts and ends DONE (R327). -/
def State.finishNet (s : State) (id : Nat) : State :=
  match s.engine.find id with
  | none => s
  | some o =>
    match o.job with
    | .net j =>
      if j.state ≠ .inFlight ∨ j.acked.length < j.stripes ∨ (j.op = 3 ∧ j.replied = false) ∨
          s.performed o.writes [] = false then s
      else
        match j.counter, o.release with
        | none, _ => s.netEnd id o j .done none
        | some va, none =>
          let s := s.startCount id o j va
          match s.engine.find id with
          | some o =>
            match o.job, o.release with
            | .net j, some r => if j.state = .inFlight ∧ (s.coh.ops.find r).isNone then s.netEnd id o j .done none else s
            | _, _ => s
          | none => s
        | some _, some r =>
          let s := s.tryComplete r
          if (s.coh.ops.find r).isNone then s.netEnd id o j .done none else s
    | _ => s

/-! ### Fragments (R331 to R334) -/

/-- The bytes of a KSEND message (R341): the slot, the segments from TOP to the bottom, and the held stores. -/
def State.kPayload (s : State) (vf slot : Nat) : List Byte :=
  match s.kobjs.find (kKey vf slot) with
  | none => []
  | some k =>
    k.toBytes ++ (s.kSegs vf k).flatMap (fun a => (s.seg (segKey vf a)).toBytes) ++ k.heldStores.flatMap Deferred.toBytes

/-- A byte of the source of an operation, at its home. -/
def State.sourceByte (s : State) (o : EngineOp) (va : Nat) : Byte :=
  if s.inBacking o.vf va then s.backingByte o.vf va
  else match pageAddress o.pages va with | some pa => s.store.phys.read pa | none => 0

/-- `n` bytes from offset `a` of the message that the code covers; bytes at or beyond its length are zero (R331), and an
atomic's are its operands (R333). -/
def State.messageBytes (s : State) (o : EngineOp) (j : NetJob) (a n : Nat) : List Byte :=
  let pad := fun (l : List Byte) => (l ++ List.replicate n 0).take n
  match j.op with
  | 2 => pad ((match j.kslot with | some slot => s.kPayload j.vf slot | none => []).drop a)
  | 3 => pad ((toBytes j.aarg.toNat 8 ++ toBytes j.aarg2.toNat 8).drop a)
  | _ => pad ((upto (j.laddr + a) (min n (j.len - a))).map (s.sourceByte o))

/-- The failure that an engine meets in reading a stripe's source (R270). -/
def State.sourceFails (s : State) (o : EngineOp) (j : NetJob) (stripe : Nat) : Option Stopped :=
  if 2 ≤ j.op then none
  else
    let a := stripe * j.k * j.frag
    let n := min (j.k * j.frag) (j.len - a)
    let at_ := (upto 0 (n / 64 + 2)).map fun i => max (j.laddr + a) (lineOf (j.laddr + a) + 64 * i)
    ((at_.filter fun v => decide (v < j.laddr + a + n)).findSome? fun v =>
      (s.readFails o.vf 4 o.pages 0 v none).map fun p => stoppedAt v 0 p)

/-- A page that an operation's engine must reach is kept from the network engines by the windows (R368): REFUSED. -/
def State.pageRefused (s : State) (o : EngineOp) (va n : Nat) (write : Bool) : Bool :=
  (pagesOf va n).any fun p =>
    match o.pages.lookup p with | some pa => !s.arrives o.vf 4 pa write | none => false

/-- A stripe's source is refused at its target. -/
def State.sourceRefused (s : State) (o : EngineOp) (j : NetJob) (stripe : Nat) : Bool :=
  let a := stripe * j.k * j.frag
  decide (j.op < 2) && s.pageRefused o (j.laddr + a) (min (j.k * j.frag) (j.len - a)) false

/-- A fragment as a packet (R333). -/
def State.fragment (s : State) (j : NetJob) (stripe index round : Nat) (data : List Byte) : Packet :=
  { type := if index < j.k then 0 else 1, ver := 1, k := j.k, m := j.m, msgId := j.msgId, stripe := stripe,
    index := index, flen := j.frag / 64, round := round, epoch := j.epoch, op := j.op, msgLen := j.len, immv := j.immv,
    rkey := BitVec.ofNat 32 j.rkey, dcore := j.dcore, dvf := j.dvf, dstDev := j.ddev, srcDev := s.deviceId j.io,
    srcVf := j.vf, roff := j.roff, atomWide := decide (j.len = 8), aop := j.aop, data := data }

/-- Send some fragments of a stripe in a round. -/
def State.sendFragments (s : State) (o : EngineOp) (j : NetJob) (stripe round : Nat) (indices : List Nat) : State :=
  let data := (List.range j.k).map fun d => s.messageBytes o j ((stripe * j.k + d) * j.frag) j.frag
  (indices.filter fun i => decide (j.k ≤ i) || !beyond j.len j.k j.frag stripe i).foldl (fun s i =>
    let b := if i < j.k then data.getD i [] else parityOf data (i - j.k) j.frag
    s.sendPacket j.io j.vf (s.fragment j stripe i round b) (pathIndex j.msgId stripe (j.k + j.m) i round)) s

/-- An operation finds no way to its device (R334, R382). -/
def State.noRoute (s : State) (j : NetJob) : Bool :=
  decide (2 ≤ j.io) ||
    (decide (j.ddev ≠ s.deviceId j.io) && decide ((s.pathsTo j.io j.vf j.ddev).length < j.k + j.m))

/-- Send a stripe that is not on its way, in round 0 (R331, R335). The write-backs of NPOST have been performed first
(R326). -/
def State.sendStripe (s : State) (id stripe : Nat) : State :=
  match s.engine.find id with
  | none => s
  | some o =>
    match o.job with
    | .net j =>
      if j.state.ended ∨ j.stripes ≤ stripe ∨ j.sent.contains stripe = true ∨ j.acked.contains stripe = true ∨
          s.performed o.writes [] = false then s
      else if s.noRoute j then s.netLoss id o j .noRoute
      else if s.sourceRefused o j stripe then s.netLoss id o j .refused
      else
        match s.sourceFails o j stripe with
        | some st => s.netEnd id o j .lost (some st)
        | none =>
          let first := decide (j.state = .waiting)
          let j := { j with state := .inFlight, sent := stripe :: j.sent,
                            progress := if first then s.gtc else j.progress }
          let s := { s with engine := s.engine.put id { o with job := .net j } }
          s.sendFragments o j stripe 0 (List.range (j.k + j.m))
    | _ => s

/-- STRIPE_SEND (R331). -/
def execStripeSend (op stripe : Nat) (s : State) : Host.Outcome State Fault Refusal := .next (s.sendStripe op stripe)

/-- STRIPE_RESEND (R335): after the backoff that NSCC sets, which the specification leaves open. -/
def execStripeResend (op stripe : Nat) (s : State) : Host.Outcome State Fault Refusal := .next (s.sendStripe op stripe)

/-- A message is lost (R338): its operation ends LOST, and an abort is sent. -/
def State.loseMessage (s : State) (id : Nat) (o : EngineOp) (j : NetJob) : State :=
  let s := s.countMgmt (netOff j.io 0x068) 15 0
  let port := match (s.pathsTo j.io j.vf j.ddev) with | (p, _) :: _ => p | [] => 6 * j.io
  let s := s.raise (8 + port / 6) 0x0014 j.vf (unit7 4 port) (j.msgId % 2 ^ 32) (j.stripes - j.acked.length)
  let abort : Packet := { s.fragment j 0 0 0 [] with type := 5 }
  (s.sendPacket j.io j.vf abort (pathIndex j.msgId 0 (j.k + j.m) 0 0)).netLoss id o j .lost

/-- NTIMEOUT_EXPIRY (R338): a probe is sent NTIMEOUT after the last progress. -/
def execNtimeoutExpiry (op : Nat) (s : State) : Host.Outcome State Fault Refusal :=
  match s.engine.find op with
  | none => .next s
  | some o =>
    match o.job with
    | .net j =>
      if j.state ≠ .inFlight ∨ j.probed.isSome = true ∨ s.gtc < j.progress + s.ntimeout j.io then .next s
      else
        let s := { s with engine := s.engine.put op { o with job := .net { j with probed := some s.gtc } } }
        let probe : Packet := { s.fragment j 0 0 0 [] with type := 4 }
        .next (s.sendPacket j.io j.vf probe (pathIndex j.msgId 0 (j.k + j.m) 0 0))
    | _ => .next s

/-- PROBE_WAIT_EXPIRY (R338): STRIPE_WAIT after a probe that has brought no progress, the message is lost. -/
def execProbeWaitExpiry (op : Nat) (s : State) : Host.Outcome State Fault Refusal :=
  match s.engine.find op with
  | none => .next s
  | some o =>
    match o.job with
    | .net j =>
      match j.probed with
      | some t => if j.state ≠ .inFlight ∨ s.gtc < t + s.stripeWait j.io then .next s else .next (s.loseMessage op o j)
      | none => .next s
    | _ => .next s

/-! ### Answers to the sender -/

/-- The operation that an answer is for. -/
def State.senderOf (s : State) (p : Packet) : Option (Nat × EngineOp × NetJob) :=
  s.engine.findSome? fun e =>
    match e.2.job with
    | .net j =>
      if j.state.ended = false ∧ j.vf = p.dvf ∧ j.msgId = p.msgId ∧ j.ddev = p.srcDev ∧ j.dvf = p.srcVf then
        some (e.1, e.2, j)
      else none
    | _ => none

/-- A stripe acknowledgement (R327, R338): one not acknowledged before is progress. -/
def State.takeAck (s : State) (p : Packet) : State :=
  match s.senderOf p with
  | none => s
  | some (id, o, j) =>
    let new := (if p.stripe = 0xFFFFFFFF then List.range j.stripes else [p.stripe]).filter fun t =>
      decide (t < j.stripes) && !j.acked.contains t
    if new.isEmpty then s
    else
      let j := { j with acked := new ++ j.acked, progress := s.gtc, probed := none }
      State.finishNet { s with engine := s.engine.put id { o with job := .net j } } id

/-- A retransmit request (R337): the fragments asked for are computed afresh and sent in the next round; one that would
start a round beyond NRETRY loses the message (R338). A request never asks for round 0: a ROUND of 0 there is round 16, the one
after 15 (R333; assumption 36). A sender that finds too few ways ends NOROUTE (R334). -/
def State.takeRequest (s : State) (p : Packet) : State :=
  match s.senderOf p with
  | none => s
  | some (id, o, j) =>
    let round := if p.round = 0 then 16 else p.round
    if j.stripes ≤ p.stripe then s
    else if s.mgmtF (netOff j.io 0) 3 0 < round then s.loseMessage id o j
    else if s.noRoute j then s.netLoss id o j .noRoute
    else if s.sourceRefused o j p.stripe then s.netLoss id o j .refused
    else
      match s.sourceFails o j p.stripe with
      | some st => s.netEnd id o j .lost (some st)
      | none =>
        let j := { j with rounds := max j.rounds round }
        let s := { s with engine := s.engine.put id { o with job := .net j } }
        s.sendFragments o j p.stripe round ((List.range (j.k + j.m)).filter fun i => decide (bits p.immv.toNat i i = 1))

/-- What stops the write of an atomic's old value at LADDR (R135, R136, R270, R363, R366). -/
def State.replyFails (s : State) (o : EngineOp) (j : NetJob) : Option Stopped :=
  (upto j.laddr 8).findSome? fun a => (s.writeFails o.core o.vf 4 o.pages 0 a j.laddr 8 none).map fun p => stoppedAt a 0 p

/-- The old value of an atomic comes back and is written at LADDR (R327, R330); where that cannot be, the operation stops. -/
def State.takeReply (s : State) (p : Packet) : State :=
  match s.senderOf p with
  | none => s
  | some (id, o, j) =>
    if j.op ≠ 3 ∨ j.replied = true then s
    else if s.pageRefused o j.laddr 8 true then s.netLoss id o j .refused
    else
    match s.replyFails o j with
    | some st => s.netEnd id o j .lost (some st)
    | none =>
      let cells := (cellsAt j.laddr ((p.data ++ List.replicate 8 0).take 8)).filterMap fun c =>
        (pageAddress o.pages c.1).map fun pa => (pa, c.2)
      let w := (dedup (cells.map fun c => lineOf c.1)).foldl (fun (a : List (Nat × Nat) × State) line =>
        let r := a.2.sendHome none o.vf line (cells.filter fun c => decide (lineOf c.1 = line))
        (a.1 ++ [(line, r.1)], r.2)) ([], s)
      let s := { w.2 with engine := w.2.engine.put id { o with writes := w.1, job := .net { j with replied := true } } }
      s.finishNet id

/-- A transport answer (R324, R335): a NACK of the resource kind lets the stripe be sent again; a refusal ends the
operation REFUSED (R327). -/
def State.takeNack (s : State) (p : Packet) : State :=
  match s.senderOf p with
  | none => s
  | some (id, o, j) =>
    match p.type with
    | 16 =>
      let j := { j with sent := j.sent.filter fun t => decide (t ≠ p.stripe) }
      { s with engine := s.engine.put id { o with job := .net j } }
    | 17 => s.netLoss id o j .refused
    | _ => s

/-! ### Instructions -/

/-- Hand an operation to the engine: the lines of its ranges are written back first (R326). -/
def LaneIn.startNet (x : LaneIn) (s : State) (lines : List Nat) (pages : List (Nat × Nat)) (j : NetJob) : LaneRes :=
  let r := s.flushLines (coreOf x.key) x.f.tenant lines
  .next (r.2.startEngine x.key x.f.tenant 3 pages (.net j) r.1 []).2

/-- KSEND by a fibre (R85, R224, R341): the checks on the handle, STATE 3, and the operation; the write-back of `lines` comes
first. -/
def LaneIn.sendK (x : LaneIn) (s : State) (space request : Nat) (q : NetRequest) (pages : List (Nat × Nat))
    (lines : List Nat) : LaneRes :=
  let vf := x.f.tenant
  match s.checkHandle vf (BitVec.ofNat 64 q.laddr) with
  | .error tag => .effectIn s (effectOf x.own tag 0 0)
  | .ok (slot, k) =>
    let s := { s with kobjs := s.kobjs.put (kKey vf slot) { k with state := 3 } }
    let r := s.netJob vf space request (256 + 1024 * (s.kSegs vf k).length + 32 * k.heldStores.length) q (some slot)
    x.startNet r.2 lines pages r.1

/-- The request of a KSEND instruction (R224). -/
def ksendRequest (h : DWord) (c d : Nat) : NetRequest :=
  { NetRequest.ofBytes [] with op := 2, laddr := h.toNat, ddev := bits c 15 0, dcore := bits c 23 16,
                               rclass := bits c 26 24, dvf := bits d 6 0 }

/-- KSEND (R224). -/
def execKsend (f : FormW) (s : State) : Host.Outcome State Fault Refusal :=
  s.plain (.ksend f) fun x s =>
    let c := (loWord x.c).toNat
    let d := (loWord x.d).toNat
    match x.engineStop s 3 true with
    | some r => r
    | none =>
      if bits c 31 27 ≠ 0 ∨ bits d 31 7 ≠ 0 then x.illegal
      else x.sendK s 2 x.b.toNat (ksendRequest x.b c d) [] []

/-- The ranges that NPOST translates (R326). -/
def NetRequest.ranges (q : NetRequest) : List (Nat × Nat × Nat × Bool) :=
  (match q.op with | 2 => [] | 3 => [(0, q.laddr, 8, true)] | _ => [(0, q.laddr, q.len, false)]) ++
    if q.cntInc then [(0, q.cntAddr, 8, true)] else []

/-- NPOST of a work request that has been read (R326): its lines, and those of its source range, have begun to be written
back. The K handle of a KSEND is checked before CNTADDR is translated. -/
def LaneIn.post (x : LaneIn) (s : State) (space a : Nat) (q : NetRequest) (lines : List Nat) : LaneRes :=
  if q.illegal then .effectIn s (effectOf x.own 12 0 0)
  else
    match (if q.op = 2 then s.checkHandle x.f.tenant (BitVec.ofNat 64 q.laddr) else .error 0), decide (q.op = 2) with
    | .error tag, true => .effectIn s (effectOf x.own tag 0 0)
    | _, _ =>
    match x.engineRanges s q.ranges with
    | .error e => e.on s
    | .ok pages =>
      if q.op = 2 then x.sendK s space a q pages lines
      else
        let r := s.netJob x.f.tenant space a q.len q none
        x.startNet r.2 lines pages r.1

/-- The lines of an NPOST's source range (R326). -/
def State.sourceLines (s : State) (vf : Nat) (q : NetRequest) : List Nat :=
  s.rangeLines vf q.laddr (if q.op < 2 then q.len else 0)

/-- NPOST (R326). -/
def execNpost (f : FormW) (s : State) : Host.Outcome State Fault Refusal :=
  s.plain (.npost f) fun x s =>
    let space := spaceOf f
    let a := engineAddr space x.b
    let core := coreOf x.key
    let vf := x.f.tenant
    match x.engineStop s 3 true with
    | some r => r
    | none =>
      let own := if space = 0 then s.rangeLines vf a 64 else []
      let s := (s.flushLines core vf own).2
      if 1 < space then .effectIn s (effectOf x.own 12 0 0)
      else
        match x.readBlock s space a with
        | .error e => e.on s
        | .ok (s, b) =>
          let q := NetRequest.ofBytes b
          let lines := own ++ s.sourceLines vf q
          x.post (s.flushLines core vf lines).2 space a q lines

/-- The state codes of R327 and R328. -/
def NetState.code : NetState → Nat
  | .waiting => 1
  | .inFlight => 2
  | .done => 3
  | .lost => 4
  | .peerReset => 5
  | .refused => 6
  | .noRoute => 7
  | .cancelled => 8

/-- The operation that was last posted from a work request and has not left its counter (R328). -/
def State.postedFrom (s : State) (core vf space a : Nat) : Option NetJob :=
  (s.engine.filterMap fun e =>
    match e.2.job with
    | .net j =>
      let counted := match s.fibres.find e.2.fibre with
        | some f => f.counted.any fun c => decide (c.op = e.1)
        | none => false
      if e.2.vf = vf ∧ j.space = space ∧ j.request = a ∧ (space = 0 ∨ e.2.core = core) ∧ counted = true then some j
      else none
    | _ => none).getLast?

/-- NPOLL (R328). -/
def execNpoll (f : FormW) (s : State) : Host.Outcome State Fault Refusal :=
  s.plain (.npoll f) fun x s =>
    let space := spaceOf f
    if 1 < space then x.illegal
    else
      let v := match s.postedFrom (coreOf x.key) x.f.tenant space (engineAddr space x.b) with
        | some j => j.state.code + min j.rounds 255 * 2 ^ 8 + j.acked.length * 2 ^ 16
        | none => 0
      .outs true (outPair f.a.toNat true (BitVec.ofNat 64 v)) 0 none

end Sys2Proof.Machine
end

