-- ==== Sys2Proof/Machine/NetReceive.lean ====
section
/-! DEFINITION. The receiving side of the network engines: keys, admission, placement, rebuilding, acknowledgement, the ends
of messages, and continuations that arrive (R86, R225, R329, R330, R335 to R343). -/
namespace Sys2Proof.Machine

/-! ### Memory at its homes -/

/-- Bytes that a network engine reads at their homes for a function, or of its backing area (R71); none where it may not read one
(R368), or a line is poisoned (R136). -/
def State.netRead (s : State) (vf va : Nat) : Nat → Option (List Byte)
  | 0 => some []
  | n + 1 =>
    match s.agentAddress vf 4 va false, State.netRead s vf (va + 1) n with
    | some pa, some rest =>
      if s.isPoisoned (lineOf pa) then none
      else some ((if s.inBacking vf va then s.backingByte vf va else s.homeByteNow pa) :: rest)
    | _, _ => none

/-- Bytes that a network engine writes through their homes for a function (R122, R127, R330), line by line; none where a line
is out of its reach (R368), sealed (R135) or backing (R71). -/
def State.netWrite (s : State) (vf va : Nat) (data : List Byte) : Option (List (Nat × Nat) × State) :=
  let cells := cellsAt va data
  (dedup (cells.map fun c => lineOf c.1)).foldl (fun (a : Option (List (Nat × Nat) × State)) line =>
    match a with
    | none => none
    | some (ws, s) =>
      match s.agentAddress vf 4 line true with
      | none => none
      | some pa =>
        if s.isSealed (lineOf pa) ∨ s.inBacking vf line = true then none
        else
          let mine := (cells.filter fun c => decide (lineOf c.1 = line)).map fun c => (lineOf pa + c.1 % 64, c.2)
          let r := s.sendHome none vf (lineOf pa) mine
          some (ws ++ [(lineOf pa, r.1)], r.2)) (some ([], s))

/-! ### Keys (R329) -/

/-- A key entry from its bytes. -/
def KeyEntry.ofBytes (b : List Byte) : KeyEntry :=
  { base := field b 0 8, len := field b 8 8, counter := field b 16 8 / 8 * 8, flags := BitVec.ofNat 16 (field b 24 2),
    gen := field b 26 2 % 4096, ci := field b 28 4, peerDev := field b 32 2, peerVf := field b 34 1 }

/-- A bit of KFLAGS. -/
def KeyEntry.flag (e : KeyEntry) (i : Nat) : Bool := e.flags.getLsbD i

/-- The address of a key entry of a function. -/
def State.keyAddress (s : State) (io vf index : Nat) : Nat := s.mgmtF (netOff io (0x800 + 0x10 * vf)) 47 6 * 64 + 64 * index

/-- The key entry of an index. -/
def State.keyEntry (s : State) (io vf index : Nat) : Option KeyEntry :=
  if s.mgmtF (netOff io (0x808 + 0x10 * vf)) 19 0 ≤ index then none
  else (s.agentRead vf 4 (s.keyAddress io vf index) 64).map KeyEntry.ofBytes

/-- Bytes of a slot of a SEND ring. -/
def KeyEntry.slotSize (e : KeyEntry) : Nat := 2 ^ (6 + bits e.flags.toNat 7 4)

/-- The bytes that an atomic message names. -/
def atomSize (p : Packet) : Nat := if p.atomWide then 8 else 4

/-- The checks on a message (R330). An atomic's word must be aligned and within reach (assumption 32). -/
def State.keyAllows (s : State) (p : Packet) (e : KeyEntry) : Bool :=
  e.flag 0 && decide (e.gen = p.rkey.toNat % 4096) &&
    (decide (e.counter = 0) || s.mayReach p.dvf 4 e.counter 8 true) &&
    match p.op with
    | 0 => e.flag 1 && decide (p.roff + p.msgLen ≤ e.len)
    | 1 => e.flag 3 && decide (p.msgLen + 32 ≤ e.slotSize) && decide (e.slotSize ≤ e.len)
    | 3 =>
      e.flag 2 && decide (p.roff + (atomSize p) ≤ e.len) && decide ((e.base + p.roff) % (atomSize p) = 0) &&
        (s.agentAddress p.dvf 4 (e.base + p.roff) true).isSome
    | _ => false

/-- The key of a message, or nothing where the message is refused (R329, R330, R341). -/
def State.admitKey (s : State) (io : Nat) (p : Packet) : Option (Option KeyEntry) :=
  if p.op = 2 then
    if s.mgmtF (netOff io (0x808 + 0x10 * p.dvf)) 63 63 = 1 ∧ p.dcore < 256 then some none else none
  else
    match s.keyEntry io p.dvf (p.rkey.toNat / 4096) with
    | some e => if s.keyAllows p e then some (some e) else none
    | none => none

/-! ### The sluice (R335, R344) -/

/-- The bytes of the sluice that a message's stripes hold. -/
def RxMessage.reserved (m : RxMessage) : Nat := m.stripes.foldl (fun n t => n + t.2.reserve) 0

/-- The bytes of the sluice of an I/O die that some messages hold. -/
def State.sluiceOf (s : State) (io : Nat) (p : RxMessage → Bool) : Nat :=
  s.net.messages.foldl (fun n m => if m.2.io = io ∧ p m.2 = true then n + m.2.reserved else n) 0

/-- SLUICE_USED shows what is held (R344). -/
def State.syncSluice (s : State) (io : Nat) : State :=
  let used := s.sluiceOf io (fun _ => true) / 64
  if s.mgmtF (netOff io 0x070) 25 0 = used then s else s.setMgmtF (netOff io 0x070) 25 0 used

/-- Segment slots of a function that are free. -/
def State.freeSegCount (s : State) (vf : Nat) : Nat :=
  (s.backing vf).2.2 - (s.segs.filter fun p => decide (p.1 / 2 ^ 48 = vf) && decide (p.1 < 2 ^ 55)).length

/-- NSEG of a continuation that arrives (R82, R341): as the K slot says once its bytes are here, and 1 before, for every
continuation has a segment (assumption 33). -/
def State.arrivingSegs (s : State) (p : Packet) : Nat :=
  let first := p.stripe = 0 ∧ p.index = 0
  let image := s.net.messages.findSome? fun m =>
    if m.2.first.srcDev = p.srcDev ∧ m.2.first.srcVf = p.srcVf ∧ m.2.first.dvf = p.dvf ∧ m.2.first.msgId = p.msgId then
      match m.2.image.find 24, m.2.image.find 25 with
      | some a, some b => some (ofBytes [a, b])
      | _, _ => none
    else none
  if first then field p.data 24 2 else image.getD 1

/-- What a new stripe has no room for (R330, R335, R341): 0 sluice share, 1 SEND ring, 2 inbox or backing area. A ring is
tested for a message that holds no slot of it yet (assumption 33). -/
def State.stripeRoom (s : State) (io : Nat) (p : Packet) (key : Option KeyEntry) (begun : Bool) : Option Nat :=
  let need := p.m * p.flen * 64
  let share := s.mgmtF (netOff io (0x808 + 0x10 * p.dvf)) 25 20 * 2 ^ 20
  if need ≠ 0 ∧ (share < s.sluiceOf io (fun m => decide (m.first.dvf = p.dvf)) + need ∨
      32 * 2 ^ 20 < s.sluiceOf io (fun _ => true) + need) then some 0
  else
    match p.op, key with
    | 1, some e =>
      let index := p.rkey.toNat / 4096
      let made := s.net.producers.get (p.dvf * 2 ^ 20 + index) 0
      let ci := match s.keyEntry io p.dvf index with | some k => k.ci | none => e.ci
      if begun = false ∧ e.len / e.slotSize ≤ (made + 2 ^ 32 - ci) % 2 ^ 32 then some 1 else none
    | 2, _ =>
      if 32 ≤ (s.unit p.dcore).inbox.length ∨ (s.freeK p.dvf).isNone = true ∨ s.freeSegCount p.dvf < s.arrivingSegs p then some 2
      else none
    | _, _ => none

/-! ### Messages -/

/-- Set a message. -/
def State.setMessage (s : State) (id : Nat) (m : RxMessage) : State :=
  s.modNet fun n => { n with messages := n.messages.put id m }

/-- The message that a fragment or a sender's control packet belongs to. -/
def State.messageOf (s : State) (p : Packet) : Option (Nat × RxMessage) :=
  s.net.messages.first fun _ m =>
    decide (m.first.srcDev = p.srcDev) && decide (m.first.srcVf = p.srcVf) && decide (m.first.dvf = p.dvf) &&
      decide (m.first.msgId = p.msgId)

/-- F of a message. -/
def RxMessage.frag (m : RxMessage) : Nat := m.first.flen * 64

/-- S of a message. -/
def RxMessage.count (m : RxMessage) : Nat := stripeCount m.first.msgLen m.first.k m.frag

/-- A stripe that begins: the data fragments beyond the message count as received (R331). -/
def RxStripe.begin_ (p : Packet) (gtc : Nat) : RxStripe :=
  { data := (List.range p.k).filter fun d => beyond p.msgLen p.k (p.flen * 64) p.stripe d, parity := [], arrived := gtc,
    round := p.round, reserve := p.m * p.flen * 64, complete := false, abandoned := false, writes := [], acked := false }

/-- A stripe that is given up (R338). -/
def RxStripe.abandon (t : RxStripe) : RxStripe :=
  if t.complete then t else { t with abandoned := true, parity := [], reserve := 0 }

/-- The header of a SEND slot (R330). -/
def slotHeader (p : Packet) (seq : Nat) : List Byte :=
  toBytes p.msgLen 4 ++ toBytes p.immv.toNat 4 ++ toBytes p.srcDev 2 ++ toBytes p.srcVf 1 ++ toBytes 0 1 ++
    toBytes seq 8 ++ toBytes 0 12

/-- A message of which nothing has arrived. -/
def RxMessage.start (io : Nat) (p : Packet) (key : Option KeyEntry) : RxMessage :=
  { io := io, first := p, key := key, slot := 0, stripes := [], image := [], kslot := none, atom := none,
    aborted := false, refused := false, ended := none, writes := [], counted := false }

/-- A message is refused as a whole (R327, R330): the engine keeps its record, and each of its stripes is counted once. -/
def State.refuseMessage (s : State) (id : Nat) (m : RxMessage) (p : Packet) : State :=
  let t : RxStripe := { RxStripe.begin_ p s.gtc with abandoned := true, reserve := 0 }
  let m := { m with refused := true, ended := some s.gtc, counted := true,
                    stripes := (m.stripes.mapVals fun _ t => t.abandon).put p.stripe t }
  let s := (s.setMessage id m).countMgmt (netOff m.io 0x068) 63 32
  s.answerTo m.io p 17 p.stripe 0 0 []

/-- Begin a message (R329, R330): a SEND takes the next slot of its ring and writes the header. Answers nothing where the
slot cannot be written. -/
def State.beginMessage (s : State) (p : Packet) (m : RxMessage) : Option (RxMessage × State) :=
  match p.op, m.key with
  | 1, some e =>
    let at_ := p.dvf * 2 ^ 20 + p.rkey.toNat / 4096
    let made := s.net.producers.get at_ 0
    let slot := e.base + made % (e.len / e.slotSize) * e.slotSize
    (s.netWrite p.dvf slot (slotHeader p made)).map fun w =>
      ({ m with slot := slot, writes := w.1 }, w.2.modNet fun n => { n with producers := n.producers.put at_ (made + 1) })
  | _, _ => some (m, s)

/-- The address at which a byte of a message is placed (R330); none for the messages gathered whole. -/
def RxMessage.place (m : RxMessage) : Option Nat :=
  match m.first.op, m.key with
  | 0, some e => some (e.base + m.first.roff)
  | 1, some _ => some (m.slot + 32)
  | _, _ => none

/-- Place a data fragment (R330, R336). -/
def State.placeData (s : State) (m : RxMessage) (stripe d : Nat) (data : List Byte) :
    Option (RxMessage × List (Nat × Nat) × State) :=
  let off := (stripe * m.first.k + d) * m.frag
  let bytes := data.take (if m.first.op = 3 then m.frag else min m.frag (m.first.msgLen - off))
  match m.place with
  | some base => (s.netWrite m.first.dvf (base + off) bytes).map fun w => (m, w.1, w.2)
  | none =>
    some ({ m with image := (cellsAt off bytes).foldl (fun (t : Tbl Byte) c => t.put c.1 c.2) m.image }, [], s)

/-- A data fragment that has been placed, as the engine reads it back (R336); none where it may not. -/
def State.placedData (s : State) (m : RxMessage) (stripe d : Nat) : Option (List Byte) :=
  let off := (stripe * m.first.k + d) * m.frag
  let n := if m.first.op = 3 then m.frag else min m.frag (m.first.msgLen - off)
  let bytes := match m.place with
    | some base => s.netRead m.first.dvf (base + off) n
    | none => some ((upto off n).map fun i => m.image.get i 0)
  bytes.map fun b => (b ++ List.replicate m.frag 0).take m.frag

/-- Several data fragments that have been placed, with their indices. -/
def State.placedAll (s : State) (m : RxMessage) (stripe : Nat) : List Nat → Option (List (Nat × List Byte))
  | [] => some []
  | d :: rest =>
    match s.placedData m stripe d, State.placedAll s m stripe rest with
    | some b, some l => some ((d, b) :: l)
    | _, _ => none

/-- Place several rebuilt fragments. -/
def State.placeAll (s : State) (m : RxMessage) (stripe : Nat) :
    List (Nat × List Byte) → Option (RxMessage × List (Nat × Nat) × State)
  | [] => some (m, [], s)
  | (d, b) :: rest =>
    match s.placeData m stripe d b with
    | none => none
    | some (m, ws, s) => (State.placeAll s m stripe rest).map fun q => (q.1, ws ++ q.2.1, q.2.2)

/-- A stripe that holds k fragments is complete; missing data is rebuilt first (R336). Answers nothing where the placed data cannot
be read back, or the rebuilt data cannot be placed: the message is refused (R368). -/
def State.completeStripe (s : State) (m : RxMessage) (stripe : Nat) (t : RxStripe) : Option (RxMessage × State) :=
  let done := fun (t : RxStripe) => { t with complete := true, parity := [], reserve := 0 }
  if t.data.length = m.first.k then some ({ m with stripes := m.stripes.put stripe (done t) }, s)
  else if t.data.length + t.parity.length < m.first.k then some ({ m with stripes := m.stripes.put stripe t }, s)
  else
    let missing := (List.range m.first.k).filter fun d => !t.data.contains d
    let held := (List.range m.first.k).filter fun d => t.data.contains d
    match (s.placedAll m stripe held).bind fun data => s.placeAll m stripe (rebuild data t.parity missing m.frag) with
    | none => none
    | some (m, ws, s) =>
      let s := (s.countMgmt (netOff m.io 0x060) 31 0).raiseSluice m.io 0x0010 m.first.dvf (m.first.msgId % 2 ^ 32) stripe
      some ({ m with stripes := m.stripes.put stripe
                       (done { t with data := List.range m.first.k, writes := t.writes ++ ws }) }, s)

/-! ### Acknowledgement and the ends of messages (R336, R338, R341) -/

/-- Acknowledge a stripe, and answer an atomic with its old value (R330, R333; assumption 34). -/
def State.ackStripe (s : State) (m : RxMessage) (stripe : Nat) : State :=
  let s : State := if m.first.op = 3 then
      s.answerTo m.io m.first 7 0 0 0 ((upto 0 8).map fun i => m.image.get i 0)
    else s
  s.answerTo m.io m.first 2 stripe 0 0 []

/-- The atomic of a message at the home of its word (R255, R330); one of a sealed, backing or poisoned line is refused (R71, R135,
R136). -/
def State.startAtom (s : State) (id : Nat) (m : RxMessage) (e : KeyEntry) : State :=
  match s.agentAddress m.first.dvf 4 (e.base + m.first.roff) true with
  | none => s.refuseMessage id m m.first
  | some pa =>
    if s.isSealed (lineOf pa) ∨ s.inBacking m.first.dvf (e.base + m.first.roff) = true ∨ s.isPoisoned (lineOf pa) = true then
      s.refuseMessage id m m.first
    else
    let r := s.nextId
    let s := s.fresh.2
    let free := isHostLine (lineOf pa) || decide ((s.objectAt m.first.dvf (e.base + m.first.roff)).1 = .stream)
    let arg := fun (i : Nat) => BitVec.ofNat 64 (ofBytes ((upto (8 * i) 8).map fun j => m.image.get j 0))
    let op : OrdOp :=
      { kind := .atom m.first.aop, stage := .served, agent := netAgent m.io, fibre := none, vf := m.first.dvf,
        space := if free then 6 else 0, addr := pa, size := atomSize m.first, scope := 5, value := arg 0,
        value2 := arg 1, targets := [], writes := [], lines := [], hostWrites := [], lost := false, result := 0,
        since := s.gtc }
    ((s.setOrd r op).arriveOp r).setMessage id { m with atom := some r }

/-- An atomic message goes on: its operation begins when the operands have come, and its old value is the answer. -/
def State.progressAtom (s : State) (id : Nat) (m : RxMessage) : State :=
  match m.atom, m.key, m.stripes.find 0 with
  | none, some e, some t => if t.complete then s.startAtom id m e else s
  | some r, _, some t =>
    match s.coh.ops.find r with
    | none => s
    | some o =>
      if s.ripe o = false then s
      else
        match s.finishOp r o with
        | (some v, s) =>
          let m := { m with image := (cellsAt 0 (toBytes v.toNat 8)).foldl (fun (t : Tbl Byte) c => t.put c.1 c.2) [],
                            stripes := m.stripes.put 0 { t with acked := true } }
          (s.setMessage id m).ackStripe m 0
        | (none, s) => s
  | _, _, _ => s

/-- A part of a message's image. -/
def RxMessage.bytes (m : RxMessage) (off n : Nat) : List Byte := (upto off n).map fun i => m.image.get i 0

/-- The free segment slots of a function, at most `n`, from an address on. -/
def State.freeSegsFrom (s : State) (vf addr : Nat) : Nat → Nat → List Nat
  | 0, _ => []
  | _, 0 => []
  | slots + 1, n + 1 =>
    if (s.segs.find (segKey vf addr)).isNone then addr :: State.freeSegsFrom s vf (addr + 1024) slots n
    else State.freeSegsFrom s vf (addr + 1024) slots (n + 1)

/-- The old addresses of the segments of a continuation in a message, from TOP on. -/
def RxMessage.oldSegs (m : RxMessage) (a i : Nat) : Nat → List Nat
  | 0 => []
  | n + 1 => a :: RxMessage.oldSegs m (field (m.bytes (256 + 1024 * i) 8) 0 8) (i + 1) n

/-- A frame address follows its segment (R86). -/
def movedTo (moves : List (Nat × Nat)) (a : Nat) : Nat :=
  match moves.lookup (frameSeg a) with | some b => b + a % 1024 | none => a

/-- The PREV fields of the records of a continuation that has been moved follow (R86). -/
def State.movePrevs (s : State) (vf : Nat) (moves : List (Nat × Nat)) (a : Nat) : Nat → State
  | 0 => s
  | n + 1 =>
    if a = 0 ∨ (moves.any fun p => decide (p.2 = frameSeg a)) = false ∨ s.recordOk vf a = false then s
    else
      let prev := movedTo moves (s.recordAt vf a).prev
      let put := fun (s : State) (i : Nat) (v : Word) =>
        let l := Loc.frame (segKey vf (frameSeg a)) (frameWord a + i)
        s.setCell l { s.cell l with val := v }
      let s := put (put s 0 (loWord (BitVec.ofNat 64 prev))) 1 (hiWord (BitVec.ofNat 64 prev))
      State.movePrevs s vf moves prev n

/-- KRECVs of a core take arrivals (R225): the first that can, at most `n` of them. -/
def State.serveInbox (s : State) (core : Nat) : Nat → State
  | 0 => s
  | n + 1 =>
    let u := s.unit core
    match u.receives.find? fun r => u.inbox.any fun a => decide (a.1 = r.vf) with
    | none => s
    | some r =>
      match u.inbox.find? fun a => decide (a.1 = r.vf) with
      | none => s
      | some a =>
        let s := s.modUnit core fun u => { u with receives := u.receives.erase r, inbox := u.inbox.erase a }
        let s := (r.targets.zip [loWord a.2, hiWord a.2]).foldl (State.writeLanding · (some r.fibre)) s
        State.serveInbox (s.recheck core) core n

/-- A continuation enters the inbox of a core (R225, R341): a wake event (R48). -/
def State.deliverK (s : State) (core vf : Nat) (h : DWord) : State :=
  let s := (s.modUnit core fun u => { u with inbox := u.inbox ++ [(vf, h)] }).wake core
  s.serveInbox core 32

/-- Place a continuation that has arrived whole in the backing area of its function (R86, R341). -/
def State.placeK (s : State) (id : Nat) (m : RxMessage) : State :=
  let vf := m.first.dvf
  let core := m.first.dcore
  let n := field (m.bytes 0 256) 24 2
  let slots := s.freeSegsFrom vf (s.segBase vf) (s.backing vf).2.2 n
  match s.freeK vf with
  | none => s
  | some slot =>
    if slots.length < n ∨ 32 ≤ (s.unit core).inbox.length then s
    else
      let moves := (m.oldSegs (field (m.bytes 0 256) 16 8) 0 n).zip slots
      let held := (List.range ((m.first.msgLen - 256 - 1024 * n) / 32)).map fun i =>
        Deferred.ofBytes (m.bytes (256 + 1024 * n + 32 * i) 32)
      let gen : DWord := match s.kobjs.find (kKey vf slot) with | some k => k.gen + 1 | none => 1
      let old := KObject.ofBytes (m.bytes 0 256) held [] false
      let k := { old with state := 0, owner := vf, crew := 0xFFFFFFFF, gen := gen, top := movedTo moves old.top,
                          hrec := movedTo moves old.hrec }
      let s := ((List.range n).zip slots).foldl (fun (s : State) p =>
        let g := Segment.ofBytes (m.bytes (256 + 1024 * p.1) 1024) .empty
        let g := { g with next := movedTo moves g.next, hchain := movedTo moves g.hchain }
        { s with segs := s.segs.put (segKey vf p.2) g }) s
      let s := { s with kobjs := s.kobjs.put (kKey vf slot) k }
      let s := s.movePrevs vf moves k.hrec s.searchFuel
      (s.setMessage id { m with kslot := some slot, image := [] }).deliverK core vf (s.kHandle vf slot gen)

/-- The stripes of a message whose bytes are placed and performed are acknowledged (R336). The last of a continuation waits
until it has been placed (R341). -/
def State.ackStripes (s : State) (id : Nat) (m : RxMessage) : State :=
  let ready := m.stripes.select fun _ t => t.complete && !t.acked && s.performed t.writes []
  let all := decide ((m.stripes.select fun _ t => t.complete).length = m.count)
  if m.first.op = 3 ∨ ready.isEmpty = true ∨ (m.first.op = 2 ∧ all = true ∧ m.kslot = none) then s
  else
    let m := { m with stripes := ready.foldl (fun (t : Tbl RxStripe) p => t.put p.1 { p.2 with acked := true }) m.stripes }
    (ready.foldl (fun s p => s.ackStripe m p.1) (s.setMessage id m))

/-- The writes of a message: of its slot, and of its stripes, the abandoned ones with the others. -/
def RxMessage.allWrites (m : RxMessage) : List (Nat × Nat) := m.writes ++ m.stripes.flatMap fun p => p.2.writes

/-- The counter word of a key counts a message that has ended (R330): one write at its home, after every byte of the message
is performed (R339). Where the windows refuse the word by then, the message is refused (R368). -/
def State.countEnd (s : State) (id : Nat) (m : RxMessage) : State :=
  if m.counted ∨ s.performed m.allWrites [] = false then s
  else
    let s := s.setMessage id { m with counted := true }
    match m.key with
    | none => s
    | some e =>
      if e.counter = 0 then s
      else
        let count := fun (v : Nat) =>
          if m.aborted then setBits v 62 32 (bits v 62 32 + 1) else setBits v 31 0 (bits v 31 0 + 1)
        match (s.netRead m.first.dvf e.counter 8).bind fun b =>
            s.netWrite m.first.dvf e.counter (toBytes (count (ofBytes b)) 8) with
        | some w => w.2
        | none => s.refuseMessage id { m with counted := true } m.first

/-- A message ends when every stripe has been acknowledged or abandoned (R336): PARTIAL is set in the slot of one that was
abandoned. -/
def State.endMessage (s : State) (id : Nat) (m : RxMessage) : State :=
  let settled := m.stripes.all fun p => p.2.acked || p.2.abandoned
  let acked := (m.stripes.select fun _ t => t.acked).length
  if m.ended.isSome ∨ settled = false ∨ (m.aborted = false ∧ acked < m.count) then s
  else
    let part := if m.aborted ∧ m.first.op = 1 then s.netWrite m.first.dvf (m.slot + 11) [1] else none
    match part with
    | some w => w.2.setMessage id { m with ended := some s.gtc, writes := m.writes ++ w.1 }
    | none => s.setMessage id { m with ended := some s.gtc }

/-- One step of a message's progress. -/
def State.onMessage (s : State) (id : Nat) (g : State → Nat → RxMessage → State) : State :=
  match s.net.messages.find id with | some m => g s id m | none => s

/-- A message goes on as far as it can. -/
def State.progressMessage (s : State) (id : Nat) : State :=
  let open_ := fun (g : State → Nat → RxMessage → State) (s : State) (id : Nat) (m : RxMessage) =>
    if m.ended.isSome then s else g s id m
  let s := s.onMessage id (open_ fun s id m => if m.first.op = 3 then s.progressAtom id m else s)
  let s := s.onMessage id (open_ fun s id m =>
    if m.first.op = 2 ∧ m.kslot = none ∧ (m.stripes.select fun _ t => t.complete).length = m.count then s.placeK id m
    else s)
  let s := s.onMessage id (open_ State.ackStripes)
  let s := s.onMessage id State.endMessage
  s.onMessage id fun s id m => if m.ended.isSome then s.countEnd id m else s

/-- Every message and every operation of the network goes on as far as it can. -/
def State.netProgress (s : State) : State :=
  let s := (s.net.messages.map Prod.fst).foldl State.progressMessage s
  let s := (s.engine.filterMap fun e =>
    match e.2.job with | .net j => if j.state = .inFlight then some e.1 else none | _ => none).foldl State.finishNet s
  (s.syncSluice 0).syncSluice 1

/-! ### Fragments that arrive (R335, R336, R339) -/

/-- A packet that is no Porong packet of version 1 (R333); a code or length outside its range is one too (assumption 35). -/
def packetBad (p : Packet) : Bool :=
  decide (7 < p.type ∨ p.ver ≠ 1) ||
    (decide (p.type < 2) && decide (p.k = 0 ∨ 16 < p.k ∨ 4 < p.m ∨ p.k + p.m ≤ p.index ∨ p.flen = 0 ∨ 64 < p.flen))

/-- A late fragment is discarded and counted; one of a stripe that is acknowledged is answered with its acknowledgement
again (R339). -/
def State.lateFragment (s : State) (io : Nat) (p : Packet) (m : Option RxMessage) : State :=
  let s := (s.countMgmt (netOff io 0x060) 63 32).raiseSluice io 0x0011 p.dvf (p.msgId % 2 ^ 32) p.index
  match m with
  | none => s
  | some m => match m.stripes.find p.stripe with | some t => if t.acked then s.ackStripe m p.stripe else s | none => s

/-- Take a fragment into a stripe that is admitted (R336). -/
def State.takeInto (s : State) (id : Nat) (m : RxMessage) (t : RxStripe) (p : Packet) : State :=
  let t := { t with arrived := s.gtc, round := max t.round p.round }
  let data := (p.data ++ List.replicate m.frag 0).take m.frag
  let r : Option (RxMessage × State) :=
    if p.index < m.first.k then
      match s.placeData m p.stripe p.index data with
      | none => none
      | some (m, ws, s) =>
        s.completeStripe m p.stripe { t with data := t.data ++ [p.index], writes := t.writes ++ ws }
    else s.completeStripe m p.stripe { t with parity := t.parity.put (p.index - m.first.k) data }
  match r with
  | some (m, s) => (s.setMessage id m).netProgress
  | none => (s.refuseMessage id m p).netProgress

/-- A stripe begins, or is refused for want of room (R335). -/
def State.admitStripe (s : State) (io id : Nat) (m : RxMessage) (begun : Bool) (p : Packet) : State :=
  match s.stripeRoom io p m.key begun with
  | some why =>
    let s := (s.countMgmt (netOff io 0x068) 63 32).raiseSluice io 0x0012 p.dvf (p.msgId % 2 ^ 32) why
    s.answerTo io p 16 p.stripe 0 0 []
  | none =>
    match (if begun then some (m, s) else s.beginMessage p m) with
    | none => s.refuseMessage id m p
    | some (m, s) => s.takeInto id m (RxStripe.begin_ p s.gtc) p

/-- A fragment of a message that the engine knows (R339). A further fragment of a stripe that was refused is discarded
(assumption 39). -/
def State.takeKnown (s : State) (io id : Nat) (m : RxMessage) (p : Packet) : State :=
  match m.stripes.find p.stripe with
  | some t =>
    if m.refused then s else
    let held := if p.index < m.first.k then t.data.contains p.index else (t.parity.find (p.index - m.first.k)).isSome
    if m.ended.isSome ∨ m.aborted = true ∨ t.complete = true ∨ t.abandoned = true ∨ held = true then
      s.lateFragment io p (some m)
    else s.takeInto id m t p
  | none =>
    if m.refused then s.refuseMessage id m p
    else if m.ended.isSome ∨ m.aborted = true then s.lateFragment io p (some m)
    else s.admitStripe io id m true p

/-- A fragment arrives (R335, R336, R339, R341, R342, R382). A trimmed one, which has lost data on its way, is lost, and its
sender gets a congestion signal (R324). -/
def State.takeFragment (s : State) (arrivedAt : Nat) (p : Packet) : State :=
  match s.engineOf p.dvf with
  | none => s.refuseHere arrivedAt p
  | some io =>
    if p.data.length < 64 * p.flen then s.answerTo io p 19 p.stripe 0 0 []
    else if s.net.resets.contains p.dvf then s.indicateReset io p.dvf p.srcDev p.srcVf p
    else if epochOlder p.epoch (s.epochOf io p.dvf) then s.lateFragment io p none
    else
      match s.messageOf p with
      | some (id, m) => s.takeKnown io id m p
      | none =>
        let id := s.nextId
        let s := s.fresh.2
        match s.admitKey io p with
        | none => s.refuseMessage id (RxMessage.start io p none) p
        | some key => s.admitStripe io id (RxMessage.start io p key) false p

/-- A packet that has come to an I/O die is taken by its function's engine; it crosses the link where that engine lies on the
other I/O die (R382). -/
def State.toEngine (s : State) (io : Nat) (p : Packet) (g : State → State) : State :=
  let dst := (s.engineOf p.dvf).getD io
  if dst = io then g s else s.sendLink (8 + io) (8 + dst) p none

/-- A packet of a type arrives at an I/O die: a header that is bad is discarded and counted (R333). -/
def State.packetIn (s : State) (io : Nat) (p : Packet) (type : Nat) (g : State → State) : State :=
  if packetBad p then s.countMgmt (netOff io 0x068) 31 16
  else if p.type ≠ type then s
  else (s.toEngine io p g).netProgress

/-! ### Control packets at the receiver (R338) -/

/-- A probe is answered with the stripes that are complete (R338). -/
def State.takeProbe (s : State) (p : Packet) : State :=
  match s.messageOf p with
  | none => s
  | some (_, m) =>
    let acked := m.stripes.select fun _ t => t.acked
    if m.refused then s.answerTo m.io p 17 0 0 0 []
    else if acked.length = m.count then s.ackStripe m 0xFFFFFFFF
    else acked.foldl (fun s t => s.ackStripe m t.1) s

/-- An abort ends a message as partial: its open stripes are abandoned (R338). -/
def State.takeAbort (s : State) (p : Packet) : State :=
  match s.messageOf p with
  | none => s
  | some (id, m) =>
    if m.ended.isSome then s
    else s.setMessage id { m with aborted := true, stripes := m.stripes.mapVals fun _ t => t.abandon }

/-- STRIPE_WAIT after its last arrival, a stripe that lacks fragments asks for as many as it needs, the lowest missing ones
(R337). -/
def State.askAgain (s : State) (id stripe : Nat) : State :=
  match s.net.messages.find id with
  | none => s
  | some m =>
    match m.stripes.find stripe with
    | none => s
    | some t =>
      if t.complete ∨ t.abandoned ∨ s.gtc < t.arrived + s.stripeWait m.io then s
      else
        let have_ := t.data.length + t.parity.length
        let k := m.first.k
        let missing := (List.range (k + m.first.m)).filter fun i =>
          if i < k then !t.data.contains i else (t.parity.find (i - k)).isNone
        let mask := (missing.take (k - have_)).foldl (fun v i => v + 2 ^ i) 0
        let s := s.raiseSluice m.io 0x000F m.first.dvf (m.first.msgId % 2 ^ 32) missing.length
        let t := { t with round := t.round + 1, arrived := s.gtc }
        let s := s.setMessage id { m with stripes := m.stripes.put stripe t }
        s.answerTo m.io m.first 3 stripe (BitVec.ofNat 32 mask) t.round []

/-! ### Resets (R342, R343) -/

/-- A word of a key's counter gets bit 63, and the fibres that wait on it perform NET_PEER_RESET (R343). -/
def State.peerCounter (s : State) (vf dev : Nat) (e : KeyEntry) : State :=
  let s := match (s.netRead vf e.counter 8).bind fun b =>
      s.netWrite vf e.counter (toBytes (setBits (ofBytes b) 63 63 1) 8) with | some w => w.2 | none => s
  match s.agentAddress vf 4 e.counter false with
  | none => s
  | some pa =>
    (s.coh.ops.select fun _ o =>
      match o.kind with | .waita _ => decide (lineOf o.addr = lineOf pa ∧ o.addr < pa + 8 ∧ pa < o.addr + o.size) | _ => false).foldl
      (fun s p =>
        let waiting := s.waitersOf p.1
        let s := s.modCoh fun c => { c with ops := c.ops.del p.1 }
        waiting.foldl (fun s w => s.perform w.1 (w.2.effectAt 10 (BitVec.ofNat 64 e.counter) (BitVec.ofNat 64 dev))) s) s

/-- The keys of a function that name a peer (R343). -/
def State.peerKeys (s : State) (vf dev peer : Nat) : List KeyEntry :=
  match s.engineOf vf with
  | none => []
  | some io =>
    (List.range (s.mgmtF (netOff io (0x808 + 0x10 * vf)) 19 0)).filterMap fun i =>
      match s.keyEntry io vf i with
      | some e => if e.flag 0 ∧ e.flag 8 ∧ e.counter ≠ 0 ∧ e.peerDev = dev ∧ e.peerVf = peer then some e else none
      | none => none

/-- A target-reset indication (R343). -/
def State.peerReset (s : State) (dev peer epoch : Nat) : State :=
  let s := s.modNet fun n => { n with peers := n.peers.put (dev * 128 + peer) epoch }
  let hit := s.engine.filterMap fun e =>
    match e.2.job with
    | .net j => if j.state.ended = false ∧ j.ddev = dev ∧ j.dvf = peer then some (e.1, e.2, j) else none
    | _ => none
  let s := hit.foldl (fun s h =>
    s.netEnd h.1 h.2.1 h.2.2 .peerReset (some { tag := 10, addr := h.2.2.addr, info := BitVec.ofNat 64 dev })) s
  (List.range 128).foldl (fun s vf => (s.peerKeys vf dev peer).foldl (fun s e => s.peerCounter vf dev e) s) s

/-- An operation ends CANCELLED (R342): the decrement of its counter is discarded, with the fibre that the reset kills. -/
def State.netCancel (s : State) (id : Nat) (o : EngineOp) (j : NetJob) : State :=
  let s := s.settleK j false
  let ended : EngineOp := { o with pages := [], writes := [], release := none, job := .net { j with state := .cancelled } }
  let s := State.releasePages { s with engine := s.engine.put id ended } id
  match s.fibres.find o.fibre with
  | some f => if f.state = .killed then (s.settleOp o.fibre id none).pruneNet o.fibre else s
  | none => s

/-- The network state of a function that is reset (R342). Its fibres are killed by the reset itself. -/
def State.netReset (s : State) (vf : Nat) : State :=
  let io := (s.engineOf vf).getD 0
  let e := netOff io (0x808 + 0x10 * vf)
  let s := s.setMgmtF e 39 32 (s.mgmtF e 39 32 + 1)
  let s := s.modNet fun n => { n with resets := if n.resets.contains vf then n.resets else n.resets ++ [vf] }
  let rx := s.net.messages.filter fun p => decide (p.2.first.dvf = vf)
  let s := (rx.filter fun p => p.2.ended.isNone).foldl (fun s p =>
    s.indicateReset io vf p.2.first.srcDev p.2.first.srcVf p.2.first) s
  let tx := s.engine.filterMap fun e =>
    match e.2.job with | .net j => if j.vf = vf then some (e.1, e.2, j) else none | _ => none
  let s := (tx.filter fun t => !t.2.2.state.ended).foldl (fun s t =>
    let s := if t.2.2.state = .inFlight then s.indicateReset io vf t.2.2.ddev t.2.2.dvf (s.fragment t.2.2 0 0 0 []) else s
    s.netCancel t.1 t.2.1 t.2.2) s
  let s := s.modNet fun n => { n with messages := n.messages.select fun _ m => decide (m.first.dvf ≠ vf) }
  (s.syncSluice 0).syncSluice 1

end Sys2Proof.Machine
end

