-- ==== Sys2Proof/Machine/Network.lean ====
section
/-! DEFINITION. The events of the network engines and of the die links, and KRECV (R14, R225, R324 to R343, R346). -/
namespace Sys2Proof.Machine

/-- DATA_FRAGMENT_RECEIVE (R335, R336). -/
def execDataFragmentReceive (io : Nat) (packet : Packet) (s : State) : Host.Outcome State Fault Refusal :=
  .next (s.packetIn io packet 0 fun s => s.takeFragment io packet)

/-- PARITY_FRAGMENT_RECEIVE (R335, R336). -/
def execParityFragmentReceive (io : Nat) (packet : Packet) (s : State) : Host.Outcome State Fault Refusal :=
  .next (s.packetIn io packet 1 fun s => s.takeFragment io packet)

/-- STRIPE_ACK_RECEIVE (R327). -/
def execStripeAckReceive (io : Nat) (packet : Packet) (s : State) : Host.Outcome State Fault Refusal :=
  .next (s.packetIn io packet 2 fun s => s.takeAck packet)

/-- RETRANSMIT_REQUEST_RECEIVE (R337). -/
def execRetransmitRequestReceive (io : Nat) (packet : Packet) (s : State) : Host.Outcome State Fault Refusal :=
  .next (s.packetIn io packet 3 fun s => s.takeRequest packet)

/-- PROBE_RECEIVE (R338); a function that is being reset refuses it as it refuses fragments (R342). -/
def execProbeReceive (io : Nat) (packet : Packet) (s : State) : Host.Outcome State Fault Refusal :=
  .next (s.packetIn io packet 4 fun s =>
    if s.net.resets.contains packet.dvf then s.indicateReset io packet.dvf packet.srcDev packet.srcVf packet
    else s.takeProbe packet)

/-- ABORT_RECEIVE (R338). -/
def execAbortReceive (io : Nat) (packet : Packet) (s : State) : Host.Outcome State Fault Refusal :=
  .next (s.packetIn io packet 5 fun s => s.takeAbort packet)

/-- TARGET_RESET_INDICATION (R343). -/
def execTargetResetIndication (io : Nat) (packet : Packet) (s : State) : Host.Outcome State Fault Refusal :=
  .next (s.packetIn io packet 6 fun s => s.peerReset packet.srcDev packet.srcVf packet.epoch)

/-- ATOMIC_REPLY_RECEIVE (R330). -/
def execAtomicReplyReceive (io : Nat) (packet : Packet) (s : State) : Host.Outcome State Fault Refusal :=
  .next (s.packetIn io packet 7 fun s => s.takeReply packet)

/-- PDS_NACK_RECEIVE (R335): an answer of the transport, which has no Porong header (assumption 30). -/
def execPdsNackReceive (io : Nat) (packet : Packet) (s : State) : Host.Outcome State Fault Refusal :=
  .next (if io ≤ 1 then s.toEngine io packet fun s => s.takeNack packet else s)

/-- UNSUPPORTED_PACKET (R324): the packet is answered with a PDS NACK, and not acted on. -/
def execUnsupportedPacket (io source : Nat) (s : State) : Host.Outcome State Fault Refusal :=
  let nack : Packet :=
    { type := 18, ver := 1, k := 1, m := 0, msgId := 0, stripe := 0, index := 0, flen := 0, round := 0, epoch := 0,
      op := 0, msgLen := 0, immv := 0, rkey := 0, dcore := 0, dvf := 0, dstDev := source, srcDev := s.deviceId io,
      srcVf := 0, roff := 0, atomWide := false, aop := 0, data := [] }
  .next (s.onWire nack (6 * io) 0)

/-- STRIPE_WAIT_EXPIRY (R337). -/
def execStripeWaitExpiry (message stripe : Nat) (s : State) : Host.Outcome State Fault Refusal :=
  .next (s.askAgain message stripe)

/-- MESSAGE_RECORD_EXPIRY (R339): the record is dropped NTIMEOUT after the message has ended. -/
def execMessageRecordExpiry (message : Nat) (s : State) : Host.Outcome State Fault Refusal :=
  .next (match s.net.messages.find message with
    | some m =>
      match m.ended with
      | some t =>
        if s.gtc < t + s.ntimeout m.io ∨ m.counted = false then s
        else s.modNet fun n => { n with messages := n.messages.del message }
      | none => s
    | none => s)

/-- The functions that hold stripes at an I/O die, and the bytes of the sluice they hold. -/
def State.stripeHolders (s : State) (io : Nat) : List Nat :=
  (List.range 128).filter fun vf => s.net.messages.any fun m =>
    decide (m.2.io = io ∧ m.2.first.dvf = vf) && m.2.stripes.any fun t => !t.2.complete && !t.2.abandoned

/-- SLUICE_OCC (R346): raised each µs. -/
def execSluiceOcc (s : State) : Host.Outcome State Fault Refusal :=
  .next (if s.gtc < s.net.occAt + 1000 then s else [0, 1].foldl (fun (s : State) io => (s.stripeHolders io).foldl (fun s vf =>
    s.raiseSluice io 0x0013 vf (s.mgmtF (netOff io 0x070) 25 0) (s.sluiceOf io (fun m => decide (m.first.dvf = vf)) / 64))
    s) (s.modNet fun n => { n with occAt := s.gtc }))

/-! ### Die links at the receiving die (R14, R340) -/

/-- The data of a stripe that holds k flits, rebuilt where data is missing (R332). -/
def LinkStripe.content (t : LinkStripe) : List Byte :=
  let missing := (List.range t.k).filter fun d => (t.flits.find d).isNone
  let made := rebuild (t.flits.select fun i _ => decide (i < t.k))
    ((t.flits.select fun i _ => decide (t.k ≤ i)).map fun p => (p.1 - t.k, p.2)) missing 64
  (List.range t.k).flatMap fun d => (t.flits.find d).getD ((made.lookup d).getD (List.replicate 64 0))

/-- A stripe may be delivered: it holds k flits. -/
def LinkStripe.whole (t : LinkStripe) : Bool := decide (t.k ≤ t.flits.length)

/-- A stripe has been delivered: a packet whose last it is goes on, by its port or to the engine of the receiving die (R340,
R382). -/
def State.handOver (s : State) (src dst stripe : Nat) : State :=
  let l := s.link src dst
  match l.cargo.find? fun c => decide (c.last = stripe) with
  | none => s
  | some c =>
    let stripes := c.last + 1 - c.first
    let b := ((l.delivered.drop (l.delivered.length - stripes)).flatMap id).take c.len
    let p := packetFrom c.dev c.type b
    let s := s.setLink src dst { l with cargo := l.cargo.filter fun d => decide (d.last ≠ stripe) }
    match c.port with
    | some e => s.onWire p e.1 e.2
    | none => { s with agenda := s.agenda ++ [.packet (dst - 8) p] }

/-- Deliver stripes in the order in which they were sent (R340), at most `n`. One that lacked a flit over a group is rebuilt, with
an event (R346). -/
def State.deliverLink (s : State) (src dst : Nat) : Nat → State
  | 0 => s
  | n + 1 =>
    let l := s.link src dst
    match l.stripes.find l.next with
    | none => s
    | some t =>
      if t.whole = false then s
      else
        let lacks := (List.range t.k).find? fun d => (t.flits.find d).isNone
        let s := match lacks with
          | some d =>
            let group := l.groups.getD d 0
            s.raise dst 0x0015 0xFF (unit7 2 (src * 4 + group)) src group
          | none => s
        let s := s.setLink src dst { l with stripes := l.stripes.del l.next, sent := l.sent.del l.next, next := l.next + 1,
                                            delivered := l.delivered ++ [t.content] }
        State.deliverLink (s.handOver src dst l.next) src dst n

/-- The code that a stripe may have: that under which it was sent, or for other traffic of the dies that of the groups in
service (R340). -/
def DieLink.codeOf (l : DieLink) (stripe : Nat) : Nat × Nat :=
  match l.sent.find stripe with | some t => (t.k, t.m) | none => linkCode l.groups.length

/-- DIE_LINK_FLIT_RECEIVE (R340): a flit over a group in service, of a stripe of the link's code, joins its stripe. -/
def execDieLinkFlitReceive (src dst : Nat) (flit : Flit) (s : State) : Host.Outcome State Fault Refusal :=
  let l := s.link src dst
  if !l.groups.contains flit.group ∨ flit.stripe < l.next ∨ (flit.k, flit.m) ≠ l.codeOf flit.stripe ∨
      flit.k + flit.m ≤ flit.index then .next s
  else
    let t := l.stripes.get flit.stripe { flits := [], k := flit.k, m := flit.m, rounds := 0, arrived := s.gtc }
    let t := { t with flits := t.flits.put flit.index ((flit.data ++ List.replicate 64 0).take 64), arrived := s.gtc }
    let s := s.setLink src dst { l with stripes := l.stripes.put flit.stripe t }
    .next (s.deliverLink src dst (l.stripes.length + 1))

/-- A group of a pair of dies goes out of service, in both directions (R14). -/
def State.loseGroup (s : State) (a b group : Nat) : State :=
  let lose := fun (s : State) (src dst : Nat) =>
    let l := s.link src dst
    if group ∈ l.lost then s else s.setLink src dst { l with lost := l.lost ++ [group] }
  lose (lose s a b) b a

/-- A stripe that lacks flits asks for those it needs, and the sender sends them again (R337, R340). -/
def State.askFlits (s : State) (src dst stripe : Nat) (t : LinkStripe) : State :=
  let l := s.link src dst
  let missing := ((List.range (t.k + t.m)).filter fun i => (t.flits.find i).isNone).take (t.k - t.flits.length)
  let s := s.setLink src dst { l with requests := l.requests ++ [(stripe, missing)],
                                      stripes := l.stripes.put stripe { t with rounds := t.rounds + 1, arrived := s.gtc } }
  s.sendFlits src dst stripe missing

/-- The stripes of a link that are asked for: those of which a flit has come, and those sent of which none has. -/
def DieLink.open_ (l : DieLink) : Tbl LinkStripe :=
  l.stripes ++ ((l.sent.select fun i _ => decide (l.next ≤ i) && (l.stripes.find i).isNone).map fun p =>
    (p.1, { flits := [], k := p.2.k, m := p.2.m, rounds := 0, arrived := p.2.sentAt }))

/-- DIE_LINK_RETRY_EXPIRY (R340): 64 ns after its last arrival, or its sending where nothing of it has come, a stripe that lacks
flits asks for those it needs; after 15 rounds the group goes out of service, and it asks over the groups that remain. -/
def execDieLinkRetryExpiry (src dst group : Nat) (s : State) : Host.Outcome State Fault Refusal :=
  .next ((s.link src dst).open_.foldl (fun s p =>
    let t := p.2
    if t.whole ∨ s.gtc < t.arrived + 64 then s
    else if 15 ≤ t.rounds then (s.loseGroup src dst group).askFlits src dst p.1 { t with rounds := 0 }
    else s.askFlits src dst p.1 t) s)

/-- DIE_LINK_GROUP_FAILURE (R14): traffic goes on over the groups that remain. -/
def execDieLinkGroupFailure (src dst group : Nat) (s : State) : Host.Outcome State Fault Refusal :=
  .next (s.loseGroup src dst group)

/-! ### KRECV -/

/-- KRECV (R225): the destination is empty until an arrival is assigned. -/
def execKrecv (f : FormQ) (s : State) : Host.Outcome State Fault Refusal :=
  s.plain (.krecv f) fun x s =>
    let core := coreOf x.key
    let codes := [f.a.toNat, f.a.toNat + 1]
    if 0xBF ≤ f.a.toNat ∨ f.a.toNat % 2 ≠ 0 then x.illegal
    else
      let r := s.reserveAll x codes
      let w : Receive := { fibre := x.key, vf := x.f.tenant, targets := r.1 }
      let s := r.2.modUnit core fun u => { u with receives := u.receives ++ [w] }
      .checked codes (.next (s.serveInbox core 32))

/-- ORDERING_COMPLETE (R142, R144): an operation in flight is carried out where nothing keeps it; those of the network
engines go on with their messages. -/
def execOrderingComplete (id : Nat) (s : State) : Host.Outcome State Fault Refusal :=
  let atom := s.net.messages.any fun m => decide (m.2.atom = some id)
  .next (if atom then s.netProgress else (s.tryComplete id).netProgress)

/-- A packet from within the package arrives (R334, R340): the event of its type. -/
def receivePacket (io : Nat) (p : Packet) (s : State) : Host.Outcome State Fault Refusal :=
  match p.type with
  | 0 => execDataFragmentReceive io p s
  | 1 => execParityFragmentReceive io p s
  | 2 => execStripeAckReceive io p s
  | 3 => execRetransmitRequestReceive io p s
  | 4 => execProbeReceive io p s
  | 5 => execAbortReceive io p s
  | 6 => execTargetResetIndication io p s
  | 7 => execAtomicReplyReceive io p s
  | _ => execPdsNackReceive io p s

end Sys2Proof.Machine
end

