-- ==== Sys2Proof/Machine/Issue.lean ====
section
/-! DEFINITION. Issue opportunities and what the core does between instructions: the draw by rank and tenant, the overflow,
pauses, reloads, landings and effects that wait (R31 to R37, R45, R47, R67, R79, R81, R171, R212). -/
namespace Sys2Proof.Machine

/-- ISSUE_CFG.STALL_AGE of a core. -/
def State.stallAge (s : State) (core : Nat) : Nat := s.coreF core 0x100 15 0

/-- The overdue threshold of a core (R45). -/
def State.overdueAge (s : State) (core : Nat) : Nat := s.coreF core 0x100 47 32 - 512

/-- The age from which a paused fibre may be drawn (R212). -/
def State.holdBound (s : State) (core n : Nat) : Nat := min (16 * n) (s.stallAge core)

/-- A filed fibre is held back by a PAUSE (R212). -/
def State.heldBack (s : State) (core : Nat) (m : Filed) : Bool :=
  match m.held, m.lanes with
  | false, (_, i) :: _ =>
    match (s.fibres.find (fibreKey core i)).bind Fibre.pause with
    | some n => decide (m.age < s.holdBound core n)
    | none => false
  | _, _ => false

/-- The gang width of a launch (R53); the clerk's gang takes the least width. -/
def State.widthOf (s : State) (launch : Nat) : Nat :=
  match s.recordOf launch with | some r => gangWidth r | none => 16

/-- The lowest free aligned range of `w` lanes of a port (R35, R36). -/
def State.freeRange (s : State) (core port w : Nat) : Option Nat :=
  ((List.range (64 / w)).map (· * w)).find? fun b =>
    s.gangs.all fun p =>
      decide (p.2.core ≠ core) || decide (p.2.port ≠ port) || decide (p.2.base + p.2.width ≤ b) || decide (b + w ≤ p.2.base)

/-- Filed members, the oldest first. -/
def byAge (l : List Filed) : List Filed :=
  sortBy (fun a b => decide (b.age < a.age ∨ (a.age = b.age ∧ a.order < b.order))) l

/-- Number the lanes of fibres from 0 (R37). -/
def numberLanes (l : List Filed) : List (Nat × Nat) :=
  (List.range l.length).zip (l.flatMap fun m => m.lanes.map Prod.snd)

/-- The lanes of a draw from some members (R36): the oldest as a held gang whole, or up to W single fibres in stall order;
a stall that is full by a held gang alone gives that gang. -/
def drawFrom (ms : List Filed) (w : Nat) (full : Bool) : List (Nat × Nat) :=
  let singles := ms.filter fun m => !m.held
  let chosen := (byAge singles).take w
  let single := numberLanes (singles.filter fun m => chosen.contains m)
  match byAge ms with
  | [] => []
  | m :: _ =>
    if m.held then m.lanes
    else if full && decide (singles.length < w) then
      match byAge (ms.filter fun m => m.held) with | g :: _ => g.lanes | [] => single
    else single

/-- The age of the oldest member among some lanes that are drawn (R346). -/
def drawnAge (ms : List Filed) (lanes : List (Nat × Nat)) : Nat :=
  (ms.filter fun m => m.lanes.any fun x => lanes.any fun y => decide (y.2 = x.2)).foldl (fun n m => max n m.age) 0

/-- Members as a stall counts them (R34). -/
def countMembers (w : Nat) (ms : List Filed) : Nat := ms.foldl (fun n m => n + if m.held then w else 1) 0

/-- A stall as a candidate: the members that may be drawn, W, and its oldest member. -/
structure Drawable where
  stall : Stall
  members : List Filed
  width : Nat
  oldest : Filed
  deriving DecidableEq, Repr

/-- The age of a candidate's oldest member. -/
def Drawable.age (d : Drawable) : Nat := d.oldest.age

/-- A core issues only for the functions of its own partition, or of the pool (R68), but for overdue draws, which go ahead of
partitions (R47). -/
def State.issuesFor (s : State) (core tenant : Nat) : Bool :=
  decide (s.partitionOf tenant = s.partitionOfCluster (clusterOf core))

/-- The stalls of a core that may be drawn on a port: some member, and a free range of W lanes. The clerk's is not among them. `paused` takes the fibres that PAUSE holds back instead (R212). -/
def State.drawables (s : State) (core port : Nat) (paused : Bool) : List Drawable :=
  (s.unit core).stalls.filterMap fun t =>
    let ms := t.members.filter fun m =>
      decide (s.heldBack core m = paused) && !(m.lanes.any fun l => decide (l.2 = 4095))
    let w := s.widthOf t.key.launch
    match byAge ms with
    | [] => none
    | m :: _ =>
      if (s.freeRange core port w).isSome then
        some { stall := t, members := ms, width := w, oldest := m }
      else none

/-- The candidate with the oldest member. -/
def oldestOf : List Drawable → Option Drawable
  | [] => none
  | d :: rest =>
    some (rest.foldl (fun (b : Drawable) q =>
      if b.age < q.age ∨ (b.age = q.age ∧ q.oldest.order < b.oldest.order) then q else b) d)

/-- Some stall or overflow fibre of a core is overdue (R32, R45). -/
def State.anyOverdue (s : State) (core : Nat) : Bool :=
  let late := fun (m : Filed) => decide (s.overdueAge core ≤ m.age)
  (s.unit core).stalls.any (fun t => t.members.any late) || (s.unit core).overflow.any fun p => late p.2

/-- The choice of a tenant (R67). -/
def State.chooseTenant (s : State) (core : Nat) (c : List Nat) : Option Nat × State :=
  let get := fun (s : State) (t : Nat) => (s.unit core).wdc.get t 0
  let s := if c.all fun t => decide (get s t ≤ 0) then
      c.foldl (fun s t => s.modUnit core fun u =>
        { u with wdc := u.wdc.put t (get s t + (s.mgmtF (0x2000 + 0x10 * t) 55 48 * 4096 : Nat)) }) s
    else s
  match sortBy (fun a b => decide (get s b < get s a ∨ (get s a = get s b ∧ a < b))) c with
  | t :: _ => (some t, s)
  | [] => (none, s)

/-- A candidate is aged (R34). -/
def State.isAged (s : State) (core : Nat) (d : Drawable) : Bool := decide (s.stallAge core ≤ d.age)

/-- A candidate is full, or a held gang (R34, R36). -/
def Drawable.isFull (d : Drawable) : Bool := decide (d.width ≤ countMembers d.width d.members)

/-- The first of several lists of candidates that is not empty, its oldest, with the rank of the list and whether it was
drawn as full. -/
def firstOf : List (Nat × Bool × List Drawable) → Option (Nat × Bool × Drawable)
  | [] => none
  | (rank, full, l) :: rest => match oldestOf l with | some d => some (rank, full, d) | none => firstOf rest

/-- The draw of R36 from rank 2 on: its rank, whether as a full stall, and the candidate. An overdue stall of any function is
drawn at rank 2, ahead of partitions (R47); the later ranks see those of the functions that the core issues for (R68). -/
def State.drawRank (s : State) (core port : Nat) : Option (Nat × Bool × Drawable) × State :=
  let any := s.drawables core port false
  let own := fun (l : List Drawable) => l.filter fun d => s.issuesFor core d.stall.key.tenant
  match oldestOf (any.filter fun d => decide (s.overdueAge core ≤ d.age)) with
  | some d => (some (2, false, d), s)
  | none =>
    let all := own any
    let ready := all.filter fun d => s.isAged core d || d.isFull
    let c := dedup (sortBy (fun a b => decide (a < b)) (ready.map fun d => d.stall.key.tenant))
    match (if c.isEmpty then (none, s) else s.chooseTenant core c) with
    | (some t, s) =>
      let mine := ready.filter fun d => decide (d.stall.key.tenant = t)
      let up := mine.filter fun d => !d.stall.demoted
      let down := mine.filter fun d => d.stall.demoted
      let aged := fun (l : List Drawable) => l.filter (s.isAged core)
      let full := fun (l : List Drawable) => l.filter Drawable.isFull
      (firstOf [(3, false, aged up), (4, true, full up), (5, false, aged down), (5, true, full down)], s)
    | (none, s) => (firstOf [(6, false, all), (6, false, own (s.drawables core port true))], s)

/-- A gang takes its lanes. Replays that are left to its fibres come before their first instruction. -/
def State.startGang (s : State) (core port base w : Nat) (key : StallKey) (lanes : List (Nat × Nat)) : State :=
  let id := s.nextId
  let s := s.fresh.2
  let s := s.modUnit core fun u => lanes.foldl (fun u l => u.unfile l.2) u
  let s := lanes.foldl (fun s l => s.modFibre (fibreKey core l.2) fun f =>
    { f with state := .issuing, lane := l.1, pause := none, reform := false, pc := s.freshPc f.tenant f.pc }) s
  let g : Gang :=
    { core := core, port := port, base := base, width := w, tenant := key.tenant, launch := key.launch,
      members := lanes, runLen := 0, runStart := s.freshPc key.tenant key.pc, pos := 0, recent := [], reform := false,
      spinning := true, before := [], stall := key.pc }
  lanes.foldl (fun s l => s.catchUp (fibreKey core l.2)) { s with gangs := s.gangs.put id g }

/-- Every filed fibre of a core ages by one opportunity (R32). -/
def State.ageAll (s : State) (core : Nat) : State :=
  let older := fun (m : Filed) => { m with age := m.age + 1 }
  s.modUnit core fun u =>
    { u with stalls := u.stalls.map fun t => { t with members := t.members.map older },
             overflow := u.overflow.map fun p => (p.1, older p.2) }

/-! ### The overflow (R33) -/

/-- The stall to release for the overflow: the most recently assigned that holds no held gang, and for an overdue fibre no
overdue member either (R33, R47). -/
def State.releasable (s : State) (core : Nat) (overdue : Bool) : Option Stall :=
  let ok := (s.unit core).busyStalls.filter fun t =>
    !(t.members.any fun m => m.held || (overdue && decide (s.overdueAge core ≤ m.age)))
  match ok with
  | [] => none
  | t :: rest => some (rest.foldl (fun (b : Stall) q => if b.assigned < q.assigned then q else b) t)

/-- A stall is released to the oldest key of the overflow, where its oldest fibre has reached an age and no stall is free
(R33). An overdue fibre takes none that holds an overdue key or a held gang: it claims the first that empties (R47). -/
def State.releaseStall (s : State) (core age : Nat) : State :=
  let s := s.modUnit core fun u => u.drainOverflow u.overflow.length
  match (s.unit core).oldestOverflow with
  | none => s
  | some p =>
    if p.2.age < age then s
    else
      match s.releasable core (decide (s.overdueAge core ≤ p.2.age)) with
      | none => s
      | some t =>
        s.modUnit core fun u =>
          let u := { u with stalls := u.stalls.filter fun q => decide (q.key ≠ t.key),
                            overflow := u.overflow ++ t.members.map fun m => (t.key, m) }
          u.letIn p.1

/-- STALL_AGE_RELEASE (R33). -/
def execStallAgeRelease (core : Nat) (s : State) : Host.Outcome State Fault Refusal :=
  .next (s.releaseStall core (s.stallAge core))

/-- OVERDUE_CLAIM (R33, R47). -/
def execOverdueClaim (core : Nat) (s : State) : Host.Outcome State Fault Refusal :=
  .next (s.releaseStall core (s.overdueAge core))

/-- The overflow after a draw (R33): freed stalls are taken, and old fibres claim theirs. -/
def State.settleOverflow (s : State) (core : Nat) : State :=
  s.releaseStall core (min (s.stallAge core) (s.overdueAge core))

/-! ### The opportunity (R36) -/

/-- The clerk of a core, where it may be drawn at rank 1 (R36, R80). -/
def State.clerkReady (s : State) (core : Nat) : Option Fibre :=
  match s.fibres.find (fibreKey core 4095) with
  | some f => if f.state = .stalled ∧ (s.unit core).stopped = false then some f else none
  | none => none

/-- The age of a core's filed clerk. -/
def State.clerkAge (s : State) (core : Nat) : Nat :=
  let filed := ((s.unit core).stalls.flatMap fun t => t.members) ++ (s.unit core).overflow.map Prod.snd
  match filed.find? fun m => m.lanes.any fun l => decide (l.2 = 4095) with
  | some m => m.age
  | none => 0

/-- An issue opportunity on a port of a core: the draw of R36, granted where lanes are free. A core that is halted, by HALTED
or by its clock, draws its clerk alone (R320, R379). -/
def State.opportunity (s : State) (core port : Nat) : State :=
  match s.clerkReady core, s.freeRange core port 16 with
  | some f, some base =>
    let s := s.raiseCore core 0x0007 0 (s.clerkAge core) 1
    s.startGang core port base 16 f.stallKey [(0, 4095)]
  | _, _ =>
    if s.coreF core 0x148 0 0 = 1 ∨ 3 ≤ s.plat.thermal then s
    else
      let overdue := s.anyOverdue core
      match s.drawRank core port with
      | (none, s) => s
      | (some (rank, full, d), s) =>
        match s.freeRange core port d.width with
        | none => s
        | some base =>
          let lanes := drawFrom d.members d.width full
          let s := s.raiseCore core 0x0007 d.stall.key.tenant (drawnAge d.members lanes) rank
          let s := s.startGang core port base d.width d.stall.key lanes
          let s := if rank = 2 then s.setCoreF core 0x108 63 32 (s.coreF core 0x108 63 32 + 1) else s
          (if overdue then s else s.ageAll core).settleOverflow core

/-- ISSUE_OPPORTUNITY (R36): a core has two ports. -/
def execIssueOpportunity (core port : Nat) (s : State) : Host.Outcome State Fault Refusal :=
  .next (if core < 256 ∧ port < 2 ∧ s.plat.gated.contains (clusterOf core) = false then s.opportunity core port else s)

/-- PAUSE_RELEASE (R212): a paused fibre that has reached its bound is like any other. -/
def execPauseRelease (core fibre : Nat) (s : State) : Host.Outcome State Fault Refusal :=
  let u := s.unit core
  let mine := (u.stalls.flatMap fun t => t.members) ++ u.overflow.map Prod.snd
  .next (match mine.find? fun m => !m.held && m.lanes.any fun l => decide (l.2 = fibre) with
    | some m => if s.heldBack core m then s else s.modFibre (fibreKey core fibre) fun f => { f with pause := none }
    | none => s)

/-! ### Reloads, landings and effects -/

/-- A fibre whose top segment is back, and that is PARKED still, may have been the last that a complete rendezvous waited
for (R44, R45, R278; assumption 51). -/
def State.meet (s : State) (key : Nat) (w : Park) : State :=
  match w, (s.fibres.find key).bind Fibre.conv with
  | .barrier (.convene l), _ => s.checkConvene key l
  | .barrier .crossLane, some id => s.checkCross id
  | .barrier .bar, _ => match (s.fibres.find key).bind Fibre.crew with | some c => s.checkBar c | none => s
  | .barrier (.band k), _ =>
    match ((s.fibres.find key).bind Fibre.crew).bind fun c => s.sched.crews.find c with
    | some c => s.checkBand c.launch c.band k
    | none => s
  | _, _ => s

/-- SEGMENT_RELOAD (R31): the first request of a core is served where a slot can be had. -/
def execSegmentReload (core : Nat) (s : State) : Host.Outcome State Fault Refusal :=
  .next (match (s.unit core).reloads with
    | [] => s
    | key :: rest =>
      let drop := fun (s : State) => s.modUnit core fun u => { u with reloads := rest }
      match s.fibres.find key with
      | none => drop s
      | some f =>
        let seg := segKey f.tenant f.fbSeg
        let here := decide ((s.seg seg).resident = some core)
        match (if here then some s else s.heapRoom core true) with
        | none => s
        | some s =>
          let s := (drop s).modSeg seg fun g => { g with resident := some core, touched := s.gtc }
          let s := if here then s else s.raiseCore core 0x000A f.tenant (s.gtc - f.coldSince) 0
          match f.state with
          | .cold none => s.file key
          | .cold (some w) => (s.modFibre key fun f => { f with state := .parked w }).meet key w
          | _ => s)

/-- LANDING_WRITE (R171). -/
def execLandingWrite (id : Nat) (s : State) : Host.Outcome State Fault Refusal :=
  .next (s.deliverLanding id).settleLeaving

/-- PERFORM_EFFECT (R79): a fibre that stays PERFORMING tries again. -/
def execPerformEffect (core fibre : Nat) (s : State) : Host.Outcome State Fault Refusal :=
  .next (s.tryPerform (fibreKey core fibre))

/-- MAILBOX_DEFERRED_POST (R81, R87): notices and fibres that wait for a mailbox slot post where there is room. -/
def execMailboxDeferredPost (core : Nat) (s : State) : Host.Outcome State Fault Refusal :=
  let s := s.postWaiting core (s.unit core).notices.length
  .next ((s.fibres.select fun k f => decide (coreOf k = core) && decide (f.state = .performing)).foldl
    (fun s p => if s.mailboxRoom core then s.tryPerform p.1 else s) s)

end Sys2Proof.Machine
end

