-- ==== Sys2Proof/Machine/Launch.lean ====
section
/-! DEFINITION. The launch scheduler's events: queue registers and doorbells, readiness, repartition, crew start, limits,
completion, relaunch, and the refill of the accounts (R54 to R66, R120, R137, R369). -/
namespace Sys2Proof.Machine

/-! ### Queue registers (R54 to R57) -/

/-- The scheduler forgets the head record of a queue of which no band has been placed, with its watch. -/
def State.dropHead (s : State) (vf q : Nat) : State :=
  if (s.queue vf q).launch.isSome then s
  else
    let s := s.modCoh fun c => { c with ops := c.ops.select fun _ o => decide (o.kind ≠ .depend vf q) }
    s.modQueue vf q fun u => { QueueUnit.reset with deficit := u.deficit }

/-- A write of QCFG: LOGSZ is ignored while EN is 1; clearing EN stops consumption after the record in progress, setting it
lets the head be read (R55, R57; assumption 36). -/
def State.writeQcfg (s : State) (vf q v : Nat) : State :=
  let old := s.bar0 vf (queueOff q 8)
  let new := writeValue (queueFields vf q 8) old v
  let new := if bits old 15 15 = 1 then setBits new 4 0 (bits old 4 0) else new
  let s := s.setBar0 vf (queueOff q 8) new
  if bits old 15 15 = 1 ∧ bits new 15 15 = 0 then s.dropHead vf q
  else if bits old 15 15 = 0 ∧ bits new 15 15 = 1 then s.schedule vf q
  else s

/-- A write of QHEAD, while HALT is 1 (R54). -/
def State.writeQhead (s : State) (vf q v : Nat) : State :=
  if s.queueF vf q 0x28 24 24 = 1 then
    s.setBar0 vf (queueOff q 0x18) (writeValue (queueFields vf q 0x18) (s.bar0 vf (queueOff q 0x18)) v)
  else s

/-- A write of QSTAT: a 1 clears ERR or HALT; with HALT gone the slot is validated again (R54). -/
def State.writeQstat (s : State) (vf q v : Nat) : State :=
  let old := s.bar0 vf (queueOff q 0x28)
  let s := s.setBar0 vf (queueOff q 0x28) (writeValue (queueFields vf q 0x28) old v)
  if bits old 24 24 = 1 ∧ bits v 24 24 = 1 then s.schedule vf q else s

/-- Some write of a host waits at its home (R127). -/
def State.hostWaits (s : State) : Bool := s.coh.homes.any fun p => p.2.waiting.any HomeWrite.host

/-- A doorbell of a host (R56): ordered behind the host's earlier writes. -/
def State.hostRing (s : State) (vf queue value : Nat) : State :=
  if s.hostWaits then s.modCoh fun c => { c with doorbells := c.doorbells ++ [(vf, queue, value)] } else s.ring vf queue value

/-- The doorbells of a host that waited behind its writes. -/
def State.ringWaiting (s : State) : State :=
  if s.coh.doorbells.isEmpty ∨ s.hostWaits = true then s
  else s.coh.doorbells.foldl (fun s d => s.ring d.1 d.2.1 d.2.2) (s.modCoh fun c => { c with doorbells := [] })

/-- A write of a queue register of a function by its host (R55, R56). QBASE is ignored while EN is 1. -/
def State.writeQueue (s : State) (vf off v : Nat) : State :=
  let q := (off - 0x10000) / 0x40
  match off % 0x40 with
  | 0x00 => if s.queueF vf q 8 15 15 = 1 then s else s.setBar0 vf off (writeValue (queueFields vf q 0) (s.bar0 vf off) v)
  | 0x08 => s.writeQcfg vf q v
  | 0x10 => s.ringWaiting.hostRing vf q v
  | 0x18 => s.writeQhead vf q v
  | 0x20 => s.setBar0 vf off (writeValue (queueFields vf q 0x20) (s.bar0 vf off) v)
  | 0x28 => s.writeQstat vf q v
  | _ => s

/-- DOORBELL (R56). -/
def execDoorbell (port : HostPort) (vf queue : Nat) (value : BitVec 64) (s : State) : Host.Outcome State Fault Refusal :=
  .next (s.fromPort port fun s => s.ringWaiting.hostRing vf queue value.toNat)

/-- QHEAD_WRITE (R54). -/
def execQheadWrite (port : HostPort) (vf queue : Nat) (value : BitVec 64) (s : State) :
    Host.Outcome State Fault Refusal :=
  .next (s.fromPort port fun s => s.writeQhead vf queue value.toNat)

/-- QSTAT_HALT_CLEAR (R54). -/
def execQstatHaltClear (port : HostPort) (vf queue : Nat) (value : BitVec 64) (s : State) :
    Host.Outcome State Fault Refusal :=
  .next (s.fromPort port fun s => s.writeQstat vf queue value.toNat)

/-- QUEUE_DISABLE (R57). -/
def execQueueDisable (port : HostPort) (vf queue : Nat) (value : BitVec 64) (s : State) :
    Host.Outcome State Fault Refusal :=
  .next (s.fromPort port fun s => s.writeQcfg vf queue value.toNat)

/-! ### Readiness (R58) -/

/-- LAUNCH_READY (R58, R64). -/
def execLaunchReady (vf queue : Nat) (s : State) : Host.Outcome State Fault Refusal :=
  .next (s.checkReady vf queue).arbitrate

/-- LAUNCH_CFG.DEPPOLL in ticks (R58, R272). -/
def State.pollPeriod (s : State) : Nat := s.mgmtF 0x1F08 39 32 * 1000

/-- An operation that watches a host-homed word is due to read it again: once every DEPPOLL µs (R58, R272). -/
def State.pollDue (s : State) (o : OrdOp) : Bool :=
  decide (o.stage = .watching) && isHostLine (lineOf o.addr) && decide (max o.since o.polled + s.pollPeriod ≤ s.gtc)

/-- A watched host-homed word is read again. -/
def State.pollWord (s : State) (id : Nat) (o : OrdOp) : State :=
  ((s.setOrd id { o with polled := s.gtc }).serve id).tryComplete id

/-- DEPPOLL_READ (R58): the scheduler reads its dependence word again, as a .sys acquire. A read that the windows refuse by now
refuses the record with code ADDR (R17, R54, R368). -/
def execDeppollRead (vf queue : Nat) (s : State) : Host.Outcome State Fault Refusal :=
  .next (match s.coh.ops.first fun _ o => decide (o.kind = .depend vf queue) && s.pollDue o with
    | some (id, o) =>
      if s.targetsOk vf 6 [o.addr] false then s.pollWord id o
      else (s.dropHead vf queue).refuse vf queue 10
    | none => s)

/-! ### Repartition (R120) -/

/-- Evict segments of a core until its heap holds at most `size`, at most `n` of them. -/
def State.shrinkHeap (s : State) (core size : Nat) : Nat → State
  | 0 => s
  | n + 1 =>
    if s.heapUsed core ≤ size then s
    else
      match s.victim core false with
      | some k => State.shrinkHeap (s.evictSeg core k) core size n
      | none => s

/-- A core goes on with a change of its split: the granules given up are freed, and PITCH_MAP follows when all are. -/
def State.repartition (s : State) (core : Nat) : State :=
  match (s.unit core).repartition with
  | some [f, sc, w, c] =>
    let s : State := if c < s.coreF core 0x110 31 24 then (s.l1Lines core fun _ _ => true).foldl (fun s l => s.evictLine core l) s
      else s
    let s := s.shrinkHeap core (f * 64) (s.heapUsed core)
    if f * 64 < s.heapUsed core then s
    else
      let s := s.setCoreReg core 0x110 (c * 2 ^ 24 + w * 2 ^ 16 + sc * 2 ^ 8 + f)
      s.modUnit core fun u => { u with repartition := none }
  | _ => s

/-- REPARTITION (R120). -/
def execRepartition (core : Nat) (s : State) : Host.Outcome State Fault Refusal := .next (s.repartition core)

/-! ### Crew start (R60) -/

/-- The s-registers that ARGS gives (R53, R60); none where the read faults, or no one window covers it (R368). -/
def State.argsOf (s : State) (vf args : Nat) : Option (Tbl RegCell) :=
  if args = 0 then some []
  else if s.mayReach vf 6 args 256 false = false then none
  else (s.agentRead vf 6 args 256).map fun b =>
    (List.range 64).map fun i =>
      let v := BitVec.ofNat 32 (field b (4 * i) 4)
      (i, { RegCell.zero with val := v, back := v })

/-- Give one fibre of a starting crew its root segment, and file it. Answers an error where the tenant has no backing slot
(R76), and nothing where the heap has no room yet. -/
def State.rootSegment (s : State) (key : Nat) (f : Fibre) (pc : Pc) : Option (Option State) :=
  match s.freeSegFor key f.tenant with
  | none => none
  | some addr =>
    match s.heapRoom (coreOf key) false with
    | none => some none
    | some s =>
      let s := s.newSeg (coreOf key) f.tenant addr .empty
      let s := s.modFibre key fun g => { g with fbSeg := addr, fbWord := 0, hchain := 0, live := 128, pc := pc }
      some (some ((s.loadFsm key).file key))

/-- Root segments for every fibre of a crew: all, or an error, or nothing yet. -/
def State.rootSegments (s : State) (pc : Pc) : List (Nat × Fibre) → Option (Option State)
  | [] => some (some s)
  | (key, f) :: rest =>
    match s.rootSegment key f pc with
    | none => none
    | some none => some none
    | some (some s) => State.rootSegments s pc rest

/-- A placed crew starts (R60): when its core's split has changed and its time has come. -/
def State.startCrew (s : State) (crew : Nat) : State :=
  match s.sched.crews.find crew with
  | none => s
  | some k =>
    match s.sched.launches.find k.launch with
    | none => s
    | some l =>
      let early := l.record.flag 1 && decide (s.ptp.toNat < l.record.start)
      if k.started.isSome ∨ k.ended ∨ k.killCause.isSome ∨ early = true ∨ (s.unit k.core).repartition.isSome then s
      else
        match s.argsOf l.vf l.record.args with
        | none => s.killCrew crew 0x10003
        | some regs =>
          match s.rootSegments (s.entryPc l.vf l.record) (s.crewFibres crew) with
          | none => s.killCrew crew 0x10002
          | some none => s
          | some (some s) =>
            (s.modCrew crew fun k => { k with started := some s.gtc, sregs := regs }).dropLeases k.core

/-- CREW_START (R60). -/
def execCrewStart (crew : Nat) (s : State) : Host.Outcome State Fault Refusal := .next (s.startCrew crew)

/-- RUNLIM_EXPIRY (R61): a crew that has run longer than RUNLIM is killed, with a deadline. -/
def execRunlimExpiry (crew : Nat) (s : State) : Host.Outcome State Fault Refusal :=
  .next (match s.sched.crews.find crew with
    | none => s
    | some k =>
      match k.started, s.recordOf k.launch with
      | some t, some r =>
        if r.runlim = 0 ∨ s.gtc ≤ t + r.runlim * 1000 ∨ k.killCause.isSome ∨ k.ended then s
        else
          let by_ := t + (r.runlim + s.mgmtF 0x1F08 31 16) * 1000
          (s.modCrew crew fun k => { k with deadline := some by_ }).killCrew crew 0x10001
      | _, _ => s)

/-! ### Completion and relaunch (R62, R137) -/

/-- A crew killed by a SCRATCH or WEIGHT error will be relaunched (R137). -/
def State.relaunchable (s : State) (k : Crew) : Bool :=
  match s.recordOf k.launch with
  | some r => k.ended && k.ecc && !k.noRelaunch && decide (k.relaunches < 2) && r.flag 0
  | none => false

/-- LAUNCH_COMPLETE (R62): when every fibre has ended and no relaunch is to come, the cores that ran it write back, and the
completion goes on in its order. -/
def execLaunchComplete (launch : Nat) (s : State) : Host.Outcome State Fault Refusal :=
  .next (match s.sched.launches.find launch with
    | none => s
    | some l =>
      let mine := s.sched.crews.select fun _ k => decide (k.launch = launch)
      if l.completing ∨ l.placed < l.record.bands ∨ (mine.any fun p => !p.2.ended || s.relaunchable p.2) = true then s
      else
        let killed := mine.any fun p => p.2.killCause.isSome
        let s := s.modSched fun c =>
          { c with launches := c.launches.put launch { l with completing := true, crewKilled := killed } }
        let w := (s.launchCores launch).foldl (fun (a : List (Nat × Nat) × State) core =>
          let r := a.2.fenceWrites core l.vf
          (a.1 ++ r.1, r.2)) ([], s)
        let s := w.2
        let hosts := (s.launchCores launch).flatMap s.coreHostWrites
        let id := s.nextId
        let op : OrdOp :=
          { kind := .completion launch, stage := .held, agent := schedulerAgent, fibre := none, vf := l.vf, space := 0,
            addr := 0, size := 8, scope := 5, value := 0, value2 := 0, targets := [], writes := w.1, lines := [],
            hostWrites := hosts, lost := false, result := 0, since := s.gtc }
        ((s.fresh.2).setOrd id op).tryComplete id)

/-- CREW_RELAUNCH (R137): a crew is placed again on its core where it fits, with new descriptors. -/
def execCrewRelaunch (crew : Nat) (s : State) : Host.Outcome State Fault Refusal :=
  .next (match s.sched.crews.find crew with
    | none => s
    | some k =>
      match s.sched.launches.find k.launch with
      | none => s
      | some l =>
        if s.relaunchable k = false ∨ l.completing then s
        else
          let s' := s.modSched fun c => { c with crews := c.crews.del crew }
          (s'.placeCrew l.vf k.launch k.band k.core k.firstWid.toNat (k.relaunches + 1) l.record).getD s)

/-! ### The refill (R66, R369) -/

/-- Repay a tenant's lenders of its own partition, the lowest first (R66). -/
def State.repayLenders (s : State) (t : Nat) : List Nat → Nat → State
  | [], _ => s
  | u :: rest, left =>
    let lent := s.sched.lent.get (u * 256 + t) 0
    let gift := min lent left
    if gift = 0 ∨ s.partitionOf u ≠ s.partitionOf t then State.repayLenders s t rest left
    else
      let s := s.modSched fun c =>
        { c with lent := c.lent.put (u * 256 + t) (lent - gift),
                 bal := c.bal.put u (min (s.bal u + gift) (s.budget u : Int)) }
      State.repayLenders s t rest (left - gift)

/-- Refill one account (R66). -/
def State.refill (s : State) (t : Nat) : State :=
  let debt := s.sched.debt.get t 0
  let repay := min debt (s.budget t / 2)
  let s := s.modSched fun c =>
    { c with debt := c.debt.put t (debt - repay),
             bal := c.bal.put t (max (min (s.bal t + s.budget t - repay) (s.budget t : Int)) (-(s.budget t : Int))) }
  s.repayLenders t (List.range 128) repay

/-- The vectors of a function that are pending and may be sent are sent, in order (R369). -/
def State.sendPending (s : State) (vf : Nat) : State :=
  ((List.range 256).filter (s.maySend vf)).foldl (fun s v => s.sendPended vf v) s

/-- The last boundary of TOKEN_PERIOD (R66): a multiple of it in GTC. -/
def State.refillBoundary (s : State) : Nat :=
  let p := s.mgmtF 0x1F00 25 16 * 1000
  s.gtc / p * p

/-- The BUDGET registers come into force (R66). -/
def State.takeBudgets (s : State) : State :=
  s.modSched fun c =>
    { c with budgets := (List.range 129).map fun t => (t, s.mgmtF (0x2000 + 0x10 * t) 31 0), refilledAt := s.refillBoundary }

/-- The refill of every account, once at each boundary of TOKEN_PERIOD; vectors that were held for want of funds are sent
(R66, R369). -/
def State.refillAll (s : State) : State :=
  if s.refillBoundary ≤ s.sched.refilledAt then s
  else ((List.range 128).foldl State.sendPending ((List.range 129).foldl State.refill s.takeBudgets)).arbitrate

/-- TOKEN_REFILL (R66, R369). -/
def execTokenRefill (s : State) : Host.Outcome State Fault Refusal := .next s.refillAll

end Sys2Proof.Machine
end

