-- ==== Sys2Proof/Machine/Lines.lean ====
section
/-! DEFINITION. What happens to lines between instructions, and the host's accesses to memory (R122, R127, R130, R133 to
R135, R144, R272, R361, R363, R368). -/
namespace Sys2Proof.Machine

/-- HOME_WRITE_APPLY (R127): writes that wait at a home are applied once GTC has reached EXP. -/
def execHomeWriteApply (line : Nat) (s : State) : Host.Outcome State Fault Refusal :=
  .next (s.applyHome (lineOf line)).ringWaiting.netProgress

/-- WAITA_HOST_POLL (R272): a WAITA on a host-homed word is evaluated again. -/
def execWaitaHostPoll (id : Nat) (s : State) : Host.Outcome State Fault Refusal :=
  .next (match s.coh.ops.find id with
    | some o =>
      match o.kind with
      | .waita _ => if s.pollDue o then s.pollWord id o else s
      | _ => s
    | none => s)

/-- RECALL (R130): the core that holds a line RETAINED answers a recall. -/
def execRecallLine (core line : Nat) (s : State) : Host.Outcome State Fault Refusal :=
  let line := lineOf line
  let h := s.home line
  .next (match h.tag with
    | some t => if h.tagState = .recalling ∧ h.recallSent = true ∧ t.agent = core then s.recall core line else s
    | none => s)

/-- A cluster may be gated: no crew is on its cores, and no clerk issues, or has an operation under way, whose end would leave a
dirty or RETAINED line in a core that is gated. -/
def State.mayGate (s : State) (cluster : Nat) : Bool :=
  (s.fibres.all fun p => decide (clusterOf (coreOf p.1) ≠ cluster) ||
    (isClerk p.1 && p.2.counted.all (fun c => c.done || c.stopped.isSome) &&
      match p.2.state with | .parked _ => true | _ => false)) &&
  (s.coh.ops.all fun o => match o.2.fibre with | some k => decide (clusterOf (coreOf k) ≠ cluster) | none => true) &&
  s.engine.all fun o => decide (clusterOf o.2.core ≠ cluster)

/-- CLUSTER_GATE (R134): the cores of the cluster write back every dirty and RETAINED line and drop every lease. -/
def execClusterGate (cluster : Nat) (s : State) : Host.Outcome State Fault Refusal :=
  .next (if s.plat.gated.contains cluster ∨ 32 ≤ cluster ∨ s.mayGate cluster = false then s
    else
      let s := (upto (8 * cluster) 8).foldl (fun (s : State) core =>
        (s.l1Lines core fun _ _ => true).foldl (fun s line => s.evictLine core line) s) s
      s.modPlat fun p => { p with gated := p.gated ++ [cluster] })

/-- CLUSTER_UNGATE (R134). -/
def execClusterUngate (cluster : Nat) (s : State) : Host.Outcome State Fault Refusal :=
  .next (s.modPlat fun p => { p with gated := p.gated.filter fun c => decide (c ≠ cluster) })

/-! ### Snoops and acknowledgements of a host -/

/-- The number of a host port. -/
def portNumber : HostPort → Nat
  | .a => 0
  | .b => 1

/-- The host-homed line of a host port. -/
def hostLineOf (port : HostPort) (line : Nat) : Nat := (portNumber port + 1) * 2 ^ 52 + lineOf (line % 2 ^ 52)

/-- Answer a snoop that came at `since` (R133, R346); its event is charged to no function (DESIGN CHOICE, assumption 74). -/
def State.answerSnoop (s : State) (port : HostPort) (line since : Nat) : State :=
  let s := s.raise (dieOfLine line) 0x0006 0xFF (homeUnit line) (line / 64) (s.gtc - since)
  s.answer [1, portNumber port, line % 2 ^ 52]

/-- HOST_SNOOP (R133): answered at once where GTC has passed the line's expiry, else the answer waits. -/
def execHostSnoop (port : HostPort) (line : Nat) (s : State) : Host.Outcome State Fault Refusal :=
  let line := hostLineOf port line
  .next (if (s.home line).exp ≤ s.gtc then s.answerSnoop port line s.gtc
    else s.modCoh fun c => { c with snoops := c.snoops ++ [(port, line, s.gtc)] })

/-- HOST_SNOOP_ANSWER (R133). -/
def execHostSnoopAnswer (port : HostPort) (line : Nat) (s : State) : Host.Outcome State Fault Refusal :=
  let line := hostLineOf port line
  .next (match s.coh.snoops.find? fun w => decide (w.1 = port ∧ w.2.1 = line) with
    | some w =>
      if s.gtc < (s.home line).exp then s
      else (s.modCoh fun c => { c with snoops := c.snoops.erase w }).answerSnoop port line w.2.2
    | none => s)

/-- HOST_WRITE_ACKNOWLEDGEMENT (R144). -/
def execHostWriteAcknowledgement (id : Nat) (s : State) : Host.Outcome State Fault Refusal :=
  .next (s.modCoh fun c => { c with hostWrites := c.hostWrites.filter fun w => decide (w.id ≠ id) })

/-- A host writes into its own memory: as the host would, once no lease on the line is left (R133; assumption 37). -/
def State.hostStore (s : State) (pa : Nat) (data : List Byte) : State :=
  let cells := cellsAt pa data
  (dedup (cells.map fun c => lineOf c.1)).foldl (fun (s : State) line =>
    if isHostLine line = false then s
    else
      let w : HomeWrite :=
        { id := s.nextId, core := none, vf := 0, since := s.gtc, data := cells.filter fun c => decide (lineOf c.1 = line) }
      let s := s.fresh.2
      (s.setHome line { s.home line with waiting := (s.home line).waiting ++ [w] }).applyHome line) s

/-! ### The host's accesses to device memory (R361, R368) -/

/-- The agent identifier of a host port (R16). -/
def hostAgent (port : HostPort) : Nat := 5 * 512 + portNumber port

/-- A host's access to device memory passes its windows; a function in TDISP ERROR has no host-port traffic, and in recovery the
PF alone is there (R368, R374, R376). -/
def State.hostMay (s : State) (vf addr n : Nat) (write : Bool) : Bool :=
  decide (addr + n ≤ 2 ^ 39) && decide (s.tdisp vf ≠ .error) && (!s.plat.recovery || decide (vf = 0)) &&
    s.targetsOk vf 5 ((pagesOf addr n).map fun p => p * 4096) write

/-- HOST_ATOMIC_READ (R62, R133): an aligned word, read as ACQ.sys by the host. A read that a window refuses is an Unsupported
Request. -/
def execHostAtomicRead (port : HostPort) (vf addr : Nat) (wide : Bool) (s : State) : Host.Outcome State Fault Refusal :=
  let n := if wide then 8 else 4
  .next (if addr % n ≠ 0 ∨ s.hostMay vf addr n false = false then s.answer [2, portNumber port, addr]
    else if s.isPoisoned (lineOf addr) then s.answer [3, portNumber port, addr]
    else
      let id := s.nextId
      let o : OrdOp :=
        { kind := .hostRead port, stage := .served, agent := hostAgent port, fibre := none, vf := vf, space := 0,
          addr := addr, size := n, scope := 5, value := 0, value2 := 0, targets := [], writes := [], lines := [],
          hostWrites := [], lost := false, result := 0, since := s.gtc }
      (((s.fresh.2).setOrd id o).serve id).tryComplete id)

/-- One line of a host's write (R127, R135): a sealed line stays as it is, and the write is dropped and counted, or for
CXL.mem answered with an error. -/
def State.hostLineWrite (s : State) (port : HostPort) (cxlMem : Bool) (vf line : Nat) (cells : List (Nat × Byte)) : State :=
  if s.isSealed line then
    if cxlMem then s.answer [3, portNumber port, line] else s.countMgmt 0x7018 31 16
  else (s.sendHomeAs { id := 0, core := none, vf := vf, since := 0, data := cells, host := true } line).2

/-- HOST_WRITE (R127, R135, R368). -/
def execHostWrite (port : HostPort) (cxlMem : Bool) (vf addr : Nat) (data : List Byte) (s : State) :
    Host.Outcome State Fault Refusal :=
  .next (if s.hostMay vf addr data.length true = false then s.countMgmt 0x7018 31 16
    else
      let cells := cellsAt addr data
      ((dedup (cells.map fun c => lineOf c.1)).foldl (fun (s : State) line =>
        s.hostLineWrite port cxlMem vf line (cells.filter fun c => decide (lineOf c.1 = line))) s).ringWaiting.netProgress)

/-- HOST_MEMORY_READ (R361, R363): it completes normally, with the bytes at their homes, or those of the slots of a backing area
(R71); one that a window refuses is an Unsupported Request (R368), and one that meets a poisoned line completes with an error
(R136; assumption 55). -/
def execHostMemoryRead (port : HostPort) (vf addr len : Nat) (s : State) : Host.Outcome State Fault Refusal :=
  .next (if s.hostMay vf addr len false = false then s.answer [2, portNumber port, addr]
    else if (upto addr len).any fun a => s.isPoisoned (lineOf a) then s.answer [3, portNumber port, addr]
    else s.answer ([4, portNumber port, addr] ++ (s.readPlace addr len).map BitVec.toNat))

end Sys2Proof.Machine
end

