-- ==== Sys2Proof/Machine/Regs.lean ====
section
/-! DEFINITION. Register writes from outside the cores (R8, R55, R68, R69, R349, R350, R362 to R364, R367 to R369, R376,
R377), the host lease and failover, and PTP time. -/
namespace Sys2Proof.Machine

/-! ### TDISP (R376) -/

/-- The crews of a function that have not ended. -/
def State.crewsOf (s : State) (vf : Nat) : List Nat :=
  (s.sched.crews.filter fun p => !p.2.ended &&
    match s.sched.launches.find p.2.launch with | some l => decide (l.vf = vf) | none => false).map Prod.fst

/-- The fibres of a function, its clerks excepted. -/
def State.fibresOf (s : State) (vf : Nat) : List Nat :=
  (s.fibres.filter fun p => decide (p.2.tenant = vf) && !isClerk p.1).map Prod.fst

/-- Step 3 of an FLR (R371): every fibre is killed at its next safe point; the deadline bounds the wait. -/
def State.killVf (s : State) (vf : Nat) : State :=
  let by_ := s.gtc + s.mgmtF 0x7200 47 32 * 1000
  let s := (s.crewsOf vf).foldl (fun (s : State) c =>
    (s.modCrew c fun k => { k with noRelaunch := true, deadline := some (min by_ (k.deadline.getD by_)) }).killCrew c
      0x10005) s
  (s.fibresOf vf).foldl State.killFibre s

/-- A function that is locked or runs falls into ERROR (R376): its fibres are killed. -/
def State.tdispError (s : State) (vf : Nat) : State :=
  if s.tdisp vf = .locked ∨ s.tdisp vf = .run then
    (s.modPlat fun p =>
      { p with tdisp := p.tdisp.put vf .error, flr := p.flr.put (128 + vf) s.gtc }).killVf vf
  else s

/-! ### MSI-X (R364, R369) -/

/-- A vector that is pending and may be sent is sent. -/
def State.releaseVector (s : State) (vf v : Nat) : State :=
  if s.maySend vf v then s.sendPended vf v else s

/-- A write of a word of the MSI-X table. It is frozen while the function is locked or runs (R376). -/
def State.writeMsix (s : State) (vf off v : Nat) : State :=
  if s.tdisp vf = .locked ∨ s.tdisp vf = .run then s.tdispError vf
  else
    let s := s.setBar0 vf off (writeValue (bar0Fields vf off) (s.bar0 vf off) v)
    if off % 16 = 8 then s.releaseVector vf ((off - 0x20000) / 16) else s

/-- MSIX_VECTOR_UNMASK (R369). -/
def execMsixVectorUnmask (vf vector : Nat) (s : State) : Host.Outcome State Fault Refusal :=
  let off := 0x20008 + 16 * vector
  .next (s.accepted fun s => if vector < 256 then s.writeMsix vf off (setBits (s.bar0 vf off) 32 32 0) else s)

/-! ### BAR 0 (R364) -/

/-- A write of a function's BAR 0. -/
def State.writeBar0 (s : State) (vf off v : Nat) : State :=
  if 0x10000 ≤ off ∧ off < 0x11000 then s.writeQueue vf off v
  else if 0x20000 ≤ off ∧ off < 0x21000 ∧ off % 8 = 0 then s.writeMsix vf off v
  else if 0x400000 ≤ off ∧ off < 0x400000 + 10 * 0x40000 then
    s.writeWindow vf ((off - 0x400000) / 0x40000) ((off - 0x400000) % 0x40000) v
  else s

/-- What a read of a function's BAR 0 shows (R55, R350, R364). -/
def State.readBar0 (s : State) (vf off : Nat) : Nat :=
  if 0x400000 ≤ off ∧ off < 0x400000 + 10 * 0x40000 then
    s.readWindow vf ((off - 0x400000) / 0x40000) ((off - 0x400000) % 0x40000)
  else readValue (bar0Fields vf off) (s.bar0 vf off)

/-! ### The host lease (R362, R363) -/

/-- The number that a host port's pages carry as TARGET. -/
def portTarget (p : HostPort) : Nat := portNumber p + 1

/-- The unacknowledged stores to a host are dropped and counted (R362). -/
def State.dropHostWrites (s : State) (old : HostPort) : State :=
  (s.coh.hostWrites.filter fun w => decide (w.port = old)).foldl (fun (s : State) w =>
    let h := s.home w.line
    let s := s.setHome w.line { h with waiting := h.waiting.filter fun x => decide (x.id ≠ w.id) }
    let s := s.modCoh fun c => { c with hostWrites := c.hostWrites.filter fun x => decide (x.id ≠ w.id) }
    (s.settle w.line w.id).countMgmt 0x7018 31 16) s

/-- The takeover of R362, in its order. -/
def State.failover (s : State) : State :=
  let old := s.activePort
  let mine := fun (k : Nat) => decide (targetOf (k % 2 ^ 58) = portTarget old)
  let s := s.modCoh fun c =>
    { c with l1 := c.l1.select fun k _ => !mine k, l2 := c.l2.select fun k _ => !mine k,
             snoops := c.snoops.filter fun w => decide (w.1 ≠ old) }
  let s := s.dropHostWrites old
  let s := s.setMgmtF 0x7000 1 1 (1 - s.mgmtF 0x7000 1 1)
  let s := s.setMgmtF 0x7000 15 8 (s.mgmtF 0x7000 15 8 + 1)
  s.modPlat fun p => { p with renewed := s.gtc }

/-- A write of HL_RENEW (R362). -/
def State.renew (s : State) (port : HostPort) (v : Nat) : State :=
  if port = s.activePort ∧ bits v 7 0 = s.mgmtF 0x7000 15 8 then
    (s.setMgmtF 0x7018 32 32 0).modPlat fun p => { p with renewed := s.gtc }
  else s.countMgmt 0x7018 15 0

/-- A write of HL_CLAIM (R363). -/
def State.claim (s : State) (port : HostPort) (v : Nat) : State :=
  if port ≠ s.activePort ∧ s.mgmtF 0x7018 32 32 = 1 ∧ bits v 7 0 = (s.mgmtF 0x7000 15 8 + 1) % 256 then
    (s.failover).setMgmtF 0x7018 32 32 0
  else s

/-- HL_RENEW (R362). -/
def execHlRenew (port : HostPort) (value : BitVec 64) (s : State) : Host.Outcome State Fault Refusal :=
  .next (s.accepted fun s => s.renew port value.toNat)

/-- HL_CLAIM (R363). -/
def execHlClaim (port : HostPort) (value : BitVec 64) (s : State) : Host.Outcome State Fault Refusal :=
  .next (s.accepted fun s => s.claim port value.toNat)

/-- The host port that is not ACTIVE. -/
def State.standbyPort (s : State) : HostPort := if s.activePort = .a then .b else .a

/-- HOST_LEASE_EXPIRY (R362). -/
def execHostLeaseExpiry (s : State) : Host.Outcome State Fault Refusal :=
  .next (if s.mgmtF 0x7000 0 0 = 0 ∨ s.gtc < s.plat.renewed + s.mgmtF 0x7000 47 32 * 1000 then s
    else if s.plat.linkUp.contains s.standbyPort then s.failover
    else s.setMgmtF 0x7018 32 32 1)

/-- A host port's link goes down or comes up (R362). A port whose link comes up again has rejoined, with a new incarnation
(R18). -/
def State.linkChange (s : State) (port : HostPort) (up : Bool) : State :=
  let s := if up && !s.plat.linkUp.contains port then s.newIncarnation (5 * 512 + portNumber port) else s
  s.modPlat fun p =>
    let others := p.linkUp.filter fun x => decide (x ≠ port)
    { p with linkUp := if up then others ++ [port] else others }

/-- HOST_PORT_LINK_CHANGE (R362). -/
def execHostPortLinkChange (port : HostPort) (up : Bool) (s : State) : Host.Outcome State Fault Refusal :=
  .next (s.linkChange port up)

/-! ### PTP time (R377, R378) -/

/-- A write of PTP_OFS replaces it and clears ACC. -/
def State.writePtpOfs (s : State) (v : Nat) : State := { s.setMgmt 0x7100 v with ptpAcc := 0 }

/-- PTP_TRIM as it is kept: clamped to ±4,294,967. -/
def clampTrim (v : Nat) : Nat :=
  (BitVec.ofInt 32 (max (-4294967) (min 4294967 (BitVec.ofNat 32 v).toInt))).toNat

/-- A write of PTP_TRIM folds the whole part of ACC into PTP_OFS first. -/
def State.writePtpTrim (s : State) (v : Nat) : State :=
  let ofs := (BitVec.ofNat 64 (s.mgmt 0x7100) + BitVec.ofInt 64 (s.ptpAcc / 2 ^ 32)).toNat
  { (s.setMgmt 0x7100 ofs).setMgmt 0x7108 (clampTrim v) with ptpAcc := s.ptpAcc % 2 ^ 32 }

/-- PTP_OFS_WRITE (R377). -/
def execPtpOfsWrite (value : BitVec 64) (s : State) : Host.Outcome State Fault Refusal := .next (s.accepted fun s => s.writePtpOfs value.toNat)

/-- PTP_TRIM_WRITE (R377). -/
def execPtpTrimWrite (value : BitVec 64) (s : State) : Host.Outcome State Fault Refusal :=
  .next (s.accepted fun s => s.writePtpTrim value.toNat)

/-- PTP_EVENT_TIMESTAMP (R378). -/
def execPtpEventTimestamp (ethPort message : Nat) (s : State) : Host.Outcome State Fault Refusal :=
  .next (s.modPlat fun p => { p with stamps := p.stamps ++ [(ethPort, message, (s.ptp.toNat : Int))] })

/-! ### The PF's management window -/

/-- Some cluster or function lies in two partitions (R68). -/
def State.partitionsClash (s : State) : Bool :=
  let held := fun (off i : Nat) =>
    decide (1 < ((List.range 8).filter fun n => decide (s.mgmtF (off + 0x20 * n) i i = 1)).length)
  ((List.range 32).any (held 0x1E00)) || ((List.range 64).any (held 0x1E08)) || (List.range 64).any (held 0x1E10)

/-- A crew of a function of a partition is resident. -/
def State.partitionBusy (s : State) (n : Nat) : Bool :=
  s.sched.crews.any fun p => !p.2.ended &&
    match s.sched.launches.find p.2.launch with | some l => decide (s.partitionOf l.vf = some n) | none => false

/-- A write of an HPART register (R68). -/
def State.writeHpart (s : State) (off v : Nat) : State :=
  let old := s.mgmt off
  let new := writeValue (mgmtFields off) old v
  let t := s.setMgmt off new
  let moves := decide ((off - 0x1E00) % 0x20 ≠ 0x18) && decide (new ≠ old)
  if moves && (t.partitionsClash || s.partitionBusy ((off - 0x1E00) / 0x20)) then s.setMgmtF 0x1F00 2 2 1
  else t.arbitrate

/-- HPART_WRITE (R68). -/
def execHpartWrite (offset : Nat) (value : BitVec 64) (s : State) : Host.Outcome State Fault Refusal :=
  .next (s.accepted fun s =>
    if 0x1E00 ≤ offset ∧ offset < 0x1F00 ∧ offset % 8 = 0 then s.writeHpart offset value.toNat else s)

/-- A write of a function's XLINV starts an invalidation (R367). -/
def State.writeXlinv (s : State) (vf v : Nat) : State :=
  let off := 0x8008 + 0x10 * vf
  let s := s.setMgmt off (writeValue (mgmtFields off) (s.mgmt off) v)
  s.invalidate vf vf (bits v 47 12) (decide (bits v 0 0 = 1))

/-- XLINV (R367). -/
def execXlinv (vf : Nat) (value : BitVec 64) (s : State) : Host.Outcome State Fault Refusal :=
  .next (s.accepted fun s => if vf < 128 then s.writeXlinv vf value.toNat else s)

/-- A write of a backing register (R71): ignored with CFGERR while a fibre of the function is resident. -/
def State.writeBacking (s : State) (off v : Nat) : State :=
  if (s.fibresOf ((off - 0xD000) / 0x10)).isEmpty then s.setMgmt off (writeValue (mgmtFields off) (s.mgmt off) v)
  else s.setMgmtF 0x1F00 2 2 1

/-- A write of HL_CTL (R362): the lease runs from the write that sets EN. -/
def State.writeHlCtl (s : State) (v : Nat) : State :=
  let was := s.mgmtF 0x7000 0 0
  let s := s.setMgmt 0x7000 (writeValue (mgmtFields 0x7000) (s.mgmt 0x7000) v)
  if was = 0 then s.modPlat fun p => { p with renewed := s.gtc } else s

/-- A write of a register of no rule of its own (R8); one of the scheduler's makes it arbitrate (R64). A BUDGET comes into force
at the next refill (R66). -/
def State.writePlain (s : State) (off v : Nat) : State :=
  let s := s.setMgmt off (writeValue (mgmtFields off) (s.mgmt off) v)
  if 0x1F00 ≤ off ∧ off < 0x2810 then s.arbitrate else s

/-- A write of MCHK_LOG (R380): with VALID cleared, COUNT, which counts from then on, is 0. -/
def State.writeMchkLog (s : State) (off v : Nat) : State :=
  let s := s.setMgmt off (writeValue (mgmtFields off) (s.mgmt off) v)
  if bits v 63 63 = 1 then s.setMgmtF off 15 0 0 else s

/-- A write of the PF's management window, by the PF or the management controller. -/
def State.writeMgmt (s : State) (off v : Nat) : State :=
  if off % 8 ≠ 0 then s
  else if 0x1E00 ≤ off ∧ off < 0x1F00 then s.writeHpart off v
  else if 0x6000 ≤ off ∧ off < 0x6140 then s.writeOwner off v
  else if off = 0x7000 then s.writeHlCtl v
  else if off = 0x7100 then s.writePtpOfs v
  else if off = 0x7108 then s.writePtpTrim v
  else if 0x8000 ≤ off ∧ off < 0x8800 ∧ off % 0x10 = 8 then s.writeXlinv ((off - 0x8000) / 0x10) v
  else if 0xD000 ≤ off ∧ off < 0xD800 then s.writeBacking off v
  else if 0xE000 ≤ off ∧ off < 0xF000 ∧ off % 0x10 = 0 then s.writeMchkLog off v
  else s.writePlain off v

/-- What a read of the PF's management window shows: TEN_ACCT and BUSY come from the state they report (R69, R367). -/
def State.readMgmt (s : State) (off : Nat) : Nat :=
  let v := readValue (mgmtFields off) (s.mgmt off)
  if 0x2000 ≤ off ∧ off < 0x2810 ∧ off % 0x10 = 8 then
    let t := (off - 0x2000) / 0x10
    s.sched.debt.get t 0 % 2 ^ 32 * 2 ^ 32 + (BitVec.ofInt 32 (s.bal t)).toNat
  else if 0x8000 ≤ off ∧ off < 0x8800 ∧ off % 0x10 = 8 then
    setBits v 63 63 (if s.invalidating ((off - 0x8000) / 0x10) then 1 else 0)
  else v

/-- REGISTER_WRITE (R8, R363): HL_RENEW and HL_CLAIM are judged by their own rules through either port. -/
def execRegisterWrite (space : RegSpace) (offset : Nat) (value : BitVec 64) (s : State) :
    Host.Outcome State Fault Refusal :=
  .next (match space with
    | .mgmt port =>
      if offset = 0x7008 then s.accepted fun s => s.renew port value.toNat
      else if offset = 0x7010 then s.accepted fun s => s.claim port value.toNat
      else s.fromPort port fun s => s.writeMgmt offset value.toNat
    | .bar0 port vf => s.fromPort port fun s => s.writeBar0 vf offset value.toNat
    | .core core => s.accepted fun s => s.writeCore core offset value.toNat)

/-- TDISP_FROZEN_WRITE (R376): a write, as it arrives, to a BAR address, the memory-space enable, the configuration space or
the MSI-X table of a function. Which words of the configuration space hold the first two the rules leave open: any offset outside
the MSI-X table is one of its words, and holds what is written (assumption 43). -/
def execTdispFrozenWrite (port : HostPort) (vf offset : Nat) (value : BitVec 64) (s : State) :
    Host.Outcome State Fault Refusal :=
  .next (s.fromPort port fun s =>
    if s.tdisp vf = .locked ∨ s.tdisp vf = .run then s.tdispError vf
    else if 0x20000 ≤ offset ∧ offset < 0x21000 ∧ offset % 8 = 0 then s.writeMsix vf offset value.toNat
    else s.modPlat fun p => { p with config := p.config.put (vf * 2 ^ 32 + offset % 2 ^ 32) value })

/-- IDE_INTEGRITY_FAILURE (R376). -/
def execIdeIntegrityFailure (vf : Nat) (s : State) : Host.Outcome State Fault Refusal := .next (s.tdispError vf)

end Sys2Proof.Machine
end

