-- ==== Sys2Proof/Machine/Resets.lean ====
section
/-! DEFINITION. The reset levels (R18, R132, R370, R371), soft errors (R136), and the heartbeats and the takeover of the
management controllers (R15, R372). -/
namespace Sys2Proof.Machine

/-! ### FLR (R371) -/

/-- A table without the keys from `lo` to below `hi`. -/
def dropKeys {α : Type} (t : Tbl α) (lo hi : Nat) : Tbl α := t.select fun k _ => decide (k < lo ∨ hi ≤ k)

/-- The objects of a function are closed. -/
def State.freeObjects (s : State) (vf : Nat) : State :=
  (s.coh.objects.select fun _ o => o.open_ && decide (o.vf = vf)).foldl (fun s p =>
    (s.leaveNow p.1).closeObject p.1 p.2.gen) s

/-- The code-table entries of a function are freed, each with a new generation (R195). -/
def State.freeCode (s : State) (vf : Nat) : State :=
  (s.code.select fun k e => decide (k / 4096 = vf) && (e.reserved || e.valid)).foldl (fun s p =>
    let e := p.2
    (s.unseal e.allLines).setEntry vf (p.1 % 4096)
      { CodeEntry.blank with gen := if e.gen = 4095 then 1 else e.gen + 1, twinGen := e.twinGen + 1 }) s

/-- Step 4 on the cores: contexts, q registers, permutation slots, feed queues and inboxes. -/
def State.freeCores (s : State) (vf : Nat) : State :=
  { s with
    acc := s.acc.select fun _ a => decide (a.holder ≠ some vf)
    cores := s.cores.mapVals fun _ u =>
      { u with queues := u.queues.select fun _ q => decide (q.owner ≠ some vf),
               perms := u.perms.select fun _ p => decide (p.owner ≠ vf),
               feedA := u.feedA.filter fun e => decide (e.1 ≠ vf), feedB := u.feedB.filter fun e => decide (e.1 ≠ vf),
               inbox := u.inbox.filter fun e => decide (e.1 ≠ vf) } }

/-- Step 4 in the scheduler: the queues, the launches and their ended crews. -/
def State.freeQueues (s : State) (vf : Nat) : State :=
  let s := s.modCoh fun c =>
    { c with ops := c.ops.select fun _ o => match o.kind with | .depend v _ => decide (v ≠ vf) | _ => true }
  s.modSched fun c =>
    let mine := fun (l : Nat) => match c.launches.find l with | some l => decide (l.vf = vf) | none => false
    { c with queues := dropKeys c.queues (vf * 64) (vf * 64 + 64),
             crews := c.crews.select fun _ k => !(k.ended && mine k.launch),
             launches := c.launches.select fun _ l => decide (l.vf ≠ vf) }

/-- Step 4: what the function held is freed. K slots keep their headers, for their generations (R84). -/
def State.freeVf (s : State) (vf : Nat) : State :=
  let s := (((s.freeQueues vf).freeCores vf).freeObjects vf).freeCode vf
  let s := s.modNet fun n => { n with producers := dropKeys n.producers (vf * 2 ^ 20) ((vf + 1) * 2 ^ 20) }
  { s with
    segs := s.segs.select fun k _ => decide (k / 2 ^ 48 ≠ vf)
    kobjs := s.kobjs.mapVals fun k o => if k / 2 ^ 22 = vf ∧ o.free = false then { o with state := 2, free := true } else o }

/-- A table of registers without the queue registers of a function. -/
def dropQueueRegs (t : Tbl DWord) (vf : Nat) : Tbl DWord := dropKeys t (vf * 2 ^ 23 + 0x10000) (vf * 2 ^ 23 + 0x11000)

/-- Step 5: the registers named as returning at an FLR (R55, R71, R344, R349). EPOCH keeps counting. -/
def State.returnFlr (s : State) (vf : Nat) : State :=
  let s := { s with regs := { s.regs with
    bar0 := dropQueueRegs s.regs.bar0 vf
    mgmt := dropKeys s.regs.mgmt (0xD000 + 0x10 * vf) (0xD010 + 0x10 * vf) } }
  let s := (List.range 2).foldl (fun s io =>
    let at_ := netOff io (0x800 + 0x10 * vf)
    let epoch := s.mgmtF (at_ + 8) 39 32
    (s.setMgmt at_ (resetValue (mgmtFields at_))).setMgmt (at_ + 8)
      (setBits (resetValue (mgmtFields (at_ + 8))) 39 32 epoch)) s
  s.btFlr vf

/-- An FLR goes on: once no fibre of the function is left, steps 4 and 5, and the report to the host. A
STOP_INTERFACE_REQUEST has its effect then (R376). -/
def State.flrFinish (s : State) (vf : Nat) : State :=
  if (s.plat.flr.find vf).isNone ∨ (s.fibresOf vf).isEmpty = false then s
  else
    let s := (s.freeVf vf).returnFlr vf
    let s := s.modNet fun n => { n with resets := n.resets.filter fun v => decide (v ≠ vf) }
    let s := s.modPlat fun p =>
      { p with tdisp := if (p.flr.find (256 + vf)).isSome then p.tdisp.put vf .unlocked else p.tdisp,
               flr := ((p.flr.del vf).del (128 + vf)).del (256 + vf) }
    s.answer [5, vf]

/-- The head records of a function's queues are forgotten (R371 step 1). -/
def State.dropHeads (s : State) (vf : Nat) : State := (List.range 64).foldl (fun s q => s.dropHead vf q) s

/-- An FLR begins (R371). -/
def State.beginFlr (s : State) (vf : Nat) : State :=
  if (s.plat.flr.find vf).isSome ∨ 128 ≤ vf then s
  else
    let s := s.modPlat fun p => { p with flr := p.flr.put vf s.gtc }
    (((s.dropHeads vf).netReset vf).killVf vf).flrFinish vf

/-- VF_FLR (R371). -/
def execVfFlr (vf : Nat) (s : State) : Host.Outcome State Fault Refusal := .next (s.accepted fun s => s.beginFlr vf)

/-- Step 3's bound (R371, R376): fibres that are left are killed in any state. -/
def State.graceKill (s : State) (vf : Nat) : State :=
  let begun := (s.plat.flr.find vf).or (s.plat.flr.find (128 + vf))
  let s : State := match begun with
    | some t =>
      if s.gtc < t + s.mgmtF 0x7200 47 32 * 1000 then s
      else ((s.fibresOf vf).foldl State.killNow s).endRuns s
    | none => s
  s.flrFinish vf

/-- RESET_GRACE_EXPIRY (R371). -/
def execResetGraceExpiry (vf : Nat) (s : State) : Host.Outcome State Fault Refusal := .next (s.graceKill vf)

/-! ### Core reset (R370) -/

/-- One home sets the dead mark on a tag that names a core (R132). -/
def State.deadTag (s : State) (core line : Nat) : State :=
  let h := s.home line
  match h.tag with
  | none => s
  | some t => if t.agent = core then s.setHome line { h with tag := some { t with dead := true } } else s

/-- A recall that a core has not answered never will be: where its tag is dead now, the requests that the home holds are served
by the rows for a dead incarnation (R130, R132). -/
def State.endRecall (s : State) (line : Nat) : State :=
  let h := s.home line
  if h.tagState = .recalling ∧ h.recallSent = true ∧ (h.tag.any Tag.dead) = true then
    let s := s.setHome line { h with tagState := .tagged, held := [], recallSent := false }
    (h.held.foldl State.serve s).evaluate line
  else s.evaluate line

/-- The lines of a core's L1 are discarded without writeback, and every home has marked its tags dead before a request that waited
on one is served (R132). -/
def State.discardCore (s : State) (core : Nat) : State :=
  let s := s.modCoh fun c => { c with l1 := c.l1.select fun k _ => decide (k / 2 ^ 58 ≠ core) }
  let named := (s.coh.homes.select fun _ h => h.tag.any fun t => decide (t.agent = core)).map Prod.fst
  named.foldl State.endRecall (named.foldl (fun s line => s.deadTag core line) s)

/-- Every fibre of a core is killed at once, but a clerk that is spared; its crews carry the cause of a reset (R370, R381). -/
def State.killCore (s : State) (core : Nat) (spared : Bool) : State :=
  let s := (s.crewsOn core).foldl (fun (s : State) p =>
    (s.modCrew p.1 fun k => { k with noRelaunch := true }).killCrew p.1 0x10004) s
  (s.fibres.filter fun p => decide (coreOf p.1 = core) && !(spared && isClerk p.1)).foldl (fun s p => s.killNow p.1) s

/-- A core as a reset leaves it (R60, R274, R289, R370): its inbox, and what operations still run, stay. -/
def CoreUnit.afterReset (u : CoreUnit) : CoreUnit :=
  { CoreUnit.reset with inbox := u.inbox, copyQueue := u.copyQueue, scratch := u.scratch, weight := u.weight }

/-- A core whose clerk a reset spares: with it stay its place in its stall and its wait on the mailbox (R49). -/
def CoreUnit.sparing (u : CoreUnit) : CoreUnit :=
  { u.afterReset with stalls := u.stalls, overflow := u.overflow, waitSince := u.waitSince }

/-- The clerk of a core starts anew (R379; assumption 7). -/
def State.startClerk (s : State) (core : Nat) : State :=
  { s with
    gangs := s.gangs.select fun _ g => decide (g.core ≠ core)
    fibres := s.fibres.put (fibreKey core 4095) (Fibre.clerk core)
    segs := s.segs.put (clerkSeg core) { Segment.empty with resident := some core } }

/-- The part of a core reset that is the core's own (R370). What a request of the core still does at a home, it does for the new
incarnation (R132; assumption 42). A clerk that is spared runs on (R49). -/
def State.clearCore (s : State) (core : Nat) (spared : Bool) : State :=
  let s := s.killCore core spared
  let s := ((s.newIncarnation core).newIncarnation (512 + core)).newIncarnation (1024 + core)
  let s := (s.modUnit core fun u => if spared then u.sparing else u.afterReset).discardCore core
  let s := { s with regs := { s.regs with core := dropKeys s.regs.core (core * 2 ^ 24) ((core + 1) * 2 ^ 24) } }
  let s := if spared then s else s.startClerk core
  let s := s.modPlat fun p => { p with beatSeen := p.beatSeen.del core }
  (upto (clusterOf core * 8) 8).foldl State.recheck s

/-- The FLRs whose functions have no fibre left after a wider reset: it has absorbed what was left of them (R370). -/
def State.absorbFlrs (s : State) : State := (List.range 128).foldl State.flrFinish s

/-- What R55 and R71 return at every reset wider than an FLR, which in the order of R370 a core reset already is: the queue
registers and the frame backing registers, of every function (DEDUCED: no function owns a core or a die; assumption 58). -/
def State.returnQueues (s : State) : State :=
  let s := (List.range 128).foldl State.dropHeads s
  { s with regs := { s.regs with
    bar0 := s.regs.bar0.select fun k _ => decide (k % 2 ^ 23 < 0x10000 ∨ 0x11000 ≤ k % 2 ^ 23)
    mgmt := dropKeys s.regs.mgmt 0xD000 0xD800 } }

/-- A core reset (R370). -/
def State.resetCore (s : State) (core : Nat) : State := ((s.clearCore core false).returnQueues).absorbFlrs

/-- CORE_RESET (R370). -/
def execCoreReset (core : Nat) (s : State) : Host.Outcome State Fault Refusal :=
  .next (s.accepted fun s => if core < 256 then s.resetCore core else s)

/-! ### Wider resets (R370) -/

/-- The cores of a die: an I/O die has none (R12, R13). -/
def coresOfDie (die : Nat) : List Nat := if die < 8 then upto (32 * die) 32 else []

/-- The lines of a die that its home L2 may hold. -/
def State.linesOfDie (s : State) (die : Nat) : List Nat :=
  dedup ((s.store.phys.map fun c => lineOf c.1).filter fun l => decide (dieOfLine l = die))

/-- The home L2 of a die is written back to HBM (R370): a line that cannot be is poisoned. Which these are the rules leave open,
and a free choice says it of each (assumption 57). -/
def State.writeBackHome (s : State) (die : Nat) : State :=
  (s.linesOfDie die).foldl (fun s line =>
    let d := s.drawBit
    if d.1 then d.2.modStore fun m => { m with poisoned := line :: m.poisoned.filter fun x => decide (x ≠ line) } else d.2) s

/-- A die reset: its cores, its home L2, its walker's incarnation, the copies of its L2, its bittern (R350), and what a core
reset returns beside the core. -/
def State.resetDie (s : State) (die : Nat) : State :=
  let s := ((coresOfDie die).foldl (fun s core => s.clearCore core false) s).returnQueues
  let s := if die < 8 then (s.writeBackHome die).newIncarnation (3 * 512 + die) else s
  let s := s.modCoh fun c => { c with l2 := c.l2.select fun k _ => decide (k / 2 ^ 58 ≠ die) }
  State.absorbFlrs { s with bitterns := s.bitterns.del die }

/-- DIE_RESET (R370). -/
def execDieReset (die : Nat) (s : State) : Host.Outcome State Fault Refusal :=
  .next (s.accepted fun s => if die < 10 then s.resetDie die else s)

/-- A partition reset: an FLR of every function, then a core reset of every core, after which the FLRs end. Its clerks run on,
because a partition reset kills none (R49); one that a machine check stopped starts anew (R380; DEDUCED, assumption 59). -/
def State.resetPartition (s : State) (n : Nat) : State :=
  let vfs := (List.range 128).filter fun v => decide (s.partitionOf v = some n)
  let cores := (List.range 256).filter fun c => decide (s.partitionOfCluster (clusterOf c) = some n)
  let s := vfs.foldl State.beginFlr s
  let s := cores.foldl (fun s core => s.clearCore core !(s.unit core).stopped) s
  State.absorbFlrs (if cores.isEmpty then s else s.returnQueues)

/-- PARTITION_RESET (R370). -/
def execPartitionReset (n : Nat) (s : State) : Host.Outcome State Fault Refusal :=
  .next (s.accepted fun s => if n < 8 then s.resetPartition n else s)

/-- The management registers that return at a package warm reset (R69, R71, R344, R349, R380). -/
def returnsWarm (off : Nat) : Bool :=
  decide ((0x1E00 ≤ off ∧ off < 0x2810) ∨ (0x4000 ≤ off ∧ off < 0x6600) ∨ off = 0x7028 ∨ (0xD000 ≤ off ∧ off < 0xD800) ∨
    (0xE000 ≤ off ∧ off < 0xF000))

/-- A package warm reset: every die, and the registers that return; GTC keeps counting. A controller that was held in reset
rejoins, with a new incarnation (R18, R372), and IOA's is active (R15). -/
def State.resetWarm (s : State) : State :=
  let s := (List.range 10).foldl State.resetDie s
  let s := if s.plat.standbyHeld then s.newIncarnation (6 * 512 + (1 - s.plat.activeController)) else s
  let s := { s with regs := { s.regs with mgmt := s.regs.mgmt.select fun k _ => !returnsWarm k } }
  let s := s.modSched fun c => { c with bal := [], debt := [], lent := [], budgets := [] }
  s.modPlat fun p => { p with standbyHeld := false, activeController := 0, beatSeen := p.beatSeen.del 256 }

/-- PACKAGE_WARM_RESET (R370). -/
def execPackageWarmReset (s : State) : Host.Outcome State Fault Refusal := .next (s.accepted State.resetWarm)

/-- The bytes of a digest, lowest first. -/
def digestBytes (d : BitVec 512) : List Byte := (List.range 64).map fun i => BitVec.ofNat 8 (d.toNat / 2 ^ (8 * i))

/-- The keys that the boot ROM derives from an image that verifies (R374). -/
def bootKeys (image : List Byte) : BootKeys :=
  let seed := Config.shake256 (Config.deviceSecret ++ digestBytes (Config.shake256 image))
  let key := Config.ed448Public (digestBytes seed)
  { deviceId := Config.ed448Public Config.deviceSecret, aliasSeed := seed, aliasKey := key,
    aliasCert := Config.ed448Sign Config.deviceSecret key }

/-- A cold reset boots a firmware image (R370, R374): everything is reset, and an image that does not verify leaves the
device in recovery, its clerks not started. The hosts' own memories are none of the device's, and the counter of the model's
free choices goes on. -/
def State.resetCold (s : State) (image : List Byte) : State :=
  let hosts := s.store.phys.filter fun c => decide (targetOf c.1 ≠ 0)
  let new : State := { State.reset with free := s.free, store := { State.reset.store with phys := hosts } }
  if Config.imageVerifies image then new.modPlat fun p => { p with stages := [image], boot := some (bootKeys image) }
  else { new.modPlat fun p => { p with recovery := true } with fibres := [], segs := [] }

/-- COLD_RESET (R370, R374). -/
def execColdReset (image : List Byte) (s : State) : Host.Outcome State Fault Refusal := .next (s.resetCold image)

/-! ### Heartbeats (R372) -/

/-- The active controller's read of one core's CLERK_HB. -/
def State.readBeat (s : State) (core : Nat) : State :=
  let beat := s.coreF core 0x140 63 0
  match s.plat.beatSeen.find core with
  | none => s.modPlat fun p => { p with beatSeen := p.beatSeen.put core (beat, 0) }
  | some (seen, n) =>
    if seen ≠ beat then s.modPlat fun p => { p with beatSeen := p.beatSeen.put core (beat, 0) }
    else if n + 1 < s.mgmtF 0x7200 23 16 then
      s.modPlat fun p => { p with beatSeen := p.beatSeen.put core (beat, n + 1) }
    else (s.raiseCore core 0x001A 0xFF core (n + 1)).resetCore core

/-- HB_PERIOD in ticks. -/
def State.beatPeriod (s : State) : Nat := s.mgmtF 0x7200 15 0 * 1000

/-- The active controller reads every core's beat, once in an HB_PERIOD (R372). -/
def State.checkBeats (s : State) : State :=
  if s.gtc < s.plat.checkedAt + s.beatPeriod then s
  else (List.range 256).foldl State.readBeat (s.modPlat fun p => { p with checkedAt := s.gtc })

/-- HEARTBEAT_CHECK (R372). -/
def execHeartbeatCheck (s : State) : Host.Outcome State Fault Refusal := .next (s.accepted State.checkBeats)

/-- The standby controller looks at the active one's beat, once in its own period. -/
def State.watchBeat (s : State) : State :=
  let beat := s.plat.beats.get s.plat.activeController 0
  s.modPlat fun p =>
    match p.beatSeen.find 256 with
    | some (seen, n) => { p with beatSeen := p.beatSeen.put 256 (if seen = beat then (beat, n + 1) else (beat, 0)) }
    | none => { p with beatSeen := p.beatSeen.put 256 (beat, 0) }

/-- A controller's own period (R372): it writes its beat, and the standby also looks at the active one's. One that is held in
reset writes none. -/
def State.beat (s : State) (controller : Nat) : State :=
  if 2 ≤ controller ∨ (s.plat.standbyHeld = true ∧ controller ≠ s.plat.activeController) ∨
      s.gtc < s.plat.beatAt.get controller 0 + s.beatPeriod then s
  else
    let s := s.modPlat fun p =>
      { p with beats := p.beats.put controller (p.beats.get controller 0 + 1), beatAt := p.beatAt.put controller s.gtc }
    if controller = s.plat.activeController then s else s.watchBeat

/-- MC_BEAT (R372). -/
def execMcBeat (controller : Nat) (s : State) : Host.Outcome State Fault Refusal := .next (s.accepted fun s => s.beat controller)

/-- MC_TAKEOVER (R15, R372): the standby takes over, and the old controller is held in reset. -/
def execMcTakeover (s : State) : Host.Outcome State Fault Refusal :=
  let seen := s.plat.beatSeen.get 256 (0, 0)
  .next (if s.plat.standbyHeld = true ∨ seen.2 < s.mgmtF 0x7200 23 16 ∨
        seen.1 ≠ s.plat.beats.get s.plat.activeController 0 then s
    else s.modPlat fun p =>
      { p with activeController := 1 - p.activeController, standbyHeld := true, beatSeen := p.beatSeen.del 256 })

/-! ### Soft errors (R136, R137) -/

/-- The fibre that owns a segment. -/
def State.segOwner (s : State) (tenant seg : Nat) : Option (Nat × Fibre) :=
  s.fibres.first fun _ f => decide (f.tenant = tenant) && (s.fibreSegs f).contains seg

/-- Where a storage error lies, as its event shows it (R346): die, source unit, storage kind and place. A frame segment lies
in the pitch of its fibre's core. HBM and L2 name a home slice as their unit (DESIGN CHOICE, assumption 74). -/
def State.eccPlace (s : State) : EccLocation → Nat × Nat × Nat × Nat
  | .scratch core g | .weight core g => (dieOfCore core, core, 0, g)
  | .frame tenant seg =>
    let held := (s.seg (segKey tenant seg)).resident
    let core := match s.segOwner tenant seg with | some (key, _) => coreOf key | none => held.getD 0
    (dieOfCore core, core, 0, seg / 64)
  | .cacheClean core line | .cacheDirty core line => (dieOfCore core, core, 0, line / 64)
  | .l2Copy die line => (die, unit7 0 0, 2, line / 64)
  | .home line => (dieOfLine (lineOf line), homeUnit (lineOf line), 3, line / 64)
  | .accumulator core ctx => (dieOfCore core, 1024 + core, 1, ctx)
  | .sluice io => (8 + io, sluiceUnit io, 4, 0)

/-- The tenant that holds a place, or 0xFF. -/
def State.eccTenant (s : State) : EccLocation → Nat
  | .scratch core g => match (s.unit core).scratch.find g with | some h => h.1 | none => 0xFF
  | .weight core g => match (s.unit core).weight.find g with | some h => h.1 | none => 0xFF
  | .frame tenant _ => tenant
  | .cacheClean core line | .cacheDirty core line => ((s.l1 core (lineOf line)).map L1Line.vf).getD 0xFF
  | .accumulator core ctx => (s.acc.get (core * 4 + ctx) .reset).holder.getD 0xFF
  | _ => 0xFF

/-- The event of a storage error. -/
def State.eccEvent (s : State) (type : Nat) (l : EccLocation) : State :=
  let p := s.eccPlace l
  s.raise p.1 type (s.eccTenant l) p.2.1 p.2.2.1 p.2.2.2

/-- The record of a SOFT_ERROR notice: of a crew's first fibre, or of no fibre (0xFFFF). -/
def State.softRecord (s : State) (core tenant info : Nat) (p : Option (Nat × Fibre)) : EffectRecord :=
  match p with
  | some (key, f) =>
    s.effectRecord key f { tag := 18, payload := BitVec.ofNat 64 info, addr := 0, info := BitVec.ofNat 64 info, pc := f.pc,
                           result := 0xFF, wide := false } 0
  | none =>
    { tag := 18, vf := tenant, core := core, fibre := 0xFFFF, handle := 0, payload := BitVec.ofNat 64 info, pc := 0,
      addr := 0, info := BitVec.ofNat 64 info, gtc := s.gtc, seq := s.plat.seq % 2 ^ 32 }

/-- Post a SOFT_ERROR notice, once the mailbox has room (R81, R136). -/
def State.softNotice (s : State) (core tenant info : Nat) (p : Option (Nat × Fibre)) : State :=
  s.postNotice core (s.softRecord core tenant info p)

/-- A storage error kills a crew (R136); one in SCRATCH or WEIGHT may be relaunched (R137). -/
def State.softKill (s : State) (relaunch : Bool) (info crew : Nat) : State :=
  match s.sched.crews.find crew with
  | none => s
  | some k =>
    if k.ended then s
    else
      let tenant := match s.sched.launches.find k.launch with | some l => l.vf | none => 0
      let s := s.softNotice k.core tenant info (s.crewFibres crew).head?
      (s.modCrew crew fun k => if relaunch ∧ k.killCause.isNone then { k with ecc := true } else k).killCrew crew 18

/-- The crews that hold a WEIGHT granule. -/
def State.weightCrews (s : State) (core g : Nat) : List Nat :=
  match (s.unit core).weight.find g with
  | none => []
  | some h => ((s.crewsOn core).filter fun p => decide (p.2.launch = h.2)).map Prod.fst

/-- A cached line with an uncorrectable error: a clean copy goes; a dirty line takes its last store's crew with it. -/
def State.eccCache (s : State) (core line : Nat) : State :=
  match s.l1 core line with
  | none => s
  | some l =>
    let gone := s.setL1 core line { l with copy := none, expiry := none, dirty := [] }
    if l.dirty.isEmpty then gone
    else
      match l.crew with
      | some c =>
        if (s.sched.crews.find c).any fun k => !k.ended then gone.softKill false (line / 64 % 2 ^ 32) c
        else gone.softNotice core 0xFF (line / 64 % 2 ^ 32) none
      | none => gone.softNotice core 0xFF (line / 64 % 2 ^ 32) none

/-- The outcome of an uncorrectable error (R136). -/
def State.eccOutcome (s : State) : EccLocation → State
  | .scratch core g =>
    match (s.unit core).scratch.find g with
    | some h => s.softKill true g h.2
    | none => s
  | .weight core g => (s.weightCrews core g).foldl (State.softKill · true g) s
  | .frame tenant seg =>
    match s.segOwner tenant seg with
    | some (_, f) => match f.crew with | some c => s.softKill false (seg / 64 % 2 ^ 32) c | none => s
    | none => s
  | .cacheClean core line | .cacheDirty core line => s.eccCache core (lineOf line)
  | .l2Copy die line => s.modCoh fun c => { c with l2 := c.l2.del (cacheKey die (lineOf line)) }
  | .home line => s.modStore fun m => { m with poisoned := lineOf line :: m.poisoned.filter fun x => decide (x ≠ lineOf line) }
  | .accumulator core ctx =>
    { s with acc := s.acc.put (core * 4 + ctx) { s.acc.get (core * 4 + ctx) .reset with poison := true } }
  | .sluice _ => s

/-- ECC_UNCORRECTABLE (R136). -/
def execEccUncorrectable (location : EccLocation) (s : State) : Host.Outcome State Fault Refusal :=
  .next ((s.eccEvent 0x000E location).eccOutcome location)

/-- ECC_CORRECTED (R136): an event, and no other effect. -/
def execEccCorrected (location : EccLocation) (s : State) : Host.Outcome State Fault Refusal :=
  .next (s.eccEvent 0x000D location)

end Sys2Proof.Machine
end

