-- ==== Sys2Proof/Machine/Platform.lean ====
section
/-! DEFINITION. Out-of-band management, boot and recovery, the security engine, TDISP requests and throttling (R373 to R376,
R379). -/
namespace Sys2Proof.Machine

/-! ### MCTP (R373, R374) -/

/-- MCTP_STATUS_READ (R373). In recovery it is not accepted (R374). -/
def execMctpStatusRead (via : MctpPath) (offset : Nat) (s : State) : Host.Outcome State Fault Refusal :=
  let path := match via with | .i3c => 2 | .pcie p => portNumber p
  .next (if s.plat.recovery then s else s.answer [8, path, offset, s.readMgmt offset])

/-- A reset order is accepted (R373): from I3C and the ACTIVE port, and from the other port a package warm reset alone, while
EXPIRED is set. -/
def State.acceptsOrder (s : State) (via : MctpPath) (level : ResetLevel) : Bool :=
  !s.plat.recovery &&
    match via with
    | .i3c => true
    | .pcie port => decide (port = s.activePort) || (decide (level = .warm) && decide (s.mgmtF 0x7018 32 32 = 1))

/-- A reset level, as ordered (R370). -/
def State.resetAt (s : State) : ResetLevel → State
  | .flr vf => s.beginFlr vf
  | .partition n => if n < 8 then s.resetPartition n else s
  | .core c => if c < 256 then s.resetCore c else s
  | .die d => if d < 10 then s.resetDie d else s
  | .warm => s.resetWarm
  | .cold image => s.resetCold image

/-- MCTP_RESET_ORDER (R373). -/
def execMctpResetOrder (via : MctpPath) (level : ResetLevel) (s : State) : Host.Outcome State Fault Refusal :=
  .next (if s.acceptsOrder via level then s.resetAt level else s)

/-- MCTP_FIRMWARE_LOAD (R374): the device boots with the image that is loaded. -/
def execMctpFirmwareLoad (image : List Byte) (s : State) : Host.Outcome State Fault Refusal :=
  .next (if s.plat.recovery then s.resetCold image else s)

/-! ### SPDM (R374, R375) -/

/-- The measurement log (R374). -/
def State.measurementLog (s : State) : List (BitVec 512) := s.plat.stages.map Config.shake256

/-- The block of an SPDM measurement (R375): the SHA3-512 digest of the stage. -/
def State.measurement (s : State) (block : Nat) : List Nat :=
  match s.plat.stages[block]? with
  | some b => [(Config.sha3 b).toNat]
  | none => []

/-- SPDM_REQUEST (R375), through either port: the algorithms (Ed448, SHA3-512, P-384, AES-256-GCM by 1 to 4), a measurement,
a session, or the code of any other request, which the responder answers as the standard says. -/
def execSpdmRequest (port : HostPort) (request : SpdmRequest) (s : State) : Host.Outcome State Fault Refusal :=
  .next (s.accepted fun s => match request with
    | .algorithms => s.answer [6, portNumber port, 1, 2, 3, 4]
    | .measurements block => s.answer ([7, portNumber port] ++ s.measurement block)
    | .openSession => s.modPlat fun p => { p with session := some port }
    | .endSession => s.modPlat fun p => { p with session := none }
    | .other code => s.answer [9, portNumber port, code])

/-- IDE_KM (R375): keys are programmed inside a session. -/
def execIdeKm (vf : Nat) (key : BitVec 256) (s : State) : Host.Outcome State Fault Refusal :=
  .next (s.accepted fun s => if s.plat.session.isSome then s.modPlat fun p => { p with keys := p.keys.put vf key } else s)

/-! ### TDISP (R376) -/

/-- What an interface report describes: the MSI-X table of the function, by offset, and the words of its configuration space, with
its BAR addresses and its memory-space enable, from 2^32 on (assumption 43). -/
def State.report (s : State) (vf : Nat) : Tbl DWord :=
  ((s.regs.bar0.filter fun p => decide (vf * 2 ^ 23 + 0x20000 ≤ p.1 ∧ p.1 < vf * 2 ^ 23 + 0x21000)).map fun p =>
    (p.1 % 2 ^ 23, p.2)) ++
  ((s.plat.config.filter fun p => decide (p.1 / 2 ^ 32 = vf)).map fun p => (2 ^ 32 + p.1 % 2 ^ 32, p.2))

/-- LOCK_INTERFACE_REQUEST (R376). -/
def execLockInterfaceRequest (vf : Nat) (s : State) : Host.Outcome State Fault Refusal :=
  .next (s.accepted fun s => if s.tdisp vf = .unlocked then
      s.modPlat fun p => { p with tdisp := p.tdisp.put vf .locked, reports := p.reports.put vf (s.report vf) }
    else s)

/-- START_INTERFACE_REQUEST (R376). -/
def execStartInterfaceRequest (vf : Nat) (s : State) : Host.Outcome State Fault Refusal :=
  .next (s.accepted fun s => if s.tdisp vf = .locked then s.modPlat fun p => { p with tdisp := p.tdisp.put vf .run } else s)

/-- STOP_INTERFACE_REQUEST (R376): the interface is unlocked after an FLR. -/
def execStopInterfaceRequest (vf : Nat) (s : State) : Host.Outcome State Fault Refusal :=
  .next (s.accepted fun s => if 128 ≤ vf then s
    else
      let s := s.modPlat fun p => { p with flr := p.flr.put (256 + vf) s.gtc }
      (s.beginFlr vf).flrFinish vf)

/-! ### Throttling (R379) -/

/-- THERMAL_STEP_CHANGE (R379): each change raises a THERMAL event on the sensor's die. -/
def execThermalStepChange (sensor step : Nat) (temperature : Word) (s : State) : Host.Outcome State Fault Refusal :=
  .next (if 3 < step ∨ step = s.plat.thermal then s
    else
      (s.modPlat fun p => { p with thermal := step }).raise (sensor % 10) 0x0017 0xFF (unit7 5 (sensor % 64)) step
        temperature.toNat)

end Sys2Proof.Machine
end

