-- ==== Sys2Proof/Machine/Time.lean ====
section
/-! DEFINITION. The passing of time (R377), the issue of a gang's next instruction (R155, R182, R320), and the choice of
an act where the agenda names none (assumption 1). -/
namespace Sys2Proof.Machine

/-- The signed value of PTP_TRIM (R377). -/
def State.ptpTrim (s : State) : Int := (BitVec.ofNat 32 (s.mgmtF 0x7108 31 0)).toInt

/-- Let n ticks pass: GTC counts, ACC adds PTP_TRIM at each (R377), and the bitterns' budget periods end (R355). -/
def State.tick (s : State) (n : Nat) : State :=
  let t : State := { s with gtc := (s.gtc + n) % 2 ^ 64, ptpAcc := s.ptpAcc + n * s.ptpTrim }
  { t with bitterns := t.bitterns.mapVals fun _ b => t.budgetPeriods b }

/-- A gang may issue: its cluster is not gated (R134), and it is not about to leave its lanes (R43); for the clerk, no
machine check has stopped it (R80); for another, the clock runs (R379), and while its core is halted only a run in progress
goes on (R320). -/
def State.mayIssue (s : State) (g : Gang) : Bool :=
  if s.plat.gated.contains (clusterOf g.core) || g.leaving.isSome then false
  else if g.members.any fun m => decide (m.2 = 4095) then !(s.unit g.core).stopped
  else decide (s.plat.thermal < 3) && (decide (s.coreF g.core 0x148 0 0 = 0) || decide (g.runLen ≠ 0))

/-- The PC of a gang: that of its first member. -/
def State.gangPc (s : State) (g : Gang) : Option (Nat × Pc) :=
  match g.members with
  | [] => none
  | m :: _ => (s.fibres.find (fibreKey g.core m.2)).map fun f => (f.tenant, s.ownPc f)

/-- The instruction that a gang executes next (R155). -/
def State.nextInstr (s : State) (gid : Nat) : Option Instr :=
  match s.gangs.find gid with
  | none => none
  | some g =>
    match s.gangPc g with
    | none => none
    | some (vf, pc) => (s.fetch vf pc).map Prod.fst

/-- A fetch that finds no instruction: every active lane performs ILLEGAL (R182, R183), or SOFT_ERROR where a line of it is
poisoned (R136). -/
def State.fetchFails (s : State) (gid : Nat) : State :=
  match s.gangs.find gid with
  | none => s
  | some g =>
    let vf := (s.gangPc g).elim g.tenant Prod.fst
    let fails := fun (own : Pc) =>
      match s.poisonedFetch vf own with
      | some a => effectOf own 18 (BitVec.ofNat 64 a) 0xFFFFFFFF
      | none => effectOf own 12 0 0
    (((s.chargeStep g (g.runLen + 1)).allPerform g.core g.members fails).chargeEnd g (g.runLen + 1)).countSpin g false

/-- The gang that issues next where the agenda is empty: the lowest that may. -/
def State.nextGang (s : State) : Option Nat :=
  (s.gangs.first fun _ g => s.mayIssue g).map Prod.fst

end Sys2Proof.Machine
end

