-- ==== Sys2Proof/Machine/Dispatch.lean ====
section
/-! DEFINITION. The dispatch: one arm for each constructor of Instr, one direct call of its meaning. -/
namespace Sys2Proof.Machine

/-- The meaning of each instruction and event. -/
def exec (i : Instr) (s : State) : Host.Outcome State Fault Refusal :=
  match i with
  | .nopQ f => Sys2Proof.Machine.execNopQ f s
  | .nopW f => Sys2Proof.Machine.execNopW f s
  | .nopX f lit => Sys2Proof.Machine.execNopX f lit s
  | .braQb f => Sys2Proof.Machine.execBraQb f s
  | .braWi f => Sys2Proof.Machine.execBraWi f s
  | .call f => Sys2Proof.Machine.execCall f s
  | .calli f => Sys2Proof.Machine.execCalli f s
  | .jmpi f => Sys2Proof.Machine.execJmpi f s
  | .ret f => Sys2Proof.Machine.execRet f s
  | .reform f => Sys2Proof.Machine.execReform f s
  | .convene f => Sys2Proof.Machine.execConvene f s
  | .disband f => Sys2Proof.Machine.execDisband f s
  | .bar f => Sys2Proof.Machine.execBar f s
  | .exit f => Sys2Proof.Machine.execExit f s
  | .spawn f => Sys2Proof.Machine.execSpawn f s
  | .hinst f => Sys2Proof.Machine.execHinst f s
  | .hpop f => Sys2Proof.Machine.execHpop f s
  | .perform f => Sys2Proof.Machine.execPerform f s
  | .performv f => Sys2Proof.Machine.execPerformv f s
  | .resume f => Sys2Proof.Machine.execResume f s
  | .drop f => Sys2Proof.Machine.execDrop f s
  | .ksend f => Sys2Proof.Machine.execKsend f s
  | .krecv f => Sys2Proof.Machine.execKrecv f s
  | .kinfo f => Sys2Proof.Machine.execKinfo f s
  | .yield f => Sys2Proof.Machine.execYield f s
  | .safe f => Sys2Proof.Machine.execSafe f s
  | .pause f => Sys2Proof.Machine.execPause f s
  | .trap f => Sys2Proof.Machine.execTrap f s
  | .iaddQ f => Sys2Proof.Machine.execIaddQ f s
  | .iaddW f => Sys2Proof.Machine.execIaddW f s
  | .iaddX f lit => Sys2Proof.Machine.execIaddX f lit s
  | .isubQ f => Sys2Proof.Machine.execIsubQ f s
  | .isubW f => Sys2Proof.Machine.execIsubW f s
  | .isubX f lit => Sys2Proof.Machine.execIsubX f lit s
  | .imulQ f => Sys2Proof.Machine.execImulQ f s
  | .imulW f => Sys2Proof.Machine.execImulW f s
  | .imulX f lit => Sys2Proof.Machine.execImulX f lit s
  | .imulhQ f => Sys2Proof.Machine.execImulhQ f s
  | .imulhW f => Sys2Proof.Machine.execImulhW f s
  | .imulhX f lit => Sys2Proof.Machine.execImulhX f lit s
  | .imadW f => Sys2Proof.Machine.execImadW f s
  | .imadX f lit => Sys2Proof.Machine.execImadX f lit s
  | .idivQ f => Sys2Proof.Machine.execIdivQ f s
  | .idivW f => Sys2Proof.Machine.execIdivW f s
  | .idivX f lit => Sys2Proof.Machine.execIdivX f lit s
  | .iremQ f => Sys2Proof.Machine.execIremQ f s
  | .iremW f => Sys2Proof.Machine.execIremW f s
  | .iremX f lit => Sys2Proof.Machine.execIremX f lit s
  | .iminQ f => Sys2Proof.Machine.execIminQ f s
  | .iminW f => Sys2Proof.Machine.execIminW f s
  | .iminX f lit => Sys2Proof.Machine.execIminX f lit s
  | .imaxQ f => Sys2Proof.Machine.execImaxQ f s
  | .imaxW f => Sys2Proof.Machine.execImaxW f s
  | .imaxX f lit => Sys2Proof.Machine.execImaxX f lit s
  | .iabsQ f => Sys2Proof.Machine.execIabsQ f s
  | .iabsW f => Sys2Proof.Machine.execIabsW f s
  | .andQ f => Sys2Proof.Machine.execAndQ f s
  | .andW f => Sys2Proof.Machine.execAndW f s
  | .andX f lit => Sys2Proof.Machine.execAndX f lit s
  | .orQ f => Sys2Proof.Machine.execOrQ f s
  | .orW f => Sys2Proof.Machine.execOrW f s
  | .orX f lit => Sys2Proof.Machine.execOrX f lit s
  | .xorQ f => Sys2Proof.Machine.execXorQ f s
  | .xorW f => Sys2Proof.Machine.execXorW f s
  | .xorX f lit => Sys2Proof.Machine.execXorX f lit s
  | .andnQ f => Sys2Proof.Machine.execAndnQ f s
  | .andnW f => Sys2Proof.Machine.execAndnW f s
  | .andnX f lit => Sys2Proof.Machine.execAndnX f lit s
  | .notQ f => Sys2Proof.Machine.execNotQ f s
  | .notW f => Sys2Proof.Machine.execNotW f s
  | .shlQi f => Sys2Proof.Machine.execShlQi f s
  | .shlW f => Sys2Proof.Machine.execShlW f s
  | .shrQi f => Sys2Proof.Machine.execShrQi f s
  | .shrW f => Sys2Proof.Machine.execShrW f s
  | .sarQi f => Sys2Proof.Machine.execSarQi f s
  | .sarW f => Sys2Proof.Machine.execSarW f s
  | .rotQi f => Sys2Proof.Machine.execRotQi f s
  | .rotW f => Sys2Proof.Machine.execRotW f s
  | .bfxW f => Sys2Proof.Machine.execBfxW f s
  | .bfxX f lit => Sys2Proof.Machine.execBfxX f lit s
  | .bfiW f => Sys2Proof.Machine.execBfiW f s
  | .bfiX f lit => Sys2Proof.Machine.execBfiX f lit s
  | .popcQ f => Sys2Proof.Machine.execPopcQ f s
  | .popcW f => Sys2Proof.Machine.execPopcW f s
  | .clzQ f => Sys2Proof.Machine.execClzQ f s
  | .clzW f => Sys2Proof.Machine.execClzW f s
  | .brevQ f => Sys2Proof.Machine.execBrevQ f s
  | .brevW f => Sys2Proof.Machine.execBrevW f s
  | .prm8W f => Sys2Proof.Machine.execPrm8W f s
  | .prm8X f lit => Sys2Proof.Machine.execPrm8X f lit s
  | .movQ f => Sys2Proof.Machine.execMovQ f s
  | .movW f => Sys2Proof.Machine.execMovW f s
  | .moviQi f => Sys2Proof.Machine.execMoviQi f s
  | .moviWi f => Sys2Proof.Machine.execMoviWi f s
  | .moviX f lit => Sys2Proof.Machine.execMoviX f lit s
  | .leaW f => Sys2Proof.Machine.execLeaW f s
  | .leaX f lit => Sys2Proof.Machine.execLeaX f lit s
  | .sel f => Sys2Proof.Machine.execSel f s
  | .hadd2Q f => Sys2Proof.Machine.execHadd2Q f s
  | .hadd2W f => Sys2Proof.Machine.execHadd2W f s
  | .hmnx2Q f => Sys2Proof.Machine.execHmnx2Q f s
  | .hmnx2W f => Sys2Proof.Machine.execHmnx2W f s
  | .hmaxd2 f => Sys2Proof.Machine.execHmaxd2 f s
  | .icmpW f => Sys2Proof.Machine.execIcmpW f s
  | .icmpX f lit => Sys2Proof.Machine.execIcmpX f lit s
  | .fcmpW f => Sys2Proof.Machine.execFcmpW f s
  | .fcmpX f lit => Sys2Proof.Machine.execFcmpX f lit s
  | .plog f => Sys2Proof.Machine.execPlog f s
  | .pnot f => Sys2Proof.Machine.execPnot f s
  | .p2g f => Sys2Proof.Machine.execP2g f s
  | .g2p f => Sys2Proof.Machine.execG2p f s
  | .vote f => Sys2Proof.Machine.execVote f s
  | .cvt f => Sys2Proof.Machine.execCvt f s
  | .cvtpk f => Sys2Proof.Machine.execCvtpk f s
  | .qpack f => Sys2Proof.Machine.execQpack f s
  | .qunpk f => Sys2Proof.Machine.execQunpk f s
  | .scalex f => Sys2Proof.Machine.execScalex f s
  | .ldW f => Sys2Proof.Machine.execLdW f s
  | .ldX f lit => Sys2Proof.Machine.execLdX f lit s
  | .stW f => Sys2Proof.Machine.execStW f s
  | .stX f lit => Sys2Proof.Machine.execStX f lit s
  | .ldq f => Sys2Proof.Machine.execLdq f s
  | .stq f => Sys2Proof.Machine.execStq f s
  | .atom f => Sys2Proof.Machine.execAtom f s
  | .atomn f => Sys2Proof.Machine.execAtomn f s
  | .acq f => Sys2Proof.Machine.execAcq f s
  | .rel f => Sys2Proof.Machine.execRel f s
  | .acqrel f => Sys2Proof.Machine.execAcqrel f s
  | .fence f => Sys2Proof.Machine.execFence f s
  | .pref f => Sys2Proof.Machine.execPref f s
  | .wb f => Sys2Proof.Machine.execWb f s
  | .inv f => Sys2Proof.Machine.execInv f s
  | .dlease f => Sys2Proof.Machine.execDlease f s
  | .objopen f => Sys2Proof.Machine.execObjopen f s
  | .objclose f => Sys2Proof.Machine.execObjclose f s
  | .objset f => Sys2Proof.Machine.execObjset f s
  | .cpy f => Sys2Proof.Machine.execCpy f s
  | .cpy2d f => Sys2Proof.Machine.execCpy2d f s
  | .cpyw f => Sys2Proof.Machine.execCpyw f s
  | .gath f => Sys2Proof.Machine.execGath f s
  | .scat f => Sys2Proof.Machine.execScat f s
  | .waitc f => Sys2Proof.Machine.execWaitc f s
  | .waita f => Sys2Proof.Machine.execWaita f s
  | .qsend f => Sys2Proof.Machine.execQsend f s
  | .qstat f => Sys2Proof.Machine.execQstat f s
  | .mbar f => Sys2Proof.Machine.execMbar f s
  | .cntrd f => Sys2Proof.Machine.execCntrd f s
  | .faddQ f => Sys2Proof.Machine.execFaddQ f s
  | .faddW f => Sys2Proof.Machine.execFaddW f s
  | .faddX f lit => Sys2Proof.Machine.execFaddX f lit s
  | .fsubQ f => Sys2Proof.Machine.execFsubQ f s
  | .fsubW f => Sys2Proof.Machine.execFsubW f s
  | .fsubX f lit => Sys2Proof.Machine.execFsubX f lit s
  | .fmulQ f => Sys2Proof.Machine.execFmulQ f s
  | .fmulW f => Sys2Proof.Machine.execFmulW f s
  | .fmulX f lit => Sys2Proof.Machine.execFmulX f lit s
  | .fmaW f => Sys2Proof.Machine.execFmaW f s
  | .fmaX f lit => Sys2Proof.Machine.execFmaX f lit s
  | .fminQ f => Sys2Proof.Machine.execFminQ f s
  | .fminW f => Sys2Proof.Machine.execFminW f s
  | .fminX f lit => Sys2Proof.Machine.execFminX f lit s
  | .fmaxQ f => Sys2Proof.Machine.execFmaxQ f s
  | .fmaxW f => Sys2Proof.Machine.execFmaxW f s
  | .fmaxX f lit => Sys2Proof.Machine.execFmaxX f lit s
  | .fmovQ f => Sys2Proof.Machine.execFmovQ f s
  | .fmovW f => Sys2Proof.Machine.execFmovW f s
  | .frcpQ f => Sys2Proof.Machine.execFrcpQ f s
  | .frcpW f => Sys2Proof.Machine.execFrcpW f s
  | .frsqQ f => Sys2Proof.Machine.execFrsqQ f s
  | .frsqW f => Sys2Proof.Machine.execFrsqW f s
  | .fsqrtQ f => Sys2Proof.Machine.execFsqrtQ f s
  | .fsqrtW f => Sys2Proof.Machine.execFsqrtW f s
  | .fdivQ f => Sys2Proof.Machine.execFdivQ f s
  | .fdivW f => Sys2Proof.Machine.execFdivW f s
  | .fdivX f lit => Sys2Proof.Machine.execFdivX f lit s
  | .fexp2Q f => Sys2Proof.Machine.execFexp2Q f s
  | .fexp2W f => Sys2Proof.Machine.execFexp2W f s
  | .flog2Q f => Sys2Proof.Machine.execFlog2Q f s
  | .flog2W f => Sys2Proof.Machine.execFlog2W f s
  | .fsinQ f => Sys2Proof.Machine.execFsinQ f s
  | .fsinW f => Sys2Proof.Machine.execFsinW f s
  | .fcosQ f => Sys2Proof.Machine.execFcosQ f s
  | .fcosW f => Sys2Proof.Machine.execFcosW f s
  | .ftanhQ f => Sys2Proof.Machine.execFtanhQ f s
  | .ftanhW f => Sys2Proof.Machine.execFtanhW f s
  | .frndQ f => Sys2Proof.Machine.execFrndQ f s
  | .frndW f => Sys2Proof.Machine.execFrndW f s
  | .fclassQ f => Sys2Proof.Machine.execFclassQ f s
  | .fclassW f => Sys2Proof.Machine.execFclassW f s
  | .fscaleQ f => Sys2Proof.Machine.execFscaleQ f s
  | .fscaleW f => Sys2Proof.Machine.execFscaleW f s
  | .fscaleX f lit => Sys2Proof.Machine.execFscaleX f lit s
  | .hfadd2Q f => Sys2Proof.Machine.execHfadd2Q f s
  | .hfadd2W f => Sys2Proof.Machine.execHfadd2W f s
  | .hfmul2Q f => Sys2Proof.Machine.execHfmul2Q f s
  | .hfmul2W f => Sys2Proof.Machine.execHfmul2W f s
  | .hfma2 f => Sys2Proof.Machine.execHfma2 f s
  | .dot4f8 f => Sys2Proof.Machine.execDot4f8 f s
  | .dot8f4 f => Sys2Proof.Machine.execDot8f4 f s
  | .fstat f => Sys2Proof.Machine.execFstat f s
  | .pset f => Sys2Proof.Machine.execPset f s
  | .perm f => Sys2Proof.Machine.execPerm f s
  | .shfl f => Sys2Proof.Machine.execShfl f s
  | .bcast f => Sys2Proof.Machine.execBcast f s
  | .reduce f => Sys2Proof.Machine.execReduce f s
  | .scan f => Sys2Proof.Machine.execScan f s
  | .mma f => Sys2Proof.Machine.execMma f s
  | .mzero f => Sys2Proof.Machine.execMzero f s
  | .mdrain f => Sys2Proof.Machine.execMdrain f s
  | .macc f => Sys2Proof.Machine.execMacc f s
  | .mstat f => Sys2Proof.Machine.execMstat f s
  | .srd f => Sys2Proof.Machine.execSrd f s
  | .swr f => Sys2Proof.Machine.execSwr f s
  | .sret f => Sys2Proof.Machine.execSret f s
  | .ifence f => Sys2Proof.Machine.execIfence f s
  | .codex f => Sys2Proof.Machine.execCodex f s
  | .npost f => Sys2Proof.Machine.execNpost f s
  | .npoll f => Sys2Proof.Machine.execNpoll f s
  | .tmark f => Sys2Proof.Machine.execTmark f s
  | .trd f => Sys2Proof.Machine.execTrd f s
  | .halt f => Sys2Proof.Machine.execHalt f s
  | .kill f => Sys2Proof.Machine.execKill f s
  | .issueOpportunity core port => Sys2Proof.Machine.execIssueOpportunity core port s
  | .stallAgeRelease core => Sys2Proof.Machine.execStallAgeRelease core s
  | .overdueClaim core => Sys2Proof.Machine.execOverdueClaim core s
  | .pauseRelease core fibre => Sys2Proof.Machine.execPauseRelease core fibre s
  | .segmentReload core => Sys2Proof.Machine.execSegmentReload core s
  | .killDeadline crew => Sys2Proof.Machine.execKillDeadline crew s
  | .landingWrite id => Sys2Proof.Machine.execLandingWrite id s
  | .performEffect core fibre => Sys2Proof.Machine.execPerformEffect core fibre s
  | .mailboxDeferredPost core => Sys2Proof.Machine.execMailboxDeferredPost core s
  | .doorbell port vf queue value => Sys2Proof.Machine.execDoorbell port vf queue value s
  | .qheadWrite port vf queue value => Sys2Proof.Machine.execQheadWrite port vf queue value s
  | .qstatHaltClear port vf queue value => Sys2Proof.Machine.execQstatHaltClear port vf queue value s
  | .queueDisable port vf queue value => Sys2Proof.Machine.execQueueDisable port vf queue value s
  | .launchReady vf queue => Sys2Proof.Machine.execLaunchReady vf queue s
  | .deppollRead vf queue => Sys2Proof.Machine.execDeppollRead vf queue s
  | .repartition core => Sys2Proof.Machine.execRepartition core s
  | .crewStart crew => Sys2Proof.Machine.execCrewStart crew s
  | .runlimExpiry crew => Sys2Proof.Machine.execRunlimExpiry crew s
  | .launchComplete launch => Sys2Proof.Machine.execLaunchComplete launch s
  | .crewRelaunch crew => Sys2Proof.Machine.execCrewRelaunch crew s
  | .tokenRefill => Sys2Proof.Machine.execTokenRefill s
  | .homeWriteApply line => Sys2Proof.Machine.execHomeWriteApply line s
  | .waitaHostPoll id => Sys2Proof.Machine.execWaitaHostPoll id s
  | .recallLine core line => Sys2Proof.Machine.execRecallLine core line s
  | .orderingComplete id => Sys2Proof.Machine.execOrderingComplete id s
  | .clusterGate cluster => Sys2Proof.Machine.execClusterGate cluster s
  | .hostSnoop port line => Sys2Proof.Machine.execHostSnoop port line s
  | .hostSnoopAnswer port line => Sys2Proof.Machine.execHostSnoopAnswer port line s
  | .hostAtomicRead port vf addr wide => Sys2Proof.Machine.execHostAtomicRead port vf addr wide s
  | .hostWrite port cxlMem vf addr data => Sys2Proof.Machine.execHostWrite port cxlMem vf addr data s
  | .hostMemoryRead port vf addr len => Sys2Proof.Machine.execHostMemoryRead port vf addr len s
  | .copyComplete op => Sys2Proof.Machine.execCopyComplete op s
  | .gsComplete op => Sys2Proof.Machine.execGsComplete op s
  | .mtxCommandComplete core ctx => Sys2Proof.Machine.execMtxCommandComplete core ctx s
  | .wbComplete op => Sys2Proof.Machine.execWbComplete op s
  | .engineStop op hostError => Sys2Proof.Machine.execEngineStop op hostError s
  | .codexReserve op index => Sys2Proof.Machine.execCodexReserve op index s
  | .codexSeal op place => Sys2Proof.Machine.execCodexSeal op place s
  | .codexPatch op => Sys2Proof.Machine.execCodexPatch op s
  | .codexSwap op place => Sys2Proof.Machine.execCodexSwap op place s
  | .codexFree op => Sys2Proof.Machine.execCodexFree op s
  | .codexCompletion op => Sys2Proof.Machine.execCodexCompletion op s
  | .dataFragmentReceive io packet => Sys2Proof.Machine.execDataFragmentReceive io packet s
  | .parityFragmentReceive io packet => Sys2Proof.Machine.execParityFragmentReceive io packet s
  | .stripeAckReceive io packet => Sys2Proof.Machine.execStripeAckReceive io packet s
  | .retransmitRequestReceive io packet => Sys2Proof.Machine.execRetransmitRequestReceive io packet s
  | .probeReceive io packet => Sys2Proof.Machine.execProbeReceive io packet s
  | .abortReceive io packet => Sys2Proof.Machine.execAbortReceive io packet s
  | .targetResetIndication io packet => Sys2Proof.Machine.execTargetResetIndication io packet s
  | .atomicReplyReceive io packet => Sys2Proof.Machine.execAtomicReplyReceive io packet s
  | .pdsNackReceive io packet => Sys2Proof.Machine.execPdsNackReceive io packet s
  | .stripeResend op stripe => Sys2Proof.Machine.execStripeResend op stripe s
  | .unsupportedPacket io source => Sys2Proof.Machine.execUnsupportedPacket io source s
  | .stripeWaitExpiry message stripe => Sys2Proof.Machine.execStripeWaitExpiry message stripe s
  | .ntimeoutExpiry op => Sys2Proof.Machine.execNtimeoutExpiry op s
  | .probeWaitExpiry op => Sys2Proof.Machine.execProbeWaitExpiry op s
  | .messageRecordExpiry message => Sys2Proof.Machine.execMessageRecordExpiry message s
  | .dieLinkFlitReceive src dst flit => Sys2Proof.Machine.execDieLinkFlitReceive src dst flit s
  | .dieLinkRetryExpiry src dst group => Sys2Proof.Machine.execDieLinkRetryExpiry src dst group s
  | .dieLinkGroupFailure src dst group => Sys2Proof.Machine.execDieLinkGroupFailure src dst group s
  | .filterRun die => Sys2Proof.Machine.execFilterRun die s
  | .bitternPeriod => Sys2Proof.Machine.execBitternPeriod s
  | .sluiceOcc => Sys2Proof.Machine.execSluiceOcc s
  | .fctlEnable port vf die slot value => Sys2Proof.Machine.execFctlEnable port vf die slot value s
  | .hsnap port vf die value => Sys2Proof.Machine.execHsnap port vf die value s
  | .iclr port vf die value => Sys2Proof.Machine.execIclr port vf die value s
  | .btOwnerWrite offset value => Sys2Proof.Machine.execBtOwnerWrite offset value s
  | .mboxPop core => Sys2Proof.Machine.execMboxPop core s
  | .mboxWaitTimeout core => Sys2Proof.Machine.execMboxWaitTimeout core s
  | .haltedWrite core value => Sys2Proof.Machine.execHaltedWrite core value s
  | .xlinvC core value => Sys2Proof.Machine.execXlinvC core value s
  | .xlinv vf value => Sys2Proof.Machine.execXlinv vf value s
  | .hpartWrite offset value => Sys2Proof.Machine.execHpartWrite offset value s
  | .registerWrite space offset value => Sys2Proof.Machine.execRegisterWrite space offset value s
  | .hlRenew port value => Sys2Proof.Machine.execHlRenew port value s
  | .hlClaim port value => Sys2Proof.Machine.execHlClaim port value s
  | .hostLeaseExpiry => Sys2Proof.Machine.execHostLeaseExpiry s
  | .ptpOfsWrite value => Sys2Proof.Machine.execPtpOfsWrite value s
  | .ptpTrimWrite value => Sys2Proof.Machine.execPtpTrimWrite value s
  | .ptpEventTimestamp ethPort message => Sys2Proof.Machine.execPtpEventTimestamp ethPort message s
  | .heartbeatCheck => Sys2Proof.Machine.execHeartbeatCheck s
  | .mcBeat controller => Sys2Proof.Machine.execMcBeat controller s
  | .mcTakeover => Sys2Proof.Machine.execMcTakeover s
  | .coreReset core => Sys2Proof.Machine.execCoreReset core s
  | .dieReset die => Sys2Proof.Machine.execDieReset die s
  | .partitionReset partition => Sys2Proof.Machine.execPartitionReset partition s
  | .packageWarmReset => Sys2Proof.Machine.execPackageWarmReset s
  | .coldReset image => Sys2Proof.Machine.execColdReset image s
  | .vfFlr vf => Sys2Proof.Machine.execVfFlr vf s
  | .resetGraceExpiry vf => Sys2Proof.Machine.execResetGraceExpiry vf s
  | .mctpStatusRead via offset => Sys2Proof.Machine.execMctpStatusRead via offset s
  | .mctpResetOrder via level => Sys2Proof.Machine.execMctpResetOrder via level s
  | .mctpFirmwareLoad image => Sys2Proof.Machine.execMctpFirmwareLoad image s
  | .spdmRequest port request => Sys2Proof.Machine.execSpdmRequest port request s
  | .ideKm vf key => Sys2Proof.Machine.execIdeKm vf key s
  | .lockInterfaceRequest vf => Sys2Proof.Machine.execLockInterfaceRequest vf s
  | .startInterfaceRequest vf => Sys2Proof.Machine.execStartInterfaceRequest vf s
  | .stopInterfaceRequest vf => Sys2Proof.Machine.execStopInterfaceRequest vf s
  | .tdispFrozenWrite port vf offset value => Sys2Proof.Machine.execTdispFrozenWrite port vf offset value s
  | .ideIntegrityFailure vf => Sys2Proof.Machine.execIdeIntegrityFailure vf s
  | .eccUncorrectable location => Sys2Proof.Machine.execEccUncorrectable location s
  | .eccCorrected location => Sys2Proof.Machine.execEccCorrected location s
  | .thermalStepChange sensor step temperature => Sys2Proof.Machine.execThermalStepChange sensor step temperature s
  | .hostPortLinkChange port up => Sys2Proof.Machine.execHostPortLinkChange port up s
  | .stripeSend op stripe => Sys2Proof.Machine.execStripeSend op stripe s
  | .hostWriteAcknowledgement id => Sys2Proof.Machine.execHostWriteAcknowledgement id s
  | .msixVectorUnmask vf vector => Sys2Proof.Machine.execMsixVectorUnmask vf vector s
  | .clusterUngate cluster => Sys2Proof.Machine.execClusterUngate cluster s

end Sys2Proof.Machine
end

