-- ==== Sys2Proof/Machine/Step.lean ====
section
/-! DEFINITION. One step: the next act of the agenda, or by default the next instruction of an issuing gang, a landing, an
issue opportunity or a tick (assumption 1). -/
namespace Sys2Proof.Machine

/-- Run the next instruction of a gang: the instruction that its PC's bytes decode to. -/
def issueGang (gid : Nat) (s : State) : Host.Outcome State Fault Refusal :=
  match s.gangs.find gid with
  | none => .next s
  | some g =>
    if s.mayIssue g = false then .next s
    else
      match s.nextInstr gid with
      | some i => exec i { s with cur := gid }
      | none => .next (s.fetchFails gid)

/-- One act of the agenda. -/
def act (a : Act) (s : State) : Host.Outcome State Fault Refusal :=
  match a with
  | .event i => if i.form.isSome then .fault .badAgenda else exec i s
  | .packet io p => receivePacket io p s
  | .flit src dst flit => execDieLinkFlitReceive src dst flit s
  | .hostStore pa data => .next (s.hostStore pa data)
  | .tick n => .next (s.tick n)
  | .issue gid => issueGang gid s
  | .evict core line => .next (s.evictLine core line)
  | .unit op place => .next (s.unitNow op place)

/-- The default act. -/
def idle (s : State) : Host.Outcome State Fault Refusal :=
  match s.nextGang with
  | some gid => issueGang gid s
  | none =>
    match s.landings with
    | (id, _) :: _ => exec (.landingWrite id) s
    | [] => .next (s.tick 1)

/-- One step of the machine. The arbitration that a crew's retiring asks for comes before anything else (R64). -/
def step (s : State) : Host.Outcome State Fault Refusal :=
  if s.sched.retired then .next s.arbitrateRetired
  else
    match s.agenda with
    | a :: rest => act a { s with agenda := rest }
    | [] => idle s

/-- The gang, fibre and places that a word placed for the next fetch takes. -/
def fetchGang : Nat := 2 ^ 40

/-- The handle of the code object that holds a placed word. -/
def fetchHandle : Word := 0x1001

/-- The physical address of a placed word. -/
def fetchText : Nat := 0x10000

/-- The code-table entry of a placed word. -/
def fetchEntry : CodeEntry :=
  { reserved := true, valid := true, text := fetchText, tlen := 12, clen := 0, ctext := 0, const := 0, klen := 0,
    entries := [0], frameW := 128, gwmask := 7, model := 1, twin := false, cured := false, spmap := [], origin := [],
    map := 0, feat := 0, gen := 1, twinGen := 0 }

/-- The PC of a placed word. -/
def fetchPc : Pc := { handle := fetchHandle, off := 0, twin := none }

/-- The fibre that runs a placed word: descriptor 0 of core 0, issuing. -/
def fetchFibre : Fibre :=
  { Fibre.clerk 0 with state := .issuing, pc := fetchPc, fbSeg := 1024 }

/-- The gang of that fibre: one lane. -/
def fetchGangOf : Gang :=
  { core := 0, port := 0, base := 0, width := 16, tenant := 0, launch := 0, members := [(0, 0)], runLen := 0,
    runStart := fetchPc, pos := 0, recent := [], reform := false, spinning := false, before := [] }

/-- A state whose next step fetches and runs the instruction of bits `w`, numbered as the opcode table numbers them: its
bytes stand in a sealed text, and a fibre issues at it (assumption 11). -/
def State.withFetchWord (s : State) (nbits w : Nat) : State :=
  { s with
    store := { s.store with phys := s.store.phys.writeBytes fetchText (tableBytes (w % 2 ^ nbits)) }
    code := s.code.put (codeKey 0 1) fetchEntry
    fibres := s.fibres.put 0 fetchFibre
    segs := s.segs.put (segKey 0 1024) { Segment.empty with resident := some 0 }
    gangs := s.gangs.put fetchGang fetchGangOf
    sched := { s.sched with retired := false }
    agenda := .issue fetchGang :: s.agenda }

end Sys2Proof.Machine
end

