-- ==== Sys2Proof/Safety.lean ====
section
/-! DEFINITION. What a safe run is, and the words in which the claims speak of one instruction on one active lane: when it
is ready to execute, what it writes, and what it leaves alone. -/
namespace Sys2Proof.Safety

open Sys2Proof.Machine

/-- The storage of a state is in canonical form. -/
def storageOk (s : State) : Bool := s.store.phys.wf && s.store.pitch.wf

/-- An outcome is a next state with sound storage. -/
def okOutcome : Host.Outcome State Fault Refusal → Bool
  | .next s => storageOk s
  | _ => false

/-- A run of `n` steps is safe. -/
def Safe (n : Nat) (s : State) : Prop := okOutcome (core.run n s) = true

/-! ### One instruction on one lane -/

/-- The gang that issues, its one active lane with the fibre there, and the form of the instruction. -/
structure Turn where
  gang : Gang
  lane : Nat
  index : Nat
  fibre : Fibre
  form : Form
  deriving DecidableEq, Repr

/-- The key of the fibre. -/
def Turn.key (t : Turn) : Nat := fibreKey t.gang.core t.index

/-- The state once the instruction's cycles have been charged (R66). -/
def Turn.charged (t : Turn) (s : State) : State := s.chargeStep t.gang (t.gang.runLen + 1)

/-- The PC of the instruction. -/
def Turn.own (t : Turn) (s : State) : Pc := (t.charged s).ownPc t.fibre

/-- The PC after the instruction. -/
def Turn.next (t : Turn) (s : State) (i : Instr) : Pc :=
  (t.charged s).advance t.fibre.tenant (t.own s) (encode i).length

/-- The reading of the operands (R164 to R167). -/
def Turn.reading (t : Turn) (s : State) (i : Instr) : LaneIn × Taken × State :=
  (t.charged s).readLane t.key t.lane t.fibre (t.own s) (t.next s i) t.form

/-- The operands that the lane reads. -/
def Turn.x (t : Turn) (s : State) (i : Instr) : LaneIn := (t.reading s i).1

/-- The state once the operands have been read: what a q register gave has been taken. -/
def Turn.read (t : Turn) (s : State) (i : Instr) : State := (t.reading s i).2.2

/-- The state before a cross-lane instruction, but for the words that it has taken from q registers. -/
def Turn.before (t : Turn) (s : State) (i : Instr) : State := { t.charged s with cores := (t.read s i).cores }

/-- An instruction is ready on the one active lane of the gang that issues (R183): it is well-formed, the fibre is
ISSUING, its q registers are its tenant's, no result is read too early, the guard is true, and every source is there. -/
structure Ready (s : State) (i : Instr) (t : Turn) : Prop where
  gang : s.gangs.find s.cur = some t.gang
  alone : t.gang.members = [(t.lane, t.index)]
  index : t.index < 4096
  form : i.form = some t.form
  legal : i.wellFormed = true
  fibre : s.fibres.find t.key = some t.fibre
  issuing : t.fibre.state = .issuing
  owner : s.queuePriv t.key t.gang.tenant t.form = false
  inTime : s.isCured t.gang.tenant t.fibre.pc = false ∨ tooEarly t.gang i t.form = none
  guard : t.form.hdr.pred = 0 ∨ t.fibre.preds.getLsbD t.form.hdr.pred.toNat = true
  sources : (t.charged s).sourceStop t.key t.fibre (t.own s) [t.form.a, t.form.b, t.form.c, t.form.d] = none

/-- The run goes on after the instruction: it carries no run mark, ends no run by itself and is not the 24th (R38). -/
def Turn.runsOn (t : Turn) (i : Instr) : Prop :=
  t.form.hdr.rb = 0 ∧ endsRun i = false ∧ t.gang.runLen + 1 < 24

/-- Nothing waits for the fibre's next safe point: no ordered kill, no deferred fault, no request, no enabled flag among
its flags once `fl` are raised, none of its results is on its way, and no register from LIVE on awaits one (R40 to R42). -/
structure Calm (s : State) (t : Turn) (fl : Flags) : Prop where
  kill : t.fibre.killOrdered = false
  faults : t.fibre.pending = []
  request : t.fibre.request = none
  flags : (t.fibre.flags ||| fl) &&& t.fibre.enables = 0
  landings : ∀ p ∈ s.landings, p.2.fibre ≠ t.key
  window : ∀ c, t.fibre.live ≤ c → c < 128 → (s.cell (t.fibre.gLoc c)).mark = .full

/-- The destinations of an instruction take their values: none is empty, poisoned or short of room (R170, R275), and each
register has its place. -/
structure Free (s : State) (i : Instr) (t : Turn) (codes : List Nat) : Prop where
  takes : (t.charged s).destStop (t.x s i) codes = none
  room : (t.read s i).queueStop t.gang.core codes = none
  frame : (s.segs.find (segKey t.fibre.tenant t.fibre.fbSeg)).isSome
  crew : ∀ c ∈ codes, 0x80 ≤ c → c < 0xC0 → (s.sched.crews.find (t.fibre.crew.getD 0)).isSome

/-- What an instruction needs beside being ready, to complete with results in some destinations: they take them, and
where the run ends nothing waits for the safe point. -/
structure Executes (s : State) (i : Instr) (t : Turn) (codes : List Nat) (fl : Flags) : Prop where
  ready : Ready s i t
  free : Free s i t codes
  calm : t.runsOn i ∨ Calm s t fl

/-- A register, q register or predicate holds a value that has just been written (R164, R168). -/
def Holds (s : State) (t : Turn) (code : Nat) (v : Word) : Prop :=
  (∀ l, t.fibre.loc code = some l → (s.cell l).val = v ∧ (s.cell l).mark = .full) ∧
  (isQueue code = true → ∃ before p, (s.queueReg t.gang.core (code - 0xC0)).places = before ++ [p] ∧ p.word = some v) ∧
  (0xD1 ≤ code → code < 0xD8 → ∃ f, s.fibres.find t.key = some f ∧ f.preds.getLsbD (code - 0xD0) = decide (v ≠ 0))

/-- What a fibre is but for where it stands: its state, lane, text and times are left out. -/
def context (f : Fibre) : Fibre :=
  { f with state := .created, pc := { f.pc with twin := none }, lane := 0, reform := false, coldSince := 0 }

/-- The hardware of a core but for where its fibres stand filed, its deficit counters, its reload requests and the words
of its q registers. -/
def bareUnit (u : CoreUnit) : CoreUnit := { u with stalls := [], overflow := [], wdc := [], reloads := [], queues := [] }

/-- A crew but for its s-registers and the cycles charged to it. -/
def bareCrew (k : Crew) : Crew := { k with sregs := [], cycles := 0 }

/-- A segment but for its words and the time of its last use. -/
def bareSeg (g : Segment) : Segment := { g with words := [], touched := 0 }

/-- A bittern but for what waits at its tap. -/
def bareBittern (b : Bittern) : Bittern := { b with tap := [], tapDrops := [] }

/-- Two states agree on everything but registers, what fibres are, and bookkeeping: on memory, continuations,
accumulators, code, results on their way, the registers of the device, of every function and of every core, the frame
links, the crews, the scheduler, the homes, the engines, the network, the bitterns and the platform. Bookkeeping is what
the charging of cycles, the filing of fibres in stalls and gangs, the spin detector with its event (R346), the last uses of
segments (R75), and the taking of words and leases by reads change. -/
structure Apart (s s' : State) : Prop where
  store : s'.store = s.store
  kobjs : s'.kobjs = s.kobjs
  acc : s'.acc = s.acc
  code : s'.code = s.code
  mgmt : s'.regs.mgmt = s.regs.mgmt
  bar0 : s'.regs.bar0 = s.regs.bar0
  landings : s'.landings = s.landings
  gtc : s'.gtc = s.gtc
  coreRegs : ∀ k, k % 2 ^ 24 ≠ 0x108 → s'.regs.core.find k = s.regs.core.find k
  units : ∀ c, bareUnit (s'.unit c) = bareUnit (s.unit c)
  links : ∀ k, (s'.segs.find k).map bareSeg = (s.segs.find k).map bareSeg
  crewRest : ∀ k, (s'.sched.crews.find k).map bareCrew = (s.sched.crews.find k).map bareCrew
  sched : { s'.sched with crews := [], bal := [] } = { s.sched with crews := [], bal := [] }
  coh : { s'.coh with l1 := [] } = { s.coh with l1 := [] }
  engine : s'.engine = s.engine
  net : s'.net = s.net
  bitterns : ∀ d, bareBittern (s'.bittern d) = bareBittern (s.bittern d)
  plat : s'.plat = s.plat
  convened : s'.convened = s.convened
  ptpAcc : s'.ptpAcc = s.ptpAcc

/-- A memory access of the fibre need not wait for earlier ones of its own (R141, R153): where an access of it in M0 waits, none
does, and an access in M0 finds no atomic operation of it under way. -/
def Turn.inOrder (t : Turn) (s : State) : Prop :=
  ((s.inM0 t.key t.fibre || t.fibre.pendingM0) = true → t.fibre.pending = []) ∧
    (s.inM0 t.key t.fibre = true → s.atomUnderWay t.key = none)

/-- The state in which the lane's effect is performed once its operands have been read: what they took is given back (R183). -/
def Turn.givenBack (t : Turn) (s : State) (i : Instr) : State := (t.read s i).unpop t.gang.core (t.reading s i).2.1

/-- Two states differ in bookkeeping alone: every register has its value and its mark, every fibre is what it is. -/
structure Same (s s' : State) : Prop extends Apart s s' where
  value : ∀ l, (s'.cell l).val = (s.cell l).val
  mark : ∀ l, (s'.cell l).mark = (s.cell l).mark
  fibres : ∀ k, (s'.fibres.find k).map context = (s.fibres.find k).map context

/-- The words of every q register and the lines of every L1 are the same. -/
structure SameQ (s s' : State) : Prop where
  places : ∀ c q, (s'.queueReg c q).places = (s.queueReg c q).places
  l1 : s'.coh.l1 = s.coh.l1

/-- What an instruction leaves alone: every register but its destinations, every other fibre, and all that `Apart` says. -/
structure Keeps (s s' : State) (t : Turn) (codes : List Nat) : Prop extends Apart s s' where
  value : ∀ l, (∀ c ∈ codes, t.fibre.loc c ≠ some l) → (s'.cell l).val = (s.cell l).val
  mark : ∀ l, (∀ c ∈ codes, t.fibre.loc c ≠ some l) → (s'.cell l).mark = (s.cell l).mark
  fibres : ∀ k, k ≠ t.key → (s'.fibres.find k).map context = (s.fibres.find k).map context

/-- FSR with SEED replaced by the word that a stochastic rounding left, where one was drawn. -/
def seeded (fsr : DWord) (seed : Option Word) : DWord :=
  match seed with
  | some v => withSeed fsr v
  | none => fsr

/-- What the fibre is after an instruction that goes on to a PC, raises flags and replaces SEED where it draws: nothing
else of it changes but the predicates among the destinations. -/
structure GoesOn (s' : State) (t : Turn) (own pc : DWord) (codes : List Nat) (fl : Flags) (seed : Option Word) : Prop where
  moved : ∃ f', s'.fibres.find t.key = some f' ∧ f'.pc.pointer = pc ∧
    f'.fsr = withFlags (seeded t.fibre.fsr seed) (t.fibre.flags ||| fl) ∧
    f'.heldPc = (if t.fibre.heldPc.isNone ∧ fl &&& t.fibre.enables ≠ 0 then some own else t.fibre.heldPc) ∧
    (∀ p, p < 8 → p + 0xD0 ∉ codes → f'.preds.getLsbD p = t.fibre.preds.getLsbD p) ∧
    f'.hchain = t.fibre.hchain ∧ f'.fbSeg = t.fibre.fbSeg ∧ f'.fbWord = t.fibre.fbWord ∧ f'.live = t.fibre.live ∧
    f'.crew = t.fibre.crew ∧ f'.workId = t.fibre.workId ∧ f'.pending = t.fibre.pending ∧
    f'.counted = t.fibre.counted

/-- An instruction completes: it answers a next state in which its destinations hold its results, the fibre goes on to
the next PC with the flags raised, and everything else is as it was. -/
def Completes (s : State) (i : Instr) (t : Turn) (o : List (Nat × Word)) (fl : Flags) (seed : Option Word) : Prop :=
  ∃ s', exec i s = .next s' ∧ (∀ p ∈ o, Holds s' t p.1 p.2) ∧
    GoesOn s' t (t.own s).pointer (t.next s i).pointer (o.map Prod.fst) fl seed ∧ Keeps s s' t (o.map Prod.fst)

/-- Wherever a lane executes the instruction, it completes with the results, flags and SEED that its operands give. -/
def Gives (i : Instr) (o : LaneIn → List (Nat × Word)) (fl : LaneIn → Flags) (seed : LaneIn → Option Word) : Prop :=
  ∀ s t, Executes s i t ((o (t.x s i)).map Prod.fst) (fl (t.x s i)) →
    Completes s i t (o (t.x s i)) (fl (t.x s i)) (seed (t.x s i))

/-- An instruction with one result, of a register or of a pair, and flags. -/
def GivesInt (i : Instr) (a : BitVec 8) (wide : Bool) (r : LaneIn → DWord × Flags) : Prop :=
  Gives i (fun x => outPair a.toNat wide (r x).1) (fun x => (r x).2) fun _ => none

/-- An instruction with one rounded result; in the stochastic mode its draw replaces SEED (R106). -/
def GivesFp (i : Instr) (a : BitVec 8) (wide : Bool) (mode : Nat) (r : LaneIn → FpOut) : Prop :=
  Gives i (fun x => outPair a.toNat wide (BitVec.ofNat 64 (r x).code)) (fun x => (r x).flags)
    fun x => if mode = 4 then some (r x).seed else none

/-- FRND as R283 gives it: a NaN, an infinity, a zero and a value of at least 2^m stay as they are; another value becomes one
of its two integral neighbours, as the mode chooses, with NX where it changes and its own sign where that is zero; `.rsr`
draws once in every case. -/
def frnd (fmt mode : Nat) (x : LaneIn) (v : FVal) : FpOut :=
  let seed := if mode = 4 then advanceSeed x.f.seed else x.f.seed
  let out := fun (w : FVal) (fl : Flags) => ({ code := (roundFloat fmt 0 0 false w).1, seed := seed, flags := fl } : FpOut)
  match v with
  | .nan => out .nan 0
  | .inf neg => out (.inf neg) 0
  | .fin neg mant exp more =>
    let c := cutAt mant exp 0
    if mant = 0 ∨ 2 ^ (floatFmt fmt).m ≤ c.1 then out (.fin neg mant exp more) 0
    else if roundUp mode seed.toNat neg c.1 c.2.1 c.2.2 false then out (.fin neg (c.1 + 1) 0 false) flagNX
    else out (.fin neg c.1 0 false) (if c.2.1 = 0 then 0 else flagNX)

/-- The class of a code of `m` mantissa and `e` exponent bits, by the order of R284: the bit of the mask. -/
def classBit (m e code : Nat) : Nat :=
  let neg := decide (code / 2 ^ (m + e) % 2 = 1)
  let exponent := code / 2 ^ m % 2 ^ e
  let mantissa := code % 2 ^ m
  if exponent = 2 ^ e - 1 then (if mantissa = 0 then (if neg then 0 else 7) else 8)
  else if exponent = 0 then
    if mantissa = 0 then (if neg then 3 else 4) else (if neg then 2 else 5)
  else if neg then 1 else 6

/-- An instruction is ready, and where its run ends nothing waits for the safe point. -/
structure Goes (s : State) (i : Instr) (t : Turn) : Prop where
  ready : Ready s i t
  calm : t.runsOn i ∨ Calm s t 0

/-- An instruction does on its lane what `s₁` says, a state made from the one whose operands have been read, and the
fibre goes on at a PC: the next state differs from that in bookkeeping alone. -/
def Does (s : State) (i : Instr) (t : Turn) (s₁ : State) (pc : Pc) : Prop :=
  ∃ s', exec i s = .next s' ∧ Same (s₁.modFibre t.key fun f => { f with pc := pc }) s' ∧ SameQ s₁ s'

/-- An instruction after which the fibre has left its gang in `s₁`: the next state differs from that in bookkeeping
alone. -/
def Leaves (s : State) (i : Instr) (s₁ : State) : Prop := ∃ s', exec i s = .next s' ∧ Same s₁ s' ∧ SameQ s₁ s'

/-- The keys of a table rise strictly, as those of every table do that the operations of the model make. -/
def rising {α : Type} (t : Tbl α) : Prop := t.Pairwise fun p q => p.1 < q.1

/-- The gangs and the fibres stand in the order of their names, and no kill of the fibre has been ordered. -/
structure Sound (s : State) (t : Turn) : Prop where
  gangs : rising s.gangs
  fibres : rising s.fibres
  kill : t.fibre.killOrdered = false

/-- An instruction whose results come later (R168, R171) does what `s₁` says, in which they are on their way, and the fibre
goes on at a PC; where its run mark makes the run end a safe point they are delivered there (R43). -/
def Sends (s : State) (i : Instr) (t : Turn) (s₁ : State) (pc : Pc) : Prop :=
  ∃ s', exec i s = .next s' ∧
    let s₂ := s₁.modFibre t.key fun f => { f with pc := pc }
    let s₃ := if 2 ≤ t.form.hdr.rb.toNat then s₂.flushLandings [t.key] else s₂
    Same s₃ s' ∧ SameQ s₃ s'

/-- An instruction with one result of long latency, of a register or of a pair, and flags: wherever a lane executes it, its
destinations are empty, its result is on its way to them, its flags are raised and the fibre goes on (R168, R171). -/
def GivesLate (i : Instr) (a : BitVec 8) (wide : Bool) (r : LaneIn → DWord × Flags) : Prop :=
  ∀ s t, let x := t.x s i
    let o := outPair a.toNat wide (r x).1
    Executes s i t (o.map Prod.fst) (r x).2 →
      Sends s i t (((t.read s i).writeLong x o).modFibre t.key fun g => g.raise (r x).2 (t.own s).pointer) (t.next s i)

/-- The run of the instruction ends at a safe point by its run mark (R40). -/
def Turn.safeMark (t : Turn) : Prop := 2 ≤ t.form.hdr.rb.toNat

/-- One fibre issues an instruction alone, whatever becomes of it. -/
structure Alone (s : State) (i : Instr) (t : Turn) : Prop where
  gang : s.gangs.find s.cur = some t.gang
  members : t.gang.members = [(t.lane, t.index)]
  index : t.index < 4096
  form : i.form = some t.form
  fibre : s.fibres.find t.key = some t.fibre
  issuing : t.fibre.state = .issuing
  sound : Sound s t

/-- The lane that issues this instruction performs ILLEGAL, tag 12, at its own PC, whatever its operands (R182, R183). -/
def PerformsIllegal (i : Instr) : Prop :=
  ∀ s t, Alone s i t →
    Leaves s i (((t.charged s).perform t.key (effectOf (t.own s) 12 0 0)).maskedKill t.key)

/-- What the descriptions of the instructions reserve (R21, R78, R289, R294, R314 to R321): HALT, SRET and CODEX to the
clerk, a tag to those who may perform it, CONST to loads, a permutation slot to its owner, and a matrix context to the
launches that use it. -/
def privileged (s : State) (i : Instr) (key : Nat) : Bool :=
  match i with
  | .perform f | .performv f => !performable (fld f.imm 0 16)
  | .stW f | .stX f _ | .stq f => decide (spaceOf f = 4)
  | .halt _ | .sret _ | .codex _ => !isClerk key
  | .perm f => s.permPriv f.sub.toNat key
  | .mma f | .mdrain f | .macc f => s.contextPriv (mtxCtx f) key
  | .mzero f | .mstat f => s.contextPriv (fld f.imm 0 2) key
  | _ => false

end Sys2Proof.Safety
end

