-- ==== Sys2Proof/Certificates/Slice0/Obligations.lean ====
section
/-! DEFINITION. The statements about the model. -/
section

open Sys2Proof Sys2Proof.Machine Sys2Proof.Safety

/-! ### Integers (R227 to R237) -/

/-- R227: a saturating form clamps the exact result to the range of its width and signedness, and sets SAT when it
clamps; another form wraps it modulo 2^width and sets no flag. -/
def Obligations.IntegerResultsWrapOrClamp : Prop :=
  ∀ (m : IntMode) (signed : Bool) (v : Int),
    let lo : Int := if signed then -(2 ^ (m.width - 1)) else 0
    let hi : Int := if signed then 2 ^ (m.width - 1) - 1 else 2 ^ m.width - 1
    (m.sat = true → m.value signed (m.narrow signed v).1 = max lo (min hi v) ∧
      (m.narrow signed v).2 = if lo ≤ v ∧ v ≤ hi then 0 else flagSAT) ∧
    (m.sat = false → m.value signed (m.narrow signed v).1 % 2 ^ m.width = v % 2 ^ m.width ∧
      (m.narrow signed v).2 = 0) ∧
    (m.narrow signed v).1.toNat < 2 ^ m.width

/-- R227: the results of IADD, ISUB, IMUL and IMAD are the narrowed exact results; IMULH gives the high half of the exact
product; IMIN and IMAX the lesser and the greater operand. -/
def Obligations.IntegerArithmeticResults : Prop :=
  ∀ (q : FormQ) (f : FormW) (lit : Word),
    let p := plainMode
    let m := intMode f
    let l := litArg m lit
    let v := fun (y : DWord) => m.value m.signed y
    let u := fun (y : DWord) => p.value false y
    (GivesInt (.iaddQ q) q.a false (fun x => p.narrow false (u x.a + u x.b)) ∧
      GivesInt (.iaddW f) f.a m.wide (fun x => m.narrow m.signed (v x.b + v x.c)) ∧
      GivesInt (.iaddX f lit) f.a m.wide (fun x => m.narrow m.signed (v x.b + v l))) ∧
    (GivesInt (.isubQ q) q.a false (fun x => p.narrow false (u x.a - u x.b)) ∧
      GivesInt (.isubW f) f.a m.wide (fun x => m.narrow m.signed (v x.b - v x.c)) ∧
      GivesInt (.isubX f lit) f.a m.wide (fun x => m.narrow m.signed (v x.b - v l))) ∧
    (GivesInt (.imulQ q) q.a false (fun x => p.narrow false (u x.a * u x.b)) ∧
      GivesInt (.imulW f) f.a m.wide (fun x => m.narrow m.signed (v x.b * v x.c)) ∧
      GivesInt (.imulX f lit) f.a m.wide (fun x => m.narrow m.signed (v x.b * v l))) ∧
    (GivesInt (.imulhQ q) q.a false (fun x => (p.wrap (u x.a * u x.b / 2 ^ p.width), 0)) ∧
      GivesInt (.imulhW f) f.a m.wide (fun x => (m.wrap (v x.b * v x.c / 2 ^ m.width), 0)) ∧
      GivesInt (.imulhX f lit) f.a m.wide (fun x => (m.wrap (v x.b * v l / 2 ^ m.width), 0))) ∧
    (GivesInt (.imadW f) f.a m.wide (fun x => m.narrow m.signed (v x.b * v x.c + v x.d)) ∧
      GivesInt (.imadX f lit) f.a m.wide (fun x => m.narrow m.signed (v x.b * v l + v x.d))) ∧
    (GivesInt (.iminQ q) q.a false (fun x => (p.wrap (min (u x.a) (u x.b)), 0)) ∧
      GivesInt (.iminW f) f.a m.wide (fun x => (m.wrap (min (v x.b) (v x.c)), 0)) ∧
      GivesInt (.iminX f lit) f.a m.wide (fun x => (m.wrap (min (v x.b) (v l)), 0))) ∧
    GivesInt (.imaxQ q) q.a false (fun x => (p.wrap (max (u x.a) (u x.b)), 0)) ∧
    GivesInt (.imaxW f) f.a m.wide (fun x => (m.wrap (max (v x.b) (v x.c)), 0)) ∧
    GivesInt (.imaxX f lit) f.a m.wide (fun x => (m.wrap (max (v x.b) (v l)), 0))

/-- R227, R228: IDIV truncates towards zero and IREM gives the remainder with the sign of B; a division by 0 sets DZ and
gives all ones, or for a signed type the maximum or the minimum by the sign of B, and B as the remainder; the minimum
divided by −1 is narrowed as any exact result, and its remainder is 0. R175, R168: the results are of long latency. -/
def Obligations.IntegerDivisionResults : Prop :=
  ∀ (q : FormQ) (f : FormW) (lit : Word),
    let quot := fun (m : IntMode) (b c : DWord) =>
      let x := m.value m.signed b
      let y := m.value m.signed c
      if y ≠ 0 then m.narrow m.signed (x.tdiv y)
      else if m.signed = false then (m.wrap (2 ^ m.width - 1), flagDZ)
      else if 0 ≤ x then (m.wrap (2 ^ (m.width - 1) - 1), flagDZ)
      else (m.wrap (-(2 ^ (m.width - 1))), flagDZ)
    let rest := fun (m : IntMode) (b c : DWord) =>
      let x := m.value m.signed b
      let y := m.value m.signed c
      if y ≠ 0 then (m.wrap (x - y * x.tdiv y), (0 : Flags)) else (m.wrap x, flagDZ)
    let m := intMode f
    let l := litArg m lit
    (GivesLate (.idivQ q) q.a false (fun x => quot plainMode x.a x.b) ∧
      GivesLate (.idivW f) f.a m.wide (fun x => quot m x.b x.c) ∧
      GivesLate (.idivX f lit) f.a m.wide (fun x => quot m x.b l)) ∧
    GivesLate (.iremQ q) q.a false (fun x => rest plainMode x.a x.b) ∧
    GivesLate (.iremW f) f.a m.wide (fun x => rest m x.b x.c) ∧
    GivesLate (.iremX f lit) f.a m.wide (fun x => rest m x.b l)

/-- R229: AND, OR, XOR, ANDN and NOT work bit by bit on the operands. IABS gives |B| of the signed operand, narrowed as
signed; POPC the number of set bits; CLZ the number of bits above the highest set one, or the width for 0; BREV moves bit i
to bit width − 1 − i. Only IABS accepts the saturating bit, and none the signed bit. -/
def Obligations.LogicalResults : Prop :=
  ∀ (q : FormQ) (f : FormW) (lit : Word),
    let p := plainMode
    let m := intMode f
    let w := m.wide
    let l := litArg m lit
    let ones := fun (m : IntMode) (b : DWord) =>
      BitVec.ofNat 64 ((List.range m.width).filter fun i => b.getLsbD i).length
    let zeros := fun (m : IntMode) (b : DWord) =>
      BitVec.ofNat 64 (m.width - ((List.range m.width).reverse.find? fun i => b.getLsbD i).elim 0 fun i => i + 1)
    let turned := fun (m : IntMode) (b : DWord) =>
      BitVec.ofNat 64 (((List.range m.width).map fun i => if b.getLsbD i then 2 ^ (m.width - 1 - i) else 0).sum)
    (GivesInt (.andQ q) q.a false (fun x => (x.a &&& x.b, 0)) ∧
      GivesInt (.andW f) f.a w (fun x => (x.b &&& x.c, 0)) ∧ GivesInt (.andX f lit) f.a w (fun x => (x.b &&& l, 0))) ∧
    (GivesInt (.orQ q) q.a false (fun x => (x.a ||| x.b, 0)) ∧
      GivesInt (.orW f) f.a w (fun x => (x.b ||| x.c, 0)) ∧ GivesInt (.orX f lit) f.a w (fun x => (x.b ||| l, 0))) ∧
    (GivesInt (.xorQ q) q.a false (fun x => (x.a ^^^ x.b, 0)) ∧
      GivesInt (.xorW f) f.a w (fun x => (x.b ^^^ x.c, 0)) ∧ GivesInt (.xorX f lit) f.a w (fun x => (x.b ^^^ l, 0))) ∧
    (GivesInt (.andnQ q) q.a false (fun x => (x.a &&& ~~~x.b, 0)) ∧
      GivesInt (.andnW f) f.a w (fun x => (x.b &&& ~~~x.c, 0)) ∧
      GivesInt (.andnX f lit) f.a w (fun x => (x.b &&& ~~~l, 0))) ∧
    (GivesInt (.notQ q) q.a false (fun x => (~~~x.b, 0)) ∧ GivesInt (.notW f) f.a w (fun x => (~~~x.b, 0))) ∧
    (GivesInt (.iabsQ q) q.a false (fun x => p.narrow true (p.value true x.b).natAbs) ∧
      GivesInt (.iabsW f) f.a m.wide (fun x => m.narrow true (m.value true x.b).natAbs)) ∧
    (GivesInt (.popcQ q) q.a false (fun x => (ones p x.b, 0)) ∧
      GivesInt (.popcW f) f.a m.wide (fun x => (ones m x.b, 0))) ∧
    (GivesInt (.clzQ q) q.a false (fun x => (zeros p x.b, 0)) ∧
      GivesInt (.clzW f) f.a m.wide (fun x => (zeros m x.b, 0))) ∧
    GivesInt (.brevQ q) q.a false (fun x => (turned p x.b, 0)) ∧
    GivesInt (.brevW f) f.a m.wide (fun x => (turned m x.b, 0)) ∧
    (bit f.mod 1 = true → PerformsIllegal (.iabsW f)) ∧
    (bit f.mod 1 = true ∨ bit f.mod 2 = true →
      ∀ i ∈ [Instr.andW f, .andX f lit, .orW f, .orX f lit, .xorW f, .xorX f lit, .andnW f, .andnX f lit, .notW f,
        .popcW f, .clzW f, .brevW f], PerformsIllegal i)

/-- R230: the count is IMM9, or C mod width. SHL gives B × 2^k, wrapped or clamped; SHR shifts zeros in and SAR copies of
the top bit; ROT rotates to the left. IMM9 outside 0 to 31 performs ILLEGAL, and so do the signed and saturating bits but on
SHL. -/
def Obligations.ShiftResults : Prop :=
  ∀ (q : FormQI) (f : FormW),
    let p := plainMode
    let m := intMode f
    let k := q.imm.toNat
    let n := fun (x : LaneIn) => m.bitsOf x.c % m.width
    let shr := fun (m : IntMode) (b : DWord) (k : Nat) => BitVec.ofNat 64 (m.bitsOf b / 2 ^ k)
    let rot := fun (m : IntMode) (b : DWord) (k : Nat) =>
      BitVec.ofNat 64 ((m.bitsOf b * 2 ^ k) % 2 ^ m.width + m.bitsOf b / 2 ^ (m.width - k))
    (GivesInt (.shlQi q) q.a false (fun x => p.narrow false (p.value false x.a * 2 ^ k)) ∧
      GivesInt (.shlW f) f.a m.wide (fun x => m.narrow m.signed (m.value m.signed x.b * 2 ^ n x))) ∧
    (GivesInt (.shrQi q) q.a false (fun x => (shr p x.a k, 0)) ∧
      GivesInt (.shrW f) f.a m.wide (fun x => (shr m x.b (n x), 0))) ∧
    (GivesInt (.sarQi q) q.a false (fun x => (p.wrap (p.value true x.a / 2 ^ k), 0)) ∧
      GivesInt (.sarW f) f.a m.wide (fun x => (m.wrap (m.value true x.b / 2 ^ n x), 0))) ∧
    (GivesInt (.rotQi q) q.a false (fun x => (rot p x.a k, 0)) ∧
      GivesInt (.rotW f) f.a m.wide (fun x => (rot m x.b (n x), 0))) ∧
    (32 ≤ k → ∀ i ∈ [Instr.shlQi q, .shrQi q, .sarQi q, .rotQi q], PerformsIllegal i) ∧
    (bit f.mod 1 = true ∨ bit f.mod 2 = true → ∀ i ∈ [Instr.shrW f, .sarW f, .rotW f], PerformsIllegal i)

/-- R231, R232: BFX extracts the field that the control word names, BFI replaces it, and PRM8 selects bytes. The
saturating bit performs ILLEGAL on BFX and BFI, the signed bit on BFI, and the width bit on PRM8. -/
def Obligations.FieldAndByteResults : Prop :=
  ∀ (f : FormW) (lit : Word),
    let m := intMode f
    let l := lit.setWidth 64
    let pos := fun (c : DWord) => c.toNat % 256
    let len := fun (c : DWord) => min (c.toNat / 256 % 256) (m.width - pos c)
    let bfx := fun (b c : DWord) =>
      let v := m.bitsOf b / 2 ^ pos c % 2 ^ len c
      if m.width ≤ pos c ∨ len c = 0 then (0 : DWord)
      else m.wrap (if m.signed ∧ 2 ^ (len c - 1) ≤ v then (v : Int) - 2 ^ len c else v)
    let bfi := fun (b d c : DWord) =>
      if m.width ≤ pos c ∨ len c = 0 then b
      else BitVec.ofNat 64 (m.bitsOf b % 2 ^ pos c + d.toNat % 2 ^ len c * 2 ^ pos c +
        m.bitsOf b / 2 ^ (pos c + len c) * 2 ^ (pos c + len c))
    let pool := fun (b d : DWord) (k : Nat) =>
      if k < 4 then b.toNat / 2 ^ (8 * k) % 256 else d.toNat / 2 ^ (8 * (k - 4)) % 256
    let byte := fun (b c d : DWord) (k : Nat) =>
      let sel := c.toNat / 2 ^ (4 * k) % 16
      let v := pool b d (sel % 8)
      if 8 ≤ sel then (if 128 ≤ v then 255 else 0) else v
    let prm := fun (b c d : DWord) =>
      BitVec.ofNat 64 (byte b c d 0 + byte b c d 1 * 2 ^ 8 + byte b c d 2 * 2 ^ 16 + byte b c d 3 * 2 ^ 24)
    (GivesInt (.bfxW f) f.a m.wide (fun x => (bfx x.b x.c, 0)) ∧
      GivesInt (.bfxX f lit) f.a m.wide (fun x => (bfx x.b l, 0))) ∧
    (GivesInt (.bfiW f) f.a m.wide (fun x => (bfi x.b x.d x.c, 0)) ∧
      GivesInt (.bfiX f lit) f.a m.wide (fun x => (bfi x.b x.d l, 0))) ∧
    (GivesInt (.prm8W f) f.a false (fun x => (prm x.b x.c x.d, 0)) ∧
      GivesInt (.prm8X f lit) f.a false (fun x => (prm x.b l x.d, 0))) ∧
    (bit f.mod 2 = true → ∀ i ∈ [Instr.bfxW f, .bfxX f lit, .bfiW f, .bfiX f lit], PerformsIllegal i) ∧
    (bit f.mod 1 = true → ∀ i ∈ [Instr.bfiW f, .bfiX f lit], PerformsIllegal i) ∧
    (bit f.mod 0 = true → ∀ i ∈ [Instr.prm8W f, .prm8X f lit], PerformsIllegal i)

/-- R233 to R235: MOV copies; MOVI writes its immediate, or with `.hi` its low word above the low word of dA; LEA adds the
extended and scaled C to dB; SEL chooses by D. A MOD, SUB5 or MOD6 that their descriptions exclude performs ILLEGAL. -/
def Obligations.MoveResults : Prop :=
  ∀ (q : FormQ) (i : FormQI) (w : FormWI) (f : FormW) (lit : Word),
    let m := intMode f
    let l := litArg m lit
    let put := fun (hi : Bool) (a v : DWord) => if hi then pair (loWord a) (loWord v) else v
    let lea := fun (b : DWord) (c : Word) =>
      b + BitVec.ofInt 64 ((if bit f.mod 1 then c.toInt else (c.toNat : Int)) * 2 ^ fld f.mod 3 3)
    (GivesInt (.movQ q) q.a false (fun x => (x.b, 0)) ∧ GivesInt (.movW f) f.a m.wide (fun x => (x.b, 0))) ∧
    (GivesInt (.moviQi i) i.a false (fun _ => (i.imm.signExtend 64, 0)) ∧
      GivesInt (.moviWi w) w.a (bit w.mod 0) (fun x => (put (decide (w.sub = 1)) x.a (w.imm.signExtend 64), 0)) ∧
      GivesInt (.moviX f lit) f.a m.wide (fun x => (put (decide (f.sub = 1)) x.a l, 0))) ∧
    (GivesInt (.leaW f) f.a true (fun x => (lea x.b (loWord x.c), 0)) ∧
      GivesInt (.leaX f lit) f.a true (fun x => (lea x.b lit, 0))) ∧
    GivesInt (.sel f) f.a m.wide (fun x => (if loWord x.d ≠ 0 then x.b else x.c, 0)) ∧
    (bit w.mod 1 = true ∨ 2 ≤ w.sub.toNat ∨ w.sub = 1 ∧ bit w.mod 0 = false → PerformsIllegal (.moviWi w)) ∧
    (2 ≤ f.sub.toNat ∨ f.sub = 1 ∧ m.wide = false → PerformsIllegal (.moviX f lit)) ∧
    (bit f.mod 0 = false ∨ bit f.mod 2 = true → PerformsIllegal (.leaW f) ∧ PerformsIllegal (.leaX f lit)) ∧
    (bit f.mod 1 = true ∨ bit f.mod 2 = true → PerformsIllegal (.sel f))

/-- R236, and of R237 the result and the width bit: HADD2 and HMNX2 act on each 16-bit half; HMAXD2 keeps in each half
of A the greater of B and C, a tie giving B, and shifts the two decisions into D. The width bit performs ILLEGAL, and so does
LD on HMAXD2. -/
def Obligations.PackedIntegerResults : Prop :=
  ∀ (q : FormQ) (f : FormW),
    let half := fun (signed : Bool) (v : DWord) (h : Nat) =>
      let n : Int := (v.toNat / 2 ^ (16 * h) % 65536 : Nat)
      if signed ∧ 32768 ≤ n then n - 65536 else n
    let code := fun (v : Int) => (v % 65536).toNat
    let clamped := fun (m : IntMode) (v : Int) =>
      let lo : Int := if m.signed then -32768 else 0
      let hi : Int := if m.signed then 32767 else 65535
      (code (if m.sat then max lo (min hi v) else v), if m.sat ∧ ¬(lo ≤ v ∧ v ≤ hi) then flagSAT else 0)
    let both := fun (r : Nat → Nat × Flags) => (BitVec.ofNat 64 ((r 0).1 + (r 1).1 * 65536), (r 0).2 ||| (r 1).2)
    let add := fun (m : IntMode) (b c : DWord) => both fun h => clamped m (half m.signed b h + half m.signed c h)
    let mnx := fun (isMax signed : Bool) (b c : DWord) => both fun h =>
      (code (if isMax then max (half signed b h) (half signed c h) else min (half signed b h) (half signed c h)), 0)
    let dec := fun (b c : DWord) (h : Nat) => decide (half (bit f.mod 1) b h < half (bit f.mod 1) c h)
    let pick := fun (b c : DWord) (h : Nat) => (if dec b c h then c else b).toNat / 2 ^ (16 * h) % 65536
    (GivesInt (.hadd2Q q) q.a false (fun x => add plainMode x.a x.b) ∧
      GivesInt (.hadd2W f) f.a (intMode f).wide (fun x => add (intMode f) x.b x.c)) ∧
    (GivesInt (.hmnx2Q q) q.a false (fun x => mnx false false x.a x.b) ∧
      GivesInt (.hmnx2W f) f.a (intMode f).wide (fun x => mnx (bit f.mod 3) (intMode f).signed x.b x.c)) ∧
    (f.a ≠ f.d → f.a.toNat < 0xC0 → f.d.toNat < 0xC0 → f.ld = false →
      Gives (.hmaxd2 f)
        (fun x => [(f.a.toNat, BitVec.ofNat 32 (pick x.b x.c 0 + pick x.b x.c 1 * 65536)),
          (f.d.toNat, BitVec.ofNat 32 (x.d.toNat * 4 + (if dec x.b x.c 1 then 2 else 0) +
            (if dec x.b x.c 0 then 1 else 0)))])
        (fun _ => 0) fun _ => none) ∧
    (bit f.mod 0 = true → ∀ i ∈ [Instr.hadd2W f, .hmnx2W f, .hmaxd2 f], PerformsIllegal i) ∧
    (f.ld = true → PerformsIllegal (.hmaxd2 f))

/-! ### Comparisons and predicates (R238 to R241) -/

/-- R180, R238 to R240: ICMP and FCMP compare under the condition of SUB5 and combine the outcome with A as MOD6[5:4] says;
an unordered comparison holds for `.ne` and `.un` alone, and `.or` (7) is the opposite of `.un`; −0 equals +0. PLOG applies
its operation to the truth of its operands, PNOT negates, P2G and G2P move p1 to p7 to and from bits 1 to 7. A format,
condition, operation or operand that the descriptions exclude performs ILLEGAL, and so does a write of p0. -/
def Obligations.PredicateResults : Prop :=
  ∀ (q : FormQ) (f : FormW) (lit : Word),
    let fmt := fld f.mod 0 4
    let val := fun (c : Bool) => (if c then 1 else 0 : DWord)
    let k := f.sub.toNat
    let holds := fun (d : Int) =>
      if k = 0 then decide (d = 0)
      else if k = 1 then decide (d ≠ 0)
      else if k = 2 then decide (d < 0)
      else if k = 3 then decide (d ≤ 0)
      else if k = 4 then decide (0 < d)
      else decide (0 ≤ d)
    let join := fun (a : DWord) (c : Bool) =>
      if fld f.mod 4 2 = 0 then c
      else if fld f.mod 4 2 = 1 then c && decide (loWord a ≠ 0)
      else c || decide (loWord a ≠ 0)
    let int := fun (a b c : DWord) => val (join a (holds (decodeInt fmt b.toNat - decodeInt fmt c.toNat)))
    let fp := fun (x : LaneIn) (c : DWord) =>
      let y := decodeVal fmt x.b.toNat x.f.ftz
      let z := decodeVal fmt c.toNat x.f.ftz
      let un := decide (y = .nan) || decide (z = .nan)
      val (join x.a (
        if k = 1 then un || decide (fcompare y z ≠ 0)
        else if k = 6 then un
        else if k = 7 then !un
        else !un && holds (fcompare y z)))
    let t := fun (v : DWord) => decide (loWord v ≠ 0)
    let log := fun (b c d : Bool) =>
      if k = 0 then b && c
      else if k = 1 then b || c
      else if k = 2 then b != c
      else if k = 3 then b && !c
      else if k = 4 then b || !c
      else if k = 5 then !(b && c)
      else if k = 6 then !(b || c)
      else if k = 7 then b == c
      else if k = 8 then b && c && d
      else if k = 9 then b || c || d
      else if k = 10 then (b && c) || (b && d) || (c && d)
      else (b && c) || d
    GivesInt (.icmpW f) f.a false (fun x => (int x.a x.b x.c, 0)) ∧
    GivesInt (.icmpX f lit) f.a false
      (fun x => (int x.a x.b (if fmt = 7 then lit.signExtend 64 else lit.setWidth 64), 0)) ∧
    GivesInt (.fcmpW f) f.a false (fun x => (fp x x.c, 0)) ∧
    GivesInt (.fcmpX f lit) f.a false (fun x => (fp x (lit.setWidth 64), 0)) ∧
    GivesInt (.plog f) f.a false (fun x => (val (log (t x.b) (t x.c) (t x.d)), 0)) ∧
    GivesInt (.pnot q) q.a false (fun x => (val !t x.b, 0)) ∧
    GivesInt (.p2g q) q.a false (fun x =>
      (BitVec.ofNat 64 (1 + ((List.range 7).map fun i => if x.f.preds.getLsbD (i + 1) then 2 ^ (i + 1) else 0).sum), 0)) ∧
    Gives (.g2p q) (fun x => (List.range 7).map fun i => (0xD1 + i, if x.b.getLsbD (i + 1) then 1 else 0))
      (fun _ => 0) (fun _ => none) ∧
    (fld f.mod 4 2 = 3 ∨ f.a = 0xD0 → ∀ i ∈ [Instr.icmpW f, .icmpX f lit, .fcmpW f, .fcmpX f lit], PerformsIllegal i) ∧
    (8 ≤ fmt ∨ 6 ≤ k → PerformsIllegal (.icmpW f) ∧ PerformsIllegal (.icmpX f lit)) ∧
    (fmt < 11 ∨ 13 < fmt ∨ 8 ≤ k → PerformsIllegal (.fcmpW f) ∧ PerformsIllegal (.fcmpX f lit)) ∧
    (f.mod ≠ 0 ∨ 12 ≤ k ∨ k < 8 ∧ f.d ≠ 0 → PerformsIllegal (.plog f)) ∧
    (q.b ≠ 0 → PerformsIllegal (.p2g q)) ∧ (q.a ≠ 0 → PerformsIllegal (.g2p q))

/-! ### Floating point (R105 to R108, R279 to R287) -/

/-- R105, R107: a finite magnitude mant × 2^exp lies in [k, k + 1) quanta of 2^q, and goes up to k + 1 quanta exactly when
it is no whole number of quanta and the mode says so: the nearer one, or on a tie the even one; none towards zero; the
upper of a positive and the lower of a negative number in `.rup` and `.rdn`; in `.rsr`, with the draw u, as
u < floor((x − a) / q × 2^32) says of the neighbour b. A
finite value of a format is rounded to itself in every mode, and no flag is raised. -/
def Obligations.RoundingChoosesANeighbour : Prop :=
  (∀ (mant : Nat) (exp q : Int) (mode u : Nat) (neg : Bool), mode < 5 → u < 2 ^ 32 →
    let c := cutAt mant exp q
    let k := c.1
    let part : Rat := (c.2.1 : Rat) / 2 ^ c.2.2
    let up := roundUp mode u neg k c.2.1 c.2.2 false
    (mant : Rat) * 2 ^ exp = (k + part) * 2 ^ q ∧ 0 ≤ part ∧ part < 1 ∧
    (part = 0 → up = false) ∧
    (part ≠ 0 → (up = true ↔
      (mode = 0 ∧ (1 / 2 < part ∨ part = 1 / 2 ∧ k % 2 = 1)) ∨ (mode = 2 ∧ neg = false) ∨ (mode = 3 ∧ neg = true) ∨
      (mode = 4 ∧ if neg then ¬(u : Int) < ((1 - part) * 2 ^ 32).floor else (u : Int) < (part * 2 ^ 32).floor)))) ∧
  ∀ (fmt mode u code : Nat), 9 ≤ fmt → fmt ≤ 14 →
    let f := floatFmt fmt
    code % 2 ^ (f.m + f.eb) ≤ f.most → code < 2 ^ (f.m + f.eb + 1) →
    roundFloat fmt mode u false (decodeVal fmt code false) = (code, 0)

/-- R108, R279: FADD, FSUB, FMUL, FDIV, FMA and FSQRT round the exact result once, in the instruction's mode and type; FMA
keeps the NV of its product. -/
def Obligations.FloatArithmeticResults : Prop :=
  ∀ (q : FormQ) (f : FormW) (lit : Word),
    let fmt := fpFmt f
    let mode := fpMode f
    let down := decide (mode = 3)
    let l : DWord := lit.setWidth 64
    let v := fun (fmt : Nat) (x : LaneIn) (b : DWord) => decodeVal fmt b.toNat x.f.ftz
    let rnd := fun (fmt mode : Nat) (x : LaneIn) (r : FRes) => roundDraw fmt mode x.f.ftz x.f.seed r.2 r.1
    (GivesFp (.faddQ q) q.a false 0 (fun x => rnd 13 0 x (fadd false (v 13 x x.a) (v 13 x x.b))) ∧
      GivesFp (.faddW f) f.a false mode (fun x => rnd fmt mode x (fadd down (v fmt x x.b) (v fmt x x.c))) ∧
      GivesFp (.faddX f lit) f.a false mode (fun x => rnd fmt mode x (fadd down (v fmt x x.b) (v fmt x l)))) ∧
    (GivesFp (.fsubQ q) q.a false 0 (fun x => rnd 13 0 x (fadd false (v 13 x x.a) (v 13 x x.b).negate)) ∧
      GivesFp (.fsubW f) f.a false mode (fun x => rnd fmt mode x (fadd down (v fmt x x.b) (v fmt x x.c).negate)) ∧
      GivesFp (.fsubX f lit) f.a false mode (fun x => rnd fmt mode x (fadd down (v fmt x x.b) (v fmt x l).negate))) ∧
    (GivesFp (.fmulQ q) q.a false 0 (fun x => rnd 13 0 x (fmul (v 13 x x.a) (v 13 x x.b))) ∧
      GivesFp (.fmulW f) f.a false mode (fun x => rnd fmt mode x (fmul (v fmt x x.b) (v fmt x x.c))) ∧
      GivesFp (.fmulX f lit) f.a false mode (fun x => rnd fmt mode x (fmul (v fmt x x.b) (v fmt x l)))) ∧
    (GivesFp (.fdivQ q) q.a false 0 (fun x => rnd 13 0 x (fdiv (v 13 x x.a) (v 13 x x.b))) ∧
      GivesFp (.fdivW f) f.a false mode (fun x => rnd fmt mode x (fdiv (v fmt x x.b) (v fmt x x.c))) ∧
      GivesFp (.fdivX f lit) f.a false mode (fun x => rnd fmt mode x (fdiv (v fmt x x.b) (v fmt x l)))) ∧
    (GivesFp (.fmaW f) f.a false mode (fun x =>
        let p := fmul (v fmt x x.b) (v fmt x x.c)
        let r := fadd down (if bit f.mod 2 then p.1.negate else p.1) (v fmt x x.d)
        rnd fmt mode x (r.1, p.2 ||| r.2)) ∧
      GivesFp (.fmaX f lit) f.a false mode (fun x =>
        let p := fmul (v fmt x x.b) (v fmt x l)
        let r := fadd down (if bit f.mod 2 then p.1.negate else p.1) (v fmt x x.d)
        rnd fmt mode x (r.1, p.2 ||| r.2))) ∧
    GivesFp (.fsqrtQ q) q.a false 0 (fun x => rnd 13 0 x (fsqrt (v 13 x x.b))) ∧
    GivesFp (.fsqrtW f) f.a false mode (fun x => rnd fmt mode x (fsqrt (v fmt x x.b)))

/-- R108: the sum, product and quotient that are rounded are exact: of finite operands they have the value of the sum and of
the product, the quotient lies within one part in 2^159 below the true one, and is exact where nothing is left over; a
square root is exact or lies below the true one by less than its last place. -/
def Obligations.FloatOperationsAreExact : Prop :=
  let val := fun (neg : Bool) (m : Nat) (e : Int) => (if neg then -1 else 1 : Rat) * m * 2 ^ e
  ∀ (na nb down : Bool) (ma mb : Nat) (ea eb : Int),
    (∃ n m e, fadd down (.fin na ma ea false) (.fin nb mb eb false) = (.fin n m e false, 0) ∧
      val n m e = val na ma ea + val nb mb eb) ∧
    (∃ n m e, fmul (.fin na ma ea false) (.fin nb mb eb false) = (.fin n m e false, 0) ∧
      val n m e = val na ma ea * val nb mb eb) ∧
    (0 < ma → 0 < mb → ∃ m e more, fdiv (.fin na ma ea false) (.fin nb mb eb false) = (.fin (na != nb) m e more, 0) ∧
      2 ^ 159 ≤ m ∧ val false m e ≤ val false ma ea / val false mb eb ∧
      val false ma ea / val false mb eb < val false (m + 1) e ∧
      (more = false ↔ val false m e = val false ma ea / val false mb eb)) ∧
    (0 < ma → ∃ m e more, fsqrt (.fin false ma ea false) = (.fin false m e more, 0) ∧
      val false m e * val false m e ≤ val false ma ea ∧
      val false ma ea < val false (m + 1) e * val false (m + 1) e ∧
      (more = false ↔ val false m e * val false m e = val false ma ea))

/-- R280: the special functions complete with the value of their function rounded in the instruction's mode, which is to nearest
and even. Special operands give the results and flags of its table; where the exact result is representable the value kept is that
result, with the signs of zero that R280 gives; in every other case it goes on below its last bit, and its rounding raises NX. For
an operand of a format the value kept lies within the bounds of the table of R280 of the true one: one ulp, two ulp, or 2^−22
(an ulp is at least 2^−24 of a value). That it is kept to 2^−300 is the model’s choice, log entry 12. -/
def Obligations.SpecialFunctionResults : Prop :=
  (∀ (q : FormQ) (f : FormW),
    let fmt := fpFmt f
    let mode := fpMode f
    let v := fun (fmt : Nat) (x : LaneIn) => decodeVal fmt x.b.toNat x.f.ftz
    let rnd := fun (fmt mode : Nat) (x : LaneIn) (r : FRes) => roundDraw fmt mode x.f.ftz x.f.seed r.2 r.1
    (GivesFp (.frcpQ q) q.a false 0 (fun x => rnd 13 0 x (frcp (v 13 x))) ∧
      GivesFp (.frcpW f) f.a false mode (fun x => rnd fmt mode x (frcp (v fmt x)))) ∧
    (GivesFp (.frsqQ q) q.a false 0 (fun x => rnd 13 0 x (frsqrt (v 13 x))) ∧
      GivesFp (.frsqW f) f.a false mode (fun x => rnd fmt mode x (frsqrt (v fmt x)))) ∧
    (GivesFp (.fexp2Q q) q.a false 0 (fun x => rnd 13 0 x (fexp2 (v 13 x))) ∧
      GivesFp (.fexp2W f) f.a false mode (fun x => rnd fmt mode x (fexp2 (v fmt x)))) ∧
    (GivesFp (.flog2Q q) q.a false 0 (fun x => rnd 13 0 x (flog2 (v 13 x))) ∧
      GivesFp (.flog2W f) f.a false mode (fun x => rnd fmt mode x (flog2 (v fmt x)))) ∧
    (GivesFp (.fsinQ q) q.a false 0 (fun x => rnd 13 0 x (fsinpi (v 13 x))) ∧
      GivesFp (.fsinW f) f.a false mode (fun x => rnd fmt mode x (fsinpi (v fmt x)))) ∧
    (GivesFp (.fcosQ q) q.a false 0 (fun x => rnd 13 0 x (fcospi (v 13 x))) ∧
      GivesFp (.fcosW f) f.a false mode (fun x => rnd fmt mode x (fcospi (v fmt x)))) ∧
    (GivesFp (.ftanhQ q) q.a false 0 (fun x => rnd 13 0 x (ftanh (v 13 x))) ∧
      GivesFp (.ftanhW f) f.a false mode (fun x => rnd fmt mode x (ftanh (v fmt x))))) ∧
  (∀ n : Bool,
    let zero := FVal.fin n 0 0 false
    let inf := FVal.inf n
    let nv := fun (r : FRes) => if n then (FVal.nan, flagNV) else r
    let one := fun (r : FRes) => ∃ m e, r = (.fin false m e false, 0) ∧ (m : Rat) * 2 ^ e = 1
    frcp zero = (.inf n, flagDZ) ∧ frcp inf = (.fin n 0 0 false, 0) ∧ frsqrt zero = (.inf n, flagDZ) ∧
    frsqrt inf = nv (.fin false 0 0 false, 0) ∧ fsqrt zero = (zero, 0) ∧ fsqrt inf = nv (.inf false, 0) ∧
    one (fexp2 zero) ∧ fexp2 inf = (if n then .fin false 0 0 false else .inf false, 0) ∧
    flog2 zero = (.inf true, flagDZ) ∧ flog2 inf = nv (.inf false, 0) ∧ fsinpi zero = (zero, 0) ∧ fsinpi inf = (.nan, 0) ∧
    one (fcospi zero) ∧ fcospi inf = (.nan, 0) ∧ ftanh zero = (zero, 0) ∧ ftanh inf = (.fin n 1 0 false, 0)) ∧
  (∀ f ∈ [frcp, frsqrt, fsqrt, fexp2, flog2, fsinpi, fcospi, ftanh], f .nan = (.nan, 0)) ∧
  (∀ f ∈ [frsqrt, fsqrt, flog2], ∀ m e more, 0 < m → f (.fin true m e more) = (.nan, flagNV)) ∧
  (∀ (n : Bool) (m : Nat) (e : Int), 0 < m →
    let v := FVal.fin n m e false
    let size : Rat := (m : Rat) * 2 ^ e
    let gives := fun (r : FRes) (n' : Bool) (y : Rat) =>
      ∃ m' e', r = (.fin n' m' e' false, 0) ∧ (m' : Rat) * 2 ^ e' = y
    (∀ k : Int, size = 2 ^ k → gives (frcp v) n (2 ^ (-k))) ∧
    (∀ k : Int, n = false → size = 4 ^ k → gives (frsqrt v) false (2 ^ (-k))) ∧
    (∀ k : Nat, k < 4096 → size = k → gives (fexp2 v) false (2 ^ (if n then -(k : Int) else k))) ∧
    (∀ k : Int, n = false → size = 2 ^ k → gives (flog2 v) (decide (k < 0)) k.natAbs) ∧
    (∀ k : Nat, size = k → fsinpi v = (.fin n 0 0 false, 0) ∧ gives (fcospi v) (decide (k % 2 = 1)) 1) ∧
    (∀ k : Nat, size = k + 1 / 2 → gives (fsinpi v) (n != decide (k % 2 = 1)) 1 ∧ fcospi v = (.fin false 0 0 false, 0))) ∧
  (∀ (fmt mode u m : Nat) (ftz n : Bool) (e : Int), (roundFloat fmt mode u ftz (.fin n m e true)).2 &&& flagNX = flagNX) ∧
  ∀ (fmt code m : Nat) (ftz n : Bool) (e : Int), fmt ∈ [11, 12, 13] → decodeVal fmt code ftz = .fin n m e false → 0 < m →
    let v := FVal.fin n m e false
    let size : ℝ := (m : ℝ) * 2 ^ e
    let b : ℝ := (if n then -1 else 1) * size
    let near := fun (r : FRes) (exact : Prop) (y d : ℝ) => ∃ n' m' e' more, r = (.fin n' m' e' more, 0) ∧
      (more = false ↔ exact) ∧ |(if n' then -1 else 1) * (m' : ℝ) * 2 ^ e' - y| ≤ d
    near (frcp v) (∃ k : Int, size = 2 ^ k) b⁻¹ (|b⁻¹| / 2 ^ 24) ∧
    (n = false → near (frsqrt v) (∃ k : Int, size = 4 ^ k) (√b)⁻¹ ((√b)⁻¹ / 2 ^ 24)) ∧
    (size < 4096 → near (fexp2 v) (∃ k : Nat, size = k) ((2 : ℝ) ^ b) ((2 : ℝ) ^ b / 2 ^ 23)) ∧
    (4096 ≤ size → fexp2 v = (.fin false 1 (if n then -4096 else 4096) true, 0)) ∧
    (n = false → near (flog2 v) (∃ k : Int, size = 2 ^ k) (Real.logb 2 b) (|Real.logb 2 b| / 2 ^ 23)) ∧
    near (fsinpi v) (∃ k : Nat, 2 * size = k) (Real.sin (Real.pi * b)) (1 / 2 ^ 22) ∧
    near (fcospi v) (∃ k : Nat, 2 * size = k) (Real.cos (Real.pi * b)) (1 / 2 ^ 22) ∧
    near (ftanh v) False (Real.tanh b) (|Real.tanh b| / 2 ^ 23)

/-- R281 to R285: FMIN and FMAX select by the order that puts −0 below +0 and by their NaN rule; FMOV turns signs; FRND
gives an integral value; FCLASS a class mask; FSCALE scales by a power of two and rounds once. SUB5 4 to 31 performs ILLEGAL
on FMOV. -/
def Obligations.FloatSelectionResults : Prop :=
  ∀ (q : FormQ) (f : FormW) (lit : Word),
    let fmt := fpFmt f
    let mode := fpMode f
    let l : DWord := lit.setWidth 64
    let v := fun (fmt : Nat) (x : LaneIn) (b : DWord) => decodeVal fmt b.toNat x.f.ftz
    let code := fun (fmt : Nat) (y : FVal) => BitVec.ofNat 64 (roundFloat fmt 0 0 false y).1
    let before := fun (a b : FVal) => decide (fcompare a b < 0) || (decide (fcompare a b = 0) && a.neg && !b.neg)
    let pick := fun (isMax strict : Bool) (a b : FVal) =>
      if a = .nan ∧ b = .nan then .nan
      else if a = .nan then (if strict then .nan else b)
      else if b = .nan then (if strict then .nan else a)
      else if before a b = isMax then b else a
    let sign := fun (k : Nat) (y : FVal) =>
      if k = 0 then y else if k = 1 then y.negate else if k = 2 then y.abs else y.abs.negate
    let strict := bit f.mod 2
    let scaled := fun (y : FVal) (n : Word) => y.scale (max (-2000) (min 2000 n.toInt))
    let rnd := fun (fmt mode : Nat) (x : LaneIn) (y : FVal) => roundDraw fmt mode x.f.ftz x.f.seed 0 y
    let size := if fmt = 13 then (23, 8) else if fmt = 11 then (7, 8) else (10, 5)
    GivesInt (.fminQ q) q.a false (fun x => (code 13 (pick false false (v 13 x x.a) (v 13 x x.b)), 0)) ∧
    GivesInt (.fminW f) f.a false (fun x => (code fmt (pick false strict (v fmt x x.b) (v fmt x x.c)), 0)) ∧
    GivesInt (.fminX f lit) f.a false (fun x => (code fmt (pick false strict (v fmt x x.b) (v fmt x l)), 0)) ∧
    GivesInt (.fmaxQ q) q.a false (fun x => (code 13 (pick true false (v 13 x x.a) (v 13 x x.b)), 0)) ∧
    GivesInt (.fmaxW f) f.a false (fun x => (code fmt (pick true strict (v fmt x x.b) (v fmt x x.c)), 0)) ∧
    GivesInt (.fmaxX f lit) f.a false (fun x => (code fmt (pick true strict (v fmt x x.b) (v fmt x l)), 0)) ∧
    GivesInt (.fmovQ q) q.a false (fun x => (code 13 (v 13 x x.b), 0)) ∧
    GivesInt (.fmovW f) f.a false (fun x => (code fmt (sign f.sub.toNat (v fmt x x.b)), 0)) ∧
    GivesFp (.frndQ q) q.a false 0 (fun x => frnd 13 0 x (v 13 x x.b)) ∧
    GivesFp (.frndW f) f.a false mode (fun x => frnd fmt mode x (v fmt x x.b)) ∧
    GivesInt (.fclassQ q) q.a false (fun x => (BitVec.ofNat 64 (2 ^ classBit 23 8 x.b.toNat), 0)) ∧
    GivesInt (.fclassW f) f.a false (fun x => (BitVec.ofNat 64 (2 ^ classBit size.1 size.2 x.b.toNat), 0)) ∧
    GivesFp (.fscaleQ q) q.a false 0 (fun x => rnd 13 0 x (scaled (v 13 x x.a) (loWord x.b))) ∧
    GivesFp (.fscaleW f) f.a false mode (fun x => rnd fmt mode x (scaled (v fmt x x.b) (loWord x.c))) ∧
    GivesFp (.fscaleX f lit) f.a false mode (fun x => rnd fmt mode x (scaled (v fmt x x.b) lit)) ∧
    (4 ≤ f.sub.toNat → PerformsIllegal (.fmovW f))

/-- R286, R287: the packed instructions compute each half on its own, the low half drawing first and the flags of both
joined, and type 0 performs ILLEGAL; the dot instructions round D plus the exact sum of the scaled products once. -/
def Obligations.PackedFloatResults : Prop :=
  ∀ (q : FormQ) (f : FormW),
    let fmt := fpFmt f
    let mode := fpMode f
    let down := decide (mode = 3)
    let half := fun (fmt : Nat) (x : LaneIn) (b : DWord) (h : Nat) =>
      decodeVal fmt (b.toNat / 2 ^ (16 * h)) x.f.ftz
    let both := fun (fmt mode : Nat) (x : LaneIn) (r : Nat → FRes) =>
      let lo := roundDraw fmt mode x.f.ftz x.f.seed (r 0).2 (r 0).1
      let hi := roundDraw fmt mode x.f.ftz lo.seed (r 1).2 (r 1).1
      ({ code := lo.code + hi.code * 2 ^ 16, seed := hi.seed, flags := lo.flags ||| hi.flags } : FpOut)
    let fma := fun (x : LaneIn) (h : Nat) =>
      let p := fmul (half fmt x x.b h) (half fmt x x.c h)
      let r := fadd down (if bit f.mod 2 then p.1.negate else p.1) (half fmt x x.d h)
      (r.1, p.2 ||| r.2)
    let scale := fun (v : DWord) (n : Nat) => v.toNat / 2 ^ (32 + 8 * n) % 256
    let dot := fun (fb fc n w : Nat) (x : LaneIn) =>
      let sb := scale x.b (fld f.mod 0 2)
      let sc := scale x.c (fld f.mod 2 2)
      let el := fun (v : DWord) (i : Nat) => v.toNat / 2 ^ (w * i) % 2 ^ w
      let ts := (List.range n).map fun i =>
        fmul (blockValue fb (el x.b i) sb 0) (blockValue fc (el x.c i) sc 0)
      let r := dotSum (decide (f.sub.toNat = 3)) (decodeVal 13 x.d.toNat x.f.ftz) ts
      let nv : Flags := if blockInvalid fb sb ∨ blockInvalid fc sc then flagNV else 0
      roundDraw 13 f.sub.toNat x.f.ftz x.f.seed (r.2 ||| nv) r.1
    (GivesFp (.hfadd2Q q) q.a false 0
        (fun x => both 12 0 x fun h => fadd false (half 12 x x.a h) (half 12 x x.b h)) ∧
      GivesFp (.hfadd2W f) f.a false mode
        (fun x => both fmt mode x fun h => fadd down (half fmt x x.b h) (half fmt x x.c h))) ∧
    (GivesFp (.hfmul2Q q) q.a false 0
        (fun x => both 12 0 x fun h => fmul (half 12 x x.a h) (half 12 x x.b h)) ∧
      GivesFp (.hfmul2W f) f.a false mode
        (fun x => both fmt mode x fun h => fmul (half fmt x x.b h) (half fmt x x.c h))) ∧
    GivesFp (.hfma2 f) f.a false mode (fun x => both fmt mode x (fma x)) ∧
    (fld f.mod 0 2 = 0 → ∀ i ∈ [Instr.hfadd2W f, .hfmul2W f, .hfma2 f], PerformsIllegal i) ∧
    (f.b.toNat < 0xC0 → f.c.toNat < 0xC0 →
      GivesFp (.dot4f8 f) f.a false f.sub.toNat
        (dot (if bit f.mod 4 then 10 else 9) (if bit f.mod 5 then 10 else 9) 4 8) ∧
      GivesFp (.dot8f4 f) f.a false f.sub.toNat (dot 8 8 8 4))

/-- R244 to R248: CVT rounds the value of B to the destination format; CVTPK converts B and then C and packs them; QPACK
encodes the block of its 32 values and QUNPK decodes one under its side word; SCALEX converts between FP32 and a block
scale. -/
def Obligations.ConversionResults : Prop :=
  ∀ (f : FormW),
    let src := cvSrc f
    let dst := cvDst f
    let mode := cvRnd f
    let cvt := fun (x : LaneIn) (seed : Word) (b : DWord) =>
      roundDraw dst mode x.f.ftz seed 0 (decodeVal src b.toNat x.f.ftz)
    let w := if dst = 8 then 4 else if dst = 0 ∨ dst = 4 ∨ dst = 9 ∨ dst = 10 then 8 else 16
    let bits := if dst = 8 then 4 else 8
    let from_ := if src = 8 then 4 else 8
    let seedOf := fun (s : Word) => if mode = 4 then some s else none
    GivesFp (.cvt f) f.a (wide64 dst) mode (fun x => cvt x x.f.seed x.b) ∧
    (dst ∈ [0, 1, 4, 5, 8, 9, 10, 11, 12] →
      GivesFp (.cvtpk f) f.a false mode (fun x =>
        let y := cvt x x.f.seed x.b
        let z := cvt x y.seed x.c
        let old := if w = 16 then 0 else (loWord x.a).toNat * 2 ^ (2 * w) % 2 ^ 32
        { code := old + z.code % 2 ^ w * 2 ^ w + y.code % 2 ^ w, seed := z.seed, flags := y.flags ||| z.flags })) ∧
    (f.a.toNat + bits ≤ 128 → f.b.toNat + (if src = 13 then 32 else 16) ≤ 128 → f.d.toNat < 0xC0 →
      (f.d.toNat < f.a.toNat ∨ f.a.toNat + bits ≤ f.d.toNat) → (dst = 8 ∨ dst = 9 ∨ dst = 10) →
      let enc := fun (x : LaneIn) => encodeBlock dst mode x.f.seed (blockValues src x.f.ftz x.run)
      Gives (.qpack f)
        (fun x => (upto f.a.toNat bits).zip (packCodes bits (enc x).codes) ++
          [(f.d.toNat, BitVec.ofNat 32 ((enc x).scale + (enc x).extra * 256))])
        (fun x => (enc x).flags) fun x => seedOf (enc x).seed) ∧
    (f.a.toNat + (if dst = 13 then 32 else 16) ≤ 128 → f.b.toNat + from_ ≤ 128 → f.c.toNat < 0xC0 →
      (f.c.toNat < f.a.toNat ∨ f.a.toNat + (if dst = 13 then 32 else 16) ≤ f.c.toNat) →
      let dec := fun (x : LaneIn) =>
        let scale := x.c.toNat % 256
        roundElements dst mode x.f.ftz x.f.seed ((List.range 32).map fun i =>
          blockValue src (elementAt from_ x.run i) scale (x.c.toNat / 256 % 256))
      Gives (.qunpk f)
        (fun x => (upto f.a.toNat (if dst = 13 then 32 else 16)).zip (packCodes (if dst = 13 then 32 else 16) (dec x).1))
        (fun x => (dec x).2.2 ||| if blockInvalid src (x.c.toNat % 256) then flagNV else 0)
        fun x => seedOf (dec x).2.1) ∧
    (src = 13 → GivesInt (.scalex f) f.a false (fun x =>
      let r := scaleOf dst (decodeVal 13 x.b.toNat x.f.ftz)
      (BitVec.ofNat 64 r.1, r.2))) ∧
    (src ≠ 13 → GivesInt (.scalex f) f.a false (fun x =>
      let r := scaleValue src (x.b.toNat % 256) x.f.ftz
      (BitVec.ofNat 64 r.1, r.2)))

/-! ### Steps, encodings, reset and storage -/

/-- R155, R182: where the agenda names a gang, or is empty and the gang is the first that may issue, the step executes the
instruction that the bytes at the gang's PC decode to, with the gang as the current one and nothing else changed. A tick
or an event of the agenda is one step too (assumption 1), and the arbitration that a crew's retiring asks for comes before it
(R64; assumption 27). R182, R196, R136: where the handle is not valid, the PC lies outside the text, or the bytes are no instruction,
the step makes the lane perform ILLEGAL, and SOFT_ERROR where a line of the instruction is poisoned, at its own PC. -/
def Obligations.StepRunsTheDecodedInstruction : Prop :=
  (∀ s : State, s.sched.retired = true → step s = .next s.arbitrateRetired) ∧
  (∀ (s : State) (gid lane index : Nat) (g : Gang) (f : Fibre), s.sched.retired = false →
    s.gangs.find gid = some g → s.mayIssue g = true → g.members = [(lane, index)] → f.state = .issuing →
    let key := fibreKey g.core index
    s.fibres.find key = some f →
    let entry := s.codeOf f.tenant f.pc.handle
    let fails := fun (tag a : Nat) (info : DWord) =>
      let e := effectOf (s.ownPc f) tag (BitVec.ofNat 64 a) info
      let u := ((s.chargeStep g (g.runLen + 1)).perform key e).maskedKill key
      s.agenda.head? = some (.issue gid) ∨ (s.agenda = [] ∧ s.nextGang = some gid) →
        ∃ s', step s = .next s' ∧ Same u s' ∧ SameQ u s'
    (entry = none → fails 12 0 0) ∧
    ∀ e, entry = some e →
      let p := e.place (f.pc.current e)
      let outside := p.2.2 % 4 ≠ 0 ∨ p.2.1 ≤ p.2.2
      let found := decode (s.store.phys.readBytes (p.1 + p.2.2) (min 12 (p.2.1 - p.2.2)))
      (outside → fails 12 0 0) ∧
      (¬outside → ∀ n, (found.toOption.map Prod.snd).getD 1 = n →
        (∀ a, s.poisonedAt (p.1 + p.2.2) (4 * n) = some a → fails 18 a 0xFFFFFFFF) ∧
        (s.poisonedAt (p.1 + p.2.2) (4 * n) = none → found.toOption = none → fails 12 0 0))) ∧
  ∀ (s : State) (gid : Nat) (g : Gang) (m : Nat × Nat) (rest : List (Nat × Nat)) (f : Fibre) (e : CodeEntry) (i : Instr)
    (n : Nat), s.sched.retired = false →
    s.gangs.find gid = some g → s.mayIssue g = true → g.members = m :: rest →
    s.fibres.find (fibreKey g.core m.2) = some f → s.codeOf f.tenant f.pc.handle = some e →
    let p := e.place (f.pc.current e)
    p.2.2 % 4 = 0 → p.2.2 < p.2.1 →
    decode (s.store.phys.readBytes (p.1 + p.2.2) (min 12 (p.2.1 - p.2.2))) = .ok (i, n) →
    s.poisonedAt (p.1 + p.2.2) (4 * n) = none →
    (∀ acts, s.agenda = .issue gid :: acts → step s = exec i { s with agenda := acts, cur := gid }) ∧
    (s.agenda = [] → s.nextGang = some gid → step s = exec i { s with cur := gid }) ∧
    (∀ acts k, s.agenda = .tick k :: acts → step s = .next (State.tick { s with agenda := acts } k)) ∧
    (∀ acts j, s.agenda = .event j :: acts → j.form = none → step s = exec j { s with agenda := acts })

/-- R155 to R162, R179: words written out from the formats decode to the instructions that they stand for. -/
def Obligations.WordsDecodeAsTheFormatsSay : Prop :=
  let w := fun (b lo hi : Nat) => decodeTableWord b (lo + hi * 2 ^ 32)
  let h : Header := { pred := 0, rb := 0 }
  let z : FormW := { hdr := h, a := 0, b := 0, c := 0, d := 0, lb := false, lc := false, ld := false, tb := false,
                     tc := false, td := false, mod := 0, sub := 0 }
  w 64 0x02019009 0x00000005 = some (.iaddW { z with hdr := { pred := 0, rb := 2 }, a := 3, b := 4, c := 5 }) ∧
  w 32 0x01839780 0 = some (.shlQi { hdr := h, a := 7, imm := 3 }) ∧
  w 64 0x42E8A001 0x004000D8 =
    some (.icmpW { z with a := 0xD1, b := 0x85, c := 0xD8, mod := 2 }) ∧
  w 32 0xFFFE0098 0 = some (.braQb { hdr := { pred := 1, rb := 2 }, off := 0xFFFE, spare := false }) ∧
  w 64 0x00000105 0x10000010 =
    some (.call { hdr := { pred := 0, rb := 1 }, a := 0, b := 0, lb := false, imm := 0x10, mod := 0, sub := 2 }) ∧
  w 96 0x02019002 (0x000186A0 * 2 ^ 32) = some (.iaddX { z with a := 3, b := 4 } 0x000186A0) ∧
  w 64 0x00004281 0x00000001 =
    some (.waitc { hdr := h, a := 0, b := 0, lb := false, imm := 1, mod := 0, sub := 0 }) ∧
  w 64 0x02006001 0x10000000 = some (.pset { z with b := 4, sub := 2 }) ∧
  w 64 0x6C047001 0x00000100 =
    some (.srd { hdr := h, a := 8, b := 0xD8, lb := false, imm := 0x100, mod := 0, sub := 0 }) ∧
  w 64 0x0C007281 0 = some (.npost { z with b := 0x18 }) ∧
  decodeTableWord 32 3 = none

/-- R155 to R162, R179: the encoding of every well-formed instruction decodes to it and its length, whatever follows. -/
def Obligations.EncodingsDecode : Prop :=
  ∀ (i : Instr) (rest : List Byte), i.form.isSome = true → i.wellFormed = true →
    decode (encodeBytes i ++ rest) = .ok (i, (encode i).length)

/-- R155, R182: bytes that decode are the encoding of a well-formed instruction, so that an instruction has one encoding
and reserved encodings have none. -/
def Obligations.DecodedBytesAreAnEncoding : Prop :=
  ∀ (bytes : List Byte) (i : Instr) (n : Nat), decode bytes = .ok (i, n) →
    i.wellFormed = true ∧ i.form.isSome = true ∧ (encode i).length = n ∧ bytes.take (4 * n) = encodeBytes i

/-- R370, R49, R129, R8, R103: what the specification says of the machine after a cold reset: GTC 0, RSEQ 1 in every core, the
clerk at descriptor 4095 of every core and no other fibre, FSR at its reset value, no sealed or placed code, no launch,
no crew, and every register of the core, management and BAR 0 maps at the reset value of its map, which is 0 but for the
registers that are named here. That a vector is masked then is the family's value, log entry 8. -/
def Obligations.ResetValues : Prop :=
  let s := State.reset
  s.gtc = 0 ∧ (∀ c, (s.unit c).rseq = 1) ∧
  (∀ k f, s.fibres.find k = some f → k % 4096 = 4095 ∧ k / 4096 < 256 ∧ f.tenant = 0 ∧ f.fsr = 0x9E3779B900000000) ∧
  (∀ c, c < 256 → (s.fibres.find (c * 4096 + 4095)).isSome = true) ∧
  s.code = [] ∧ s.sched.launches = [] ∧ s.sched.crews = [] ∧ s.gangs = [] ∧ s.engine = [] ∧ s.plat.activeController = 0 ∧
  (∀ core off, s.coreReg core off = resetValue (coreFields off) ∧
    s.coreReg core off =
      if off = 0x100 then 8192 * 2 ^ 32 + 8 * 2 ^ 16 + 256
      else if off = 0x110 then 2 * 2 ^ 24 + 22
      else if off = 0x128 then 0x1F
      else 0) ∧
  (∀ off, s.readMgmt off = resetValue (mgmtFields off) ∧
    s.readMgmt off =
      if off = 0x1F00 then 11000 * 2 ^ 32 + 10 * 2 ^ 16 + 2
      else if off = 0x1F08 then 2 * 2 ^ 32 + 100 * 2 ^ 16 + 5
      else if 0x2000 ≤ off ∧ off < 0x2810 ∧ off % 0x10 = 0 then 2 ^ 48
      else if 0x3000 ≤ off ∧ off < 0x3800 ∧ off % 0x100 = 0 then 2000 * 2 ^ 32 + 4096 * 2 ^ 16 + 1024
      else if off = 0x4000 ∨ off = 0x5000 then 1000 * 2 ^ 32 + 20 * 2 ^ 16 + 3
      else if 0x4000 ≤ off ∧ off < 0x6000 ∧ off % 8 = 0 ∧ 0x20 ≤ off % 0x1000 ∧ off % 0x1000 < 0x60 then 3 * 2 ^ 4 + 1
      else if off = 0x7000 then 1000 * 2 ^ 32
      else if off = 0x7020 then 1024
      else if off = 0x7200 then 100 * 2 ^ 32 + 4 * 2 ^ 16 + 10000
      else 0) ∧
  ∀ vf off, off < 0x400000 → s.readBar0 vf off = resetValue (bar0Fields vf off) ∧
    s.readBar0 vf off =
      if 0x10000 ≤ off ∧ off < 0x11000 ∧ off % 0x40 = 8 then
        7 * 2 ^ 12 + 3 * 2 ^ 9 + 6 + (if vf = 0 ∧ 0x10F00 ≤ off then 2 ^ 11 else 0)
      else if 0x20000 ≤ off ∧ off < 0x21000 ∧ off % 16 = 8 then 2 ^ 32
      else 0

/-- R4: bytes that are written are read back, other addresses read as before, and wider values stand with their least
significant byte at the lowest address. The storage is in the model's canonical form at reset, and two memories in that form
that read alike are the same data. That unwritten bytes read 0 is the model’s choice, log entry 4. -/
def Obligations.BytesReadBack : Prop :=
  (∀ (m : Memory) (a : Nat) (b : List Byte), m.wf = true →
    (m.writeBytes a b).wf = true ∧ (m.writeBytes a b).readBytes a b.length = b ∧
    (∀ x, x < a ∨ a + b.length ≤ x → (m.writeBytes a b).read x = m.read x) ∧
    (∀ v n, v < 256 ^ n → ofBytes (toBytes v n) = v) ∧
    ∀ v n k, k < n → (toBytes v n).getD k 0 = BitVec.ofNat 8 (v / 256 ^ k)) ∧
  storageOk State.reset = true ∧
  ∀ m m' : Memory, m.wf = true → m'.wf = true → (∀ a, m.read a = m'.read a) → m = m'

/-- R164 to R167, R27, R23, R24: a source reads its register, the word of its pair or both, its predicate, its special value or
its literal; the words of `.zero`, alone or as a pair, and of absent operands are 0; reading registers changes nothing but
bookkeeping. R169, R274 to R276: a q register gives its head word and loses it, and each further reading by the lane the next one;
where a word is a neighbour's, the core's SHARED leases go; an instruction that finds no word waits, or under T = 1 performs EMPTY
(what becomes of it then, GuardsAndSourcesComeFirst says). -/
def Obligations.SourcesReadTheirRegisters : Prop :=
  (∀ s i t, Ready s i t →
    let f := t.fibre
    let core := t.gang.core
    let read := fun (o : Operand) (v : DWord) =>
      ∀ l, f.loc o.code.toNat = some l → (s.cell l).lastUsed = false →
        (o.slot = .src false ∨ o.slot = .upd false → v = ((s.cell l).val).setWidth 64) ∧
        ∀ h, f.loc (o.code.toNat + 1) = some h → (s.cell h).lastUsed = false →
          (o.slot = .src true ∨ o.slot = .upd true → v = pair (s.cell l).val (s.cell h).val)
    let launch := s.sched.launches.find f.launch
    let bound := fun (r : LaunchRecord) (n : Nat) => (r.widths.take n).sum
    let id := f.workId.toNat
    let word := fun (c : Nat) =>
      if c = 0xD0 then some 1
      else if c < 0xD8 then some (if f.preds.getLsbD (c - 0xD0) then 1 else 0)
      else if c = 0xD8 then some 0
      else if c = 0xD9 then some t.lane
      else if c = 0xDA then launch.map fun l => 16 * 2 ^ bits l.record.flags.toNat 5 4
      else if c = 0xDB then some t.index
      else if c = 0xDC then some core
      else if c = 0xDD then some id
      else if c = 0xDE then some (id / 2 ^ 32)
      else if c < 0xE5 then
        launch.map fun l => id / 2 ^ bound l.record (c - 0xDF) % 2 ^ (l.record.widths.getD (c - 0xDF) 0)
      else if c = 0xE5 then some s.gtc
      else if c = 0xE6 then some (s.gtc / 2 ^ 32)
      else if c = 0xE7 then some s.ptp.toNat
      else if c = 0xE8 then some (s.ptp.toNat / 2 ^ 32)
      else if c = 0xE9 then launch.map fun l => id / 2 ^ bound l.record (bits l.record.flags.toNat 8 6)
      else if c = 0xEA then some f.tenant
      else none
    let special := fun (o : Operand) (v : DWord) => 0xD0 ≤ o.code.toNat →
      (o.slot = .src false → ∀ n, word o.code.toNat = some n → v = BitVec.ofNat 64 (n % 2 ^ 32)) ∧
      (o.slot = .src true → (o.code = 0xD8 → v = 0) ∧ (o.code = 0xDD → v = f.workId) ∧
        (o.code = 0xE5 → v = BitVec.ofNat 64 s.gtc) ∧ (o.code = 0xE7 → v = s.ptp))
    let absent := fun (o : Operand) (v : DWord) => o.slot = .none → v = 0
    let queue := fun (before : List Operand) (o : Operand) (v : DWord) =>
      o.slot = .src false ∨ o.slot = .upd false ∨ o.slot = .pop → ∀ q, o.code.toNat = 0xC0 + q → q < 16 →
        ∃ p w, (s.queueReg core q).places[(queuesOf (readRefs before)).count q]? = some p ∧ p.word = some w ∧
          v = w.setWidth 64
    let a := t.form.a
    let b := t.form.b
    let c := t.form.c
    let d := t.form.d
    let all := fun (before : List Operand) (o : Operand) (v : DWord) =>
      read o v ∧ special o v ∧ absent o v ∧ queue before o v
    Same s (t.read s i) ∧ all [] a (t.x s i).a ∧ all [a] b (t.x s i).b ∧ all [a, b, c] d (t.x s i).d ∧
    (t.form.lit = none → all [a, b] c (t.x s i).c) ∧ (∀ l, t.form.lit = some l → (t.x s i).c = l.setWidth 64) ∧
    (let qs := queuesOf (readRefs [a, b, c, d])
     (∀ q, ((t.read s i).queueReg core q).places = (s.queueReg core q).places.drop (qs.count q)) ∧
     let taken := fun (p : QPlace) => ∃ q ∈ qs, p ∈ (s.queueReg core q).places.take (qs.count q)
     ((∀ p, taken p → p.neighbour = false) → (t.read s i).coh = s.coh) ∧
     (rising s.coh.l1 → (∃ p, taken p ∧ p.neighbour = true) → ∀ line l, line < 2 ^ 58 → (t.read s i).l1 core line = some l →
       l.kind = .shared → l.retained = true ∨ l.copy = none))) ∧
  ∀ (s : State) (key q : Nat) (f : Fibre) (own : Pc) (ops : List Operand) (o : Operand),
    (∀ r ∈ readRefs ops, s.srcState key f r.2 = .ready) → queuesOf (readRefs ops) = [q] → o ∈ ops →
    readCodes o = [0xC0 + q] → ((s.queueReg (coreOf key) q).places.head?.bind QPlace.word) = none →
    s.sourceStop key f own ops =
      some (if o.t then .effect (effectOf own 6 0 (o.code.setWidth 64)) else .park (.register (.queueWord q)))

/-! ### What every instruction does first (R158, R183) -/

/-- R182, R183: an instruction that is ill-formed performs ILLEGAL on the lane; one that its description reserves, or that
names a q register of another tenant, performs PRIV; in cured text one that reads a result too early performs LATENCY; each at
its own PC, with nothing read or written, and with its cycles charged (R66). -/
def Obligations.RefusedInstructionsPerformTheirEffect : Prop :=
  ∀ (s : State) (i : Instr) (t : Turn), Alone s i t →
    let fails := fun (e : Effect) => Leaves s i (((t.charged s).perform t.key e).maskedKill t.key)
    let own := t.own s
    let barred := privileged s i t.key || s.queuePriv t.key t.gang.tenant t.form
    (i.wellFormed = false → fails (effectOf own 12 0 0)) ∧
    (i.wellFormed = true → barred = true → fails (effectOf own 13 0 0)) ∧
    (i.wellFormed = true → barred = false → s.isCured t.gang.tenant t.fibre.pc = true →
      ∀ o p, tooEarly t.gang i t.form = some (o, p) → fails (latencyEffect t.gang own o p))

/-- R158, R183: a lane whose guard is false goes on to the next PC with nothing done; a lane whose sources are not all there
performs the effect, or takes the park, that they give, and nothing else happens. What the run is charged is the
model’s reading, log entry 10. -/
def Obligations.GuardsAndSourcesComeFirst : Prop :=
  ∀ (s : State) (i : Instr) (t : Turn), Alone s i t → i.wellFormed = true →
    privileged s i t.key = false → s.queuePriv t.key t.gang.tenant t.form = false →
    (s.isCured t.gang.tenant t.fibre.pc = false ∨ tooEarly t.gang i t.form = none) → t.fibre.conv = none →
    let guard := t.form.hdr.pred = 0 ∨ t.fibre.preds.getLsbD t.form.hdr.pred.toNat = true
    let stop := (t.charged s).sourceStop t.key t.fibre (t.own s) [t.form.a, t.form.b, t.form.c, t.form.d]
    (¬guard → t.runsOn i ∨ Calm s t 0 → Does s i t (t.charged s) (t.next s i)) ∧
    (guard → ∀ e, stop = some (.effect e) → Leaves s i (((t.charged s).perform t.key e).maskedKill t.key)) ∧
    (guard → ∀ w, stop = some (.park w) → Leaves s i ((t.charged s).park t.key w))

/-! ### Control (R206 to R224) -/

/-- R206, R211, R212, R213, R217, R219, R224: NOP changes nothing; REFORM, PAUSE and DISBAND let the run end file the fibre
singly, PAUSE with its count and DISBAND out of its convened gang; SAFE sets LIVE; HPOP takes the frame's own record from the
head of the chain; DROP frees a continuation. That PAUSE lets the run go on is the model’s reading, log entry 16. -/
def Obligations.PlainInstructionsGoOn : Prop :=
  ∀ (q : FormQ) (p : FormQI) (f : FormW) (lit : Word) (s : State) (t : Turn),
    let vf := t.fibre.tenant
    let does := fun (i : Instr) (g : Fibre → Fibre) => Does s i t ((t.read s i).modFibre t.key g) (t.next s i)
    let single := fun (i : Instr) => ∀ s' g, exec i s = .next s' → s'.gangs.find s.cur = some g → g.reform = true
    (Goes s (.nopQ q) t → does (.nopQ q) fun x => x) ∧ (Goes s (.nopW f) t → does (.nopW f) fun x => x) ∧
    (Goes s (.nopX f lit) t → does (.nopX f lit) fun x => x) ∧
    (Goes s (.reform q) t → does (.reform q) (fun x => x) ∧ single (.reform q)) ∧
    (Goes s (.pause p) t → does (.pause p) (fun x => { x with pause := some p.imm.toNat }) ∧ single (.pause p)) ∧
    (Goes s (.safe p) t → p.imm.toNat ≤ 128 →
      t.runsOn (.safe p) ∨ (∀ c, p.imm.toNat ≤ c → c < 128 → (s.cell (t.fibre.gLoc c)).mark = .full) →
      does (.safe p) fun x => { x with live := p.imm.toNat }) ∧
    (Goes s (.disband q) t → isClerk t.key = false → t.fibre.conv.isSome = true →
      Does s (.disband q) t ((t.read s (.disband q)).leaveConvened t.key) (t.next s (.disband q)) ∧
        single (.disband q)) ∧
    (Goes s (.hpop q) t → let a := t.fibre.hchain; a ≠ 0 → s.recordOk vf a = true →
      frameSeg a = t.fibre.fbSeg → (s.recordAt vf a).fbw = t.fibre.fbWord →
      does (.hpop q) fun x => { x with hchain := (s.recordAt vf a).prev }) ∧
    (Goes s (.drop q) t → ∀ slot k, s.checkHandle vf (t.x s (.drop q)).b = .ok (slot, k) →
      let u := (t.read s (.drop q)).dropK vf slot k
      t.runsOn (.drop q) ∨ u.fibres.find t.key = s.fibres.find t.key → Does s (.drop q) t u (t.next s (.drop q)))

/-- R207, R209, R196: BRA goes to the parcel that its signed count names, counted from its own; JMPI enters a listed entry,
and takes up the ordering mode of its object. -/
def Obligations.BranchesGoToTheirTargets : Prop :=
  ∀ (b : FormQB) (w : FormWI) (q : FormQ) (s : State) (t : Turn),
    let vf := t.fibre.tenant
    let own := t.own s
    let goes := fun (i : Instr) (k : Int) =>
      Does s i t (t.read s i) (s.branchTo vf own k) ∧
      (own.twin = none → Does s i t (t.read s i) { own with off := own.off + BitVec.ofInt 32 (4 * k) })
    let ptr := (t.x s (.jmpi q)).b
    (Goes s (.braQb b) t → goes (.braQb b) b.off.toInt) ∧ (Goes s (.braWi w) t → goes (.braWi w) w.imm.toInt) ∧
    (Goes s (.jmpi q) t → s.listedEntry vf ptr = true →
      Does s (.jmpi q) t ((t.read s (.jmpi q)).modFibre t.key fun x => { x with fsm := s.isM0 vf (hiWord ptr) })
        (s.enter vf (hiWord ptr) (loWord ptr)))

/-- R42, R72, R73, R208: a call whose window fits the segment moves FB up by the slide, with the return pointer in the
caller's g(slide − 2) and g(slide − 1) and LIVE 128; one that does not fit hops into a new segment, whose link keeps what the
return needs. CALLI also enters a listed entry under its object's ordering mode. That a segment counts as touched when it is made, and
that its words into which nothing is copied are open, are the model’s choices, log entries 67 and 2. -/
def Obligations.CallsOpenTheirWindow : Prop :=
  ∀ (w : FormWI) (f : FormW) (s : State) (t : Turn),
    let x := t.fibre
    let mode := fun (ptr : DWord) (u : State) =>
      u.modFibre t.key fun g => { g with fsm := s.isM0 x.tenant (hiWord ptr) }
    let calls := fun (i : Instr) (slide : Nat) (after : State → State) (target : Pc) =>
      let rp := (t.next s i).pointer
      let put := fun (u : State) =>
        (u.writeCode t.key (slide - 2) (loWord rp)).writeCode t.key (slide - 1) (hiWord rp)
      Free s i t [slide - 2, slide - 1] →
      (x.fbWord + slide + 128 ≤ s.frameW x →
        Does s i t (after ((put (t.read s i)).modFibre t.key fun g =>
          { g with fbWord := x.fbWord + slide, live := 128 })) target) ∧
      (s.frameW x < x.fbWord + slide + 128 → ∀ u seg, (t.read s i).heapRoom (coreOf t.key) false = some u →
        (put u).freeSegFor t.key x.tenant = some seg →
        Does s i t (after ((put u).hopInto t.key x seg slide rp)) target ∧
        ((put u).hopInto t.key x seg slide rp).segs.find (segKey x.tenant seg) =
          some { next := x.fbSeg, hchain := x.hchain, savedFbw := x.fbWord, slide := slide, retpc := rp,
                 words := copyCells ((put u).seg (segKey x.tenant x.fbSeg)).words (x.fbWord + slide)
                   (openWords (put u).nextId (128 - slide)) 0 (128 - slide),
                 resident := some (coreOf t.key), touched := s.gtc })
    let ptr := (t.x s (.calli f)).b
    (Goes s (.call w) t →
      calls (.call w) (slideOf w.sub) (fun u => u) (s.branchTo x.tenant (t.own s) w.imm.toInt)) ∧
    (Goes s (.calli f) t → s.listedEntry x.tenant ptr = true →
      calls (.calli f) (slideOf f.sub) (mode ptr) (s.enter x.tenant (hiWord ptr) (loWord ptr)))

/-- R74, R210: a return within its segment moves FB down by the slide to the pointer below it, without the handler records
that the frame itself installed; a return across a hop gives back the shared words and the caller's link, and frees the segment:
it waits COLD where the caller's segment is away, after it has given its own back (the model’s reading, log entry 17; R75 says that
it waits COLD). Every other RET performs ILLEGAL: one with no slide, one that finds fewer words below FB than its slide and is not
at word 0 of a segment whose link has that slide, and one whose pointer lies outside a valid object (R196). -/
def Obligations.ReturnsCloseTheirWindow : Prop :=
  ∀ (p : FormQI) (s : State) (t : Turn),
    let i := Instr.ret p
    let x := t.fibre
    let slide := p.imm.toNat * 8
    let link := s.seg (segKey x.tenant x.fbSeg)
    let below := pair (s.segWord x.tenant x.fbSeg (x.fbWord - 2)) (s.segWord x.tenant x.fbSeg (x.fbWord - 1))
    let ptr := if slide ≤ x.fbWord then below else link.retpc
    let pc := s.enter x.tenant (hiWord ptr) (loWord ptr)
    let u := (t.read s i).modFibre t.key fun g => { g with fsm := s.isM0 x.tenant (hiWord ptr) }
    (Goes s i t → slide ≠ 0 → s.validReturn x.tenant ptr = true →
      (slide ≤ x.fbWord → Does s i t (u.modFibre t.key fun g =>
        { g with fbWord := x.fbWord - slide, live := 128,
                 hchain := (t.read s i).dropOwn x x.hchain (t.read s i).searchFuel }) pc) ∧
      (x.fbWord = 0 → link.slide = slide →
        let v := u.hopBack t.key x (u.seg (segKey x.tenant x.fbSeg))
        if (s.seg (segKey x.tenant link.next)).resident = some (coreOf t.key) then Does s i t v pc
        else Sound s t → Leaves s i (v.coldAt t.key pc))) ∧
    (Ready s i t → Sound s t →
      (slide = 0 ∨ (x.fbWord < slide ∧ (x.fbWord ≠ 0 ∨ link.slide ≠ slide)) ∨ s.validReturn x.tenant ptr = false) →
      Leaves s i (((t.read s i).perform t.key (effectOf (t.own s) 12 0 0)).maskedKill t.key)) ∧
    (16 ≤ p.imm.toNat → PerformsIllegal i)

/-- R45, R44, R50, R222: TRAP goes on where none of the flags that it names is set, and performs ARITH where one is; BAR and
CONVENE park the fibre at their barrier, which it may complete, BAR as a release after the fibre's atomic operations (R152); EXIT retires a fibre whose counters are empty. The
order of the checks and deliveries is the model’s reading, log entry 17. -/
def Obligations.FibresLeaveTheirGang : Prop :=
  ∀ (p : FormQI) (q : FormQ) (s : State) (t : Turn), Sound s t →
    let x := t.fibre
    let fl : Flags := x.flags &&& p.imm.setWidth 6
    let leaves := fun (i : Instr) (u : State) => Leaves s i (u.maskedKill t.key)
    (Goes s (.trap p) t → fl = 0 → Does s (.trap p) t (t.read s (.trap p)) (t.next s (.trap p))) ∧
    (Ready s (.trap p) t → fl ≠ 0 →
      leaves (.trap p) ((t.read s (.trap p)).performArith t.key x fl (t.own s))) ∧
    (Ready s (.bar q) t → ∀ c, x.crew = some c → s.crewBroken x = false →
      (s.atomUnderWay t.key = none →
        leaves (.bar q) (((t.read s (.bar q)).park t.key (.barrier .bar)).checkBar c)) ∧
      ∀ id, s.atomUnderWay t.key = some id → leaves (.bar q) ((t.givenBack s (.bar q)).park t.key (.address id))) ∧
    (Ready s (.convene p) t → isClerk t.key = false → s.crewBroken x = false → x.spawned = false → x.conv = none →
      s.levelOk x p.imm.toNat = true → s.conveneConflicts t.key x p.imm.toNat = [] →
      leaves (.convene p) (((t.read s (.convene p)).park t.key (.barrier (.convene p.imm.toNat))).checkConvene t.key
        p.imm.toNat)) ∧
    (Ready s (.exit q) t → isClerk t.key = false → x.pending = [] → x.trapping = false → x.counted = [] →
      leaves (.exit q) ((t.read s (.exit q)).retire t.key true))

/-- R78, R79, R84, R220, R221, R223: at the safe point that ends their run PERFORM, PERFORMV and YIELD perform their effect,
with the PC after them and with g(LIVE) to g127 full (R42), and RESUME continues its continuation. -/
def Obligations.RequestsAreMadeAtTheRunEnd : Prop :=
  ∀ (w : FormWI) (q : FormQ) (f : FormW) (s : State) (t : Turn), Sound s t → t.fibre.pending = [] →
    t.fibre.trapping = false →
    let asks := fun (i : Instr) (r : Request) (g : State → State) =>
      ∃ s₂, Same ((t.read s i).modFibre t.key fun x => { x with pc := t.next s i, request := some r }) s₂ ∧
        SameQ (t.read s i) s₂ ∧ Leaves s i (g s₂)
    let request := fun (i : Instr) (tag : Nat) (v : DWord) (result : Nat) (wide : Bool) =>
      let e : Effect :=
        { tag := tag, payload := v, addr := 0, info := 0, pc := t.next s i, result := result, wide := wide }
      asks i (.perform e) fun u => (u.liveFull t.key).perform t.key e
    let code := if bit w.mod 1 then 0xFF else w.a.toNat
    let tag := fld w.imm 0 16
    (Ready s (.perform w) t → performable tag = true →
      request (.perform w) tag ((loWord (t.x s (.perform w)).b).setWidth 64) code (bit w.mod 0)) ∧
    (Ready s (.performv w) t → performable tag = true →
      request (.performv w) tag (t.x s (.performv w)).b code (bit w.mod 0)) ∧
    (Ready s (.yield q) t → request (.yield q) 1 0 0xFF false) ∧
    (let i := Instr.resume f
     let v := t.x s i
     Ready s i t → asks i (.resume v.b v.c (bit f.mod 0)) fun u =>
      u.resume t.key v.b v.c (bit f.mod 0) (t.own s) (t.next s i))

/-- R216, R152, R218, R226: SPAWN, once no atomic operation of the fibre is under way, makes a fibre at a listed entry and gives its
number, or all ones where there is no room; HINST
writes a handler record into the frame, as results of long latency, and makes it the head of the chain; KINFO gives a field of
a continuation, or of one that is gone or consumed 0xFF as STATE and 0 else. -/
def Obligations.FibresHandlersAndHandles : Prop :=
  ∀ (f : FormW) (s : State) (t : Turn),
    let x := t.fibre
    (let i := Instr.spawn f
     let v := t.x s i
     Goes s i t → Free s i t [f.a.toNat] → isClerk t.key = false → s.listedEntry x.tenant v.b = true →
      s.atomUnderWay t.key = none →
      let r := (t.read s i).spawnFibre t.key x v.b (loWord v.c) (loWord v.d)
      (∀ n u, r = some (n, u) → Sends s i t (u.writeLong v [(f.a.toNat, BitVec.ofNat 32 n)]) (t.next s i)) ∧
      (r = none → Sends s i t ((t.read s i).writeLong v [(f.a.toNat, 0xFFFFFFFF)]) (t.next s i))) ∧
    (let i := Instr.hinst f
     let v := t.x s i
     let n := fld f.mod 0 4 * 8
     let gs := fld f.sub 0 4 * 8
     let prev := BitVec.ofNat 64 x.hchain
     let words : List Word := [loWord prev, hiWord prev, loWord v.b, hiWord v.b, loWord v.c,
       BitVec.ofNat 32 (x.fbWord + gs * 2 ^ 16), 0, 0]
     Goes s i t → n + 8 ≤ gs → Free s i t (upto n 8) →
      Sends s i t (((t.read s i).writeLong v ((upto n 8).zip words)).modFibre
        t.key fun g => { g with hchain := x.fbSeg + 32 + 4 * (x.fbWord + n) }) (t.next s i)) ∧
    (let i := Instr.kinfo f
     let v := t.x s i
     let codes := (outPair f.a.toNat (kinfoWide f.sub) 0).map Prod.fst
     Goes s i t → Free s i t codes → ∀ slot k, s.kSlotAt x.tenant (v.b.toNat % 2 ^ 48) = some slot →
      s.kobjs.find (kKey x.tenant slot) = some k → k.magic = 0x4B4F → k.owner = x.tenant →
      let gone : DWord := if f.sub = 0 then 0xFF else 0
      Sends s i t ((t.read s i).writeLong v (outPair f.a.toNat (kinfoWide f.sub)
        (if k.gen.toNat % 65536 = v.b.toNat / 2 ^ 48 ∧ k.state ≠ 1 then k.info f.sub.toNat else gone))) (t.next s i))

/-- R8, R103, R225, R288: FSTAT reads FSR, writes it, clears flags with their old values as its result, or sets SEED; KRECV
empties its pair and waits for a continuation. -/
def Obligations.StatusAndReceiveResults : Prop :=
  ∀ (f : FormW) (q : FormQ) (s : State) (t : Turn),
    let i := Instr.fstat f
    let x := t.x s i
    let pc := (t.own s).pointer
    let old := t.fibre.fsr
    let ends := fun (g : Fibre) => t.runsOn i ∨ (Calm s t 0 ∧ g.trapping = false)
    (Goes s i t → f.sub = 0 → Free s i t [f.a.toNat, f.a.toNat + 1] →
      Sends s i t ((t.read s i).writeLong x [(f.a.toNat, loWord old), (f.a.toNat + 1, hiWord old)]) (t.next s i)) ∧
    (Ready s i t → f.sub = 1 → ends (t.fibre.writeFsr x.b pc) →
      Does s i t ((t.read s i).modFibre t.key fun g => g.writeFsr x.b pc) (t.next s i)) ∧
    (Goes s i t → f.sub = 2 → Free s i t [f.a.toNat] →
      let new := withFlags old (t.fibre.flags &&& ~~~(x.b.extractLsb' 0 6))
      ends (t.fibre.writeFsr new pc) →
      Sends s i t (((t.read s i).modFibre t.key fun g => g.writeFsr new pc).writeLong x
        [(f.a.toNat, t.fibre.flags.setWidth 32)]) (t.next s i)) ∧
    (Goes s i t → f.sub = 3 →
      Does s i t ((t.read s i).modFibre t.key fun g => { g with fsr := withSeed g.fsr (loWord x.b) }) (t.next s i)) ∧
    (let i := Instr.krecv q
     let codes := [q.a.toNat, q.a.toNat + 1]
     Goes s i t → q.a.toNat < 0xBF → q.a.toNat % 2 = 0 → Free s i t codes →
      let r := (t.read s i).reserveAll (t.x s i) codes
      let w : Receive := { fibre := t.key, vf := t.fibre.tenant, targets := r.1 }
      Sends s i t ((r.2.modUnit (coreOf t.key) fun u => { u with receives := u.receives ++ [w] }).serveInbox
        (coreOf t.key) 32) (t.next s i))

/-! ### Memory (R20 to R22, R88, R89, R250 to R264) -/

/-- R20, R22, R88, R250, R251, R253: a load takes the bytes of its space at the aligned effective address, extended as its
form says, and they come later; one that does not translate is deferred, with its registers poisoned. LDQ loads into the tail of
a q register. Under M0 a load finds no access of its fibre pending (R153), and no release stands on a table of the walk (R130; the
model's reading, assumptions 20 and 54). -/
def Obligations.LoadsReadTheirSpaces : Prop :=
  ∀ (f : FormW) (lit : Word) (s : State) (t : Turn),
    let loads := fun (i : Instr) =>
      let x := t.x s i
      let vf := t.fibre.tenant
      let core := coreOf t.key
      let space := fld f.mod 0 3
      let size := fld f.sub 0 2
      let n := 2 ^ size
      let a := if space = 0 then (x.b + (loWord x.c).signExtend 64).toNat else (loWord x.b + loWord x.c).toNat
      let wide := decide (size = 3)
      let codes := (outPair f.a.toNat wide 0).map Prod.fst
      let extend := fun (v : Nat) => if bit f.sub 2 then (BitVec.ofNat (8 * n) v).signExtend 64 else BitVec.ofNat 64 v
      let lands := fun (u : State) (b : List Byte) =>
        Sends s i t (u.writeLong x (outPair f.a.toNat wide (extend (ofBytes b)))) (t.next s i)
      let d : Deferred :=
        { addr := a, data := 0, pcOff := (t.own s).off, kind := if bit f.sub 2 then 2 else 0, size := size,
          reg := f.a.toNat, locs := t.fibre.regLocs f.a.toNat wide, m0 := s.inM0 t.key t.fibre }
      let place := clusterPlace core a
      let seg := s.constSegment t.fibre
      let locs := t.fibre.frameLocs a n
      Goes s i t → Free s i t codes → a % n = 0 → (space < 3 → t.inOrder s) →
      (space = 0 → t.fibre.overlapsStore a n = false → s.atomicOn t.key vf a = none → s.tableHeld vf a = none →
        (∀ u b, (t.read s i).loadGlobal core vf a n = .ok (u, b) → lands u b) ∧
        (s.translate vf 0 a false = .fault → t.fibre.pending.length < 4 → t.runsOn i →
          Does s i t (((t.read s i).poison t.key t.fibre f.a.toNat wide).modFibre t.key fun g =>
            { g with pending := g.pending ++ [d] }) (t.next s i))) ∧
      (space = 1 → s.pitchRange core vf a n = none →
        lands (t.read s i) (s.store.pitch.readBytes (s.pitchKey core a) n)) ∧
      (space = 2 → s.clusterRange core vf a n = none →
        lands (t.read s i) (s.store.pitch.readBytes (scratchKey place.1 place.2) n)) ∧
      (space = 3 → a + n ≤ 512 → (∀ l ∈ locs, (s.cell l).mark = .full) →
        let r := (t.read s i).frameBytes t.fibre a n
        lands r.1 r.2 ∧ ((∀ l ∈ locs, ((t.read s i).cell l).lastUsed = false) → r.1 = t.read s i ∧
          r.2 = ((locs.flatMap fun l => toBytes (s.cell l).val.toNat 4).drop (a % 4)).take n)) ∧
      (space = 4 → a + n ≤ seg.2 → s.isPoisoned (lineOf (seg.1 + a)) = false →
        lands (t.read s i) (s.store.phys.readBytes (seg.1 + a) n))
    (isQueue f.a.toNat = false → loads (.ldW f) ∧ loads (.ldX f lit)) ∧ (isQueue f.a.toNat = true → loads (.ldq f))

/-- R20, R22, R250, R252, R253: a store of a fibre into SCRATCH, its cluster or its frame writes the low bytes of D at the
aligned effective address, and changes no other byte and no register but the frame words that it meets. -/
def Obligations.StoresWriteTheirSpaces : Prop :=
  ∀ (f : FormW) (lit : Word) (s : State) (t : Turn), storageOk s = true →
    let stores := fun (i : Instr) =>
      let x := t.x s i
      let vf := t.fibre.tenant
      let core := coreOf t.key
      let space := fld f.mod 0 3
      let n := 2 ^ fld f.sub 0 2
      let a := (loWord x.b + loWord x.c).toNat
      let bytes := toBytes x.d.toNat n
      let writes := fun (key : Nat) => ∃ u : State, Does s i t u (t.next s i) ∧ u.store.phys = s.store.phys ∧
        u.store.pitch.readBytes key n = bytes ∧
        (∀ b, b < key ∨ key + n ≤ b → u.store.pitch.read b = s.store.pitch.read b) ∧
        ∀ l, (u.cell l).val = (s.cell l).val ∧ (u.cell l).mark = (s.cell l).mark
      let place := clusterPlace core a
      let locs := t.fibre.frameLocs a n
      Goes s i t → a % n = 0 → (space < 3 → t.inOrder s) →
      (space = 1 → a + n ≤ s.scratchSize core → s.pitchRange core vf a n = none → writes (scratchKey core a)) ∧
      (space = 2 → s.clusterRange core vf a n = none → writes (scratchKey place.1 place.2)) ∧
      (space = 3 → a + n ≤ 512 → (s.segs.find (segKey vf t.fibre.fbSeg)).isSome = true →
        (∀ l ∈ locs, (s.cell l).mark = .full) →
        ∃ u : State, Does s i t u (t.next s i) ∧ u.store = s.store ∧
          ((locs.flatMap fun l => toBytes (u.cell l).val.toNat 4).drop (a % 4)).take n = bytes ∧
          (∀ k, k < a % 4 ∨ a % 4 + n ≤ k → (locs.flatMap fun l => toBytes (u.cell l).val.toNat 4)[k]? =
            (locs.flatMap fun l => toBytes (s.cell l).val.toNat 4)[k]?) ∧
          ∀ l, l ∉ locs → (u.cell l).val = (s.cell l).val ∧ (u.cell l).mark = (s.cell l).mark)
    (isQueue f.d.toNat = false → stores (.stW f) ∧ stores (.stX f lit)) ∧ (isQueue f.d.toNat = true → stores (.stq f))

/-- R88, R89, R124, R129, R133, R252: a store into GLOBAL memory makes the bytes dirty in its core's L1, stamped with RSEQ, or
for a STREAM or host-homed line goes to the home, which takes it at once where no write waits there and no lease is left; one that
does not translate joins the pending accesses, and one to the line of a pending store is held behind it. That bytes
and not lines are dirty, and that dirty bytes which a release of the core has ordered are written back before their line takes a
later stamp, are the model’s readings, log entries 13 and 78. -/
def Obligations.StoresIntoMemory : Prop :=
  ∀ (f : FormW) (lit : Word) (s : State) (t : Turn), storageOk s = true →
    let stores := fun (i : Instr) =>
      let x := t.x s i
      let vf := t.fibre.tenant
      let core := coreOf t.key
      let n := 2 ^ fld f.sub 0 2
      let a := (x.b + (loWord x.c).signExtend 64).toNat
      let bytes := toBytes x.d.toNat n
      let d : Deferred :=
        { addr := a, data := BitVec.ofNat 64 (x.d.toNat % 2 ^ (8 * n)), pcOff := (t.own s).off, kind := 1,
          size := fld f.sub 0 2, reg := 0, m0 := s.inM0 t.key t.fibre }
      let u₀ := t.read s i
      Goes s i t → fld f.mod 0 3 = 0 → a % n = 0 → t.inOrder s →
      (t.fibre.holdsLine a = true →
        Does s i t (u₀.modFibre t.key fun g => { g with heldStores := g.heldStores ++ [d] }) (t.next s i)) ∧
      (t.fibre.holdsLine a = false → s.translate vf 0 a true = .fault → s.atomicOn t.key vf a = none →
        s.tableHeld vf a = none → t.fibre.pending.length < 4 → t.runsOn i →
        Does s i t (u₀.modFibre t.key fun g => { g with pending := g.pending ++ [d] }) (t.next s i)) ∧
      (t.fibre.holdsLine a = false → s.atomicOn t.key vf a = none → s.tableHeld vf a = none →
        s.doorbellOf vf a (fld f.sub 0 2) = none →
        s.inBacking vf a = false → ∀ pa, s.translate vf 0 a true = .ok pa →
        s.storeBad core vf a pa (isClerk t.key) = none →
        let line := lineOf pa
        let through := isHostLine line || decide ((s.objectAt vf a).1 = .stream)
        let u₁ := u₀.beforeRestamp core line
        let was := ((u₁.l1 core line).getD (.none (s.objectAt vf a).1)).dirty
        s.inM0 t.key t.fibre = false ∨ through = false →
        ∃ u : State, Does s i t u (t.next s i) ∧ u.store.pitch = s.store.pitch ∧
          (∀ l, (u.cell l).val = (s.cell l).val ∧ (u.cell l).mark = (s.cell l).mark) ∧
          ((∀ stamp, u₀.releaseCovers core stamp = false) → u₁ = u₀) ∧
          (through = false → u.store = u₁.store ∧
            (∃ l, u.l1 core line = some l ∧ l.stamp = (s.unit core).rseq ∧ l.kind = (s.objectAt vf a).1 ∧
              ∀ k, l.dirty.find k = if pa % 64 ≤ k ∧ k < pa % 64 + n then bytes[k - pa % 64]? else was.find k) ∧
            ∀ c m, m < 2 ^ 58 → line < 2 ^ 58 → (c ≠ core ∨ m ≠ line) → u.l1 c m = u₁.l1 c m) ∧
          (through = true → (s.home line).waiting = [] → s.watchers line = [] → (∀ p ∈ s.coh.homes, p.2.awaited = []) →
            ∀ b, u.store.phys.read b =
            if (s.home line).exp ≤ s.gtc ∧ pa ≤ b ∧ b < pa + n then bytes.getD (b - pa) 0 else s.store.phys.read b))
    (isQueue f.d.toNat = false → stores (.stW f) ∧ stores (.stX f lit)) ∧ (isQueue f.d.toNat = true → stores (.stq f))

/-- R142, R254 to R258, R272: on a word of SCRATCH or of the cluster, below scope .clu, an atomic operation returns the old
value where it has a result and leaves the new one, ACQ reads and REL writes, and WAITA goes on where its condition holds;
nothing else of the storage changes. Where each is carried out is the model’s reading, log entry 19. -/
def Obligations.SynchronisationOnThePitch : Prop :=
  ∀ (f : FormW) (s : State) (t : Turn), storageOk s = true →
    let x := fun (i : Instr) => t.x s i
    let vf := t.fibre.tenant
    let core := coreOf t.key
    let word := fun (i : Instr) (n : Nat) (out : Nat → List (Nat × Word)) (met : Nat → Prop) (new : Nat → Nat) =>
      let a := (loWord (x i).b).toNat
      let key := if fld f.mod 0 3 = 1 then scratchKey core a else
        scratchKey (clusterPlace core a).1 (clusterPlace core a).2
      let old := ofBytes (s.store.pitch.readBytes key n)
      Goes s i t → Free s i t ((out old).map Prod.fst) → s.atomUnderWay t.key = none → fld f.mod 3 3 < 2 → a % n = 0 →
       met old →
      (fld f.mod 0 3 = 1 ∧ a + n ≤ s.scratchSize core ∧ s.pitchRange core vf a n = none ∨
        fld f.mod 0 3 = 2 ∧ s.clusterRange core vf a n = none) →
      ∃ u : State, Sends s i t (u.writeLong (x i) (out old)) (t.next s i) ∧ u.store.phys = s.store.phys ∧
        u.store.pitch.readBytes key n = toBytes (new old) n ∧
        (∀ b, b < key ∨ key + n ≤ b → u.store.pitch.read b = s.store.pitch.read b) ∧
        ∀ l, (u.cell l).val = (s.cell l).val ∧ (u.cell l).mark = (s.cell l).mark
    let n := 2 ^ fld f.sub 0 2
    let wide := decide (fld f.sub 0 2 = 3)
    let result := fun (v : Nat) => outPair f.a.toNat wide (BitVec.ofNat 64 v)
    let none_ := fun (_ : Nat) => ([] : List (Nat × Word))
    let op := fun (i : Instr) (old : Nat) =>
      atomicOp (fld f.sub 2 3) (8 * n) old ((x i).c.toNat % 2 ^ (8 * n)) ((x i).d.toNat % 2 ^ (8 * n))
    let opN := fun (i : Instr) (old : Nat) => atomicOp (fld f.sub 2 3) (8 * n) old ((x i).c.toNat % 2 ^ (8 * n)) 0
    let m := if bit f.sub 3 then 8 else 4
    let own := t.fibre.pending = [] ∨ (t.fibre.pendingM0 = false ∧ fld f.mod 3 3 = 0)
    word (.atom f) n result (fun _ => own) (op (.atom f)) ∧
    word (.atomn f) n none_ (fun _ => own) (opN (.atomn f)) ∧
    word (.acq f) n result (fun _ => t.fibre.pendingM0 = false) (fun old => old) ∧
    word (.rel f) n none_ (fun _ => t.fibre.pending = []) (fun _ => (x (.rel f)).c.toNat % 2 ^ (8 * n)) ∧
    word (.acqrel f) n result (fun _ => t.fibre.pending = []) (op (.acqrel f)) ∧
    word (.waita f) m none_
      (fun old => t.fibre.pendingM0 = false ∧ waitCond (fld f.sub 0 3) old ((x (.waita f)).c.toNat % 2 ^ (8 * m)) = true)
      (fun old => old)

/-- R130, R142, R144, R254 to R258, R272: on a line of memory ACQ below .clu reads through the core's L1; ACQ at .clu and wider
reads the location at its home, where no live release stands, and drops the core's SHARED leases; REL and ACQREL leave their
value in the core with a tag of its RSEQ at the home, and RSEQ advances; ATOM and ATOMN change the word at its home, at .clu and wider
once nothing of the core is left to write back, and ATOM then drops its leases; WAITA goes on where its condition holds, and
otherwise performs WAIT or parks. Where the tag names a dead incarnation the home's value is taken, DATA_LOST is sent, and ACQ sets
its predicate, which it clears otherwise. Where each is carried out is the model’s reading, log entry 19. -/
def Obligations.SynchronisationOnLines : Prop :=
  ∀ (f : FormW) (s : State) (t : Turn), storageOk s = true → rising s.coh.l1 →
    let vf := t.fibre.tenant
    let core := coreOf t.key
    let n := 2 ^ fld f.sub 0 2
    let scope := fld f.mod 3 3
    let op := fld f.sub 2 3
    let result := fun (v : Nat) => outPair f.a.toNat (decide (fld f.sub 0 2 = 3)) (BitVec.ofNat 64 v)
    let codes := (result 0).map Prod.fst
    let young := (∀ p ∈ s.coh.ops, p.2.agent = core → p.2.stage ≠ .held ∧ p.2.stage ≠ .watching) ∧
      ∀ p ∈ s.coh.l1, p.1 / 2 ^ 58 = core → p.2.dirty ≠ [] → ((s.unit core).rseq + 1 - p.2.stamp).toNat < 32768
    let written := 2 ≤ scope → (∀ p ∈ s.coh.l1, p.1 / 2 ^ 58 = core → p.2.dirty = [] ∧ p.2.retained = false) ∧
      s.coreWrites core = [] ∧ (scope = 5 → s.coreHostWrites core = [])
    let place := fun (i : Instr) (k : OrdKind) (n pa : Nat) =>
      (k.delivers scope = true → s.atomUnderWay t.key = none ∧ t.fibre.pending = []) ∧ t.fibre.pendingM0 = false ∧
      s.tableHeld vf (t.x s i).b.toNat = none ∧ fld f.mod 0 3 = 0 ∧ (t.x s i).b.toNat % n = 0 ∧
      s.syncPlace t.key t.fibre k (t.x s i).b.toNat = .ok pa ∧ s.inBacking vf (t.x s i).b.toNat = false
    let shared := fun (i : Instr) (pa : Nat) => isHostLine (lineOf pa) = false ∧
      (s.objectAt vf (t.x s i).b.toNat).1 = .shared
    let meets := fun (i : Instr) (pa : Nat) (lost : Option Tag) => s.releaseBefore (lineOf pa) s.nextId true = false ∧
      match lost with
      | none => (s.home (lineOf pa)).tagState = .untagged ∨ (s.home (lineOf pa)).tagState = .delivered
      | some d => (s.home (lineOf pa)).tagState = .tagged ∧ (s.home (lineOf pa)).tag = some d ∧ d.dead = true ∧ shared i pa
    let value := fun (i : Instr) (n pa : Nat) (lost : Option Tag) =>
      if lost.isSome then ofBytes (s.store.phys.readBytes pa n) else (t.read s i).seenValue core pa n
    let told := fun (i : Instr) (pa : Nat) (lost : Option Tag) => ∀ d, lost = some d →
      let die := dieOfLine (lineOf pa)
      (s.bittern die).tap.length < 256 → ∀ s', exec i s = .next s' → ∃ e ∈ (s'.bittern die).tap,
        e.type = 5 ∧ e.tenant = vf ∧ e.die = die ∧ e.src = homeUnit (lineOf pa) ∧ e.gtc = s.gtc ∧
        e.v0 = BitVec.ofNat 32 (d.agent + d.inc * 4096) ∧ e.v1 = d.seq.setWidth 32
    let kept := fun (u : State) => ∀ l, (u.cell l).val = (s.cell l).val ∧ (u.cell l).mark = (s.cell l).mark
    let dropped := fun (u : State) => ∀ line l, line < 2 ^ 58 → u.l1 core line = some l → l.kind = .shared →
      l.retained = true ∨ l.copy = none
    let tagged := fun (u : State) (pa new : Nat) =>
      (u.home (lineOf pa)).tagState = .tagged ∧
      (u.home (lineOf pa)).tag =
        some { agent := core, inc := s.incarnation core, seq := (s.unit core).rseq, dead := false } ∧
      (u.unit core).rseq = (s.unit core).rseq + 1 ∧
      ∃ l, u.l1 core (lineOf pa) = some l ∧ l.retained = true ∧
        ∀ k, k < n → l.dirty.find (pa % 64 + k) = (toBytes new n)[k]?
    let sends := fun (i : Instr) (o : List (Nat × Word)) (p : State → Prop) =>
      ∃ u : State, Sends s i t (u.writeLong (t.x s i) o) (t.next s i) ∧ kept u ∧ p u
    (let i := Instr.acq f
     let pN := fun (u : State) (v : Bool) => op ≠ 0 → ∃ g, u.fibres.find t.key = some g ∧ g.preds.getLsbD op = v
     ∀ pa, Goes s i t → Free s i t codes → place i (.acq op) n pa →
      (scope < 2 → sends i (result (ofBytes ((t.read s i).readGlobalLine core vf (t.x s i).b.toNat pa n).2)) fun u =>
        u.store = s.store ∧ pN u false) ∧
      (2 ≤ scope → ∀ lost, meets i pa lost → told i pa lost ∧ sends i (result (value i n pa lost)) fun u =>
        u.store = s.store ∧ dropped u ∧ pN u lost.isSome ∧ (u.home (lineOf pa)).tag = (s.home (lineOf pa)).tag)) ∧
    (let i := Instr.rel f
     ∀ pa lost, Goes s i t → place i .rel n pa → 2 ≤ scope → shared i pa → meets i pa lost → young →
      s.watchers (lineOf pa) = [] → (s.home (lineOf pa)).atomicWaits = false →
      sends i [] fun u => tagged u pa (t.x s i).c.toNat) ∧
    (let i := Instr.acqrel f
     ∀ pa lost, Goes s i t → Free s i t codes → place i (.acqrel op) n pa → shared i pa → meets i pa lost → young →
      s.watchers (lineOf pa) = [] → (s.home (lineOf pa)).waiting = [] →
      let old := value i n pa lost
      told i pa lost ∧ sends i (result old) fun u =>
        tagged u pa (atomicOp op (8 * n) old ((t.x s i).c.toNat % 2 ^ (8 * n)) ((t.x s i).d.toNat % 2 ^ (8 * n))) ∧
        (2 ≤ scope → dropped u)) ∧
    (let atomic := fun (i : Instr) (k : OrdKind) (o : Nat → List (Nat × Word)) (d : Nat) =>
       ∀ pa lost, Goes s i t → Free s i t ((o 0).map Prod.fst) → place i k n pa → meets i pa lost →
        s.homeFree (lineOf pa) = true → s.watchers (lineOf pa) = [] → written →
        (∀ l, s.l1 core (lineOf pa) = some l → l.dirty = [] ∧ l.retained = false) →
        let old := ofBytes (s.store.phys.readBytes pa n)
        told i pa lost ∧ sends i (o old) fun u => u.store.pitch = s.store.pitch ∧
          u.store.phys.readBytes pa n = toBytes (atomicOp op (8 * n) old ((t.x s i).c.toNat % 2 ^ (8 * n)) d) n ∧
          (∀ b, b < pa ∨ pa + n ≤ b → u.store.phys.read b = s.store.phys.read b) ∧
          (u.home (lineOf pa)).tag = (s.home (lineOf pa)).tag ∧ (2 ≤ scope → k.acquires = true → dropped u)
     atomic (.atom f) (.atom op) result ((t.x s (.atom f)).d.toNat % 2 ^ (8 * n)) ∧
       atomic (.atomn f) (.atomn op) (fun _ => []) 0) ∧
    (let i := Instr.waita f
     let m := if bit f.sub 3 then 8 else 4
     let cond := fld f.sub 0 3
     ∀ pa lost, place i (.waita cond) m pa → meets i pa lost →
      let met := waitCond cond (value i m pa lost) ((t.x s i).c.toNat % 2 ^ (8 * m))
      (Goes s i t → met = true → told i pa lost ∧ sends i [] fun u => u.store = s.store ∧ (2 ≤ scope → dropped u)) ∧
      (Ready s i t → Sound s t → met = false →
        told i pa lost ∧
        ((t.read s i).hasHandler t.fibre 2 = true → rising s.coh.ops → (∀ p ∈ s.coh.ops, p.1 < s.nextId) →
          ∃ u : State, Same (t.givenBack s i) u ∧ SameQ (t.givenBack s i) u ∧
            Leaves s i ((u.perform t.key (effectOf (t.own s) 2 0 0)).maskedKill t.key)) ∧
        ((t.read s i).hasHandler t.fibre 2 = false → ∃ (u : State) (id : Nat) (o : OrdOp),
          u.coh.ops.find id = some o ∧ o.stage = .watching ∧ o.addr = pa ∧ o.kind = .waita cond ∧ u.store = s.store ∧
          kept u ∧ Leaves s i ((u.park t.key (.address id)).maskedKill t.key))))

/-- R124, R142, R144, R259 to R262: FENCE below .clu changes nothing, and where nothing of the core is left to write back or
waits at a home, a wider one only drops its SHARED leases; PREF shows in no storage; DLEASE drops the SHARED clean copies of
its range; WB and INV begin to write their range back as a counted operation. That WB and INV write from their issue on is
the model’s reading, log entry 21. -/
def Obligations.CacheControl : Prop :=
  ∀ (p : FormQI) (f : FormW) (s : State) (t : Turn), rising s.coh.l1 →
    let vf := t.fibre.tenant
    let core := coreOf t.key
    (let i := Instr.fence p
     let scope := fld p.imm 0 3
     Goes s i t → t.fibre.pending = [] → s.atomUnderWay t.key = none →
      (scope < 2 → Does s i t (t.read s i) (t.next s i)) ∧
      (2 ≤ scope → (∀ p ∈ s.coh.l1, p.1 / 2 ^ 58 = core → p.2.dirty = [] ∧ p.2.retained = false) →
        s.coreWrites core = [] → (scope = 5 → s.coreHostWrites core = []) →
        ∃ u : State, Sends s i t (u.writeLong (t.x s i) []) (t.next s i) ∧ u.store = s.store ∧
          ∀ line l, line < 2 ^ 58 → u.l1 core line = some l → l.kind = .shared → l.copy = none)) ∧
    (let i := Instr.pref f
     Goes s i t → ∃ u : State, Does s i t u (t.next s i) ∧ u.store = s.store ∧
      ∀ l, (u.cell l).val = (s.cell l).val ∧ (u.cell l).mark = (s.cell l).mark) ∧
    (let i := Instr.dlease f
     Goes s i t → ∃ u : State, Does s i t u (t.next s i) ∧ u.store = s.store ∧ u.coh.homes = s.coh.homes ∧
      ∀ line l, line ∈ s.rangeLines vf (t.x s i).b.toNat (loWord (t.x s i).c).toNat → u.l1 core line = some l →
        l.kind = .shared → l.retained = true ∨ l.dirty ≠ [] ∨ l.copy = none) ∧
    (let writes := fun (i : Instr) (inval : Bool) =>
      let lines := s.rangeLines vf (t.x s i).b.toNat (loWord (t.x s i).c).toNat
      let r := (t.read s i).flushLines core vf lines
      let hosts := if fld f.mod 3 3 = 5 then
          (s.coh.hostWrites.filter fun w => decide (w.core = some core) && lines.contains w.line).map fun w => w.id
        else []
      Goes s i t → t.fibre.counter 4 < 255 →
        Does s i t (r.2.startEngine t.key vf 4 [] (.wb { inval := inval, lines := lines }) r.1 hosts).2 (t.next s i)
     writes (.wb f) false ∧ writes (.inv f) true)

/-- R123, R125, R263, R264: OBJOPEN enters a sound object at the lowest free entry and gives its handle, or gives the one cause
that refuses it; OBJSET and OBJCLOSE change the object that their handle names, and closing moves its generation on: at once where
no core holds a line of it and its leases have passed. That a first generation is 1, that the lowest free entry is taken and that
the fibre is not parked are the model’s choices and readings, log entries 5, 86 and 19. -/
def Obligations.ObjectsOpenAndClose : Prop :=
  ∀ (f : FormW) (q : FormQ) (s : State) (t : Turn),
    let vf := t.fibre.tenant
    let free := fun (u : State) (o : CohObject) => (∀ p ∈ u.coh.l1, p.1 % 2 ^ 58 ∉ u.objectLines o) ∧
      ∀ l ∈ u.objectLines o, (u.home l).exp ≤ u.gtc
    (let i := Instr.objopen f
     let x := t.x s i
     Goes s i t → Free s i t [f.a.toNat] → x.b.toNat % 32 = 0 → s.tableHeld vf x.b.toNat = none →
      ∀ u b, (t.read s i).loadGlobal (coreOf t.key) vf x.b.toNat 32 = .ok (u, b) →
      let o := CohObject.ofBytes vf b
      let errors := u.objectErrors o (field b 25 1)
      (∀ k, errors = [] → free u o → (List.range 8192).find? u.objectFree = some k →
        let gen := ((u.coh.objects.find k).map CohObject.gen).getD 1
        ∃ v : State, Sends s i t (v.writeLong x [(f.a.toNat, BitVec.ofNat 32 (gen * 65536 + k))]) (t.next s i) ∧
          v.coh.objects.find k = some { o with gen := gen } ∧ v.store = s.store) ∧
      (∀ c, errors = [c] → Sends s i t (u.writeLong x [(f.a.toNat, BitVec.ofNat 32 (0xFFFFFF00 + c))]) (t.next s i))) ∧
    (let i := Instr.objset f
     let x := t.x s i
     let c := (loWord x.c).toNat
     let state := bits c 1 0
     let owner := bits c 23 16
     Goes s i t → ∀ k o, s.objectOf vf (loWord x.b) = .ok (k, o) → free s o → bits c 15 2 = 0 → bits c 31 24 = 0 →
      (state ≠ 1 → owner = 0) → (state = 1 → s.ownerOk vf owner = true) →
      ∃ v : State, Sends s i t (v.writeLong x []) (t.next s i) ∧ v.store = s.store ∧
        v.coh.objects.find k = some { o with kind := objState state, owner := owner }) ∧
    (let i := Instr.objclose q
     let x := t.x s i
     Goes s i t → ∀ k o, s.objectOf vf (loWord x.b) = .ok (k, o) → free s o →
      ∃ v : State, Sends s i t (v.writeLong x []) (t.next s i) ∧ v.store = s.store ∧
        v.coh.objects.find k = some { o with open_ := false, gen := if o.gen = 0xFFFE then 1 else o.gen + 1 })

/-! ### Engines and counters (R146 to R149, R265 to R273) -/

/-- R146, R147, R265 to R269, R326: the instructions of the copy engine and the network engines read their block, check and
translate their ranges, and hand a counted operation to their engine, NPOST once the lines of its request and source have begun to
be written back; a KSEND takes its continuation out of use (R224, R85) and its message is as long as R341 says. That pages are
walked at issue, and which granules the indexed side of a gather or scatter touches, are the model’s readings, log entries 21
and 63. -/
def Obligations.EngineInstructionsIssue : Prop :=
  ∀ (f : FormW) (s : State) (t : Turn), t.fibre.pending = [] → (∀ cls, t.fibre.counter cls < 255) →
    s.atomUnderWay t.key = none →
    let vf := t.fibre.tenant
    let core := coreOf t.key
    let space := fld f.mod 0 3
    let at_ := fun (sp : Nat) (v : DWord) => if sp = 0 then v.toNat else (loWord v).toNat
    let narrow := fun (sp v : Nat) => if sp = 0 then v else v % 2 ^ 32
    let touched := fun (u : State) (l : List (Nat × Nat × Nat × Bool)) =>
      l.flatMap fun p => u.rangeGranules core p.1 p.2.1 p.2.2.1
    let starts := fun (i : Instr) (u : State) (cls : Nat) (pages : List (Nat × Nat)) (job : Job)
        (granules : List (Nat × Bool × Nat)) =>
      let r := u.startEngine t.key vf cls pages job [] []
      Does s i t (r.2.pin r.1 granules) (t.next s i)
    let posts := fun (i : Instr) (u : State) (pages : List (Nat × Nat)) (job : NetJob) (lines : List Nat) =>
      let w := u.flushLines core vf lines
      Does s i t (w.2.startEngine t.key vf 3 pages (.net job) w.1 []).2 (t.next s i)
    let copies := fun (i : Instr) (u : State) (j : CopyJob) => ∀ pages,
      let word := (j.word.map fun w => (0, w.1, 8, true)).toList
      (t.x s i).engineRanges u (j.ranges ++ word) = .ok pages → starts i u 0 pages (.copy j) (touched u j.ranges)
    let block := fun (i : Instr) (g : State → List Byte → Prop) => Goes s i t → ∀ u b,
      (t.x s i).readBlock (t.read s i) space (at_ space (t.x s i).b) = .ok (u, b) → g u b
    let rect := fun (i : Instr) (scope : Option Nat) => block i fun u b =>
      let j := CopyJob.ofBytes b scope
      j.illegal = false → copies i u { j with dst := narrow j.dspace j.dst, src := narrow j.sspace j.src }
    let indexed := fun (i : Instr) (scatter : Bool) => block i fun u b => ∀ pages,
      let j := GsJob.ofBytes scatter b
      let j' := { j with dst := narrow j.dspace j.dst, src := narrow j.sspace j.src, idx := narrow j.ispace j.idx,
                         mask := narrow j.ispace j.mask }
      j.illegal = false → (t.x s i).engineRanges u j'.ranges = .ok pages → starts i u 1 pages (.gs j')
        (touched u j'.ranges ++ u.indexedGranules core vf (if scatter then j'.dspace else j'.sspace))
    (let i := Instr.cpy f
     let x := t.x s i
     Goes s i t → copies i (t.read s i)
      { dst := at_ (fld f.mod 0 3) x.b, src := at_ (fld f.mod 3 3) x.c, dspace := fld f.mod 0 3,
        sspace := fld f.mod 3 3, rows := 1, rowLen := (loWord x.d).toNat, dstride := 0, sstride := 0, word := none }) ∧
    rect (.cpy2d f) none ∧ rect (.cpyw f) (some (fld f.mod 3 3)) ∧ indexed (.gath f) false ∧ indexed (.scat f) true ∧
    (let i := Instr.npost f
     let x := t.x s i
     let a := at_ space x.b
     let own := if space = 0 then (t.read s i).rangeLines vf a 64 else []
     Goes s i t → space ≤ 1 → ∀ u b, x.readBlock ((t.read s i).flushLines core vf own).2 space a = .ok (u, b) → ∀ pages,
      let q := NetRequest.ofBytes b
      let lines := own ++ u.rangeLines vf q.laddr (if q.op < 2 then q.len else 0)
      let v := (u.flushLines core vf lines).2
      q.illegal = false → x.engineRanges v q.ranges = .ok pages →
      (q.op ≠ 2 →
        let r := v.netJob vf space a q.len q none
        posts i r.2 pages r.1 lines) ∧
      (q.op = 2 → ∀ slot k, v.checkHandle vf (BitVec.ofNat 64 q.laddr) = .ok (slot, k) →
        let y : State := { v with kobjs := v.kobjs.put (kKey vf slot) { k with state := 3 } }
        let r := y.netJob vf space a (256 + 1024 * (y.kSegs vf k).length + 32 * k.heldStores.length) q (some slot)
        posts i r.2 pages r.1 lines)) ∧
    (let i := Instr.ksend f
     let x := t.x s i
     let c := (loWord x.c).toNat
     let d := (loWord x.d).toNat
     Goes s i t → bits c 31 27 = 0 → bits d 31 7 = 0 → ∀ slot k, s.checkHandle vf x.b = .ok (slot, k) →
      let u : State := { t.read s i with kobjs := s.kobjs.put (kKey vf slot) { k with state := 3 } }
      let r := u.netJob vf 2 x.b.toNat (256 + 1024 * (u.kSegs vf k).length + 32 * k.heldStores.length)
        (ksendRequest x.b c d) (some slot)
      posts i r.2 [] r.1 [])

/-- R146, R149: an operation that is handed to an engine is counted for its fibre under the next number of its class; of the
operations of a fibre those stay counted that have not completed, and those behind one of their class that has not. -/
def Obligations.OperationsAreCountedInOrder : Prop :=
  (∀ (s : State) (key vf cls : Nat) (pages : List (Nat × Nat)) (job : Job) (w : List (Nat × Nat)) (h : List Nat)
      (f : Fibre), s.fibres.find key = some f →
    let r := s.startEngine key vf cls pages job w h
    ∃ o g, r.2.engine.find r.1 = some o ∧ o.core = coreOf key ∧ o.fibre = key ∧ o.vf = vf ∧ o.cls = cls ∧
      o.pages = pages ∧ o.job = job ∧ o.issued = s.gtc ∧ r.2.fibres.find key = some g ∧
      g.counted = f.counted ++ [{ cls := cls, op := r.1, num := f.issued.get cls 0, done := false, stopped := none }] ∧
      (∀ c, g.counter c = f.counter c + if c = cls then 1 else 0) ∧
      (∀ c, g.issued.get c 0 = f.issued.get c 0 + if c = cls then 1 else 0) ∧
      ∀ k, k ≠ r.1 → r.2.engine.find k = s.engine.find k) ∧
  ∀ l : List Counted, dropDone l [] = (List.range l.length).filterMap fun k => (l[k]?).bind fun c =>
    if (l.take (k + 1)).any fun d => decide (d.cls = c.cls) && !d.done then some c else none

/-- R148, R271, R273, R277, R278, R307, R328: WAITC goes on once its counter is low enough, and waits where neither a stopped
operation nor a handler for WAIT takes it; CNTRD, QSTAT and NPOLL report, and MSTAT reports once the commands before it have
ended; MBAR parks the fibre at its band barrier. -/
def Obligations.CountersAndStatusAreReported : Prop :=
  ∀ (w : FormWI) (p : FormQI) (q : FormQ) (f : FormW) (s : State) (t : Turn),
    let vf := t.fibre.tenant
    let core := coreOf t.key
    (let i := Instr.waitc w
     let n := fld w.imm 0 8
     let cls := fld w.imm 8 3
     (Goes s i t → t.fibre.counter cls ≤ n → Does s i t (t.read s i) (t.next s i)) ∧
     (Ready s i t → Sound s t → n < t.fibre.counter cls → t.fibre.reached cls n = none →
      (t.read s i).hasHandler t.fibre 2 = false →
        Leaves s i ((t.read s i).park t.key (.counter (.waitc cls n))))) ∧
    (let i := Instr.cntrd p
     let cls := p.imm.toNat
     let held := t.fibre.counted.any fun c => decide (c.cls = cls) && c.stopped.isSome
     Goes s i t → cls ≤ 4 → Free s i t [p.a.toNat] →
      Sends s i t ((t.read s i).writeLong (t.x s i)
        [(p.a.toNat, BitVec.ofNat 32 (t.fibre.counter cls + if held then 256 else 0))]) (t.next s i)) ∧
    (let i := Instr.qstat q
     let r := (t.read s i).queueReg core (q.b.toNat - 0xC0)
     let v := if r.owner = none then r.places.length + 512
       else if r.owner = some vf then r.places.length + 256 else 1024
     Goes s i t → isQueue q.b.toNat = true → Free s i t [q.a.toNat] →
      Sends s i t ((t.read s i).writeLong (t.x s i) [(q.a.toNat, BitVec.ofNat 32 v)]) (t.next s i)) ∧
    (let i := Instr.npoll f
     let space := fld f.mod 0 3
     let a := if space = 0 then (t.x s i).b.toNat else (loWord (t.x s i).b).toNat
     let code := fun (j : NetJob) => j.state.code + min j.rounds 255 * 2 ^ 8 + j.acked.length * 2 ^ 16
     let v : DWord := BitVec.ofNat 64 (((s.postedFrom core vf space a).map code).getD 0)
     Goes s i t → space ≤ 1 → Free s i t [f.a.toNat, f.a.toNat + 1] →
      Sends s i t ((t.read s i).writeLong (t.x s i) [(f.a.toNat, loWord v), (f.a.toNat + 1, hiWord v)]) (t.next s i)) ∧
    (let i := Instr.mstat p
     let ctx := fld p.imm 0 2
     Goes s i t → s.contextPriv ctx t.key = false → p.a.toNat < 0xC0 → (s.context core ctx).queue.length < 16 →
      Free s i t [p.a.toNat] →
      ∃ (u : State) (id : Nat) (o : EngineOp) (l : Loc), Does s i t u (t.next s i) ∧
        t.fibre.loc p.a.toNat = some l ∧ (u.cell l).mark = .empty ∧ u.engine.find id = some o ∧
        o.job = .mtx ctx (.stat (bit p.imm 2) (!(s.context core ctx).queue.isEmpty) [l]) ∧
        (u.context core ctx).queue = (s.context core ctx).queue ++ [id] ∧
        (u.fibres.find t.key).map Fibre.counted = some t.fibre.counted) ∧
    (let i := Instr.mbar p
     let part := ((t.read s i).fresh.2).fencePart core vf 2 ((t.x s i).ordOp (t.read s i).fresh.2 .flush 0 0 0 2 0 0)
     Ready s i t → Sound s t → isClerk t.key = false → s.crewBroken t.fibre = false → s.atomUnderWay t.key = none →
      ∀ c, t.fibre.crew.bind s.sched.crews.find = some c → part.2.writesPending part.1.writes = false →
      Leaves s i (((part.2.park t.key (.barrier (.band p.imm.toNat))).checkBand c.launch c.band p.imm.toNat).maskedKill
        t.key))

/-- R274 to R276: QSEND offers its value, a word or two, to every consumer that its mask names: q registers of the core and
of its neighbours, feed queues, the copy engine. It completes once all have accepted, each on its own, and a consumer
without room keeps the fibre parked, which gives back the words that its operands took. A send of scope .clu comes once the core's writes have been performed. -/
def Obligations.QueuesTakeWhatIsSent : Prop :=
  (∀ (f : FormW) (s : State) (t : Turn),
    let i := Instr.qsend f
    let x := t.x s i
    let vf := t.fibre.tenant
    let core := coreOf t.key
    let mask := (loWord x.c).toNat
    let q := (loWord x.d).toNat
    let wide := bit f.sub 0
    let n := if wide then 2 else 1
    let clu := decide (fld f.mod 3 3 = 2)
    let left := consumersLeft mask t.fibre.qsent
    let u₀ := t.read s i
    let part := if clu ∧ t.fibre.qsent = 0 then (u₀.fresh.2).fencePart core vf 2 (x.ordOp u₀.fresh.2 .flush 0 0 0 2 0 0)
      else (x.ordOp u₀.fresh.2 .flush 0 0 0 2 0 0, u₀)
    let room := fun (c : Nat) => part.2.hasRoom core (consumerOf core q c) n = true
    let r := part.2.offerAll t.key vf q x.b wide (left.filter fun c => decide (c ≠ 18))
    let done := fun (u : State) => Does s i t (u.modFibre t.key fun g => { g with qsent := 0 }) (t.next s i)
    let waits := fun (u : State) (c k : Nat) =>
      Leaves s i ((u.unpop core (t.reading s i).2.1).park t.key (.register (.room (consumerOf core q c) k)))
    Ready s i t → qsendBad mask q wide clu = false → s.atomUnderWay t.key = none → part.2.writesPending part.1.writes = false →
    (∀ c ∈ left, ∀ p, consumerQueue core q c = some p → u₀.queueForeign p.1 vf p.2 = false) →
    (t.runsOn i ∨ Calm s t 0 → (∀ c ∈ left, c ≠ 18 → room c) →
      (18 ∉ left → done r.2) ∧ (18 ∈ left → ∀ u, x.offerCopy r.2 x.b = .ok u → done u) ∧
      ∀ c ∈ left, ∀ p, consumerQueue core q c = some p →
        ∃ places, (r.2.queueReg p.1 p.2).places = (part.2.queueReg p.1 p.2).places ++ places ∧
          places.map QPlace.word = if wide then [some (loWord x.b), some (hiWord x.b)] else [some (loWord x.b)]) ∧
    (Sound s t →
      (18 ∈ left → part.2.hasRoom core 18 1 = false → waits r.2 18 1) ∧
      ∀ c rest, r.1 = c :: rest →
        (18 ∉ left → waits r.2 c n) ∧ (18 ∈ left → ∀ u, x.offerCopy r.2 x.b = .ok u → waits u c n))) ∧
  ∀ (s : State) (core vf q : Nat) (w : Option Word) (nb : Bool),
    let u := s.pushQueue core vf q w nb
    (∃ p, (u.queueReg core q).places = (s.queueReg core q).places ++ [p] ∧ p.word = w ∧ p.neighbour = nb) ∧
    (u.queueReg core q).owner = some ((s.queueReg core q).owner.getD vf) ∧
    ∀ k c, (c, k) ≠ (core, q) → u.queueReg c k = s.queueReg c k

/-! ### Lanes and matrices (R44, R112 to R115, R242, R289 to R305) -/

/-- R242, R289, R291 to R293: PSET fills a permutation slot from the constant segment; a cross-lane instruction of a convened
gang whose one member is active gives that lane its result, the other lanes supplying zero. -/
def Obligations.CrossLaneResults : Prop :=
  ∀ (f : FormW) (s : State) (t : Turn),
    let core := coreOf t.key
    let vf := t.fibre.tenant
    (let i := Instr.pset f
     let a := (loWord (t.x s i).b).toNat
     let code := fld f.mod 4 2
     let n := if code = 0 then 8 else if code = 1 then 24 else 48
     let seg := s.constSegment t.fibre
     Goes s i t → a % 8 = 0 → a + n ≤ seg.2 →
      let slot : PermSlot := { width := 16 * 2 ^ code, owner := vf, image := ofBytes (s.store.phys.readBytes (seg.1 + a) n) }
      Does s i t ((t.read s i).modUnit core fun u => { u with perms := u.perms.put f.sub.toNat slot }) (t.next s i)) ∧
    ∀ (id : Nat) (g : Convened) (l : Nat), t.fibre.conv = some id → s.convened.find id = some g →
      g.core = core → g.members = [(l, t.index)] → isClerk t.key = false → s.crewBroken t.fibre = false →
      let gives := fun (i : Instr) (wide : Bool) (r : LaneIn → DWord × Flags) =>
        let x := t.x s i
        Executes s i t ((outPair f.a.toNat wide (r x).1).map Prod.fst) (r x).2 →
          Completes s i t (outPair f.a.toNat wide (r x).1) (r x).2 none
      let from_ := fun (x : LaneIn) (n : Int) => if n = l then x.b else 0
      let bool := fun (x : LaneIn) (v : DWord) => if loWord x.b = 0 then (0 : DWord) else v
      let all := fun (x : LaneIn) => ({ width := g.width, lanes := [(l, x)], mask := 2 ^ l } : CrossIn)
      (∀ p, (s.unit core).perms.find f.sub.toNat = some p → p.width = g.width → p.owner = vf →
        gives (.perm f) (fmtIs f 3) fun x => (from_ x (networkLane g.width p.image l), 0)) ∧
      (l < g.width → gives (.shfl f) (fmtIs f 3) fun x =>
        let n := (loWord x.c).toNat
        let k : Int := if f.sub = 0 then (n % 64 : Nat) else if f.sub = 1 then (l : Int) - n
          else if f.sub = 2 then (l : Int) + n else (Nat.xor l (n % 64) : Nat)
        (if 0 ≤ k ∧ k < g.width then from_ x k else x.b, 0)) ∧
      (l < g.width → gives (.bcast f) (fmtIs f 3) fun x => (from_ x (x.c.toNat % 64 : Nat), 0)) ∧
      gives (.reduce f) (fmt64 f) (fun x => opReduce f (all x) x) ∧
      gives (.scan f) (fmt64 f) (fun x => opScan f (all x) l x) ∧
      ((f.sub = 2 → fmtIs f 3 = false → g.width ≠ 64) → gives (.vote f) (fmtIs f 3) fun x =>
        (if f.sub = 2 then bool x (BitVec.ofNat 64 (2 ^ l)) else bool x 1, 0))

/-- R290, R114, R115: the network brings every lane to one lane, whatever the image, and an image of zeros moves none; over
an integer format the tree of a REDUCE is the sum of all lanes and the prefix of a SCAN the sum up to its lane, both wrapped. -/
def Obligations.NetworkAndTrees : Prop :=
  ∀ k, 1 ≤ k → k ≤ 6 →
    (∀ image i, i < 2 ^ k → networkLane (2 ^ k) image i < 2 ^ k) ∧
    (∀ image i j, i < 2 ^ k → j < 2 ^ k → networkLane (2 ^ k) image i = networkLane (2 ^ k) image j → i = j) ∧
    (∀ i, i < 2 ^ k → networkLane (2 ^ k) 0 i = i) ∧
    ∀ (fmt mode : Nat) (x : Nat → Nat), fmt < 8 → (∀ i, x i < 2 ^ intWidth fmt) →
      treeOf (combineOp fmt 0 mode) x 0 k = (((List.range (2 ^ k)).map x).sum % 2 ^ intWidth fmt, 0) ∧
      ∀ i, i < 2 ^ k → prefixFrom (combineOp fmt 0 mode) x i none 0 (k + 1) =
        (((List.range (i + 1)).map x).sum % 2 ^ intWidth fmt, 0)

/-- R146, R294, R295, R300 to R305: a matrix instruction whose operands are sound is accepted into the queue of its context
and counted, with the pitch granules that it touches; an MMA takes what it uses from the feed queues, and rows in registers
from the members of its gang; MDRAIN in the stochastic mode takes SEED, which moves on by one step for each element. -/
def Obligations.MatrixCommandsAreAccepted : Prop :=
  ∀ (f : FormW) (p : FormQI) (s : State) (t : Turn), t.fibre.pending = [] → t.fibre.counter 2 < 255 →
    let core := coreOf t.key
    let vf := t.fibre.tenant
    let accepts := fun (i : Instr) (ctx : Nat) (u : State) (cmd : MtxCommand) (seed : Option Word) =>
      Goes s i t → s.contextPriv ctx t.key = false → (s.context core ctx).queue.length < 16 →
      let r := u.startEngine t.key vf 2 [] (.mtx ctx cmd) [] []
      let v := r.2.pin r.1 (cmd.granules core)
      Does s i t ((v.modContext core ctx fun c => { c with queue := c.queue ++ [r.1] }).modFibre t.key fun g =>
        { g with fsr := seeded g.fsr seed }) (t.next s i)
    let ctx := fld f.mod 4 2
    let fmt := fld f.mod 0 4
    let mask := fld f.sub 0 4
    let clean := (s.context core ctx).poison = false
    (let i := Instr.mma f
     let x := t.x s i
     let u := t.read s i
     ∀ a b, clean → s.atomUnderWay t.key = none → x.mmaDescs u f = (some a, some b) → s.mmaBad core vf fmt a b x.d = none →
      (f.b = 0xD8 → (Desc.ofWord a).kind ≠ 2) → (f.c = 0xD8 → (Desc.ofWord b).kind ≠ 2) →
      (x.fromRegisters f = false →
        (∀ id g, t.fibre.conv = some id → s.convened.find id = some g → s.atRendezvous g = []) →
        accepts i ctx (u.takeFeeds core vf f) (.mma fmt mask a b x.d [] []) none) ∧
      (x.fromRegisters f = true → isClerk t.key = false → s.crewBroken t.fibre = false → ∀ id g l,
        t.fibre.conv = some id → s.convened.find id = some g → g.core = core → g.members = [(l, t.index)] →
        g.width = 64 →
        (let regs := [x.tileRegs f false, x.tileRegs f true].flatMap fun r =>
           match r with
           | some (codes, scales) => codes ++ scales
           | none => []
         (t.before s i).sourceStop t.key t.fibre (t.own s)
           (regs.map fun c => { code := BitVec.ofNat 8 c, t := false, l := false, slot := .src false }) = none) →
        let v : CrossIn := { width := 64, lanes := [(l, x)], mask := 2 ^ l }
        accepts i ctx (u.takeFeeds core vf f)
          (.mma fmt mask a b x.d (memberRows u v (x.tileRegs f false)) (memberRows u v (x.tileRegs f true))) none)) ∧
    (let i := Instr.mzero p
     accepts i (fld p.imm 0 2) (t.read s i) (.zero (fld p.imm 2 4)) none) ∧
    (let i := Instr.mdrain f
     clean → s.drainBad core vf fmt mask (.ofWord (t.x s i).b) false = none →
      accepts i ctx (t.read s i) (.drain fmt mask f.a.toNat t.fibre.seed.toNat (bit f.sub 4) (t.x s i).b)
        (if f.a = 4 then some (seedAfter t.fibre.seed (maskCount mask)) else none)) ∧
    (let i := Instr.macc f
     clean → s.atomUnderWay t.key = none → s.drainBad core vf fmt mask (.ofWord (t.x s i).b) true = none →
      accepts i ctx (t.read s i) (.acc fmt mask (bit f.sub 4) (t.x s i).b) none)

/-- R112, R113, R296, R302 to R305, R307: the oldest command of a context executes and leaves the queue. MZERO clears the elements of
the quarters that it names, and the poison where it names all; an MMA adds to each element of them the exact sum of the products of
its rows, and MACC the element of its tile, checked once against the bound; OVF and NV are set where an element overflows, an
operand is infinite, a product is ∞ × 0 or a block is invalid; MDRAIN writes the elements rounded, with its flags in the sticky
bits and nothing else of the pitch changed; MSTAT sends the state of its context to its register. No unit of its operands has been
read before (R309). That a command executes in one step is the model’s choice, log entry 3. -/
def Obligations.MatrixCommandsExecute : Prop :=
  ∀ (s : State) (core ctx id : Nat) (rest : List Nat) (o : EngineOp) (cmd : MtxCommand),
    let c := s.context core ctx
    c.queue = id :: rest → id ∉ rest → ctx < 4 → rising c.elems → (∀ p ∈ c.elems, p.1 < 16384) →
    s.engine.find id = some o → o.job = .mtx ctx cmd → o.units = [] →
    ∃ s', exec (.mtxCommandComplete core ctx) s = .next s' ∧
      let c' := s'.context core ctx
      let old := fun (k : Nat) => c.elems.get k (.fin 0)
      let new := fun (k : Nat) => c'.elems.get k (.fin 0)
      let adds := fun (mask : Nat) (term : Nat → Acc) (high low : Nat → Prop) (invalid : Prop) =>
        (∀ k, k < 16384 → new k = if inMask mask k then ((old k).add (term k)).settle.1 else old k) ∧
        (c'.sticky.getLsbD 6 = true ↔ c.sticky.getLsbD 6 = true ∨ ∃ k, k < 16384 ∧ inMask mask k = true ∧
          (high k ∨ ((old k).add (term k)).settle.2 = true)) ∧
        (c'.sticky.getLsbD 4 = true ↔ c.sticky.getLsbD 4 = true ∨ invalid ∨ ∃ k, k < 16384 ∧ inMask mask k = true ∧ low k) ∧
        (∀ n, n ≠ 4 → n ≠ 6 → c'.sticky.getLsbD n = c.sticky.getLsbD n) ∧ c'.poison = c.poison
      c'.queue = rest ∧
      (∀ mask, cmd = .zero mask →
        (∀ k, k < 16384 → new k = if inMask mask k then .fin 0 else old k) ∧
        c'.poison = (c.poison && decide (mask ≠ 15)) ∧ c'.sticky = c.sticky) ∧
      (∀ fmt mask a b d ra rb, cmd = .mma fmt mask a b d ra rb →
        let tiles := bits d.toNat 15 0 / 32
        let of := fun (w : DWord) (sof : Nat) (r : List (Nat × List Word × List Word)) =>
          s.operandRows core fmt tiles sof (.ofWord w) r
        let rowsA := of a (bits d.toNat 43 32) ra
        let rowsB := of b (bits d.toNat 55 44) rb
        let row := fun (rows : List (List FVal × Bool)) (n : Nat) => ((rows.map fun q => q.1.map (accOf 136))[n]?).getD []
        let sum := fun (k : Nat) => rowSum (row rowsA (k / 128)) (row rowsB (k % 128))
        adds mask (fun k => (sum k).1) (fun k => (sum k).2.2 = true) (fun k => (sum k).2.1 = true)
          (∃ r ∈ rowsA ++ rowsB, r.2 = true)) ∧
      (∀ fmt mask subtract src, cmd = .acc fmt mask subtract src →
        let d := Desc.ofWord src
        let w := matBits fmt
        let read := fun (place n : Nat) => ofBytes (s.store.pitch.readBytes (d.key core place) n)
        let side := fun (k : Nat) => read (d.tp * 256 + 8 * (k / 128) + 2 * (k % 128 / 32)) 2
        let elem := fun (k : Nat) =>
          let place := k / 128 * d.rp * 16 + k % 128 * w / 8
          if scaled fmt then
            blockValue fmt (if fmt = 8 then read place 1 / 16 ^ (k % 2) % 16 else read place 1) (side k % 256)
              (if fmt = 8 then side k / 256 else 0)
          else decodePlain (floatFmt fmt) (read place (w / 8)) false
        let value := fun (k : Nat) => accOf 272 (elem k)
        adds mask (fun k => if subtract then (value k).negate else value k) (fun k => ∃ n, value k = .beyond n)
          (fun k => fmt = 10 ∧ side k % 256 ≤ 6) False) ∧
      (∀ fmt mask mode seed clear dst, cmd = .drain fmt mask mode seed clear dst →
        let d := Desc.ofWord dst
        let w := matBits fmt / 8
        let value := fun (k : Nat) => (old k).value
        let rounded := fun (k : Nat) => roundDraw fmt mode false (BitVec.ofNat 32 seed) 0 (value k)
        let block := fun (i b : Nat) =>
          encodeBlock fmt mode (BitVec.ofNat 32 seed) ((upto (128 * i + 32 * b) 32).map value)
        let written := fun (place : Nat) (bytes : List Byte) =>
          s'.store.pitch.readBytes (d.key core place) bytes.length = bytes
        let raised := fun (n : Nat) =>
          if scaled fmt then ∃ i b, i < 128 ∧ b < 4 ∧ inMask mask (128 * i + 32 * b) = true ∧ (block i b).flags.getLsbD n = true
          else ∃ k, k < 16384 ∧ inMask mask k = true ∧ (rounded k).flags.getLsbD n = true
        (∀ k, k < 16384 → new k = if clear ∧ inMask mask k then .fin 0 else old k) ∧ c'.poison = c.poison ∧
        (∀ a, (∀ r ∈ tileRanges fmt mask d, a < d.key core r.1 ∨ d.key core r.1 + r.2 ≤ a) → storageOk s = true →
          s'.store.pitch.read a = s.store.pitch.read a) ∧
        (mode < 4 →
          (∀ n, n < 6 → (c'.sticky.getLsbD n = true ↔ c.sticky.getLsbD n = true ∨ raised n)) ∧
          c'.sticky.getLsbD 6 = c.sticky.getLsbD 6) ∧
        (mode < 4 → storageOk s = true → tileShapeBad fmt d = false → d.kind = 0 →
          (scaled fmt = false → ∀ k, k < 16384 → inMask mask k = true →
            written (k / 128 * d.rp * 16 + k % 128 * w) (toBytes (rounded k).code w)) ∧
          (scaled fmt = true → 127 * d.rp * 16 + 4 * blockRow fmt ≤ d.tp * 256 → ∀ i b, i < 128 → b < 4 →
            inMask mask (128 * i + 32 * b) = true →
            written (i * d.rp * 16 + b * blockRow fmt) (packBytes (matBits fmt) (block i b).codes) ∧
            written (d.tp * 256 + 8 * i + 2 * b) (toBytes ((block i b).scale + 256 * (block i b).extra) 2)))) ∧
      ∀ clear busy l, cmd = .stat clear busy [l] → (∀ p ∈ s.fibres, ∀ q ∈ p.2.counted, q.op ≠ id) →
        let v := c.sticky.toNat + (if c.poison then 128 else 0) + if busy then 256 else 0
        (∃ n, s'.landings.find n = some { fibre := o.fibre, writes := [(l, BitVec.ofNat 32 v)] }) ∧
        c'.sticky = (if clear then 0 else c.sticky) ∧ c'.elems = c.elems ∧ c'.poison = c.poison

/-! ### System instructions (R312 to R323) -/

/-- R8, R314, R315, R320, R323: SRD reads the system register at its offset and SWR, the clerk's, writes it by its own rules;
HALT halts the core; TMARK raises its event (R322); SWR to a register of the management part performs PRIV (R69), and XLINV_C
removes translations (R367); TRD reads an item of the bittern that the tenant owns, and zero where none does. -/
def Obligations.SystemRegistersAndMarks : Prop :=
  ∀ (w : FormWI) (q : FormQ) (s : State) (t : Turn),
    let vf := t.fibre.tenant
    let core := coreOf t.key
    let clerk := isClerk t.key = true
    (let i := Instr.srd w
     let off := (w.imm.toNat + (loWord (t.x s i).b).toNat) % 2 ^ 24
     let v := (t.read s i).readCore core t.fibre off
     Goes s i t → off % 8 = 0 → (w.sub = 1 → off = 0x130 ∧ (s.unit core).mailbox ≠ []) → (srdClerk off = true → clerk) →
      Free s i t [w.a.toNat, w.a.toNat + 1] →
      Sends s i t ((t.read s i).writeLong (t.x s i) [(w.a.toNat, loWord v), (w.a.toNat + 1, hiWord v)]) (t.next s i)) ∧
    (let i := Instr.swr w
     let off := w.imm.toNat
     let v := (t.x s i).b.toNat
     let u := t.read s i
     Goes s i t → clerk →
      (off = 0x100 → Does s i t (u.setCoreReg core off (issueCfg (s.coreReg core off) v)) (t.next s i)) ∧
      (off ∈ [0x120, 0x140, 0x148] →
        Does s i t (u.setCoreReg core off (writeValue (coreFields off) (s.coreReg core off) v)) (t.next s i)) ∧
      (off = 0x138 → Does s i t (u.mboxPop core) (t.next s i)) ∧
      (off = 0x158 → (s.unit core).xlinvBegun = false → s.coh.translations = [] →
        s.holders (bits v 63 57) (bits v 47 12) (decide (bits v 0 0 = 1)) = [] → Does s i t u (t.next s i)) ∧
      (0x1E00 ≤ off → off < 0x2810 → mgmtFields off ≠ [] →
        Leaves s i (((t.givenBack s i).perform t.key (effectOf (t.own s) 13 0 0)).maskedKill t.key))) ∧
    (let i := Instr.halt q
     Goes s i t → clerk → Does s i t ((t.read s i).setCoreF core 0x148 0 0 1) (t.next s i)) ∧
    (let i := Instr.tmark w
     Goes s i t → Does s i t ((t.read s i).raise (dieOfCore core) (0x100 + fld w.imm 0 8) vf core
      (loWord (t.x s i).a).toNat (loWord (t.x s i).b).toNat) (t.next s i)) ∧
    (let i := Instr.trd w
     let kind := fld w.imm 21 3
     let index := (fld w.imm 0 20 + (loWord (t.x s i).b).toNat) % 2 ^ 20
     let owner := if kind = 5 then some vf else s.trdOwner (dieOfCore core) kind index
     let v : DWord := if owner = none then 0 else BitVec.ofNat 64 ((s.bittern (dieOfCore core)).trd vf kind index)
     Goes s i t → trdRange kind index = true → (owner = none ∨ owner = some vf) →
      Free s i t [w.a.toNat, w.a.toNat + 1] →
      Sends s i t ((t.read s i).writeLong (t.x s i) [(w.a.toNat, loWord v), (w.a.toNat + 1, hiWord v)]) (t.next s i))

/-- R51, R87, R198, R317 to R319, R321: KILL tells what it finds, and kills the fibre or its crew; SRET answers the suspended
fibre of its core, once the clerk's writes have been performed; CODEX begins its operation, or refuses an unknown one with status
1; IFENCE waits for the clerk's patches. What parks the clerk and which fibre SRET answers are the model’s readings,
log entries 47 and 50. -/
def Obligations.ClerkInstructions : Prop :=
  ∀ (f : FormW) (q : FormQ) (s : State) (t : Turn),
    let core := coreOf t.key
    let clerk := isClerk t.key = true
    (let i := Instr.kill f
     let x := t.x s i
     let target := (loWord x.b).toNat
     let key := fibreKey core target
     let out := fun (v : Word) => Sends s i t ((t.read s i).writeLong x [(f.a.toNat, v)]) (t.next s i)
     Goes s i t → target < 4095 → Free s i t [f.a.toNat] →
      (s.fibres.find key = none → clerk → out 1) ∧
      ∀ g, s.fibres.find key = some g → (clerk ∨ g.crew = t.fibre.crew) →
        (g.counts = false → out 2) ∧
        (g.counts = true → f.a.toNat < 0xC0 → t.runsOn i →
          let u := ((t.read s i).noteWrite x f.a.toNat).writeCode t.key f.a.toNat 0
          (f.sub = 0 → Does s i t (u.killOne key) (t.next s i)) ∧
          (f.sub = 1 → ∀ c, g.crew = some c →
            Does s i t (u.killByOrder c (loWord x.c).toNat) (t.next s i)))) ∧
    (let i := Instr.sret f
     let x := t.x s i
     let u := t.read s i
     let part := (u.fresh.2).fencePart core t.fibre.tenant 4 (x.ordOp u.fresh.2 .flush 0 0 0 4 0 0)
     Goes s i t → clerk → f.b ≠ 0xD8 → t.fibre.pending = [] → part.2.writesPending part.1.writes = false →
      (s.suspendedBy core x.b = none → Does s i t part.2 (t.next s i)) ∧
      ∀ key g, s.suspendedBy core x.b = some (key, g) → t.runsOn i →
        Does s i t (part.2.reply core key g x.b (loWord x.c).toNat x.d (bit f.mod 0)) (t.next s i)) ∧
    (let i := Instr.codex f
     let x := t.x s i
     let codes := [f.a.toNat, f.a.toNat + 1]
     Goes s i t → clerk → f.a.toNat < 0xBF → Free s i t codes → ∀ u b, x.readBlock (t.read s i) 0 x.b.toNat = .ok (u, b) →
      (4 < field b 0 1 → Sends s i t (u.writeLong x (codes.zip [1, 0])) (t.next s i)) ∧
      (field b 0 1 ≤ 4 → ∃ (v : State) (id : Nat) (o : EngineOp) (l : List Loc), Does s i t v (t.next s i) ∧
        v.engine.find id = some o ∧ codes.map t.fibre.loc = l.map some ∧ (∀ k ∈ l, (v.cell k).mark = .empty) ∧
        o.job = .codex (field b 0 1) (field b 4 4) (field b 8 8) (field b 16 4) (field b 20 4) (field b 24 2) none none
          l [] ∧ o.core = core ∧ o.fibre = t.key)) ∧
    (let i := Instr.ifence q
     Goes s i t → (clerk → s.counterMet core t.fibre .patches = true) → Does s i t (t.read s i) (t.next s i))

/-! ### Effects (R78 to R82) -/

/-- R78 to R82: a fibre that performs an effect, and whose operations have ended, is suspended. Where a record matches, the
continuation up to the installer's call is captured and the handler entered in the installer's frame, with the handle in g0 and
g1 and the payload in g2 and g3. Where none matches, YIELD and WAIT file the fibre again; the tags so listed send it to the
clerk; every other tag posts a notice and kills the crew. A link that is no record's address is ILLEGAL. Where no segment's link names the
installer's call, its segment is split above it; a HANDLER that is no listed entry makes the fibre perform ILLEGAL from the
installer's frame. A clerk's own effect is a machine check: the log keeps the first tag and PC and counts, the PF is interrupted,
and the clerk stops (R380). That a slot's first generation is 1 is the model’s choice, log entry 5; for tags 8 to 10 the handler is
handed INFO, the model’s reading, log entry 40. -/
def Obligations.EffectsAreTaken : Prop :=
  ∀ (s : State) (core index : Nat) (f : Fibre) (e : Effect),
    let key := fibreKey core index
    let vf := f.tenant
    let goes := fun (t : State) => exec (.performEffect core index) s = .next t
    let toClerk := e.tag ∈ [3, 4, 5, 8, 9, 10, 15, 17, 18] ∨ (0x40 ≤ e.tag ∧ e.tag < 0x80)
    let capturedFrom := fun (top : Nat) (t : State) (slot : Nat) (k : KObject) =>
      t.kobjs.find (kKey vf slot) = some k ∧ k.state = 0 ∧ k.owner = vf ∧ k.tag = e.tag ∧ k.pc = e.pc.pointer ∧
        k.top = top ∧
        k.wid = f.workId ∧ k.live = f.live ∧ k.replay = f.pending.map f.rebase ∧ k.ofCrew = f.crew ∧
        k.heldStores = f.heldStores ∧
        k.record = s.effectRecord key f e (s.kHandle vf slot k.gen) ∧
        (s.kobjs.find (kKey vf slot) = none → k.gen = 1) ∧
        ∀ o, s.kobjs.find (kKey vf slot) = some o → k.gen = o.gen + 1
    let captured := capturedFrom f.fbSeg
    let bad := fun (v : Nat) => { e with tag := 12, addr := BitVec.ofNat 64 v, payload := 0, info := 0 }
    let posted := fun (x : Effect) (c : Nat) =>
      (((s.effectEvent key vf x.tag 3).post core (s.effectRecord key f x 0) true).modFibre key fun y =>
        { y with effect := none, notice := none }).killCrew c x.tag
    s.fibres.find key = some f → f.state = .performing → f.effect = some e → index < 4096 →
      (∀ a, (index < 4095 ∨ e.tag = 1) → s.findHandler core f e = .away a →
        let seg := segKey vf (frameSeg a)
        ((s.seg seg).resident ≠ some core → s.heapRoom core false = none →
          goes (s.modFibre key fun x => { x with effect := some { e with cursor := some a } })) ∧
        ∀ v, (s.seg seg).resident ≠ some core → s.heapRoom core false = some v → (v.segs.find seg).isSome = true →
          ∃ t : State, goes t ∧ (t.seg seg).resident = some core ∧
            (t.fibres.find key).bind Fibre.effect = ((v.fibres.find key).map fun _ => { e with cursor := some a })) ∧
      ((index < 4095 ∨ e.tag = 1) → s.findHandler core f e = .endless → goes s) ∧
      (index = 4095 →
        let check := fun (x : Effect) => (s.machineCheck core x).modFibre key fun y => { y with effect := none }
        (e.tag ≠ 1 → goes (check e)) ∧
        (∀ v, e.tag = 1 → s.findHandler core f e = .bad v → goes (check (bad v))) ∧
        ∀ x : Effect, x.tag < 2 ^ 16 → core < 256 →
          let u := s.machineCheck core x
          let log := 0xE000 + 0x10 * core
          let v := s.mgmtF 0x7028 7 0
          u.mgmtF log 63 63 = 1 ∧ (u.unit core).stopped = true ∧
          (s.mgmtF log 63 63 = 0 →
            u.mgmtF log 47 32 = x.tag ∧ u.mgmtF log 15 0 = 1 ∧ u.mgmt (log + 8) = x.pc.pointer.toNat) ∧
          (s.mgmtF log 63 63 = 1 → u.mgmtF log 47 32 = s.mgmtF log 47 32 ∧ u.mgmt (log + 8) = s.mgmt (log + 8) ∧
            u.mgmtF log 15 0 = min (s.mgmtF log 15 0 + 1) 0xFFFF) ∧
          u.sched.bal = s.sched.bal ∧
          (s.tdisp 0 ≠ .error → s.vectorMasked 0 v = false →
            u.plat.messages = s.plat.messages ++ [(0, v, s.activePort)]) ∧
          (s.tdisp 0 ≠ .error → s.vectorMasked 0 v = true →
            u.plat.messages = s.plat.messages ∧ u.vectorPending 0 v = true)) ∧
      (index < 4095 →
        (∀ a r bottom slot, f.onlyStopped = true → s.findHandler core f e = .record a r →
          (s.seg (segKey vf (frameSeg a))).resident = some core → s.freeK vf = some slot → bottom ∈ s.fibreSegs f →
          (s.seg (segKey vf bottom)).next = frameSeg a → (s.seg (segKey vf bottom)).savedFbw = r.fbw →
          (s.seg (segKey vf bottom)).slide = r.gslide → s.listedEntry vf r.handler = true →
          ∃ (t : State) (g : Fibre) (k : KObject), goes t ∧ captured t slot k ∧ t.fibres.find key = some g ∧
            g.state = .stalled ∧ g.fbSeg = frameSeg a ∧ g.fbWord = r.fbw ∧ g.hchain = r.prev ∧ g.live = 128 ∧
            g.pending = [] ∧ g.heldStores = [] ∧ g.counted = [] ∧
            g.pc = s.enter vf (hiWord r.handler) (loWord r.handler) ∧
            let h := s.kHandle vf slot k.gen
            ∀ p ∈ [(0, loWord h), (1, hiWord h), (2, loWord e.handed), (3, hiWord e.handed)],
              (t.cell (.frame (segKey vf (frameSeg a)) (r.fbw + p.1))).val = p.2) ∧
        (∀ a r bottom slot, f.onlyStopped = true → s.findHandler core f e = .record a r →
          (s.seg (segKey vf (frameSeg a))).resident = some core → s.freeK vf = some slot → bottom ∈ s.fibreSegs f →
          (s.seg (segKey vf bottom)).next = frameSeg a → (s.seg (segKey vf bottom)).savedFbw = r.fbw →
          (s.seg (segKey vf bottom)).slide = r.gslide → s.listedEntry vf r.handler = false →
          ∃ (t : State) (g : Fibre) (k : KObject), goes t ∧ captured t slot k ∧ t.fibres.find key = some g ∧
            g.state = .performing ∧ g.fbSeg = frameSeg a ∧ g.fbWord = r.fbw ∧ g.hchain = r.prev ∧
            g.pc.pointer = r.handler ∧
            ∃ x, g.effect = some x ∧ x.tag = 12 ∧ x.pc.pointer = r.handler ∧ x.addr = e.pc.pointer ∧ x.cursor = none) ∧
        (∀ a r bottom slot, f.onlyStopped = true → s.findHandler core f e = .record a r → f.hchain = a →
          let seg := segKey vf (frameSeg a)
          let dst := segKey vf bottom
          let cut := r.fbw + r.gslide
          (s.seg seg).resident = some core → s.freeK vf = some slot → frameWord a < cut → r.fbw + 4 ≤ cut → cut ≤ 248 →
          (∀ b ∈ s.fibreSegs f, ¬((s.seg (segKey vf b)).next = frameSeg a ∧ (s.seg (segKey vf b)).savedFbw = r.fbw ∧
            (s.seg (segKey vf b)).slide = r.gslide)) →
          s.heapUsed core < s.heapSize core → s.freeSegFor key vf = some bottom → s.listedEntry vf r.handler = true →
          s.landings = [] → f.pending = [] →
          ∃ (t : State) (g : Fibre) (k : KObject), goes t ∧
            capturedFrom (if f.fbSeg = frameSeg a then bottom else f.fbSeg) t slot k ∧ t.fibres.find key = some g ∧
            g.state = .stalled ∧ g.fbSeg = frameSeg a ∧ g.fbWord = r.fbw ∧ g.hchain = r.prev ∧
            (t.seg dst).next = frameSeg a ∧ (t.seg dst).savedFbw = r.fbw ∧ (t.seg dst).slide = r.gslide ∧
            (t.seg dst).hchain = a ∧
            (t.seg dst).retpc = pair (s.segWord vf (frameSeg a) (cut - 2)) (s.segWord vf (frameSeg a) (cut - 1)) ∧
            ∀ w, w < 248 - cut → (t.cell (.frame dst w)).val = (s.cell (.frame seg (cut + w))).val) ∧
        (s.findHandler core f e = .none →
          (e.tag = 1 ∨ e.tag = 2 → ∃ (t : State) (g : Fibre), goes t ∧ t.fibres.find key = some g ∧ g.state = .stalled ∧
            g.pc = (if e.pc.twin.isNone then s.enter vf e.pc.handle e.pc.off else s.freshPc vf e.pc) ∧ g.effect = none ∧
            (∀ k, k ≠ key → t.fibres.find k = s.fibres.find k) ∧ t.kobjs = s.kobjs ∧
            t.segs = s.segs) ∧
          (∀ slot, toClerk → f.onlyStopped = true → s.mailboxRoom core = true → s.freeK vf = some slot →
            ∃ (t : State) (g : Fibre) (k : KObject), goes t ∧ captured t slot k ∧ t.fibres.find key = some g ∧
              g.state = .suspended ∧ g.kh = some (s.kHandle vf slot k.gen) ∧
              (t.unit core).mailbox = (s.unit core).mailbox ++ [(k.record, false)]) ∧
          (∀ c, e.tag ≠ 1 → e.tag ≠ 2 → ¬ toClerk → s.mailboxRoom core = true → f.crew = some c →
            goes (posted e c)) ∧
          (e.tag ≠ 1 → e.tag ≠ 2 → toClerk → s.mailboxRoom core = false → goes s) ∧
          (e.tag ≠ 1 → e.tag ≠ 2 → ¬ toClerk → s.mailboxRoom core = false →
            goes (s.modFibre key fun x => { x with notice := some (s.effectRecord key f e 0) }))) ∧
        ∀ v c, s.findHandler core f e = .bad v → s.mailboxRoom core = true → f.crew = some c →
          goes (posted (bad v) c))

/-! ### Events -/

/-- R31 to R36, R51, R81, R171, R212: what a core does between instructions. A lone fibre of a lone stall is drawn and becomes
ISSUING in a gang of its own; an old fibre of the overflow takes the stall of another key; a PAUSE ends; a COLD fibre whose
segment is at hand is filed, and one whose segment is away gets it; a crew past its deadline is killed in any state; results are
written where they belong; a fibre that waits for room in the mailbox tries again. -/
def Obligations.CoreEventsTakeEffect : Prop :=
  ∀ (s : State) (core : Nat),
    let goes := fun (i : Instr) (t : State) => exec i s = .next t
    let u := s.unit core
    (∀ (port : Nat) (st : Stall) (m : Filed) (lane i base : Nat) (f : Fibre),
      let w := s.widthOf st.key.launch
      core < 256 → port < 2 → s.plat.gated.contains (clusterOf core) = false → s.clerkReady core = none →
      s.coreF core 0x148 0 0 = 0 → s.plat.thermal < 3 → u.stalls = [st] → u.overflow = [] → st.members = [m] →
      m.lanes = [(lane, i)] → m.held = false → i < 4095 → s.fibres.find (fibreKey core i) = some f →
      s.issuesFor core st.key.tenant = true → f.replays = [] → s.freeRange core port w = some base →
      ∃ (t : State) (id : Nat) (g : Gang) (f' : Fibre), goes (.issueOpportunity core port) t ∧ t.gangs.find id = some g ∧
        g.core = core ∧ g.port = port ∧ g.base = base ∧ g.width = w ∧ g.members = [(0, i)] ∧
        t.fibres.find (fibreKey core i) = some f' ∧ f'.state = .issuing ∧ f'.lane = 0 ∧
        f'.pc = s.freshPc f.tenant f.pc) ∧
    (∀ (key : StallKey) (m : Filed) (st : Stall), u.overflow = [(key, m)] → 64 ≤ u.busyStalls.length →
      (∀ x ∈ u.stalls, x.key ≠ key) → s.releasable core (decide (s.overdueAge core ≤ m.age)) = some st →
      let moved := fun (i : Instr) => ∃ t : State, goes i t ∧
        (t.unit core).overflow = st.members.map (fun q => (st.key, q)) ∧
        ∃ x ∈ (t.unit core).stalls, x.key = key ∧ x.members = [m]
      (s.stallAge core ≤ m.age → moved (.stallAgeRelease core)) ∧
      (s.overdueAge core ≤ m.age → moved (.overdueClaim core))) ∧
    (∀ (i : Nat) (m : Filed), s.heldBack core m = false →
      ((u.stalls.flatMap fun st => st.members) ++ u.overflow.map Prod.snd).find?
        (fun q => !q.held && q.lanes.any fun l => decide (l.2 = i)) = some m →
      goes (.pauseRelease core i) (s.modFibre (fibreKey core i) fun f => { f with pause := none })) ∧
    (∀ (key : Nat) (rest : List Nat) (f : Fibre), u.reloads = key :: rest → s.fibres.find key = some f →
      let seg := segKey f.tenant f.fbSeg
      ((s.seg seg).resident = some core → f.state = .cold none →
        ∃ (t : State) (g : Fibre), goes (.segmentReload core) t ∧ t.fibres.find key = some g ∧ g.state = .stalled ∧
          g.pc = f.pc ∧ (t.unit core).reloads = rest) ∧
      ∀ v, (s.seg seg).resident ≠ some core → s.heapRoom core true = some v → (v.segs.find seg).isSome = true →
        ∃ t : State, goes (.segmentReload core) t ∧ (t.seg seg).resident = some core) ∧
    (∀ (crew : Nat) (k : Crew) (d : Nat), s.sched.crews.find crew = some k → k.deadline = some d →
      k.killCause.isSome = true →
      (d ≤ s.gtc → goes (.killDeadline crew)
        ((((s.crewFibres crew).foldl (fun (v : State) p => v.killNow p.1) s).endRuns s).endCrew crew)) ∧
      (s.gtc < d → goes (.killDeadline crew) s)) ∧
    (∀ (id : Nat) (l : Landing) (seg w : Nat) (v : Word), s.landings.find id = some l →
      l.writes = [(.frame seg w, v)] → (s.segs.find seg).isSome = true → (∀ p ∈ s.gangs, p.2.leaving = none) →
      ∃ t : State, goes (.landingWrite id) t ∧ (t.cell (.frame seg w)).val = v ∧ (t.cell (.frame seg w)).mark = .full ∧
        t.landings = s.landings.del id) ∧
    (∀ (key : Nat) (f : Fibre), s.mailboxRoom core = true → u.notices = [] →
      (s.fibres.select fun k f => decide (coreOf k = core) && decide (f.state = .performing)) = [(key, f)] →
      goes (.mailboxDeferredPost core) (s.tryPerform key))

/-- R54 to R58, R60 to R62, R66, R120, R137, R363: what the launch scheduler does. Queue registers take what is written through
the ACTIVE port, by their rules; a record becomes ready; a dependence word is read again; a split is changed when its granules
are free; crews start, are killed beyond their limit and placed again; a launch completes; accounts are refilled.
When the scheduler looks again, and that a queue that is disabled forgets a head of which no band has been placed, are the
model’s readings, log entries 27 and 36. -/
def Obligations.SchedulerEventsTakeEffect : Prop :=
  ∀ (s : State) (vf q : Nat) (v : BitVec 64),
    let goes := fun (i : Instr) (t : State) => exec i s = .next t
    let port := s.activePort
    let u := s.queue vf q
    (s.plat.recovery = false →
      (∀ other, other ≠ port → ∀ i ∈ [Instr.doorbell other vf q v, .qheadWrite other vf q v, .qstatHaltClear other vf q v,
          .queueDisable other vf q v], goes i (s.countMgmt 0x7018 15 0)) ∧
      (s.coh.doorbells = [] → s.hostWaits = false →
        goes (.doorbell port vf q v) ((s.clearDeficits.setQueueF vf q 0x10 15 0 v.toNat).schedule vf q)) ∧
      (s.hostWaits = true → goes (.doorbell port vf q v)
        (s.modCoh fun c => { c with doorbells := c.doorbells ++ [(vf, q, v.toNat)] })) ∧
      (s.queueF vf q 0x28 24 24 = 1 → goes (.qheadWrite port vf q v) (s.setQueueF vf q 0x18 15 0 v.toNat)) ∧
      (s.queueF vf q 0x28 24 24 = 0 → goes (.qheadWrite port vf q v) s) ∧
      (s.queueF vf q 0x28 24 24 = 1 → bits v.toNat 24 24 = 1 → bits v.toNat 7 0 = 0 →
        goes (.qstatHaltClear port vf q v) ((s.setQueueF vf q 0x28 24 24 0).schedule vf q)) ∧
      (s.queueF vf q 8 15 15 = 1 → bits v.toNat 15 15 = 0 →
        ∃ t : State, goes (.queueDisable port vf q v) t ∧ t.queueF vf q 8 15 15 = 0 ∧
          t.queueF vf q 8 4 0 = s.queueF vf q 8 4 0 ∧ (u.launch = none → (t.queue vf q).head = none))) ∧
    (∀ r, u.head = some r → u.dependMet = true →
      (r.flag 1 = false ∨ (r.start : Int) - 1000 * s.mgmtF 0x1F08 15 0 ≤ s.ptp.toNat) →
      goes (.launchReady vf q) (s.modQueue vf q fun u => { u with ready := true }).arbitrate) ∧
    (let due := fun (o : OrdOp) => decide (o.stage = .watching ∧ isHostLine (lineOf o.addr) = true ∧
        max o.since o.polled + s.mgmtF 0x1F08 39 32 * 1000 ≤ s.gtc)
     let found := s.coh.ops.first fun _ o => decide (o.kind = .depend vf q) && due o
     (∀ id o, found = some (id, o) →
        (s.targetsOk vf 6 [o.addr] false = true → goes (.deppollRead vf q)
          (((s.setOrd id { o with polled := s.gtc }).serve id).tryComplete id)) ∧
        (s.targetsOk vf 6 [o.addr] false = false → goes (.deppollRead vf q) ((s.dropHead vf q).refuse vf q 10))) ∧
      (found = none → goes (.deppollRead vf q) s)) ∧
    (∀ core f sc w c, (s.unit core).repartition = some [f, sc, w, c] → f + sc + w + c = 24 →
      s.coreF core 0x110 31 24 ≤ c → s.heapUsed core ≤ f * 64 →
      ∃ t : State, goes (.repartition core) t ∧ (t.unit core).repartition = none ∧
        t.coreReg core 0x110 = f + 2 ^ 8 * sc + 2 ^ 16 * w + 2 ^ 24 * c) ∧
    (∀ crew k l w, s.sched.crews.find crew = some k → s.sched.launches.find k.launch = some l → k.started = none →
      k.ended = false → k.killCause = none → (s.unit k.core).repartition = none → l.record.args = 0 →
      (l.record.flag 1 = false ∨ l.record.start ≤ s.ptp.toNat) →
      (s.rootSegments (s.entryPc l.vf l.record) (s.crewFibres crew) = some (some w) → w.sched.crews.find crew = some k →
        ∃ (t : State) (k' : Crew), goes (.crewStart crew) t ∧ t.sched.crews.find crew = some k' ∧
          k'.started = some w.gtc ∧ k'.sregs = []) ∧
      (s.rootSegments (s.entryPc l.vf l.record) (s.crewFibres crew) = none →
        goes (.crewStart crew) (s.killCrew crew 0x10002))) ∧
    (∀ crew k t₀ r, s.sched.crews.find crew = some k → k.started = some t₀ → s.recordOf k.launch = some r →
      k.killCause = none → k.ended = false →
      (r.runlim ≠ 0 → t₀ + r.runlim * 1000 < s.gtc → goes (.runlimExpiry crew)
        ((s.modCrew crew fun k => { k with deadline := some (t₀ + (r.runlim + s.mgmtF 0x1F08 31 16) * 1000) }).killCrew crew
          0x10001)) ∧
      (r.runlim = 0 ∨ s.gtc ≤ t₀ + r.runlim * 1000 → goes (.runlimExpiry crew) s)) ∧
    (∀ launch l, s.sched.launches.find launch = some l → l.completing = false → l.placed = l.record.bands →
      (∀ p ∈ s.sched.crews, p.2.launch = launch → p.2.ended = true ∧ s.relaunchable p.2 = false) →
      let killed := (s.sched.crews.select fun _ k => decide (k.launch = launch)).any fun p => p.2.killCause.isSome
      let s₁ := s.modSched fun c =>
        { c with launches := c.launches.put launch { l with completing := true, crewKilled := killed } }
      let w := (s.launchCores launch).foldl (fun (a : List (Nat × Nat) × State) core =>
        (a.1 ++ (a.2.fenceWrites core l.vf).1, (a.2.fenceWrites core l.vf).2)) ([], s₁)
      ∃ op : OrdOp, op.kind = .completion launch ∧ op.stage = .held ∧ op.writes = w.1 ∧
        op.hostWrites = (w.2.launchCores launch).flatMap w.2.coreHostWrites ∧
        goes (.launchComplete launch) (((w.2.fresh.2).setOrd w.2.nextId op).tryComplete w.2.nextId)) ∧
    (∀ crew k l t, s.sched.crews.find crew = some k → s.sched.launches.find k.launch = some l →
      s.relaunchable k = true → l.completing = false →
      (s.modSched fun c => { c with crews := c.crews.del crew }).placeCrew l.vf k.launch k.band k.core k.firstWid.toNat
        (k.relaunches + 1) l.record = some t → goes (.crewRelaunch crew) t) ∧
    (let boundary := s.gtc / (s.mgmtF 0x1F00 25 16 * 1000) * (s.mgmtF 0x1F00 25 16 * 1000)
     (boundary ≤ s.sched.refilledAt → goes .tokenRefill s) ∧
      (s.sched.refilledAt < boundary → goes .tokenRefill
        ((List.range 128).foldl State.sendPending ((List.range 129).foldl State.refill s.takeBudgets)).arbitrate) ∧
      s.takeBudgets.sched.refilledAt = boundary ∧
      ∀ t, t < 129 → s.takeBudgets.budget t = s.mgmtF (0x2000 + 0x10 * t) 31 0) ∧
    (s.sched.lent = [] →
      let repay := min (s.sched.debt.get vf 0) (s.budget vf / 2)
      (s.refill vf).bal vf = max (min (s.bal vf + s.budget vf - repay) (s.budget vf)) (-(s.budget vf)) ∧
        (s.refill vf).sched.debt.get vf 0 = s.sched.debt.get vf 0 - repay)

/-- R127, R130, R133 to R136, R142, R144, R147, R261, R266 to R272, R361, R363, R368: what happens to lines, and what engines and
hosts do. A home applies a write that waits once GTC has reached EXP, and not before; polls, recalls and operations in flight go
on; gating evicts every line of the cluster; snoops and reads of a host are answered, its writes reach their homes; engine
operations run to their end or stop at their failure; an INV then has removed every copy of its range from the L1 of its core, and a
CPYW has released its completion word after its last byte. That engines move their bytes in one step, the codes and ports of host
answers, and the error answer of a poisoned read are the model’s choices, log entries 3, 24 and 55. -/
def Obligations.MemoryAndEngineEventsTakeEffect : Prop :=
  ∀ (s : State) (op : Nat),
    let goes := fun (i : Instr) (t : State) => exec i s = .next t
    (∀ line w, line % 64 = 0 → (s.home line).waiting = [w] → (s.home line).exp ≤ s.gtc → s.coh.ops = [] →
      s.net.messages = [] → s.engine = [] → s.coh.doorbells = [] →
      ∃ t : State, goes (.homeWriteApply line) t ∧ (t.home line).waiting = [] ∧
        t.store.phys = if s.isSealed line then s.store.phys else s.store.phys.writeCells w.data) ∧
    (∀ line, line % 64 = 0 → s.gtc < (s.home line).exp → goes (.homeWriteApply line) s.ringWaiting.netProgress) ∧
    (∀ o cond, s.coh.ops.find op = some o → o.kind = .waita cond → o.stage = .watching → isHostLine (lineOf o.addr) = true →
      let next := max o.since o.polled + s.mgmtF 0x1F08 39 32 * 1000
      (next ≤ s.gtc → goes (.waitaHostPoll op) (((s.setOrd op { o with polled := s.gtc }).serve op).tryComplete op)) ∧
      (s.gtc < next → goes (.waitaHostPoll op) s)) ∧
    (∀ core line t, line % 64 = 0 → (s.home line).tag = some t → t.agent = core → (s.home line).tagState = .recalling →
      (s.home line).recallSent = true → goes (.recallLine core line) (s.recall core line)) ∧
    ((∀ m ∈ s.net.messages, m.2.atom ≠ some op) → goes (.orderingComplete op) (s.tryComplete op).netProgress) ∧
    (∀ c, c < 32 →
      (c ∉ s.plat.gated → s.mayGate c = true → goes (.clusterGate c)
        (((upto (8 * c) 8).foldl (fun (v : State) core =>
          (v.l1Lines core fun _ _ => true).foldl (fun v line => v.evictLine core line) v) s).modPlat fun p =>
            { p with gated := p.gated ++ [c] })) ∧
      ∃ t : State, goes (.clusterUngate c) t ∧ c ∉ t.plat.gated ∧ { t with plat := s.plat } = s) ∧
    (∀ port line since, let home := hostLineOf port line
      ((s.home home).exp ≤ s.gtc → goes (.hostSnoop port line) (s.answerSnoop port home s.gtc)) ∧
      (s.gtc < (s.home home).exp → goes (.hostSnoop port line)
        (s.modCoh fun c => { c with snoops := c.snoops ++ [(port, home, s.gtc)] })) ∧
      (s.coh.snoops = [(port, home, since)] → (s.home home).exp ≤ s.gtc →
        goes (.hostSnoopAnswer port line) ((s.modCoh fun c => { c with snoops := [] }).answerSnoop port home since))) ∧
    (∀ port vf addr wide, let n := if wide then 8 else 4
      ((addr % n ≠ 0 ∨ s.hostMay vf addr n false = false) →
        goes (.hostAtomicRead port vf addr wide) (s.answer [2, portNumber port, addr])) ∧
      (addr % n = 0 → s.hostMay vf addr n false = true → s.isPoisoned (lineOf addr) = true →
        goes (.hostAtomicRead port vf addr wide) (s.answer [3, portNumber port, addr])) ∧
      (addr % n = 0 → s.hostMay vf addr n false = true → s.isPoisoned (lineOf addr) = false →
        ∃ o : OrdOp, o.kind = .hostRead port ∧ o.addr = addr ∧ o.size = n ∧ o.scope = 5 ∧ goes (.hostAtomicRead port vf addr wide)
          ((((s.fresh.2).setOrd s.nextId o).serve s.nextId).tryComplete s.nextId))) ∧
    (∀ port cxl vf addr (data : List Byte), 0 < data.length → (addr + data.length - 1) / 64 = addr / 64 →
      let write := Instr.hostWrite port cxl vf addr data
      (s.hostMay vf addr data.length true = false → goes write (s.countMgmt 0x7018 31 16)) ∧
      (s.hostMay vf addr data.length true = true →
        (s.isSealed (lineOf addr) = false →
          let w : HomeWrite :=
            { id := 0, core := none, vf := vf, since := 0, data := cellsAt addr data, host := true }
          goes write (s.sendHomeAs w (lineOf addr)).2.ringWaiting.netProgress) ∧
        (s.isSealed (lineOf addr) = true → cxl = false → goes write (s.countMgmt 0x7018 31 16).ringWaiting.netProgress) ∧
        (s.isSealed (lineOf addr) = true → cxl = true →
          goes write (s.answer [3, portNumber port, lineOf addr]).ringWaiting.netProgress))) ∧
    (∀ port vf addr len,
      (s.hostMay vf addr len false = true →
        ((∀ a, addr ≤ a → a < addr + len → s.isPoisoned (lineOf a) = false) → goes (.hostMemoryRead port vf addr len)
          (s.answer ([4, portNumber port, addr] ++ (s.readPlace addr len).map BitVec.toNat))) ∧
        ((∃ a, addr ≤ a ∧ a < addr + len ∧ s.isPoisoned (lineOf a) = true) →
          goes (.hostMemoryRead port vf addr len) (s.answer [3, portNumber port, addr]))) ∧
      ((∀ a, s.slotAt a = none) → s.readPlace addr len = s.store.phys.readBytes addr len) ∧
      (s.hostMay vf addr len false = false →
        goes (.hostMemoryRead port vf addr len) (s.answer [2, portNumber port, addr]))) ∧
    (∃ t : State, goes (.hostWriteAcknowledgement op) t ∧ (∀ w ∈ t.coh.hostWrites, w.id ≠ op) ∧
      (∀ w ∈ s.coh.hostWrites, w.id ≠ op → w ∈ t.coh.hostWrites) ∧
      { t with coh := { t.coh with hostWrites := s.coh.hostWrites } } = s) ∧
    ∀ o, s.engine.find op = some o →
      (∀ j, o.job = .copy j → o.release = none →
        (s.copyFailure o j none 0 j.rows = none → j.word = none →
          goes (.copyComplete op) ((s.copyRows o j none 0 j.rows).2.copyDone op o j)) ∧
        ∀ h e, s.copyFailure o j h 0 j.rows = some e →
          let r := s.copyRows o j (some e) 0 j.rows
          goes (.engineStop op h) (r.2.stopEngine op (stoppedAt e.addr r.1 e.poisoned))) ∧
      (∀ j, o.job = .gs j →
        (∀ n t, s.gsElements o j none 0 j.count = (n, none, t) → goes (.gsComplete op) (t.endEngine op)) ∧
        ∀ h n a p t, s.gsElements o j h 0 j.count = (n, some (a, p), t) →
          goes (.engineStop op h) (t.stopEngine op (stoppedAt a n p))) ∧
      (∀ j, o.job = .wb j → j.inval = false → s.performed o.writes [] = true → s.hostPending o.hostWrites = false →
        goes (.wbComplete op) (s.endEngine op)) ∧
      (∀ j, o.job = .wb j → j.inval = true → s.performed o.writes [] = true → s.hostPending o.hostWrites = false →
        rising s.coh.l1 → (∀ line ∈ j.lines, line < 2 ^ 58) →
        ∃ u : State, goes (.wbComplete op) (u.endEngine op) ∧ u.store = s.store ∧
          (∀ line ∈ j.lines, ∀ l, u.l1 o.core line = some l → l.copy = none) ∧
          ∀ core m, m < 2 ^ 58 → (core ≠ o.core ∨ m ∉ j.lines) → u.l1 core m = s.l1 core m) ∧
      (∀ j addr v scope, o.job = .copy j → o.release = none → s.copyFailure o j none 0 j.rows = none →
        j.word = some (addr, v, scope) →
        let r := s.copyRows o j none 0 j.rows
        let w := r.2
        (w.startRelease o addr scope v = none →
          goes (.copyComplete op) (w.stopEngine op (stoppedAt addr r.1 (w.wordPoisoned o addr)))) ∧
        ∀ pa, pageAddress o.pages addr = some pa → w.storeBad o.core o.vf addr pa false = none →
          w.arrives o.vf 1 pa true = true → w.portInactive pa = false → 2 ≤ scope → isHostLine (lineOf pa) = false →
          (w.objectAt o.vf addr).1 = .shared → pa % 8 = 0 →
          let h := w.home (lineOf pa)
          (h.tagState = .untagged ∨ h.tagState = .delivered) → h.atomicWaits = false → w.watchers (lineOf pa) = [] →
          w.releaseBefore (lineOf pa) w.nextId true = false →
          (∀ p ∈ w.coh.ops, p.2.agent = o.core → p.2.stage ≠ .held ∧ p.2.stage ≠ .watching) →
          (∀ p ∈ w.coh.l1, p.1 / 2 ^ 58 = o.core → p.2.dirty ≠ [] → ((w.unit o.core).rseq + 1 - p.2.stamp).toNat < 32768) →
          ∃ u : State, goes (.copyComplete op) (u.copyDone op o j) ∧ u.store = w.store ∧
            (u.home (lineOf pa)).tagState = .tagged ∧ (u.home (lineOf pa)).tag =
              some { agent := o.core, inc := w.incarnation o.core, seq := (w.unit o.core).rseq, dead := false } ∧
            (u.unit o.core).rseq = (w.unit o.core).rseq + 1 ∧
            ∃ l, u.l1 o.core (lineOf pa) = some l ∧ l.retained = true ∧
              ∀ k, k < 8 → l.dirty.find (pa % 64 + k) = (toBytes v.toNat 8)[k]?) ∧
      ∀ r, o.codexReq = some r →
        let done := fun (i : Instr) (t : State) (status : Nat) (h : Option Nat) (runs : List (Nat × Nat)) =>
          goes i (t.codexDone op status h runs)
        (∀ i, r.op = 0 → r.vf < 128 → s.entryFree r.vf i = true →
          let e := s.entryAt r.vf i
          done (.codexReserve op i) (s.setEntry r.vf i { e with reserved := true }) 0 (some (i * 4096 + e.gen)) []) ∧
        (s.namedEntry r.vf r.handle = none →
          (r.op = 1 → ∀ place, done (.codexSeal op place) s 12 none []) ∧
          (r.op = 2 → done (.codexPatch op) s 12 none []) ∧
          (r.op = 3 → ∀ place, done (.codexSwap op place) s 12 none []) ∧
          (r.op = 4 → done (.codexFree op) s 12 none [])) ∧
        ∀ e, s.namedEntry r.vf r.handle = some e →
          (∀ place t b, r.op = 1 → e.reserved = true → e.valid = false → s.imageBytes o r.src r.len = .ok (t, b) →
            let m := imageOf b
            let n := lineCeil m.text.length + m.const.length
            let status := firstStatus (imageStatus b (fun m => decide (m.oflags % 2 = 1)) ++
              [(9, t.noRoom n)])
            let e' := e.ofImage m op place
            (status ≠ 0 → done (.codexSeal op place) t status none []) ∧
            (status = 0 → t.roomAt place n = false ∨ t.quietAt place n = false → goes (.codexSeal op place) t) ∧
            (status = 0 → t.roomAt place n = true → t.quietAt place n = true → done (.codexSeal op place)
              ((((t.putSealed e'.text m.text).putSealed e'.const m.const).sealLines e'.ownLines).setEntry r.vf
                (r.handle / 4096) e') 0 none [])) ∧
          (∀ t b, r.op = 2 → e.valid = true → s.imageBytes o r.src r.len = .ok (t, b) →
            let status := patchStatus e (t.store.phys.readBytes e.text e.tlen) b r.ofs
            (status ≠ 0 → done (.codexPatch op) t status none []) ∧
            (status = 0 →
              let runs := t.twinRuns r.vf (r.handle / 4096) e
              let busy := !runs.isEmpty
              done (.codexPatch op) (((t.putSealed (e.text + r.ofs) b).unsealTwin e busy).setEntry r.vf (r.handle / 4096)
                (if e.twin then e.dropTwin busy else e)) 0 none runs)) ∧
          (∀ place, r.op = 3 → e.valid = true → r.len = 0 →
            let runs := s.twinRuns r.vf (r.handle / 4096) e
            let busy := !runs.isEmpty
            done (.codexSwap op place) ((s.unsealTwin e busy).setEntry r.vf (r.handle / 4096) (e.dropTwin busy)) 0 none
              runs) ∧
          (r.op = 4 → e.valid = true → s.codeBusy r.vf r.handle = true → done (.codexFree op) s 11 none []) ∧
          (r.op = 4 → e.valid = true → s.codeBusy r.vf r.handle = false →
            ∃ e' : CodeEntry, e'.valid = false ∧ e'.reserved = false ∧
              e'.gen = (if e.gen = 4095 then 1 else e.gen + 1) ∧
              done (.codexFree op) ((s.unseal e.allLines).setEntry r.vf (r.handle / 4096) e') 0 none [])

/-- R319, R324, R327, R330, R333, R335 to R343, R346, R14: what the network engines and the die links do. A bad header is counted
and its packet discarded; every other packet is taken by its type; stripes are sent, asked for again and lost by their times; an
unsupported packet is answered with a NACK; die links gather flits, ask again, and take failed groups out of service. A CODEX
writes its status when the operation has completed. The code is that of R332: the product is the field's, a coefficient is an
inverse, parity is their sum, and a fragment that is lost comes back from the others and one parity. Data is placed at BASE +
ROFF + offset, or behind a slot's header, by a write at the home of its line; a stripe is complete with k fragments, and is
acknowledged once its writes are performed. The transport’s own answers and the counting are the model’s, log entries 25, 30 and
35. -/
def Obligations.NetworkEventsTakeEffect : Prop :=
  ∀ (s : State) (op : Nat),
    let goes := fun (i : Instr) (t : State) => exec i s = .next t
    (∀ (io : Nat) (p : Packet),
      let events := [Instr.dataFragmentReceive io p, .parityFragmentReceive io p, .stripeAckReceive io p,
        .retransmitRequestReceive io p, .probeReceive io p, .abortReceive io p, .targetResetIndication io p,
        .atomicReplyReceive io p]
      let dst := (s.engineOf p.dvf).getD io
      let at_ := fun (g : State → State) => if dst = io then g s else s.sendLink (8 + io) (8 + dst) p none
      let taken := fun (g : State → State) => (at_ g).netProgress
      (packetBad p = true → ∀ i ∈ events, goes i (s.countMgmt (netOff io 0x068) 31 16)) ∧
      (packetBad p = false →
        (p.type = 0 → goes (.dataFragmentReceive io p) (taken fun s => s.takeFragment io p)) ∧
        (p.type = 1 → goes (.parityFragmentReceive io p) (taken fun s => s.takeFragment io p)) ∧
        (p.type = 2 → goes (.stripeAckReceive io p) (taken fun s => s.takeAck p)) ∧
        (p.type = 3 → goes (.retransmitRequestReceive io p) (taken fun s => s.takeRequest p)) ∧
        (p.type = 4 → p.dvf ∉ s.net.resets → goes (.probeReceive io p) (taken fun s => s.takeProbe p)) ∧
        (p.type = 4 → p.dvf ∈ s.net.resets →
          goes (.probeReceive io p) (taken fun s => s.indicateReset io p.dvf p.srcDev p.srcVf p)) ∧
        (p.type = 5 → goes (.abortReceive io p) (taken fun s => s.takeAbort p)) ∧
        (p.type = 6 → goes (.targetResetIndication io p) (taken fun s => s.peerReset p.srcDev p.srcVf p.epoch)) ∧
        (p.type = 7 → goes (.atomicReplyReceive io p) (taken fun s => s.takeReply p))) ∧
      (io ≤ 1 → goes (.pdsNackReceive io p) (at_ fun s => s.takeNack p))) ∧
    (∀ io source, ∃ (t : State) (nack : WirePacket), goes (.unsupportedPacket io source) t ∧ nack.dev = source ∧
      nack.port = 6 * io ∧ nack.type = 18 ∧ t.net.wire = s.net.wire ++ [nack] ∧
      { t with net := { t.net with wire := s.net.wire } } = s) ∧
    (∀ stripe, goes (.stripeSend op stripe) (s.sendStripe op stripe) ∧
      goes (.stripeResend op stripe) (s.sendStripe op stripe)) ∧
    (∀ o j, s.engine.find op = some o → o.job = .net j →
      (∀ stripe, j.state = .waiting → j.sent = [] → j.acked = [] → stripe < j.stripes → s.performed o.writes [] = true →
        (s.noRoute j = true → s.sendStripe op stripe = s.netLoss op o j .noRoute) ∧
        (s.noRoute j = false → s.sourceRefused o j stripe = false → s.sourceFails o j stripe = none →
          let j' := { j with state := .inFlight, sent := [stripe], progress := s.gtc }
          s.sendStripe op stripe =
            State.sendFragments { s with engine := s.engine.put op { o with job := .net j' } } o j' stripe 0
              (List.range (j.k + j.m)))) ∧
      (j.state = .inFlight → j.probed = none → j.progress + s.ntimeout j.io ≤ s.gtc →
        ∃ (t : State) (o' : EngineOp) (j' : NetJob), goes (.ntimeoutExpiry op) t ∧ t.engine.find op = some o' ∧
          o'.job = .net j' ∧ j'.probed = some s.gtc) ∧
      (j.state = .inFlight → ∀ t₀, j.probed = some t₀ →
        (t₀ + s.stripeWait j.io ≤ s.gtc → goes (.probeWaitExpiry op) (s.loseMessage op o j)) ∧
        (s.gtc < t₀ + s.stripeWait j.io → goes (.probeWaitExpiry op) s))) ∧
    (∀ m, s.net.messages.find op = some m →
      (∀ stripe st, m.stripes.find stripe = some st → st.complete = false → st.abandoned = false →
        (s.gtc < st.arrived + s.stripeWait m.io → goes (.stripeWaitExpiry op stripe) s) ∧
        (st.arrived + s.stripeWait m.io ≤ s.gtc →
          ∃ (t : State) (m' : RxMessage) (st' : RxStripe), goes (.stripeWaitExpiry op stripe) t ∧
            t.net.messages.find op = some m' ∧ m'.stripes.find stripe = some st' ∧ st'.round = st.round + 1 ∧
            st'.arrived = s.gtc)) ∧
      ∀ t₀, m.ended = some t₀ → m.counted = true → t₀ + s.ntimeout m.io ≤ s.gtc →
        goes (.messageRecordExpiry op) (s.modNet fun n => { n with messages := n.messages.del op })) ∧
    (s.gtc < s.net.occAt + 1000 → goes .sluiceOcc s) ∧
    (s.net.occAt + 1000 ≤ s.gtc → s.stripeHolders 0 = [op] → s.stripeHolders 1 = [] → goes .sluiceOcc
      ((s.modNet fun n => { n with occAt := s.gtc }).raiseSluice 0 0x0013 op (s.mgmtF (netOff 0 0x070) 25 0)
        (s.sluiceOf 0 (fun m => decide (m.first.dvf = op)) / 64))) ∧
    (∀ src dst (flit : Flit), let l := s.link src dst
      (flit.group ∉ l.groups ∨ (flit.k, flit.m) ≠ l.codeOf flit.stripe → goes (.dieLinkFlitReceive src dst flit) s) ∧
      (flit.group ∈ l.groups → flit.stripe = l.next → (flit.k, flit.m) = l.codeOf flit.stripe → flit.k = 1 →
        flit.index = 0 → flit.data.length = 64 → l.stripes = [] → (∀ c ∈ l.cargo, c.last ≠ l.next) →
        ∃ t : State, goes (.dieLinkFlitReceive src dst flit) t ∧
          (t.link src dst).delivered = l.delivered ++ [flit.data] ∧ (t.link src dst).next = l.next + 1)) ∧
    (∀ src dst group n st, let l := s.link src dst
      l.stripes = [(n, st)] → (∀ p ∈ l.sent, p.1 < l.next ∨ p.1 = n) → st.whole = false → st.arrived + 64 ≤ s.gtc →
        let lacks := ((List.range (st.k + st.m)).filter fun i => (st.flits.find i).isNone).take (st.k - st.flits.length)
        (st.rounds < 15 → goes (.dieLinkRetryExpiry src dst group)
          ((s.setLink src dst { l with requests := l.requests ++ [(n, lacks)],
                                       stripes := l.stripes.put n { st with rounds := st.rounds + 1, arrived := s.gtc } }).sendFlits
            src dst n lacks)) ∧
        (15 ≤ st.rounds → ∃ t : State, goes (.dieLinkRetryExpiry src dst group) t ∧ group ∈ (t.link src dst).lost ∧
          group ∈ (t.link dst src).lost ∧ (n, lacks) ∈ (t.link src dst).requests)) ∧
    (∀ src dst group, ∃ t : State, goes (.dieLinkGroupFailure src dst group) t ∧ group ∈ (t.link src dst).lost ∧
      group ∈ (t.link dst src).lost ∧ (t.link src dst).delivered = (s.link src dst).delivered) ∧
    (∀ a b c, a < 256 → b < 256 → c < 256 → gfMul a 1 = a ∧ gfMul a (Nat.xor b c) = Nat.xor (gfMul a b) (gfMul a c) ∧
      (b < 128 → gfMul a (2 * b) = if gfMul a b < 128 then 2 * gfMul a b else Nat.xor (2 * gfMul a b) 0x11D)) ∧
    (∀ i j, i < 16 → j < 16 → cauchy i j < 256 ∧ gfMul (cauchy i j) (16 + Nat.xor i j) = 1) ∧
    (∀ (data : List (List Byte)) j n, data.length ≤ 16 → j < 16 →
      (parityOf data j n).length = n ∧
      (∀ b, b < n → ((parityOf data j n).getD b 0).toNat =
        (List.range data.length).foldl (fun v d => Nat.xor v (gfMul (cauchy d j) ((data.getD d []).getD b 0).toNat)) 0) ∧
      ∀ d, d < data.length → (∀ x ∈ data, x.length = n) →
        rebuild (((List.range data.length).filter fun e => e ≠ d).map fun e => (e, data.getD e [])) [(j, parityOf data j n)] [d] n =
          [(d, data.getD d [])]) ∧
    (∀ f va pa (data : List Byte), data ≠ [] → lineOf (va + data.length - 1) = lineOf va →
      s.agentAddress f 4 (lineOf va) true = some pa → s.isSealed (lineOf pa) = false → s.inBacking f (lineOf va) = false →
      let r := s.sendHome none f (lineOf pa) (cellsAt (lineOf pa + va % 64) data)
      s.netWrite f va data = some ([(lineOf pa, r.1)], r.2)) ∧
    (∀ (m : RxMessage) e stripe d (data : List Byte), m.key = some e →
      let off := (stripe * m.first.k + d) * m.frag
      let bytes := data.take (min m.frag (m.first.msgLen - off))
      (m.first.op = 0 → s.placeData m stripe d data =
        (s.netWrite m.first.dvf (e.base + m.first.roff + off) bytes).map fun w => (m, w.1, w.2)) ∧
      (m.first.op = 1 → s.placeData m stripe d data =
        (s.netWrite m.first.dvf (m.slot + 32 + off) bytes).map fun w => (m, w.1, w.2))) ∧
    (∀ (m : RxMessage) e p, m.key = some e → p.op = 1 → p.msgLen < 2 ^ 32 → p.srcDev < 2 ^ 16 → p.srcVf < 2 ^ 8 →
      let i := p.dvf * 2 ^ 20 + p.rkey.toNat / 4096
      let made := s.net.producers.get i 0
      let slot := e.base + made % (e.len / e.slotSize) * e.slotSize
      let header := slotHeader p made
      (s.beginMessage p m = (s.netWrite p.dvf slot header).map fun w =>
        ({ m with slot := slot, writes := w.1 }, w.2.modNet fun n => { n with producers := n.producers.put i (made + 1) })) ∧
      header.length = 32 ∧ field header 0 4 = p.msgLen ∧ field header 4 4 = p.immv.toNat ∧ field header 8 2 = p.srcDev ∧
      field header 10 1 = p.srcVf ∧ field header 11 1 = 0 ∧ (made < 2 ^ 64 → field header 12 8 = made)) ∧
    (∀ (m : RxMessage) stripe (t : RxStripe), let whole := { t with complete := true, parity := [], reserve := 0 }
      (t.data.length = m.first.k →
        s.completeStripe m stripe t = some ({ m with stripes := m.stripes.put stripe whole }, s)) ∧
      (t.data.length + t.parity.length < m.first.k →
        s.completeStripe m stripe t = some ({ m with stripes := m.stripes.put stripe t }, s)) ∧
      (∀ d j b held x m' ws u, t.data.length + 1 = m.first.k → t.parity = [(j, b)] →
        (List.range m.first.k).filter (fun e => !t.data.contains e) = [d] →
        s.placedAll m stripe ((List.range m.first.k).filter fun e => t.data.contains e) = some held →
        rebuild held [(j, b)] [d] m.frag = [(d, x)] → s.placeData m stripe d x = some (m', ws, u) →
        s.completeStripe m stripe t =
          some ({ m' with stripes := m'.stripes.put stripe { whole with data := List.range m.first.k, writes := t.writes ++ ws } },
            (u.countMgmt (netOff m'.io 0x060) 31 0).raiseSluice m'.io 0x0010 m'.first.dvf (m'.first.msgId % 2 ^ 32) stripe))) ∧
    (∀ (m : RxMessage) n t, m.stripes = [(n, t)] → m.first.op = 0 → t.complete = true → t.acked = false →
      (s.performed t.writes [] = false → s.ackStripes op m = s) ∧
      (s.performed t.writes [] = true → s.ackStripes op m =
        (s.setMessage op { m with stripes := [(n, { t with acked := true })] }).answerTo m.io m.first 2 n 0 0 [])) ∧
    (∀ io io' p id m t, s.engineOf p.dvf = some io' → 64 * p.flen ≤ p.data.length → p.dvf ∉ s.net.resets →
      epochOlder p.epoch (s.epochOf io' p.dvf) = false → s.messageOf p = some (id, m) → m.refused = false →
      m.stripes.find p.stripe = some t →
      let late := m.ended.isSome = true ∨ m.aborted = true ∨ t.complete = true ∨ t.abandoned = true ∨
        (p.index < m.first.k ∧ p.index ∈ t.data) ∨ (m.first.k ≤ p.index ∧ (t.parity.find (p.index - m.first.k)).isSome = true)
      let data := (p.data ++ List.replicate m.frag 0).take m.frag
      let t' := { t with arrived := s.gtc, round := max t.round p.round }
      (late → t.acked = false → s.takeFragment io p =
        (s.countMgmt (netOff io' 0x060) 63 32).raiseSluice io' 0x0011 p.dvf (p.msgId % 2 ^ 32) p.index) ∧
      (¬ late → p.index < m.first.k → ∀ m₁ ws u m₂ w, s.placeData m p.stripe p.index data = some (m₁, ws, u) →
        u.completeStripe m₁ p.stripe { t' with data := t.data ++ [p.index], writes := t.writes ++ ws } = some (m₂, w) →
        s.takeFragment io p = (w.setMessage id m₂).netProgress) ∧
      (¬ late → m.first.k ≤ p.index → ∀ m₂ w,
        s.completeStripe m p.stripe { t' with parity := t.parity.put (p.index - m.first.k) data } = some (m₂, w) →
        s.takeFragment io p = (w.setMessage id m₂).netProgress)) ∧
    (∀ p id o j, s.senderOf p = some (id, o, j) → p.stripe < j.stripes → p.stripe ≠ 0xFFFFFFFF →
      (p.stripe ∈ j.acked → s.takeAck p = s) ∧
      (p.stripe ∉ j.acked →
        let j' := { j with acked := p.stripe :: j.acked, progress := s.gtc, probed := none }
        s.takeAck p = State.finishNet { s with engine := s.engine.put id { o with job := .net j' } } id)) ∧
    ∀ o code h src len ofs vf handle status targets runs, s.engine.find op = some o →
      o.job = .codex code h src len ofs vf handle (some status) targets runs →
      ((∃ r ∈ runs, s.inRun r = true) → goes (.codexCompletion op) s) ∧
      ((∀ r ∈ runs, s.inRun r = false) → goes (.codexCompletion op)
        ((((s.retireTwins vf (h / 4096)).dropEngine op o).land o.fibre
          (targets.zip [BitVec.ofNat 32 status, BitVec.ofNat 32 (handle.getD 0)])).recheck o.core))

/-- R52, R68, R154, R315, R320, R347 to R358, R362 to R364, R367, R369, R377, R378: what writes of registers do, and the
clocks and the bitterns. A write through the port that is not ACTIVE is dropped and counted; PTP time is set, trimmed and
noted; the host lease is renewed, claimed and moved; bitterns take events, and filters are judged before they are enabled. In
recovery these orders of a host leave the device as it is (R374). -/
def Obligations.RegisterAndTelemetryEventsTakeEffect : Prop :=
  ∀ (s : State) (vf die core : Nat) (v : BitVec 64),
    let goes := fun (i : Instr) (t : State) => exec i s = .next t
    let port := s.activePort
    (s.plat.recovery = false →
      (∀ other, other ≠ port → ∀ slot offset,
        ∀ i ∈ [Instr.fctlEnable other vf die slot v, .hsnap other vf die v, .iclr other vf die v,
          .registerWrite (.bar0 other vf) offset v, .tdispFrozenWrite other vf offset v],
          goes i (s.countMgmt 0x7018 15 0)) ∧
      (∀ slot, s.btOwner die .slot slot = some vf →
        let bad := (List.range 64).any fun i =>
          filterWordBad (fun k i => decide (s.btOwner die k i = some vf)) i ((s.bittern die).reg (0x100 * slot + 4 * i))
        bits v.toNat 0 0 = 1 → ∃ t : State, goes (.fctlEnable port vf die slot v) t ∧
          (t.bittern die).reg (fctlOff slot) = if bad then 2 else 1) ∧
      (∀ slot, s.btOwner die .slot slot ≠ some vf → goes (.fctlEnable port vf die slot v) s) ∧
      (∀ h k, s.btOwner die .histogram h = some vf → h < 64 → v.toNat = 2 ^ h → k < 64 → rising (s.bittern die).live →
        rising (s.bittern die).snap →
        ∃ t : State, goes (.hsnap port vf die v) t ∧
          (t.bittern die).snap.get (64 * h + k) 0 = (s.bittern die).live.get (64 * h + k) 0 ∧
          (t.bittern die).live.get (64 * h + k) 0 = 0) ∧
      (∀ k, iclrKind (bits v.toNat 10 8) = some k → bits v.toNat 5 0 < kindCount k →
        (s.btOwner die k (bits v.toNat 5 0) = some vf →
          goes (.iclr port vf die v) (s.modBittern die fun b => b.clearItem k (bits v.toNat 5 0))) ∧
        (s.btOwner die k (bits v.toNat 5 0) ≠ some vf → goes (.iclr port vf die v) s)) ∧
      (∀ offset, goes (.registerWrite (.bar0 port vf) offset v) (s.writeBar0 vf offset v.toNat)) ∧
      (∀ offset, offset ≠ 0x7008 → offset ≠ 0x7010 →
        goes (.registerWrite (.mgmt port) offset v) (s.writeMgmt offset v.toNat))) ∧
    (∀ e rest, (s.bittern die).tap = e :: rest → goes (.filterRun die)
      ((List.range 32).foldl (fun w n => w.offerFilter die n e) (s.modBittern die fun b => { b with tap := rest }))) ∧
    (∀ b n, s.bitterns = [(die, b)] → b.used = [(vf, n)] →
      ∃ t : State, goes .bitternPeriod t ∧ (t.bittern die).period = s.gtc / 1000 ∧
        (t.bittern die).used.get vf 0 = n - (s.gtc / 1000 - b.period) * s.mgmtF (0x6200 + 8 * vf) 10 0) ∧
    (s.plat.recovery = true → ∀ p offset, ∀ i ∈ [Instr.btOwnerWrite offset v, .hpartWrite offset v, .xlinv vf v,
      .registerWrite (.core core) offset v, .haltedWrite core v, .hlRenew p v, .hlClaim p v, .ptpOfsWrite v, .ptpTrimWrite v,
      .msixVectorUnmask vf offset], goes i s) ∧
    (∀ offset, s.plat.recovery = false → goes (.btOwnerWrite offset v) (s.writeOwner offset v.toNat)) ∧
    (∀ r rest, (s.unit core).mailbox = r :: rest → ∃ t : State, goes (.mboxPop core) t ∧ (t.unit core).mailbox = rest ∧
      (t.unit core).head = ((s.unit core).head + 1) % 32) ∧
    (∀ f g n, s.fibres.find (fibreKey core 4095) = some f → f.state = .parked (.register .mailbox) →
      (s.unit core).waitSince + s.mgmtF 0x7200 15 0 * 500 ≤ s.gtc →
      s.fetch f.tenant (s.ownPc f) = some (.srd g, n) →
      let x := s.laneOf (fibreKey core 4095) f n
      goes (.mboxWaitTimeout core)
        (((s.writeLong x (outPair g.a.toNat true (s.mboxStat core))).modFibre (fibreKey core 4095) fun f =>
          { f with pc := x.next }).unpark (fibreKey core 4095))) ∧
    (s.plat.recovery = false → ∃ t : State, goes (.haltedWrite core v) t ∧ t.coreF core 0x148 0 0 = bits v.toNat 0 0) ∧
    goes (.xlinvC core v) (s.invalidate (128 + core) (bits v.toNat 63 57) (bits v.toNat 47 12) (decide (bits v.toNat 0 0 = 1))) ∧
    (vf < 128 → s.plat.recovery = false → ∃ t : State, goes (.xlinv vf v) t ∧
      (s.holders vf (bits v.toNat 47 12) (decide (bits v.toNat 0 0 = 1)) = [] → s.coh.translations = [] →
        bits (t.readMgmt (0x8008 + 0x10 * vf)) 63 63 = 0)) ∧
    (∀ n, n < 8 → s.plat.recovery = false → let off := 0x1E00 + 0x20 * n
      let t := s.setMgmtF off 31 0 v.toNat
      (t.partitionsClash = false → s.sched.crews = [] → goes (.hpartWrite off v) t.arbitrate) ∧
      (t.partitionsClash = true → t.mgmt off ≠ s.mgmt off → goes (.hpartWrite off v) (s.setMgmtF 0x1F00 2 2 1))) ∧
    (∀ offset, s.plat.recovery = false → goes (.registerWrite (.core core) offset v) (s.writeCore core offset v.toNat)) ∧
    (∀ p, s.plat.recovery = false → bits v.toNat 7 0 = s.mgmtF 0x7000 15 8 →
      (p = port → ∃ t : State, goes (.hlRenew p v) t ∧ t.plat.renewed = s.gtc ∧ t.mgmtF 0x7018 32 32 = 0) ∧
      (p ≠ port → goes (.hlRenew p v) (s.countMgmt 0x7018 15 0))) ∧
    (∀ p, s.plat.recovery = false → p ≠ port → s.mgmtF 0x7018 32 32 = 1 → bits v.toNat 7 0 = (s.mgmtF 0x7000 15 8 + 1) % 256 →
      ∃ t : State, goes (.hlClaim p v) t ∧ t.activePort = p ∧ t.mgmtF 0x7018 32 32 = 0) ∧
    (s.mgmtF 0x7000 0 0 = 1 → s.plat.renewed + s.mgmtF 0x7000 47 32 * 1000 ≤ s.gtc →
      (s.standbyPort ∈ s.plat.linkUp → ∃ t : State, goes .hostLeaseExpiry t ∧ t.activePort = s.standbyPort ∧
        t.mgmtF 0x7000 15 8 = (s.mgmtF 0x7000 15 8 + 1) % 256) ∧
      (s.standbyPort ∉ s.plat.linkUp → goes .hostLeaseExpiry (s.setMgmtF 0x7018 32 32 1))) ∧
    (s.plat.recovery = false → ∃ t : State, goes (.ptpOfsWrite v) t ∧ t.ptp = BitVec.ofNat 64 s.gtc + v ∧ t.ptpAcc = 0) ∧
    (s.plat.recovery = false → ∃ t : State, goes (.ptpTrimWrite v) t ∧ t.ptp = s.ptp ∧
      t.ptpTrim = max (-4294967) (min 4294967 ((BitVec.ofNat 32 v.toNat).toInt))) ∧
    (∀ eth msg, goes (.ptpEventTimestamp eth msg)
      (s.modPlat fun p => { p with stamps := p.stamps ++ [(eth, msg, (s.ptp.toNat : Int))] })) ∧
    (∀ p up, ∃ t : State, goes (.hostPortLinkChange p up) t ∧ (p ∈ t.plat.linkUp ↔ up = true) ∧
      (let agent := 5 * 512 + portNumber p
       t.coh.inc = if up = true ∧ p ∉ s.plat.linkUp then s.coh.inc.put agent ((s.coh.inc.get agent 0 + 1) % 256)
        else s.coh.inc) ∧
      { t with plat := { t.plat with linkUp := s.plat.linkUp }, coh := { t.coh with inc := s.coh.inc } } = s) ∧
    ∀ vector, vector < 256 → s.plat.recovery = false → s.tdisp vf = .unlocked →
      ∃ t : State, goes (.msixVectorUnmask vf vector) t ∧ t.vectorMasked vf vector = false ∧
        (s.vectorPending vf vector = false → t.plat.messages = s.plat.messages) ∧
        (s.vectorPending vf vector = true → s.mgmtF 0x1F00 0 0 = 0 ∨ 0 < s.bal vf →
          t.plat.messages = s.plat.messages ++ [(vf, vector, port)])

/-- R15, R18, R132, R136, R349, R370 to R376, R379, R381: resets, the management controllers, the security engine, soft errors and
throttling. A core reset returns the core's system registers; a cold reset boots what verifies, or waits in
recovery for an image; heartbeats count; an interface is locked, started and stopped in order; a soft error has its event and its
outcome. In recovery a firmware load alone is accepted. What a core, a die, a partition and a warm reset return and keep is said
for a device at rest; what an FLR frees, and the outcomes of an uncorrectable error, for every state. Beyond the rules’ words it
is the model’s choice or reading that a cold reset leaves HBM reading 0 (log entry 4), how SPDM and MCTP answer (24), what a
reset leaves of requests, registers, certificates and controllers (41 to 47), which lines a die reset poisons (57), that a core or
die reset returns the queue registers of every function (58), that a partition reset spares a clerk that runs (59), and which crew
an error of a dirty line kills (81). -/
def Obligations.PlatformEventsTakeEffect : Prop :=
  ∀ (s : State) (vf : Nat) (v : BitVec 64),
    let goes := fun (i : Instr) (t : State) => exec i s = .next t
    let rest := s.fibres = [] ∧ s.sched.crews = [] ∧ s.coh.homes = [] ∧ s.plat.flr = []
    (s.plat.recovery = true → ∀ (port : HostPort) (request : SpdmRequest) (key : BitVec 256) (n : Nat),
      ∀ i ∈ [Instr.coreReset n, .dieReset n, .partitionReset n, .packageWarmReset, .vfFlr vf, .spdmRequest port request,
        .ideKm vf key, .lockInterfaceRequest vf, .startInterfaceRequest vf, .stopInterfaceRequest vf,
        .tdispFrozenWrite port vf n v, .mctpStatusRead (.pcie port) n, .mctpResetOrder .i3c .warm], goes i s) ∧
    (let next := s.plat.checkedAt + s.mgmtF 0x7200 15 0 * 1000
     s.plat.recovery = false → (next ≤ s.gtc → goes .heartbeatCheck
        ((List.range 256).foldl State.readBeat (s.modPlat fun p => { p with checkedAt := s.gtc }))) ∧
      (s.gtc < next → goes .heartbeatCheck s)) ∧
    (∀ core n, s.plat.beatSeen.find core = some (s.coreF core 0x140 63 0, n) →
      (n + 1 < s.mgmtF 0x7200 23 16 → ((s.readBeat core).plat.beatSeen.find core) = some (s.coreF core 0x140 63 0, n + 1)) ∧
      (s.mgmtF 0x7200 23 16 ≤ n + 1 → s.readBeat core = (s.raiseCore core 0x001A 0xFF core (n + 1)).resetCore core)) ∧
    (∀ c, c < 2 → s.plat.recovery = false → (s.plat.standbyHeld = false ∨ c = s.plat.activeController) →
      s.plat.beatAt.get c 0 + s.mgmtF 0x7200 15 0 * 1000 ≤ s.gtc →
      ∃ t : State, goes (.mcBeat c) t ∧ t.plat.beats.get c 0 = s.plat.beats.get c 0 + 1) ∧
    (∀ n, s.plat.standbyHeld = false → s.plat.beatSeen.find 256 = some (s.plat.beats.get s.plat.activeController 0, n) →
      s.mgmtF 0x7200 23 16 ≤ n → ∃ t : State, goes .mcTakeover t ∧
        t.plat.activeController = 1 - s.plat.activeController ∧ t.plat.standbyHeld = true) ∧
    (s.plat.recovery = false → (∀ core, core < 256 → goes (.coreReset core) (s.resetCore core)) ∧
      (∀ die, die < 10 → goes (.dieReset die) (s.resetDie die)) ∧
      (∀ n, n < 8 → goes (.partitionReset n) (s.resetPartition n)) ∧
      goes .packageWarmReset s.resetWarm) ∧
    (∀ core off, off < 2 ^ 24 → (s.resetCore core).coreReg core off = resetValue (coreFields off)) ∧
    (∀ core, core < 256 → rest → let t := s.resetCore core
      let u := s.unit core
      t.fibres = [(fibreKey core 4095, Fibre.clerk core)] ∧
      t.unit core = { CoreUnit.reset with inbox := u.inbox, copyQueue := u.copyQueue, scratch := u.scratch, weight := u.weight } ∧
      (t.unit core).rseq = 1 ∧ (t.unit core).queues = [] ∧ (t.unit core).perms = [] ∧ (t.unit core).mailbox = [] ∧
      (∀ agent ∈ [core, 512 + core, 1024 + core], t.coh.inc.get agent 0 = (s.coh.inc.get agent 0 + 1) % 256) ∧
      (∀ line, line < 2 ^ 58 → t.l1 core line = none ∧ ∀ c, c ≠ core → t.l1 c line = s.l1 c line) ∧
      (∀ c, c ≠ core → t.unit c = s.unit c ∧ ∀ off, off < 2 ^ 24 → t.coreReg c off = s.coreReg c off) ∧
      (∀ f q off, q < 64 → off < 64 → t.bar0 f (queueOff q off) = resetValue (bar0Fields f (queueOff q off))) ∧
      (∀ off, off < 0xD000 → t.mgmt off = s.mgmt off) ∧ (∀ off, 0xD000 ≤ off → off < 0xD800 → t.mgmt off = resetValue (mgmtFields off)) ∧
      t.gtc = s.gtc ∧ t.store = s.store) ∧
    (∀ die, die < 8 → rest → let t := s.resetDie die
      (∀ core, 32 * die ≤ core → core < 32 * die + 32 →
        t.fibres.find (fibreKey core 4095) = some (Fibre.clerk core) ∧ (t.unit core).rseq = 1 ∧
        (∀ off, off < 2 ^ 24 → t.coreReg core off = resetValue (coreFields off)) ∧
        t.coh.inc.get core 0 = (s.coh.inc.get core 0 + 1) % 256) ∧
      t.coh.inc.get (3 * 512 + die) 0 = (s.coh.inc.get (3 * 512 + die) 0 + 1) % 256 ∧
      (∀ line, line < 2 ^ 58 → t.coh.l2.find (cacheKey die line) = none) ∧ (rising s.bitterns → t.bittern die = .reset) ∧
      (∀ line, line ∈ t.store.poisoned → line ∈ s.store.poisoned ∨ line ∈ s.linesOfDie die) ∧
      t.gtc = s.gtc ∧ t.store.phys = s.store.phys) ∧
    (∀ n core f, n < 8 → s.fibres = [(fibreKey core 4095, f)] → s.sched.crews = [] → s.coh.homes = [] → s.plat.flr = [] →
      (∀ vf, vf < 128 → s.partitionOf vf ≠ some n) → (∀ c, (s.unit c).stopped = false) →
      core < 256 → s.partitionOfCluster (clusterOf core) = some n → f.waiting = none → let t := s.resetPartition n
      t.fibres.find (fibreKey core 4095) = some f ∧ (t.unit core).rseq = 1 ∧
      ∀ off, off < 2 ^ 24 → t.coreReg core off = resetValue (coreFields off)) ∧
    (let t := s.resetWarm
     (∀ off, (0x1E00 ≤ off ∧ off < 0x2810) ∨ (0x4000 ≤ off ∧ off < 0x6600) ∨ off = 0x7028 ∨ (0xD000 ≤ off ∧ off < 0xD800) ∨
        (0xE000 ≤ off ∧ off < 0xF000) → t.mgmt off = resetValue (mgmtFields off)) ∧
      t.plat.standbyHeld = false ∧ t.plat.activeController = 0 ∧
      (rest → t.gtc = s.gtc ∧ t.store.phys = s.store.phys ∧ t.mgmt 0x7100 = s.mgmt 0x7100 ∧
        t.mgmt 0x7200 = s.mgmt 0x7200)) ∧
    (let t := s.freeVf vf
     (∀ core n q, ((s.freeCores vf).unit core).queues.find n = some q → q.owner ≠ some vf) ∧
      (∀ core n p, ((s.freeCores vf).unit core).perms.find n = some p → p.owner ≠ vf) ∧
      (∀ i a, (s.freeCores vf).acc.find i = some a → a.holder ≠ some vf) ∧
      (∀ q, q < 64 → (s.freeQueues vf).sched.queues.find (vf * 64 + q) = none) ∧
      (∀ i l, (s.freeQueues vf).sched.launches.find i = some l → l.vf ≠ vf) ∧
      (∀ i e, i < 4096 → s.code = [(vf * 4096 + i, e)] → e.valid = true →
        let e' := (s.freeCode vf).entryAt vf i
        e'.valid = false ∧ e'.reserved = false ∧ e'.gen = (if e.gen = 4095 then 1 else e.gen + 1)) ∧
      (∀ key, key / 2 ^ 48 = vf → t.segs.find key = none) ∧
      (∀ key o, key / 2 ^ 22 = vf → t.kobjs.find key = some o → o.free = true) ∧
      (∀ q off, q < 64 → off < 64 → (s.returnFlr vf).bar0 vf (queueOff q off) = resetValue (bar0Fields vf (queueOff q off))) ∧
      (∀ io, io < 2 → vf < 128 → (s.returnFlr vf).epochOf io vf = s.epochOf io vf) ∧
      (s.fibresOf vf ≠ [] → s.flrFinish vf = s) ∧
      ∀ t₀, s.plat.flr.find vf = some t₀ → s.fibresOf vf = [] →
        let u := (s.freeVf vf).returnFlr vf
        (s.flrFinish vf).segs = u.segs ∧ (s.flrFinish vf).kobjs = u.kobjs ∧ (s.flrFinish vf).regs = u.regs ∧
        (s.flrFinish vf).cores = u.cores ∧ (s.flrFinish vf).sched = u.sched ∧ (s.flrFinish vf).code = u.code ∧
        (rising s.plat.flr → (s.flrFinish vf).plat.flr.find vf = none) ∧ (s.flrFinish vf).plat.answers = u.plat.answers ++ [[5, vf]]) ∧
    (∀ image,
      (Config.imageVerifies image = true → ∃ t : State, goes (.coldReset image) t ∧ t.plat.stages = [image] ∧
        t.plat.recovery = false ∧ t.gtc = 0 ∧
        ∀ a, t.store.phys.read a = if targetOf a = 0 then 0 else s.store.phys.read a) ∧
      (Config.imageVerifies image = false → ∃ t : State, goes (.coldReset image) t ∧ t.plat.recovery = true ∧
        t.fibres = [])) ∧
    (vf < 128 → s.plat.recovery = false → s.plat.flr.find vf = none → goes (.vfFlr vf)
      (((((s.modPlat fun p => { p with flr := p.flr.put vf s.gtc }).dropHeads vf).netReset vf).killVf vf).flrFinish vf)) ∧
    (∀ t₀, s.plat.flr.find vf = some t₀ →
      (t₀ + s.mgmtF 0x7200 47 32 * 1000 ≤ s.gtc →
        goes (.resetGraceExpiry vf) ((((s.fibresOf vf).foldl State.killNow s).endRuns s).flrFinish vf)) ∧
      (s.gtc < t₀ + s.mgmtF 0x7200 47 32 * 1000 → goes (.resetGraceExpiry vf) (s.flrFinish vf))) ∧
    (∀ offset port, s.plat.recovery = false →
      goes (.mctpStatusRead .i3c offset) (s.answer [8, 2, offset, s.readMgmt offset]) ∧
      goes (.mctpStatusRead (.pcie port) offset) (s.answer [8, portNumber port, offset, s.readMgmt offset])) ∧
    (∀ level, s.plat.recovery = false →
      goes (.mctpResetOrder .i3c level) (s.resetAt level) ∧ goes (.mctpResetOrder (.pcie s.activePort) level) (s.resetAt level) ∧
      (level ≠ .warm → goes (.mctpResetOrder (.pcie s.standbyPort) level) s)) ∧
    (∀ image, (s.plat.recovery = true → goes (.mctpFirmwareLoad image) (s.resetCold image)) ∧
      (s.plat.recovery = false → goes (.mctpFirmwareLoad image) s)) ∧
    (∀ port, s.plat.recovery = false → goes (.spdmRequest port .algorithms) (s.answer [6, portNumber port, 1, 2, 3, 4]) ∧
      (∀ b stage, s.plat.stages[b]? = some stage → goes (.spdmRequest port (.measurements b))
        (s.answer [7, portNumber port, (Config.sha3 stage).toNat])) ∧
      (∀ code, goes (.spdmRequest port (.other code)) (s.answer [9, portNumber port, code])) ∧
      goes (.spdmRequest port .openSession) (s.modPlat fun p => { p with session := some port }) ∧
      goes (.spdmRequest port .endSession) (s.modPlat fun p => { p with session := none })) ∧
    (∀ key port, s.plat.recovery = false → (s.plat.session = some port → ∃ t : State, goes (.ideKm vf key) t ∧ t.plat.keys.find vf = some key) ∧
      (s.plat.session = none → goes (.ideKm vf key) s)) ∧
    (s.plat.recovery = false → s.tdisp vf = .unlocked → ∃ t : State, goes (.lockInterfaceRequest vf) t ∧ t.tdisp vf = .locked) ∧
    (s.plat.recovery = false → s.tdisp vf ≠ .unlocked → goes (.lockInterfaceRequest vf) s) ∧
    (s.plat.recovery = false → s.tdisp vf = .locked → ∃ t : State, goes (.startInterfaceRequest vf) t ∧ t.tdisp vf = .run) ∧
    (s.plat.recovery = false → s.tdisp vf ≠ .locked → goes (.startInterfaceRequest vf) s) ∧
    (vf < 128 → s.plat.recovery = false → goes (.stopInterfaceRequest vf)
      (((s.modPlat fun p => { p with flr := p.flr.put (256 + vf) s.gtc }).beginFlr vf).flrFinish vf)) ∧
    ((s.tdisp vf = .locked ∨ s.tdisp vf = .run) →
      let err := (s.modPlat fun p =>
        { p with tdisp := p.tdisp.put vf .error, flr := p.flr.put (128 + vf) s.gtc }).killVf vf
      goes (.ideIntegrityFailure vf) err ∧
        (s.plat.recovery = false → ∀ offset, goes (.tdispFrozenWrite s.activePort vf offset v) err)) ∧
    (∀ l, goes (.eccCorrected l) (s.eccEvent 0x000D l) ∧
      goes (.eccUncorrectable l) ((s.eccEvent 0x000E l).eccOutcome l)) ∧
    (∀ line, lineOf line ∈ (s.eccOutcome (.home line)).store.poisoned) ∧
    (∀ core ctx, ((s.eccOutcome (.accumulator core ctx)).acc.get (core * 4 + ctx) .reset).poison = true) ∧
    (∀ crew k info relaunch, s.sched.crews.find crew = some k →
      (k.ended = true → s.softKill relaunch info crew = s) ∧
      (k.ended = false →
        let tenant := match s.sched.launches.find k.launch with | some l => l.vf | none => 0
        let t := s.postNotice k.core (s.softRecord k.core tenant info (s.crewFibres crew).head?)
        s.softKill relaunch info crew =
          (t.modCrew crew fun k => if relaunch ∧ k.killCause.isNone then { k with ecc := true } else k).killCrew crew 18)) ∧
    (∀ core g, (∀ h, (s.unit core).scratch.find g = some h → s.eccOutcome (.scratch core g) = s.softKill true g h.2) ∧
      ((s.unit core).scratch.find g = none → s.eccOutcome (.scratch core g) = s) ∧
      ((s.unit core).weight.find g = none → s.eccOutcome (.weight core g) = s) ∧
      (∀ h crew k, (s.unit core).weight.find g = some h → s.crewsOn core = [(crew, k)] →
        s.eccOutcome (.weight core g) = if k.launch = h.2 then s.softKill true g crew else s)) ∧
    (∀ tenant seg, (∀ key f crew, s.segOwner tenant seg = some (key, f) → f.crew = some crew →
        s.eccOutcome (.frame tenant seg) = s.softKill false (seg / 64 % 2 ^ 32) crew) ∧
      (s.segOwner tenant seg = none → s.eccOutcome (.frame tenant seg) = s)) ∧
    (∀ core line l, s.l1 core (lineOf line) = some l →
      let gone := s.setL1 core (lineOf line) { l with copy := none, expiry := none, dirty := [] }
      (l.dirty = [] → s.eccOutcome (.cacheClean core line) = gone) ∧
      (l.dirty ≠ [] → (∀ crew k, l.crew = some crew → s.sched.crews.find crew = some k → k.ended = false →
          s.eccOutcome (.cacheDirty core line) = gone.softKill false (lineOf line / 64 % 2 ^ 32) crew) ∧
        (l.crew = none → s.eccOutcome (.cacheDirty core line) =
          gone.postNotice core (s.softRecord core 0xFF (lineOf line / 64 % 2 ^ 32) none)))) ∧
    (rising s.coh.l2 → ∀ die line, (s.eccOutcome (.l2Copy die line)).coh.l2.find (cacheKey die (lineOf line)) = none) ∧
    ∀ sensor step temperature, step ≤ 3 → step ≠ s.plat.thermal →
      ∃ t : State, goes (.thermalStepChange sensor step temperature) t ∧ t.plat.thermal = step

/-! ### The machine as a whole -/

/-- R182, R183 and the events' rules give every instruction and every event an effect in every state (the model's reading,
assumption 1): none is refused and none stops the machine. A step faults only where the agenda, which is the model's own, names
an instruction as if it were an event. -/
def Obligations.EveryInstructionAnswers : Prop :=
  (∀ (i : Instr) (s : State), ∃ s' : State, exec i s = .next s') ∧
  ∀ s : State, (∀ (i : Instr) (rest : List Act), s.agenda = .event i :: rest → i.form = none) →
    ∃ s' : State, step s = .next s'

/-- Whatever a step does, the storage of memory stays in its canonical form (the model's own form of R3's bytes): an invariant of
every state, not of those that a run reaches. The form is the model’s choice, log entry 4. -/
def Obligations.StorageStaysCanonical : Prop :=
  ∀ s s' : State, storageOk s = true → step s = .next s' → storageOk s' = true

/-- R333: the header of a packet loses nothing: reading its bytes gives every field back, where each lies within its width. -/
def Obligations.PacketHeadersHoldTheirFields : Prop :=
  ∀ p : Packet, p.type < 16 → p.ver < 16 → p.k < 32 → p.m < 8 → p.msgId < 2 ^ 48 → p.stripe < 2 ^ 32 → p.index < 32 →
    p.flen < 128 → p.round < 16 → p.epoch < 256 → p.op < 4 → p.msgLen < 2 ^ 32 → p.dcore < 256 → p.dvf < 128 →
    p.srcDev < 2 ^ 16 → p.roff < 2 ^ 64 → p.srcVf < 256 → p.aop < 8 →
    (packetBytes p).length = 48 + p.data.length ∧ packetOf p.dstDev (packetBytes p) = p

end
end

