-- ==== Sys2Proof/Laws/Table.lean ====
section
/-! SUPPORT. Laws of sparse tables: what a find answers after each change. -/
namespace Sys2Proof

variable {α β : Type}

@[simp] theorem Tbl.find_nil (k : Nat) : Tbl.find ([] : Tbl α) k = none := rfl

theorem Tbl.find_cons (j : Nat) (v : α) (rest : Tbl α) (k : Nat) :
    Tbl.find ((j, v) :: rest) k = if j = k then some v else Tbl.find rest k := rfl

/-- What stands at a key after it has been put there. -/
@[simp] theorem Tbl.find_put_same (t : Tbl α) (k : Nat) (v : α) : (t.put k v).find k = some v := by
  induction t with
  | nil => simp [Tbl.put, Tbl.find_cons]
  | cons p t ih =>
    obtain ⟨j, w⟩ := p
    simp only [Tbl.put]
    split
    · simp [Tbl.find_cons]
    · split
      · simp [Tbl.find_cons]
      · rename_i h
        have h' : ¬j = k := fun e => h e.symm
        simp only [Tbl.find_cons, h', if_false]
        exact ih

/-- A put at one key leaves every other alone. -/
theorem Tbl.find_put_ne (t : Tbl α) {k k' : Nat} (v : α) (h : k' ≠ k) : (t.put k v).find k' = t.find k' := by
  have hk : ¬k = k' := fun e => h e.symm
  induction t with
  | nil => simp [Tbl.put, Tbl.find_cons, hk]
  | cons p t ih =>
    obtain ⟨j, w⟩ := p
    simp only [Tbl.put]
    split
    · simp [Tbl.find_cons, hk]
    · split
      · rename_i e
        subst e
        simp [Tbl.find_cons, hk]
      · simp only [Tbl.find_cons]
        split
        · rfl
        · exact ih

theorem Tbl.find_put (t : Tbl α) (k k' : Nat) (v : α) :
    (t.put k v).find k' = if k' = k then some v else t.find k' := by
  split
  · rename_i h
    subst h
    exact t.find_put_same k' v
  · rename_i h
    exact t.find_put_ne v h

@[simp] theorem Tbl.get_put_same (t : Tbl α) (k : Nat) (v d : α) : (t.put k v).get k d = v := by simp [Tbl.get]

theorem Tbl.get_put_ne (t : Tbl α) {k k' : Nat} (v d : α) (h : k' ≠ k) : (t.put k v).get k' d = t.get k' d := by
  simp [Tbl.get, t.find_put_ne v h]

/-- What stands at a key after a change of another, or of its own content. -/
theorem Tbl.find_modify (t : Tbl α) (k k' : Nat) (f : α → α) :
    (t.modify k f).find k' = if k' = k then (t.find k).map f else t.find k' := by
  cases h : t.find k with
  | none =>
    rw [Tbl.modify, h]
    by_cases e : k' = k
    · rw [e]
      simp [h]
    · simp [e]
  | some v =>
    rw [Tbl.modify, h]
    simp [Tbl.find_put]

theorem Tbl.find_modify_ne (t : Tbl α) {k k' : Nat} (f : α → α) (h : k' ≠ k) : (t.modify k f).find k' = t.find k' := by
  simp [Tbl.find_modify, h]

/-- A change of every content. -/
theorem Tbl.find_mapVals (t : Tbl α) (f : Nat → α → β) (k : Nat) : (t.mapVals f).find k = (t.find k).map (f k) := by
  induction t with
  | nil => rfl
  | cons p t ih =>
    obtain ⟨j, w⟩ := p
    have e : Tbl.mapVals ((j, w) :: t) f = (j, f j w) :: Tbl.mapVals t f := rfl
    rw [e, Tbl.find_cons, Tbl.find_cons]
    split
    · rename_i h
      subst h
      rfl
    · exact ih

/-- A key that a deletion does not name keeps its content. -/
theorem Tbl.find_del_ne (t : Tbl α) {k k' : Nat} (h : k' ≠ k) : (t.del k).find k' = t.find k' := by
  induction t with
  | nil => rfl
  | cons p t ih =>
    obtain ⟨j, w⟩ := p
    simp only [Tbl.del]
    split
    · rename_i e
      subst e
      have h' : ¬j = k' := fun e => h e.symm
      simp [Tbl.find_cons, h']
    · simp only [Tbl.find_cons]
      split
      · rfl
      · exact ih

/-- A key in a table stands in its list of entries. -/
theorem Tbl.mem_of_find {t : Tbl α} {k : Nat} {v : α} (h : t.find k = some v) : (k, v) ∈ t := by
  induction t with
  | nil => simp at h
  | cons p t ih =>
    obtain ⟨j, w⟩ := p
    rw [Tbl.find_cons] at h
    split at h
    · rename_i e
      subst e
      simp at h
      simp [h]
    · exact List.mem_cons_of_mem _ (ih h)

end Sys2Proof
end

