-- ==== Sys2Proof/Laws/State.lean ====
section
/-! SUPPORT. What each named update of the state does to each field: one lemma per field and update. -/
namespace Sys2Proof.Machine

variable (s : State)

@[simp] theorem State.setFibre_gtc (k : Nat) (f : Fibre) : (s.setFibre k f).gtc = s.gtc := rfl
@[simp] theorem State.setFibre_ptpAcc (k : Nat) (f : Fibre) : (s.setFibre k f).ptpAcc = s.ptpAcc := rfl
@[simp] theorem State.setFibre_store (k : Nat) (f : Fibre) : (s.setFibre k f).store = s.store := rfl
@[simp] theorem State.setFibre_regs (k : Nat) (f : Fibre) : (s.setFibre k f).regs = s.regs := rfl
@[simp] theorem State.setFibre_coh (k : Nat) (f : Fibre) : (s.setFibre k f).coh = s.coh := rfl
@[simp] theorem State.setFibre_fibres (k : Nat) (f : Fibre) : (s.setFibre k f).fibres = s.fibres.put k f := rfl
@[simp] theorem State.setFibre_segs (k : Nat) (f : Fibre) : (s.setFibre k f).segs = s.segs := rfl
@[simp] theorem State.setFibre_kobjs (k : Nat) (f : Fibre) : (s.setFibre k f).kobjs = s.kobjs := rfl
@[simp] theorem State.setFibre_cores (k : Nat) (f : Fibre) : (s.setFibre k f).cores = s.cores := rfl
@[simp] theorem State.setFibre_gangs (k : Nat) (f : Fibre) : (s.setFibre k f).gangs = s.gangs := rfl
@[simp] theorem State.setFibre_convened (k : Nat) (f : Fibre) : (s.setFibre k f).convened = s.convened := rfl
@[simp] theorem State.setFibre_landings (k : Nat) (f : Fibre) : (s.setFibre k f).landings = s.landings := rfl
@[simp] theorem State.setFibre_engine (k : Nat) (f : Fibre) : (s.setFibre k f).engine = s.engine := rfl
@[simp] theorem State.setFibre_acc (k : Nat) (f : Fibre) : (s.setFibre k f).acc = s.acc := rfl
@[simp] theorem State.setFibre_sched (k : Nat) (f : Fibre) : (s.setFibre k f).sched = s.sched := rfl
@[simp] theorem State.setFibre_code (k : Nat) (f : Fibre) : (s.setFibre k f).code = s.code := rfl
@[simp] theorem State.setFibre_net (k : Nat) (f : Fibre) : (s.setFibre k f).net = s.net := rfl
@[simp] theorem State.setFibre_bitterns (k : Nat) (f : Fibre) : (s.setFibre k f).bitterns = s.bitterns := rfl
@[simp] theorem State.setFibre_plat (k : Nat) (f : Fibre) : (s.setFibre k f).plat = s.plat := rfl
@[simp] theorem State.setFibre_cur (k : Nat) (f : Fibre) : (s.setFibre k f).cur = s.cur := rfl
@[simp] theorem State.setFibre_agenda (k : Nat) (f : Fibre) : (s.setFibre k f).agenda = s.agenda := rfl
@[simp] theorem State.setFibre_free (k : Nat) (f : Fibre) : (s.setFibre k f).free = s.free := rfl
@[simp] theorem State.setFibre_nextId (k : Nat) (f : Fibre) : (s.setFibre k f).nextId = s.nextId := rfl

@[simp] theorem State.modUnit_gtc (c : Nat) (g : CoreUnit → CoreUnit) : (s.modUnit c g).gtc = s.gtc := rfl
@[simp] theorem State.modUnit_ptpAcc (c : Nat) (g : CoreUnit → CoreUnit) : (s.modUnit c g).ptpAcc = s.ptpAcc := rfl
@[simp] theorem State.modUnit_store (c : Nat) (g : CoreUnit → CoreUnit) : (s.modUnit c g).store = s.store := rfl
@[simp] theorem State.modUnit_regs (c : Nat) (g : CoreUnit → CoreUnit) : (s.modUnit c g).regs = s.regs := rfl
@[simp] theorem State.modUnit_coh (c : Nat) (g : CoreUnit → CoreUnit) : (s.modUnit c g).coh = s.coh := rfl
@[simp] theorem State.modUnit_fibres (c : Nat) (g : CoreUnit → CoreUnit) : (s.modUnit c g).fibres = s.fibres := rfl
@[simp] theorem State.modUnit_segs (c : Nat) (g : CoreUnit → CoreUnit) : (s.modUnit c g).segs = s.segs := rfl
@[simp] theorem State.modUnit_kobjs (c : Nat) (g : CoreUnit → CoreUnit) : (s.modUnit c g).kobjs = s.kobjs := rfl
@[simp] theorem State.modUnit_cores (c : Nat) (g : CoreUnit → CoreUnit) : (s.modUnit c g).cores = s.cores.put c (g (s.unit c)) := rfl
@[simp] theorem State.modUnit_gangs (c : Nat) (g : CoreUnit → CoreUnit) : (s.modUnit c g).gangs = s.gangs := rfl
@[simp] theorem State.modUnit_convened (c : Nat) (g : CoreUnit → CoreUnit) : (s.modUnit c g).convened = s.convened := rfl
@[simp] theorem State.modUnit_landings (c : Nat) (g : CoreUnit → CoreUnit) : (s.modUnit c g).landings = s.landings := rfl
@[simp] theorem State.modUnit_engine (c : Nat) (g : CoreUnit → CoreUnit) : (s.modUnit c g).engine = s.engine := rfl
@[simp] theorem State.modUnit_acc (c : Nat) (g : CoreUnit → CoreUnit) : (s.modUnit c g).acc = s.acc := rfl
@[simp] theorem State.modUnit_sched (c : Nat) (g : CoreUnit → CoreUnit) : (s.modUnit c g).sched = s.sched := rfl
@[simp] theorem State.modUnit_code (c : Nat) (g : CoreUnit → CoreUnit) : (s.modUnit c g).code = s.code := rfl
@[simp] theorem State.modUnit_net (c : Nat) (g : CoreUnit → CoreUnit) : (s.modUnit c g).net = s.net := rfl
@[simp] theorem State.modUnit_bitterns (c : Nat) (g : CoreUnit → CoreUnit) : (s.modUnit c g).bitterns = s.bitterns := rfl
@[simp] theorem State.modUnit_plat (c : Nat) (g : CoreUnit → CoreUnit) : (s.modUnit c g).plat = s.plat := rfl
@[simp] theorem State.modUnit_cur (c : Nat) (g : CoreUnit → CoreUnit) : (s.modUnit c g).cur = s.cur := rfl
@[simp] theorem State.modUnit_agenda (c : Nat) (g : CoreUnit → CoreUnit) : (s.modUnit c g).agenda = s.agenda := rfl
@[simp] theorem State.modUnit_free (c : Nat) (g : CoreUnit → CoreUnit) : (s.modUnit c g).free = s.free := rfl
@[simp] theorem State.modUnit_nextId (c : Nat) (g : CoreUnit → CoreUnit) : (s.modUnit c g).nextId = s.nextId := rfl

@[simp] theorem State.modCoh_gtc (g : Coherence → Coherence) : (s.modCoh g).gtc = s.gtc := rfl
@[simp] theorem State.modCoh_ptpAcc (g : Coherence → Coherence) : (s.modCoh g).ptpAcc = s.ptpAcc := rfl
@[simp] theorem State.modCoh_store (g : Coherence → Coherence) : (s.modCoh g).store = s.store := rfl
@[simp] theorem State.modCoh_regs (g : Coherence → Coherence) : (s.modCoh g).regs = s.regs := rfl
@[simp] theorem State.modCoh_coh (g : Coherence → Coherence) : (s.modCoh g).coh = g s.coh := rfl
@[simp] theorem State.modCoh_fibres (g : Coherence → Coherence) : (s.modCoh g).fibres = s.fibres := rfl
@[simp] theorem State.modCoh_segs (g : Coherence → Coherence) : (s.modCoh g).segs = s.segs := rfl
@[simp] theorem State.modCoh_kobjs (g : Coherence → Coherence) : (s.modCoh g).kobjs = s.kobjs := rfl
@[simp] theorem State.modCoh_cores (g : Coherence → Coherence) : (s.modCoh g).cores = s.cores := rfl
@[simp] theorem State.modCoh_gangs (g : Coherence → Coherence) : (s.modCoh g).gangs = s.gangs := rfl
@[simp] theorem State.modCoh_convened (g : Coherence → Coherence) : (s.modCoh g).convened = s.convened := rfl
@[simp] theorem State.modCoh_landings (g : Coherence → Coherence) : (s.modCoh g).landings = s.landings := rfl
@[simp] theorem State.modCoh_engine (g : Coherence → Coherence) : (s.modCoh g).engine = s.engine := rfl
@[simp] theorem State.modCoh_acc (g : Coherence → Coherence) : (s.modCoh g).acc = s.acc := rfl
@[simp] theorem State.modCoh_sched (g : Coherence → Coherence) : (s.modCoh g).sched = s.sched := rfl
@[simp] theorem State.modCoh_code (g : Coherence → Coherence) : (s.modCoh g).code = s.code := rfl
@[simp] theorem State.modCoh_net (g : Coherence → Coherence) : (s.modCoh g).net = s.net := rfl
@[simp] theorem State.modCoh_bitterns (g : Coherence → Coherence) : (s.modCoh g).bitterns = s.bitterns := rfl
@[simp] theorem State.modCoh_plat (g : Coherence → Coherence) : (s.modCoh g).plat = s.plat := rfl
@[simp] theorem State.modCoh_cur (g : Coherence → Coherence) : (s.modCoh g).cur = s.cur := rfl
@[simp] theorem State.modCoh_agenda (g : Coherence → Coherence) : (s.modCoh g).agenda = s.agenda := rfl
@[simp] theorem State.modCoh_free (g : Coherence → Coherence) : (s.modCoh g).free = s.free := rfl
@[simp] theorem State.modCoh_nextId (g : Coherence → Coherence) : (s.modCoh g).nextId = s.nextId := rfl

@[simp] theorem State.modStore_gtc (g : Store → Store) : (s.modStore g).gtc = s.gtc := rfl
@[simp] theorem State.modStore_ptpAcc (g : Store → Store) : (s.modStore g).ptpAcc = s.ptpAcc := rfl
@[simp] theorem State.modStore_store (g : Store → Store) : (s.modStore g).store = g s.store := rfl
@[simp] theorem State.modStore_regs (g : Store → Store) : (s.modStore g).regs = s.regs := rfl
@[simp] theorem State.modStore_coh (g : Store → Store) : (s.modStore g).coh = s.coh := rfl
@[simp] theorem State.modStore_fibres (g : Store → Store) : (s.modStore g).fibres = s.fibres := rfl
@[simp] theorem State.modStore_segs (g : Store → Store) : (s.modStore g).segs = s.segs := rfl
@[simp] theorem State.modStore_kobjs (g : Store → Store) : (s.modStore g).kobjs = s.kobjs := rfl
@[simp] theorem State.modStore_cores (g : Store → Store) : (s.modStore g).cores = s.cores := rfl
@[simp] theorem State.modStore_gangs (g : Store → Store) : (s.modStore g).gangs = s.gangs := rfl
@[simp] theorem State.modStore_convened (g : Store → Store) : (s.modStore g).convened = s.convened := rfl
@[simp] theorem State.modStore_landings (g : Store → Store) : (s.modStore g).landings = s.landings := rfl
@[simp] theorem State.modStore_engine (g : Store → Store) : (s.modStore g).engine = s.engine := rfl
@[simp] theorem State.modStore_acc (g : Store → Store) : (s.modStore g).acc = s.acc := rfl
@[simp] theorem State.modStore_sched (g : Store → Store) : (s.modStore g).sched = s.sched := rfl
@[simp] theorem State.modStore_code (g : Store → Store) : (s.modStore g).code = s.code := rfl
@[simp] theorem State.modStore_net (g : Store → Store) : (s.modStore g).net = s.net := rfl
@[simp] theorem State.modStore_bitterns (g : Store → Store) : (s.modStore g).bitterns = s.bitterns := rfl
@[simp] theorem State.modStore_plat (g : Store → Store) : (s.modStore g).plat = s.plat := rfl
@[simp] theorem State.modStore_cur (g : Store → Store) : (s.modStore g).cur = s.cur := rfl
@[simp] theorem State.modStore_agenda (g : Store → Store) : (s.modStore g).agenda = s.agenda := rfl
@[simp] theorem State.modStore_free (g : Store → Store) : (s.modStore g).free = s.free := rfl
@[simp] theorem State.modStore_nextId (g : Store → Store) : (s.modStore g).nextId = s.nextId := rfl

@[simp] theorem State.modSched_gtc (g : Scheduler → Scheduler) : (s.modSched g).gtc = s.gtc := rfl
@[simp] theorem State.modSched_ptpAcc (g : Scheduler → Scheduler) : (s.modSched g).ptpAcc = s.ptpAcc := rfl
@[simp] theorem State.modSched_store (g : Scheduler → Scheduler) : (s.modSched g).store = s.store := rfl
@[simp] theorem State.modSched_regs (g : Scheduler → Scheduler) : (s.modSched g).regs = s.regs := rfl
@[simp] theorem State.modSched_coh (g : Scheduler → Scheduler) : (s.modSched g).coh = s.coh := rfl
@[simp] theorem State.modSched_fibres (g : Scheduler → Scheduler) : (s.modSched g).fibres = s.fibres := rfl
@[simp] theorem State.modSched_segs (g : Scheduler → Scheduler) : (s.modSched g).segs = s.segs := rfl
@[simp] theorem State.modSched_kobjs (g : Scheduler → Scheduler) : (s.modSched g).kobjs = s.kobjs := rfl
@[simp] theorem State.modSched_cores (g : Scheduler → Scheduler) : (s.modSched g).cores = s.cores := rfl
@[simp] theorem State.modSched_gangs (g : Scheduler → Scheduler) : (s.modSched g).gangs = s.gangs := rfl
@[simp] theorem State.modSched_convened (g : Scheduler → Scheduler) : (s.modSched g).convened = s.convened := rfl
@[simp] theorem State.modSched_landings (g : Scheduler → Scheduler) : (s.modSched g).landings = s.landings := rfl
@[simp] theorem State.modSched_engine (g : Scheduler → Scheduler) : (s.modSched g).engine = s.engine := rfl
@[simp] theorem State.modSched_acc (g : Scheduler → Scheduler) : (s.modSched g).acc = s.acc := rfl
@[simp] theorem State.modSched_sched (g : Scheduler → Scheduler) : (s.modSched g).sched = g s.sched := rfl
@[simp] theorem State.modSched_code (g : Scheduler → Scheduler) : (s.modSched g).code = s.code := rfl
@[simp] theorem State.modSched_net (g : Scheduler → Scheduler) : (s.modSched g).net = s.net := rfl
@[simp] theorem State.modSched_bitterns (g : Scheduler → Scheduler) : (s.modSched g).bitterns = s.bitterns := rfl
@[simp] theorem State.modSched_plat (g : Scheduler → Scheduler) : (s.modSched g).plat = s.plat := rfl
@[simp] theorem State.modSched_cur (g : Scheduler → Scheduler) : (s.modSched g).cur = s.cur := rfl
@[simp] theorem State.modSched_agenda (g : Scheduler → Scheduler) : (s.modSched g).agenda = s.agenda := rfl
@[simp] theorem State.modSched_free (g : Scheduler → Scheduler) : (s.modSched g).free = s.free := rfl
@[simp] theorem State.modSched_nextId (g : Scheduler → Scheduler) : (s.modSched g).nextId = s.nextId := rfl

@[simp] theorem State.modNet_gtc (g : Network → Network) : (s.modNet g).gtc = s.gtc := rfl
@[simp] theorem State.modNet_ptpAcc (g : Network → Network) : (s.modNet g).ptpAcc = s.ptpAcc := rfl
@[simp] theorem State.modNet_store (g : Network → Network) : (s.modNet g).store = s.store := rfl
@[simp] theorem State.modNet_regs (g : Network → Network) : (s.modNet g).regs = s.regs := rfl
@[simp] theorem State.modNet_coh (g : Network → Network) : (s.modNet g).coh = s.coh := rfl
@[simp] theorem State.modNet_fibres (g : Network → Network) : (s.modNet g).fibres = s.fibres := rfl
@[simp] theorem State.modNet_segs (g : Network → Network) : (s.modNet g).segs = s.segs := rfl
@[simp] theorem State.modNet_kobjs (g : Network → Network) : (s.modNet g).kobjs = s.kobjs := rfl
@[simp] theorem State.modNet_cores (g : Network → Network) : (s.modNet g).cores = s.cores := rfl
@[simp] theorem State.modNet_gangs (g : Network → Network) : (s.modNet g).gangs = s.gangs := rfl
@[simp] theorem State.modNet_convened (g : Network → Network) : (s.modNet g).convened = s.convened := rfl
@[simp] theorem State.modNet_landings (g : Network → Network) : (s.modNet g).landings = s.landings := rfl
@[simp] theorem State.modNet_engine (g : Network → Network) : (s.modNet g).engine = s.engine := rfl
@[simp] theorem State.modNet_acc (g : Network → Network) : (s.modNet g).acc = s.acc := rfl
@[simp] theorem State.modNet_sched (g : Network → Network) : (s.modNet g).sched = s.sched := rfl
@[simp] theorem State.modNet_code (g : Network → Network) : (s.modNet g).code = s.code := rfl
@[simp] theorem State.modNet_net (g : Network → Network) : (s.modNet g).net = g s.net := rfl
@[simp] theorem State.modNet_bitterns (g : Network → Network) : (s.modNet g).bitterns = s.bitterns := rfl
@[simp] theorem State.modNet_plat (g : Network → Network) : (s.modNet g).plat = s.plat := rfl
@[simp] theorem State.modNet_cur (g : Network → Network) : (s.modNet g).cur = s.cur := rfl
@[simp] theorem State.modNet_agenda (g : Network → Network) : (s.modNet g).agenda = s.agenda := rfl
@[simp] theorem State.modNet_free (g : Network → Network) : (s.modNet g).free = s.free := rfl
@[simp] theorem State.modNet_nextId (g : Network → Network) : (s.modNet g).nextId = s.nextId := rfl

@[simp] theorem State.modPlat_gtc (g : Platform → Platform) : (s.modPlat g).gtc = s.gtc := rfl
@[simp] theorem State.modPlat_ptpAcc (g : Platform → Platform) : (s.modPlat g).ptpAcc = s.ptpAcc := rfl
@[simp] theorem State.modPlat_store (g : Platform → Platform) : (s.modPlat g).store = s.store := rfl
@[simp] theorem State.modPlat_regs (g : Platform → Platform) : (s.modPlat g).regs = s.regs := rfl
@[simp] theorem State.modPlat_coh (g : Platform → Platform) : (s.modPlat g).coh = s.coh := rfl
@[simp] theorem State.modPlat_fibres (g : Platform → Platform) : (s.modPlat g).fibres = s.fibres := rfl
@[simp] theorem State.modPlat_segs (g : Platform → Platform) : (s.modPlat g).segs = s.segs := rfl
@[simp] theorem State.modPlat_kobjs (g : Platform → Platform) : (s.modPlat g).kobjs = s.kobjs := rfl
@[simp] theorem State.modPlat_cores (g : Platform → Platform) : (s.modPlat g).cores = s.cores := rfl
@[simp] theorem State.modPlat_gangs (g : Platform → Platform) : (s.modPlat g).gangs = s.gangs := rfl
@[simp] theorem State.modPlat_convened (g : Platform → Platform) : (s.modPlat g).convened = s.convened := rfl
@[simp] theorem State.modPlat_landings (g : Platform → Platform) : (s.modPlat g).landings = s.landings := rfl
@[simp] theorem State.modPlat_engine (g : Platform → Platform) : (s.modPlat g).engine = s.engine := rfl
@[simp] theorem State.modPlat_acc (g : Platform → Platform) : (s.modPlat g).acc = s.acc := rfl
@[simp] theorem State.modPlat_sched (g : Platform → Platform) : (s.modPlat g).sched = s.sched := rfl
@[simp] theorem State.modPlat_code (g : Platform → Platform) : (s.modPlat g).code = s.code := rfl
@[simp] theorem State.modPlat_net (g : Platform → Platform) : (s.modPlat g).net = s.net := rfl
@[simp] theorem State.modPlat_bitterns (g : Platform → Platform) : (s.modPlat g).bitterns = s.bitterns := rfl
@[simp] theorem State.modPlat_plat (g : Platform → Platform) : (s.modPlat g).plat = g s.plat := rfl
@[simp] theorem State.modPlat_cur (g : Platform → Platform) : (s.modPlat g).cur = s.cur := rfl
@[simp] theorem State.modPlat_agenda (g : Platform → Platform) : (s.modPlat g).agenda = s.agenda := rfl
@[simp] theorem State.modPlat_free (g : Platform → Platform) : (s.modPlat g).free = s.free := rfl
@[simp] theorem State.modPlat_nextId (g : Platform → Platform) : (s.modPlat g).nextId = s.nextId := rfl

@[simp] theorem State.modGang_gtc (k : Nat) (g : Gang → Gang) : (s.modGang k g).gtc = s.gtc := rfl
@[simp] theorem State.modGang_ptpAcc (k : Nat) (g : Gang → Gang) : (s.modGang k g).ptpAcc = s.ptpAcc := rfl
@[simp] theorem State.modGang_store (k : Nat) (g : Gang → Gang) : (s.modGang k g).store = s.store := rfl
@[simp] theorem State.modGang_regs (k : Nat) (g : Gang → Gang) : (s.modGang k g).regs = s.regs := rfl
@[simp] theorem State.modGang_coh (k : Nat) (g : Gang → Gang) : (s.modGang k g).coh = s.coh := rfl
@[simp] theorem State.modGang_fibres (k : Nat) (g : Gang → Gang) : (s.modGang k g).fibres = s.fibres := rfl
@[simp] theorem State.modGang_segs (k : Nat) (g : Gang → Gang) : (s.modGang k g).segs = s.segs := rfl
@[simp] theorem State.modGang_kobjs (k : Nat) (g : Gang → Gang) : (s.modGang k g).kobjs = s.kobjs := rfl
@[simp] theorem State.modGang_cores (k : Nat) (g : Gang → Gang) : (s.modGang k g).cores = s.cores := rfl
@[simp] theorem State.modGang_gangs (k : Nat) (g : Gang → Gang) : (s.modGang k g).gangs = s.gangs.modify k g := rfl
@[simp] theorem State.modGang_convened (k : Nat) (g : Gang → Gang) : (s.modGang k g).convened = s.convened := rfl
@[simp] theorem State.modGang_landings (k : Nat) (g : Gang → Gang) : (s.modGang k g).landings = s.landings := rfl
@[simp] theorem State.modGang_engine (k : Nat) (g : Gang → Gang) : (s.modGang k g).engine = s.engine := rfl
@[simp] theorem State.modGang_acc (k : Nat) (g : Gang → Gang) : (s.modGang k g).acc = s.acc := rfl
@[simp] theorem State.modGang_sched (k : Nat) (g : Gang → Gang) : (s.modGang k g).sched = s.sched := rfl
@[simp] theorem State.modGang_code (k : Nat) (g : Gang → Gang) : (s.modGang k g).code = s.code := rfl
@[simp] theorem State.modGang_net (k : Nat) (g : Gang → Gang) : (s.modGang k g).net = s.net := rfl
@[simp] theorem State.modGang_bitterns (k : Nat) (g : Gang → Gang) : (s.modGang k g).bitterns = s.bitterns := rfl
@[simp] theorem State.modGang_plat (k : Nat) (g : Gang → Gang) : (s.modGang k g).plat = s.plat := rfl
@[simp] theorem State.modGang_cur (k : Nat) (g : Gang → Gang) : (s.modGang k g).cur = s.cur := rfl
@[simp] theorem State.modGang_agenda (k : Nat) (g : Gang → Gang) : (s.modGang k g).agenda = s.agenda := rfl
@[simp] theorem State.modGang_free (k : Nat) (g : Gang → Gang) : (s.modGang k g).free = s.free := rfl
@[simp] theorem State.modGang_nextId (k : Nat) (g : Gang → Gang) : (s.modGang k g).nextId = s.nextId := rfl

@[simp] theorem State.modBittern_gtc (d : Nat) (g : Bittern → Bittern) : (s.modBittern d g).gtc = s.gtc := rfl
@[simp] theorem State.modBittern_ptpAcc (d : Nat) (g : Bittern → Bittern) : (s.modBittern d g).ptpAcc = s.ptpAcc := rfl
@[simp] theorem State.modBittern_store (d : Nat) (g : Bittern → Bittern) : (s.modBittern d g).store = s.store := rfl
@[simp] theorem State.modBittern_regs (d : Nat) (g : Bittern → Bittern) : (s.modBittern d g).regs = s.regs := rfl
@[simp] theorem State.modBittern_coh (d : Nat) (g : Bittern → Bittern) : (s.modBittern d g).coh = s.coh := rfl
@[simp] theorem State.modBittern_fibres (d : Nat) (g : Bittern → Bittern) : (s.modBittern d g).fibres = s.fibres := rfl
@[simp] theorem State.modBittern_segs (d : Nat) (g : Bittern → Bittern) : (s.modBittern d g).segs = s.segs := rfl
@[simp] theorem State.modBittern_kobjs (d : Nat) (g : Bittern → Bittern) : (s.modBittern d g).kobjs = s.kobjs := rfl
@[simp] theorem State.modBittern_cores (d : Nat) (g : Bittern → Bittern) : (s.modBittern d g).cores = s.cores := rfl
@[simp] theorem State.modBittern_gangs (d : Nat) (g : Bittern → Bittern) : (s.modBittern d g).gangs = s.gangs := rfl
@[simp] theorem State.modBittern_convened (d : Nat) (g : Bittern → Bittern) : (s.modBittern d g).convened = s.convened := rfl
@[simp] theorem State.modBittern_landings (d : Nat) (g : Bittern → Bittern) : (s.modBittern d g).landings = s.landings := rfl
@[simp] theorem State.modBittern_engine (d : Nat) (g : Bittern → Bittern) : (s.modBittern d g).engine = s.engine := rfl
@[simp] theorem State.modBittern_acc (d : Nat) (g : Bittern → Bittern) : (s.modBittern d g).acc = s.acc := rfl
@[simp] theorem State.modBittern_sched (d : Nat) (g : Bittern → Bittern) : (s.modBittern d g).sched = s.sched := rfl
@[simp] theorem State.modBittern_code (d : Nat) (g : Bittern → Bittern) : (s.modBittern d g).code = s.code := rfl
@[simp] theorem State.modBittern_net (d : Nat) (g : Bittern → Bittern) : (s.modBittern d g).net = s.net := rfl
@[simp] theorem State.modBittern_bitterns (d : Nat) (g : Bittern → Bittern) : (s.modBittern d g).bitterns = s.bitterns.put d (g (s.bittern d)) := rfl
@[simp] theorem State.modBittern_plat (d : Nat) (g : Bittern → Bittern) : (s.modBittern d g).plat = s.plat := rfl
@[simp] theorem State.modBittern_cur (d : Nat) (g : Bittern → Bittern) : (s.modBittern d g).cur = s.cur := rfl
@[simp] theorem State.modBittern_agenda (d : Nat) (g : Bittern → Bittern) : (s.modBittern d g).agenda = s.agenda := rfl
@[simp] theorem State.modBittern_free (d : Nat) (g : Bittern → Bittern) : (s.modBittern d g).free = s.free := rfl
@[simp] theorem State.modBittern_nextId (d : Nat) (g : Bittern → Bittern) : (s.modBittern d g).nextId = s.nextId := rfl

@[simp] theorem State.modSeg_gtc (k : Nat) (g : Segment → Segment) : (s.modSeg k g).gtc = s.gtc := rfl
@[simp] theorem State.modSeg_ptpAcc (k : Nat) (g : Segment → Segment) : (s.modSeg k g).ptpAcc = s.ptpAcc := rfl
@[simp] theorem State.modSeg_store (k : Nat) (g : Segment → Segment) : (s.modSeg k g).store = s.store := rfl
@[simp] theorem State.modSeg_regs (k : Nat) (g : Segment → Segment) : (s.modSeg k g).regs = s.regs := rfl
@[simp] theorem State.modSeg_coh (k : Nat) (g : Segment → Segment) : (s.modSeg k g).coh = s.coh := rfl
@[simp] theorem State.modSeg_fibres (k : Nat) (g : Segment → Segment) : (s.modSeg k g).fibres = s.fibres := rfl
@[simp] theorem State.modSeg_segs (k : Nat) (g : Segment → Segment) : (s.modSeg k g).segs = s.segs.modify k g := rfl
@[simp] theorem State.modSeg_kobjs (k : Nat) (g : Segment → Segment) : (s.modSeg k g).kobjs = s.kobjs := rfl
@[simp] theorem State.modSeg_cores (k : Nat) (g : Segment → Segment) : (s.modSeg k g).cores = s.cores := rfl
@[simp] theorem State.modSeg_gangs (k : Nat) (g : Segment → Segment) : (s.modSeg k g).gangs = s.gangs := rfl
@[simp] theorem State.modSeg_convened (k : Nat) (g : Segment → Segment) : (s.modSeg k g).convened = s.convened := rfl
@[simp] theorem State.modSeg_landings (k : Nat) (g : Segment → Segment) : (s.modSeg k g).landings = s.landings := rfl
@[simp] theorem State.modSeg_engine (k : Nat) (g : Segment → Segment) : (s.modSeg k g).engine = s.engine := rfl
@[simp] theorem State.modSeg_acc (k : Nat) (g : Segment → Segment) : (s.modSeg k g).acc = s.acc := rfl
@[simp] theorem State.modSeg_sched (k : Nat) (g : Segment → Segment) : (s.modSeg k g).sched = s.sched := rfl
@[simp] theorem State.modSeg_code (k : Nat) (g : Segment → Segment) : (s.modSeg k g).code = s.code := rfl
@[simp] theorem State.modSeg_net (k : Nat) (g : Segment → Segment) : (s.modSeg k g).net = s.net := rfl
@[simp] theorem State.modSeg_bitterns (k : Nat) (g : Segment → Segment) : (s.modSeg k g).bitterns = s.bitterns := rfl
@[simp] theorem State.modSeg_plat (k : Nat) (g : Segment → Segment) : (s.modSeg k g).plat = s.plat := rfl
@[simp] theorem State.modSeg_cur (k : Nat) (g : Segment → Segment) : (s.modSeg k g).cur = s.cur := rfl
@[simp] theorem State.modSeg_agenda (k : Nat) (g : Segment → Segment) : (s.modSeg k g).agenda = s.agenda := rfl
@[simp] theorem State.modSeg_free (k : Nat) (g : Segment → Segment) : (s.modSeg k g).free = s.free := rfl
@[simp] theorem State.modSeg_nextId (k : Nat) (g : Segment → Segment) : (s.modSeg k g).nextId = s.nextId := rfl

@[simp] theorem State.modCrew_gtc (c : Nat) (g : Crew → Crew) : (s.modCrew c g).gtc = s.gtc := rfl
@[simp] theorem State.modCrew_ptpAcc (c : Nat) (g : Crew → Crew) : (s.modCrew c g).ptpAcc = s.ptpAcc := rfl
@[simp] theorem State.modCrew_store (c : Nat) (g : Crew → Crew) : (s.modCrew c g).store = s.store := rfl
@[simp] theorem State.modCrew_regs (c : Nat) (g : Crew → Crew) : (s.modCrew c g).regs = s.regs := rfl
@[simp] theorem State.modCrew_coh (c : Nat) (g : Crew → Crew) : (s.modCrew c g).coh = s.coh := rfl
@[simp] theorem State.modCrew_fibres (c : Nat) (g : Crew → Crew) : (s.modCrew c g).fibres = s.fibres := rfl
@[simp] theorem State.modCrew_segs (c : Nat) (g : Crew → Crew) : (s.modCrew c g).segs = s.segs := rfl
@[simp] theorem State.modCrew_kobjs (c : Nat) (g : Crew → Crew) : (s.modCrew c g).kobjs = s.kobjs := rfl
@[simp] theorem State.modCrew_cores (c : Nat) (g : Crew → Crew) : (s.modCrew c g).cores = s.cores := rfl
@[simp] theorem State.modCrew_gangs (c : Nat) (g : Crew → Crew) : (s.modCrew c g).gangs = s.gangs := rfl
@[simp] theorem State.modCrew_convened (c : Nat) (g : Crew → Crew) : (s.modCrew c g).convened = s.convened := rfl
@[simp] theorem State.modCrew_landings (c : Nat) (g : Crew → Crew) : (s.modCrew c g).landings = s.landings := rfl
@[simp] theorem State.modCrew_engine (c : Nat) (g : Crew → Crew) : (s.modCrew c g).engine = s.engine := rfl
@[simp] theorem State.modCrew_acc (c : Nat) (g : Crew → Crew) : (s.modCrew c g).acc = s.acc := rfl
@[simp] theorem State.modCrew_sched (c : Nat) (g : Crew → Crew) : (s.modCrew c g).sched = { s.sched with crews := s.sched.crews.modify c g } := rfl
@[simp] theorem State.modCrew_code (c : Nat) (g : Crew → Crew) : (s.modCrew c g).code = s.code := rfl
@[simp] theorem State.modCrew_net (c : Nat) (g : Crew → Crew) : (s.modCrew c g).net = s.net := rfl
@[simp] theorem State.modCrew_bitterns (c : Nat) (g : Crew → Crew) : (s.modCrew c g).bitterns = s.bitterns := rfl
@[simp] theorem State.modCrew_plat (c : Nat) (g : Crew → Crew) : (s.modCrew c g).plat = s.plat := rfl
@[simp] theorem State.modCrew_cur (c : Nat) (g : Crew → Crew) : (s.modCrew c g).cur = s.cur := rfl
@[simp] theorem State.modCrew_agenda (c : Nat) (g : Crew → Crew) : (s.modCrew c g).agenda = s.agenda := rfl
@[simp] theorem State.modCrew_free (c : Nat) (g : Crew → Crew) : (s.modCrew c g).free = s.free := rfl
@[simp] theorem State.modCrew_nextId (c : Nat) (g : Crew → Crew) : (s.modCrew c g).nextId = s.nextId := rfl

@[simp] theorem State.setMgmt_gtc (o v : Nat) : (s.setMgmt o v).gtc = s.gtc := rfl
@[simp] theorem State.setMgmt_ptpAcc (o v : Nat) : (s.setMgmt o v).ptpAcc = s.ptpAcc := rfl
@[simp] theorem State.setMgmt_store (o v : Nat) : (s.setMgmt o v).store = s.store := rfl
@[simp] theorem State.setMgmt_regs (o v : Nat) : (s.setMgmt o v).regs = { s.regs with mgmt := s.regs.mgmt.put o (BitVec.ofNat 64 v) } := rfl
@[simp] theorem State.setMgmt_coh (o v : Nat) : (s.setMgmt o v).coh = s.coh := rfl
@[simp] theorem State.setMgmt_fibres (o v : Nat) : (s.setMgmt o v).fibres = s.fibres := rfl
@[simp] theorem State.setMgmt_segs (o v : Nat) : (s.setMgmt o v).segs = s.segs := rfl
@[simp] theorem State.setMgmt_kobjs (o v : Nat) : (s.setMgmt o v).kobjs = s.kobjs := rfl
@[simp] theorem State.setMgmt_cores (o v : Nat) : (s.setMgmt o v).cores = s.cores := rfl
@[simp] theorem State.setMgmt_gangs (o v : Nat) : (s.setMgmt o v).gangs = s.gangs := rfl
@[simp] theorem State.setMgmt_convened (o v : Nat) : (s.setMgmt o v).convened = s.convened := rfl
@[simp] theorem State.setMgmt_landings (o v : Nat) : (s.setMgmt o v).landings = s.landings := rfl
@[simp] theorem State.setMgmt_engine (o v : Nat) : (s.setMgmt o v).engine = s.engine := rfl
@[simp] theorem State.setMgmt_acc (o v : Nat) : (s.setMgmt o v).acc = s.acc := rfl
@[simp] theorem State.setMgmt_sched (o v : Nat) : (s.setMgmt o v).sched = s.sched := rfl
@[simp] theorem State.setMgmt_code (o v : Nat) : (s.setMgmt o v).code = s.code := rfl
@[simp] theorem State.setMgmt_net (o v : Nat) : (s.setMgmt o v).net = s.net := rfl
@[simp] theorem State.setMgmt_bitterns (o v : Nat) : (s.setMgmt o v).bitterns = s.bitterns := rfl
@[simp] theorem State.setMgmt_plat (o v : Nat) : (s.setMgmt o v).plat = s.plat := rfl
@[simp] theorem State.setMgmt_cur (o v : Nat) : (s.setMgmt o v).cur = s.cur := rfl
@[simp] theorem State.setMgmt_agenda (o v : Nat) : (s.setMgmt o v).agenda = s.agenda := rfl
@[simp] theorem State.setMgmt_free (o v : Nat) : (s.setMgmt o v).free = s.free := rfl
@[simp] theorem State.setMgmt_nextId (o v : Nat) : (s.setMgmt o v).nextId = s.nextId := rfl

@[simp] theorem State.setBar0_gtc (f o v : Nat) : (s.setBar0 f o v).gtc = s.gtc := rfl
@[simp] theorem State.setBar0_ptpAcc (f o v : Nat) : (s.setBar0 f o v).ptpAcc = s.ptpAcc := rfl
@[simp] theorem State.setBar0_store (f o v : Nat) : (s.setBar0 f o v).store = s.store := rfl
@[simp] theorem State.setBar0_regs (f o v : Nat) : (s.setBar0 f o v).regs = { s.regs with bar0 := s.regs.bar0.put (f * 2 ^ 23 + o) (BitVec.ofNat 64 v) } := rfl
@[simp] theorem State.setBar0_coh (f o v : Nat) : (s.setBar0 f o v).coh = s.coh := rfl
@[simp] theorem State.setBar0_fibres (f o v : Nat) : (s.setBar0 f o v).fibres = s.fibres := rfl
@[simp] theorem State.setBar0_segs (f o v : Nat) : (s.setBar0 f o v).segs = s.segs := rfl
@[simp] theorem State.setBar0_kobjs (f o v : Nat) : (s.setBar0 f o v).kobjs = s.kobjs := rfl
@[simp] theorem State.setBar0_cores (f o v : Nat) : (s.setBar0 f o v).cores = s.cores := rfl
@[simp] theorem State.setBar0_gangs (f o v : Nat) : (s.setBar0 f o v).gangs = s.gangs := rfl
@[simp] theorem State.setBar0_convened (f o v : Nat) : (s.setBar0 f o v).convened = s.convened := rfl
@[simp] theorem State.setBar0_landings (f o v : Nat) : (s.setBar0 f o v).landings = s.landings := rfl
@[simp] theorem State.setBar0_engine (f o v : Nat) : (s.setBar0 f o v).engine = s.engine := rfl
@[simp] theorem State.setBar0_acc (f o v : Nat) : (s.setBar0 f o v).acc = s.acc := rfl
@[simp] theorem State.setBar0_sched (f o v : Nat) : (s.setBar0 f o v).sched = s.sched := rfl
@[simp] theorem State.setBar0_code (f o v : Nat) : (s.setBar0 f o v).code = s.code := rfl
@[simp] theorem State.setBar0_net (f o v : Nat) : (s.setBar0 f o v).net = s.net := rfl
@[simp] theorem State.setBar0_bitterns (f o v : Nat) : (s.setBar0 f o v).bitterns = s.bitterns := rfl
@[simp] theorem State.setBar0_plat (f o v : Nat) : (s.setBar0 f o v).plat = s.plat := rfl
@[simp] theorem State.setBar0_cur (f o v : Nat) : (s.setBar0 f o v).cur = s.cur := rfl
@[simp] theorem State.setBar0_agenda (f o v : Nat) : (s.setBar0 f o v).agenda = s.agenda := rfl
@[simp] theorem State.setBar0_free (f o v : Nat) : (s.setBar0 f o v).free = s.free := rfl
@[simp] theorem State.setBar0_nextId (f o v : Nat) : (s.setBar0 f o v).nextId = s.nextId := rfl

@[simp] theorem State.setCoreReg_gtc (c o v : Nat) : (s.setCoreReg c o v).gtc = s.gtc := rfl
@[simp] theorem State.setCoreReg_ptpAcc (c o v : Nat) : (s.setCoreReg c o v).ptpAcc = s.ptpAcc := rfl
@[simp] theorem State.setCoreReg_store (c o v : Nat) : (s.setCoreReg c o v).store = s.store := rfl
@[simp] theorem State.setCoreReg_regs (c o v : Nat) : (s.setCoreReg c o v).regs = { s.regs with core := s.regs.core.put (c * 2 ^ 24 + o) (BitVec.ofNat 64 v) } := rfl
@[simp] theorem State.setCoreReg_coh (c o v : Nat) : (s.setCoreReg c o v).coh = s.coh := rfl
@[simp] theorem State.setCoreReg_fibres (c o v : Nat) : (s.setCoreReg c o v).fibres = s.fibres := rfl
@[simp] theorem State.setCoreReg_segs (c o v : Nat) : (s.setCoreReg c o v).segs = s.segs := rfl
@[simp] theorem State.setCoreReg_kobjs (c o v : Nat) : (s.setCoreReg c o v).kobjs = s.kobjs := rfl
@[simp] theorem State.setCoreReg_cores (c o v : Nat) : (s.setCoreReg c o v).cores = s.cores := rfl
@[simp] theorem State.setCoreReg_gangs (c o v : Nat) : (s.setCoreReg c o v).gangs = s.gangs := rfl
@[simp] theorem State.setCoreReg_convened (c o v : Nat) : (s.setCoreReg c o v).convened = s.convened := rfl
@[simp] theorem State.setCoreReg_landings (c o v : Nat) : (s.setCoreReg c o v).landings = s.landings := rfl
@[simp] theorem State.setCoreReg_engine (c o v : Nat) : (s.setCoreReg c o v).engine = s.engine := rfl
@[simp] theorem State.setCoreReg_acc (c o v : Nat) : (s.setCoreReg c o v).acc = s.acc := rfl
@[simp] theorem State.setCoreReg_sched (c o v : Nat) : (s.setCoreReg c o v).sched = s.sched := rfl
@[simp] theorem State.setCoreReg_code (c o v : Nat) : (s.setCoreReg c o v).code = s.code := rfl
@[simp] theorem State.setCoreReg_net (c o v : Nat) : (s.setCoreReg c o v).net = s.net := rfl
@[simp] theorem State.setCoreReg_bitterns (c o v : Nat) : (s.setCoreReg c o v).bitterns = s.bitterns := rfl
@[simp] theorem State.setCoreReg_plat (c o v : Nat) : (s.setCoreReg c o v).plat = s.plat := rfl
@[simp] theorem State.setCoreReg_cur (c o v : Nat) : (s.setCoreReg c o v).cur = s.cur := rfl
@[simp] theorem State.setCoreReg_agenda (c o v : Nat) : (s.setCoreReg c o v).agenda = s.agenda := rfl
@[simp] theorem State.setCoreReg_free (c o v : Nat) : (s.setCoreReg c o v).free = s.free := rfl
@[simp] theorem State.setCoreReg_nextId (c o v : Nat) : (s.setCoreReg c o v).nextId = s.nextId := rfl

@[simp] theorem State.fresh_gtc : s.fresh.2.gtc = s.gtc := rfl
@[simp] theorem State.fresh_ptpAcc : s.fresh.2.ptpAcc = s.ptpAcc := rfl
@[simp] theorem State.fresh_store : s.fresh.2.store = s.store := rfl
@[simp] theorem State.fresh_regs : s.fresh.2.regs = s.regs := rfl
@[simp] theorem State.fresh_coh : s.fresh.2.coh = s.coh := rfl
@[simp] theorem State.fresh_fibres : s.fresh.2.fibres = s.fibres := rfl
@[simp] theorem State.fresh_segs : s.fresh.2.segs = s.segs := rfl
@[simp] theorem State.fresh_kobjs : s.fresh.2.kobjs = s.kobjs := rfl
@[simp] theorem State.fresh_cores : s.fresh.2.cores = s.cores := rfl
@[simp] theorem State.fresh_gangs : s.fresh.2.gangs = s.gangs := rfl
@[simp] theorem State.fresh_convened : s.fresh.2.convened = s.convened := rfl
@[simp] theorem State.fresh_landings : s.fresh.2.landings = s.landings := rfl
@[simp] theorem State.fresh_engine : s.fresh.2.engine = s.engine := rfl
@[simp] theorem State.fresh_acc : s.fresh.2.acc = s.acc := rfl
@[simp] theorem State.fresh_sched : s.fresh.2.sched = s.sched := rfl
@[simp] theorem State.fresh_code : s.fresh.2.code = s.code := rfl
@[simp] theorem State.fresh_net : s.fresh.2.net = s.net := rfl
@[simp] theorem State.fresh_bitterns : s.fresh.2.bitterns = s.bitterns := rfl
@[simp] theorem State.fresh_plat : s.fresh.2.plat = s.plat := rfl
@[simp] theorem State.fresh_cur : s.fresh.2.cur = s.cur := rfl
@[simp] theorem State.fresh_agenda : s.fresh.2.agenda = s.agenda := rfl
@[simp] theorem State.fresh_free : s.fresh.2.free = s.free := rfl
@[simp] theorem State.fresh_nextId : s.fresh.2.nextId = s.nextId + 1 := rfl

@[simp] theorem State.drawBit_gtc : s.drawBit.2.gtc = s.gtc := rfl
@[simp] theorem State.drawBit_ptpAcc : s.drawBit.2.ptpAcc = s.ptpAcc := rfl
@[simp] theorem State.drawBit_store : s.drawBit.2.store = s.store := rfl
@[simp] theorem State.drawBit_regs : s.drawBit.2.regs = s.regs := rfl
@[simp] theorem State.drawBit_coh : s.drawBit.2.coh = s.coh := rfl
@[simp] theorem State.drawBit_fibres : s.drawBit.2.fibres = s.fibres := rfl
@[simp] theorem State.drawBit_segs : s.drawBit.2.segs = s.segs := rfl
@[simp] theorem State.drawBit_kobjs : s.drawBit.2.kobjs = s.kobjs := rfl
@[simp] theorem State.drawBit_cores : s.drawBit.2.cores = s.cores := rfl
@[simp] theorem State.drawBit_gangs : s.drawBit.2.gangs = s.gangs := rfl
@[simp] theorem State.drawBit_convened : s.drawBit.2.convened = s.convened := rfl
@[simp] theorem State.drawBit_landings : s.drawBit.2.landings = s.landings := rfl
@[simp] theorem State.drawBit_engine : s.drawBit.2.engine = s.engine := rfl
@[simp] theorem State.drawBit_acc : s.drawBit.2.acc = s.acc := rfl
@[simp] theorem State.drawBit_sched : s.drawBit.2.sched = s.sched := rfl
@[simp] theorem State.drawBit_code : s.drawBit.2.code = s.code := rfl
@[simp] theorem State.drawBit_net : s.drawBit.2.net = s.net := rfl
@[simp] theorem State.drawBit_bitterns : s.drawBit.2.bitterns = s.bitterns := rfl
@[simp] theorem State.drawBit_plat : s.drawBit.2.plat = s.plat := rfl
@[simp] theorem State.drawBit_cur : s.drawBit.2.cur = s.cur := rfl
@[simp] theorem State.drawBit_agenda : s.drawBit.2.agenda = s.agenda := rfl
@[simp] theorem State.drawBit_free : s.drawBit.2.free = s.free + 1 := rfl
@[simp] theorem State.drawBit_nextId : s.drawBit.2.nextId = s.nextId := rfl

@[simp] theorem State.modFibre_gtc (k : Nat) (g : Fibre → Fibre) : (s.modFibre k g).gtc = s.gtc := by
  unfold State.modFibre
  split <;> rfl
@[simp] theorem State.modFibre_ptpAcc (k : Nat) (g : Fibre → Fibre) : (s.modFibre k g).ptpAcc = s.ptpAcc := by
  unfold State.modFibre
  split <;> rfl
@[simp] theorem State.modFibre_store (k : Nat) (g : Fibre → Fibre) : (s.modFibre k g).store = s.store := by
  unfold State.modFibre
  split <;> rfl
@[simp] theorem State.modFibre_regs (k : Nat) (g : Fibre → Fibre) : (s.modFibre k g).regs = s.regs := by
  unfold State.modFibre
  split <;> rfl
@[simp] theorem State.modFibre_coh (k : Nat) (g : Fibre → Fibre) : (s.modFibre k g).coh = s.coh := by
  unfold State.modFibre
  split <;> rfl
@[simp] theorem State.modFibre_segs (k : Nat) (g : Fibre → Fibre) : (s.modFibre k g).segs = s.segs := by
  unfold State.modFibre
  split <;> rfl
@[simp] theorem State.modFibre_kobjs (k : Nat) (g : Fibre → Fibre) : (s.modFibre k g).kobjs = s.kobjs := by
  unfold State.modFibre
  split <;> rfl
@[simp] theorem State.modFibre_cores (k : Nat) (g : Fibre → Fibre) : (s.modFibre k g).cores = s.cores := by
  unfold State.modFibre
  split <;> rfl
@[simp] theorem State.modFibre_gangs (k : Nat) (g : Fibre → Fibre) : (s.modFibre k g).gangs = s.gangs := by
  unfold State.modFibre
  split <;> rfl
@[simp] theorem State.modFibre_convened (k : Nat) (g : Fibre → Fibre) : (s.modFibre k g).convened = s.convened := by
  unfold State.modFibre
  split <;> rfl
@[simp] theorem State.modFibre_landings (k : Nat) (g : Fibre → Fibre) : (s.modFibre k g).landings = s.landings := by
  unfold State.modFibre
  split <;> rfl
@[simp] theorem State.modFibre_engine (k : Nat) (g : Fibre → Fibre) : (s.modFibre k g).engine = s.engine := by
  unfold State.modFibre
  split <;> rfl
@[simp] theorem State.modFibre_acc (k : Nat) (g : Fibre → Fibre) : (s.modFibre k g).acc = s.acc := by
  unfold State.modFibre
  split <;> rfl
@[simp] theorem State.modFibre_sched (k : Nat) (g : Fibre → Fibre) : (s.modFibre k g).sched = s.sched := by
  unfold State.modFibre
  split <;> rfl
@[simp] theorem State.modFibre_code (k : Nat) (g : Fibre → Fibre) : (s.modFibre k g).code = s.code := by
  unfold State.modFibre
  split <;> rfl
@[simp] theorem State.modFibre_net (k : Nat) (g : Fibre → Fibre) : (s.modFibre k g).net = s.net := by
  unfold State.modFibre
  split <;> rfl
@[simp] theorem State.modFibre_bitterns (k : Nat) (g : Fibre → Fibre) : (s.modFibre k g).bitterns = s.bitterns := by
  unfold State.modFibre
  split <;> rfl
@[simp] theorem State.modFibre_plat (k : Nat) (g : Fibre → Fibre) : (s.modFibre k g).plat = s.plat := by
  unfold State.modFibre
  split <;> rfl
@[simp] theorem State.modFibre_cur (k : Nat) (g : Fibre → Fibre) : (s.modFibre k g).cur = s.cur := by
  unfold State.modFibre
  split <;> rfl
@[simp] theorem State.modFibre_agenda (k : Nat) (g : Fibre → Fibre) : (s.modFibre k g).agenda = s.agenda := by
  unfold State.modFibre
  split <;> rfl
@[simp] theorem State.modFibre_free (k : Nat) (g : Fibre → Fibre) : (s.modFibre k g).free = s.free := by
  unfold State.modFibre
  split <;> rfl
@[simp] theorem State.modFibre_nextId (k : Nat) (g : Fibre → Fibre) : (s.modFibre k g).nextId = s.nextId := by
  unfold State.modFibre
  split <;> rfl

/-- A fibre after a change of one. -/
theorem State.find_modFibre (k k' : Nat) (g : Fibre → Fibre) :
    (s.modFibre k g).fibres.find k' = if k' = k then (s.fibres.find k).map g else s.fibres.find k' := by
  unfold State.modFibre
  cases h : s.fibres.find k with
  | none =>
    by_cases e : k' = k
    · rw [e]
      simp [h]
    · simp [e]
  | some f => simp [Tbl.find_put]

/-- The bittern of a die after a change of one. -/
theorem State.bittern_modBittern (d d' : Nat) (g : Bittern → Bittern) :
    (s.modBittern d g).bittern d' = if d' = d then g (s.bittern d) else s.bittern d' := by
  by_cases e : d' = d
  · subst e
    simp [State.bittern, Tbl.get]
  · simp [State.bittern, e, Tbl.get_put_ne]

/-- The hardware of a core after a change of one. -/
theorem State.unit_modUnit (c c' : Nat) (g : CoreUnit → CoreUnit) :
    (s.modUnit c g).unit c' = if c' = c then g (s.unit c) else s.unit c' := by
  by_cases e : c' = c
  · subst e
    simp [State.unit, Tbl.get]
  · simp [State.unit, e, Tbl.get_put_ne]

end Sys2Proof.Machine
end

