-- ==== Sys2Proof/Laws/Same.lean ====
section
/-! SUPPORT. What the bookkeeping around an instruction leaves alone: charging, reading operands, filing, waking and the
end of a run. -/
namespace Sys2Proof.Safety

open Sys2Proof.Machine

variable {s s' s'' : State}

theorem Apart.refl (s : State) : Apart s s := by constructor <;> intros <;> rfl

theorem Apart.trans (h : Apart s s') (g : Apart s' s'') : Apart s s'' where
  store := g.store.trans h.store
  kobjs := g.kobjs.trans h.kobjs
  acc := g.acc.trans h.acc
  code := g.code.trans h.code
  mgmt := g.mgmt.trans h.mgmt
  bar0 := g.bar0.trans h.bar0
  landings := g.landings.trans h.landings
  gtc := g.gtc.trans h.gtc
  coreRegs k hk := (g.coreRegs k hk).trans (h.coreRegs k hk)
  units c := (g.units c).trans (h.units c)
  links k := (g.links k).trans (h.links k)
  crewRest k := (g.crewRest k).trans (h.crewRest k)
  sched := g.sched.trans h.sched
  coh := g.coh.trans h.coh
  engine := g.engine.trans h.engine
  net := g.net.trans h.net
  bitterns d := (g.bitterns d).trans (h.bitterns d)
  plat := g.plat.trans h.plat
  convened := g.convened.trans h.convened
  ptpAcc := g.ptpAcc.trans h.ptpAcc

theorem isSome_of_map {α β : Type} {a b : Option α} {f : α → β} (h : a.map f = b.map f) : a.isSome = b.isSome := by
  cases a <;> cases b <;> simp_all

theorem Apart.segs (h : Apart s s') (k : Nat) : (s'.segs.find k).isSome = (s.segs.find k).isSome :=
  isSome_of_map (h.links k)

theorem Apart.crews (h : Apart s s') (k : Nat) : (s'.sched.crews.find k).isSome = (s.sched.crews.find k).isSome :=
  isSome_of_map (h.crewRest k)

theorem Same.segs (h : Same s s') (k : Nat) : (s'.segs.find k).isSome = (s.segs.find k).isSome := h.toApart.segs k

theorem Same.crews (h : Same s s') (k : Nat) : (s'.sched.crews.find k).isSome = (s.sched.crews.find k).isSome :=
  h.toApart.crews k

theorem Same.refl (s : State) : Same s s := by constructor <;> intros <;> first | rfl | exact Apart.refl s

theorem Same.trans (h : Same s s') (g : Same s' s'') : Same s s'' where
  toApart := h.toApart.trans g.toApart
  value l := (g.value l).trans (h.value l)
  mark l := (g.mark l).trans (h.mark l)
  fibres k := (g.fibres k).trans (h.fibres k)

/-- Cells are read from the segments and the crews alone. -/
theorem cell_congr (hs : s'.segs = s.segs) (hc : s'.sched.crews = s.sched.crews) (l : Loc) : s'.cell l = s.cell l := by
  unfold State.cell State.seg
  rw [hs, hc]

/-- States that agree on the parts that `Same` speaks of. -/
theorem Same.of_parts (hs : s'.segs = s.segs) (hc : s'.sched.crews = s.sched.crews) (hf : s'.fibres = s.fibres)
    (h1 : s'.store = s.store ∧ s'.kobjs = s.kobjs ∧ s'.acc = s.acc ∧ s'.code = s.code ∧
      s'.regs.mgmt = s.regs.mgmt ∧ s'.regs.bar0 = s.regs.bar0 ∧ s'.landings = s.landings ∧ s'.gtc = s.gtc)
    (h2 : { s'.sched with crews := [], bal := [] } = { s.sched with crews := [], bal := [] })
    (h3 : { s'.coh with l1 := [] } = { s.coh with l1 := [] })
    (h4 : s'.engine = s.engine ∧ s'.net = s.net ∧ s'.bitterns = s.bitterns ∧ s'.plat = s.plat ∧
      s'.convened = s.convened ∧ s'.ptpAcc = s.ptpAcc)
    (h5 : ∀ c, bareUnit (s'.unit c) = bareUnit (s.unit c))
    (h6 : ∀ k, k % 2 ^ 24 ≠ 0x108 → s'.regs.core.find k = s.regs.core.find k) : Same s s' where
  value l := by rw [cell_congr hs hc]
  mark l := by rw [cell_congr hs hc]
  fibres k := by rw [hf]
  store := h1.1
  kobjs := h1.2.1
  acc := h1.2.2.1
  code := h1.2.2.2.1
  mgmt := h1.2.2.2.2.1
  bar0 := h1.2.2.2.2.2.1
  landings := h1.2.2.2.2.2.2.1
  gtc := h1.2.2.2.2.2.2.2
  coreRegs := h6
  units := h5
  links k := by rw [hs]
  crewRest k := by rw [hc]
  sched := h2
  coh := h3
  engine := h4.1
  net := h4.2.1
  bitterns d := by
    unfold State.bittern
    rw [h4.2.2.1]
  plat := h4.2.2.2.1
  convened := h4.2.2.2.2.1
  ptpAcc := h4.2.2.2.2.2

/-- States that agree on all but gangs, the current gang, the agenda, fresh numbers and free choices. -/
theorem Same.of_rest (hs : s'.segs = s.segs) (hf : s'.fibres = s.fibres)
    (h1 : s'.store = s.store ∧ s'.kobjs = s.kobjs ∧ s'.acc = s.acc ∧ s'.code = s.code ∧
      s'.regs = s.regs ∧ s'.landings = s.landings ∧ s'.gtc = s.gtc)
    (h2 : s'.sched = s.sched) (h3 : s'.coh = s.coh)
    (h4 : s'.engine = s.engine ∧ s'.net = s.net ∧ s'.bitterns = s.bitterns ∧ s'.plat = s.plat ∧
      s'.convened = s.convened ∧ s'.ptpAcc = s.ptpAcc)
    (h5 : s'.cores = s.cores) : Same s s' := by
  obtain ⟨a, b, c, d, e, f, g⟩ := h1
  refine Same.of_parts hs (by rw [h2]) hf ⟨a, b, c, d, by rw [e], by rw [e], f, g⟩ (by rw [h2]) (by rw [h3]) h4 ?_ ?_
  · intro k
    unfold State.unit
    rw [h5]
  · intro k _
    rw [e]

theorem same_modUnit (c : Nat) (g : CoreUnit → CoreUnit) (h : ∀ u, bareUnit (g u) = bareUnit u) :
    Same s (s.modUnit c g) := by
  apply Same.of_parts
  · rfl
  · rfl
  · rfl
  · exact ⟨rfl, rfl, rfl, rfl, rfl, rfl, rfl, rfl⟩
  · rfl
  · rfl
  · exact ⟨rfl, rfl, rfl, rfl, rfl, rfl⟩
  · intro d
    rw [State.unit_modUnit]
    split
    · rename_i e
      subst e
      exact h _
    · rfl
  · intro _ _
    rfl

theorem same_modL1 (g : Coherence → Coherence) (h : ∀ c, { g c with l1 := [] } = { c with l1 := [] }) :
    Same s (s.modCoh g) := by
  apply Same.of_parts
  · rfl
  · rfl
  · rfl
  · exact ⟨rfl, rfl, rfl, rfl, rfl, rfl, rfl, rfl⟩
  · rfl
  · exact h _
  · exact ⟨rfl, rfl, rfl, rfl, rfl, rfl⟩
  · intro d
    rfl
  · intro _ _
    rfl

theorem same_modGang (k : Nat) (g : Gang → Gang) : Same s (s.modGang k g) := by
  apply Same.of_rest <;> first | rfl | exact ⟨rfl, rfl, rfl, rfl, rfl, rfl, rfl⟩ | exact ⟨rfl, rfl, rfl, rfl, rfl, rfl⟩

theorem same_fresh : Same s s.fresh.2 := by
  apply Same.of_rest <;> first | rfl | exact ⟨rfl, rfl, rfl, rfl, rfl, rfl, rfl⟩ | exact ⟨rfl, rfl, rfl, rfl, rfl, rfl⟩

theorem same_drawBit : Same s s.drawBit.2 := by
  apply Same.of_rest <;> first | rfl | exact ⟨rfl, rfl, rfl, rfl, rfl, rfl, rfl⟩ | exact ⟨rfl, rfl, rfl, rfl, rfl, rfl⟩

theorem same_gangs (g : Tbl Gang) : Same s { s with gangs := g } := by
  apply Same.of_rest <;> first | rfl | exact ⟨rfl, rfl, rfl, rfl, rfl, rfl, rfl⟩ | exact ⟨rfl, rfl, rfl, rfl, rfl, rfl⟩

/-- Only a core's counters of its issue unit are bookkeeping. -/
theorem same_setStat (c h l x : Nat) : Same s (s.setCoreF c 0x108 h l x) := by
  apply Same.of_parts
  · rfl
  · rfl
  · rfl
  · exact ⟨rfl, rfl, rfl, rfl, rfl, rfl, rfl, rfl⟩
  · rfl
  · rfl
  · exact ⟨rfl, rfl, rfl, rfl, rfl, rfl⟩
  · intro d
    rfl
  · intro k hk
    unfold State.setCoreF
    rw [State.setCoreReg_regs]
    refine Tbl.find_put_ne _ _ ?_
    rintro rfl
    apply hk
    omega

/-- Raising an event leaves everything but what waits at a tap (R346). -/
theorem same_raise (die type tenant src v0 v1 : Nat) : Same s (s.raise die type tenant src v0 v1) := by
  have b : ∀ d, bareBittern ((s.raise die type tenant src v0 v1).bittern d) = bareBittern (s.bittern d) := by
    intro d
    unfold State.raise
    rw [State.bittern_modBittern]
    split
    · rename_i e
      subst e
      unfold Bittern.offer
      split <;> rfl
    · rfl
  refine ⟨?_, fun _ => rfl, fun _ => rfl, fun _ => rfl⟩
  constructor <;> intros
  case bitterns => exact b _
  all_goals rfl

theorem same_wake (c : Nat) : Same s (s.wake c) := same_modUnit _ _ fun _ => rfl

theorem same_wakeCrew (k : Nat) (crew : Option Nat) : Same s (s.wakeCrew k crew) := by
  unfold State.wakeCrew
  dsimp only
  split
  · exact Same.refl s
  · exact same_modUnit _ _ fun _ => rfl

theorem same_charge (t : Nat) (n : Int) : Same s (s.charge t n) := by
  apply Same.of_parts
  · rfl
  · rfl
  · rfl
  · exact ⟨rfl, rfl, rfl, rfl, rfl, rfl, rfl, rfl⟩
  · rfl
  · rfl
  · exact ⟨rfl, rfl, rfl, rfl, rfl, rfl⟩
  · intro d
    rfl
  · intro _ _
    rfl

/-- A change of a fibre leaves everything else. -/
theorem apart_modFibre (k : Nat) (g : Fibre → Fibre) : Apart s (s.modFibre k g) := by
  constructor <;> intros
  case units =>
    unfold State.unit
    simp
  case bitterns =>
    unfold State.bittern
    simp
  all_goals simp

/-- A change of a fibre that leaves what it is. -/
theorem same_modFibre (k : Nat) (g : Fibre → Fibre) (h : ∀ f, s.fibres.find k = some f → context (g f) = context f) :
    Same s (s.modFibre k g) := by
  have e : ∀ j, ((s.modFibre k g).fibres.find j).map context = (s.fibres.find j).map context := by
    intro j
    rw [State.find_modFibre]
    split
    · rename_i e
      subst e
      cases hf : s.fibres.find j with
      | none => rfl
      | some f => simp [h f hf]
    · rfl
  refine ⟨apart_modFibre k g, ?_, ?_, e⟩
  · intro l
    rw [cell_congr (s := s) (by simp) (by simp)]
  · intro l
    rw [cell_congr (s := s) (by simp) (by simp)]

/-- A change of a crew that leaves its s-registers. -/
theorem same_modCrew (c : Nat) (g : Crew → Crew) (h : ∀ k, (g k).sregs = k.sregs) (hb : ∀ k, bareCrew (g k) = bareCrew k) :
    Same s (s.modCrew c g) := by
  have e : ∀ l, (s.modCrew c g).cell l = s.cell l := by
    intro l
    unfold State.cell
    cases l with
    | frame a b => rfl
    | shared a b =>
      simp only [State.modCrew_sched, Tbl.find_modify]
      by_cases q : a = c
      · subst q
        cases s.sched.crews.find a <;> simp [h]
      · simp [q]
    | queue a b c => rfl
    | pred a b => rfl
  refine ⟨?_, ?_, ?_, fun _ => rfl⟩
  · constructor <;> intros
    case crewRest =>
      simp only [State.modCrew_sched, Tbl.find_modify]
      split
      · rename_i q
        subst q
        cases s.sched.crews.find _ <;> simp [hb]
      · rfl
    all_goals rfl
  · intro l
    rw [e]
  · intro l
    rw [e]

theorem same_foldl {α : Type} (f : State → α → State) (h : ∀ s a, Same s (f s a)) (l : List α) (s : State) :
    Same s (l.foldl f s) := by
  induction l generalizing s with
  | nil => exact Same.refl s
  | cons a l ih => exact (h s a).trans (ih (f s a))

/-! ### Charging and waking -/

theorem same_chargeStep (g : Gang) (n : Nat) : Same s (s.chargeStep g n) := by
  unfold State.chargeStep
  split
  · exact Same.refl s
  · dsimp only
    split
    · exact (same_charge _ _).trans (same_modCrew _ _ (fun k => rfl) fun k => rfl)
    · exact same_charge _ _

theorem same_chargeEnd (g : Gang) (n : Nat) : Same s (s.chargeEnd g n) := by
  unfold State.chargeEnd
  split
  · exact Same.refl s
  · exact same_modUnit _ _ fun _ => rfl

theorem bare_fileAt (u : CoreUnit) (k : StallKey) (m : Filed) : bareUnit (u.fileAt k m) = bareUnit u := by
  unfold CoreUnit.fileAt
  split
  · rfl
  · split <;> rfl

theorem context_state (f : Fibre) (x : FibreState) : context { f with state := x } = context f := rfl

theorem same_setFibre (k : Nat) (f g : Fibre) (hf : s.fibres.find k = some f) (h : context g = context f) :
    Same s (s.setFibre k g) := by
  have e : s.setFibre k g = s.modFibre k fun _ => g := by simp [State.modFibre, hf]
  rw [e]
  apply same_modFibre
  intro f' hf'
  rw [hf] at hf'
  cases hf'
  exact h

theorem same_file (k : Nat) : Same s (s.file k) := by
  unfold State.file
  split
  · exact Same.refl s
  · rename_i f hf
    exact (same_fresh.trans (same_setFibre k f _ (by simpa using hf) (context_state _ _))).trans
      (same_modUnit _ _ fun u => bare_fileAt u _ _)

theorem same_askReload (k : Nat) : Same s (s.askReload k) := by
  refine same_modUnit _ _ fun u => ?_
  split <;> rfl

theorem same_unpark (k : Nat) : Same s (s.unpark k) := by
  unfold State.unpark
  split
  · exact Same.refl s
  · rename_i f hf
    split
    · exact (same_file k).trans (same_wake _)
    · exact ((same_setFibre k f _ hf (context_state _ _)).trans (same_askReload _)).trans (same_wake _)
    · exact Same.refl s

theorem same_recheck (c : Nat) : Same s (s.recheck c) := by
  unfold State.recheck
  apply same_foldl
  intro s p
  split
  · split
    · exact same_unpark _
    · exact Same.refl _
  · split
    · exact same_unpark _
    · exact Same.refl _
  · exact Same.refl _

theorem same_fileHeld (c : Nat) (m : List (Nat × Nat)) : Same s (s.fileHeld c m) := by
  unfold State.fileHeld
  split
  · exact Same.refl s
  · split
    · exact Same.refl s
    · dsimp only
      refine Same.trans ?_ (same_modUnit _ _ fun u => bare_fileAt u _ _)
      refine same_fresh.trans (same_foldl _ ?_ _ _)
      intro s a
      exact same_modFibre _ _ fun f _ => rfl

/-! ### Reading -/

theorem same_dropLeases (c : Nat) : Same s (s.dropLeases c) := by
  unfold State.dropLeases
  apply same_foldl
  intro s l
  split
  · unfold State.setL1
    exact same_modL1 _ fun _ => rfl
  · exact Same.refl _

theorem same_popDrops (c : Nat) (l : List (Nat × QPlace)) : Same s (s.popDrops c l) := by
  unfold State.popDrops
  split
  · exact same_dropLeases _
  · exact Same.refl _

theorem same_readCell (l : Loc) : Same s (s.readCell l).2 := by
  unfold State.readCell
  dsimp only
  split
  · exact same_drawBit
  · exact Same.refl _

theorem same_readCode (k n : Nat) (f : Fibre) (c : Nat) : Same s (s.readCode k n f c).2 := by
  unfold State.readCode
  split
  · exact same_readCell _
  · exact Same.refl _

theorem same_popQueue (c q : Nat) : Same s (s.popQueue c q).2 := by
  unfold State.popQueue
  split
  · exact Same.refl _
  · dsimp only
    exact same_modUnit _ _ fun _ => rfl

theorem same_code (r : Reading) (k n : Nat) (f : Fibre) (c : Nat) : Same r.s (r.code k n f c).2.s := by
  unfold Reading.code
  split
  · have h := same_popQueue (s := r.s) (coreOf k) (c - 0xC0)
    split
    · rename_i p s e
      rw [e] at h
      exact h
    · rename_i s e
      rw [e] at h
      exact h
  · exact same_readCode _ _ _ _

theorem same_operand (r : Reading) (k n : Nat) (f : Fibre) (o : Operand) : Same r.s (r.operand k n f o).2.s := by
  unfold Reading.operand
  dsimp only
  split
  · split
    · exact Same.refl _
    · exact (same_code _ _ _ _ _).trans (same_code _ _ _ _ _)
  · split
    · exact Same.refl _
    · exact (same_code _ _ _ _ _).trans (same_code _ _ _ _ _)
  · exact same_code _ _ _ _ _
  · exact same_code _ _ _ _ _
  · exact same_code _ _ _ _ _
  · exact Same.refl _

theorem same_codes (k n : Nat) (f : Fibre) (l : List Nat) (r : Reading) : Same r.s (r.codes k n f l).2.s := by
  induction l generalizing r with
  | nil => exact Same.refl _
  | cons c l ih => exact (same_code r k n f c).trans (ih _)

/-- A cell that is given back with another mark of last use. -/
theorem cell_setCell (l l' : Loc) (c : RegCell) (h : ∀ seg w, l = .frame seg w → (s.segs.find seg).isSome)
    (g : ∀ k i, l = .shared k i → (s.sched.crews.find k).isSome) (q : ∀ a b c, l ≠ .queue a b c)
    (p : ∀ a b, l ≠ .pred a b) : (s.setCell l c).cell l' = if l' = l then c else s.cell l' := by
  cases l with
  | frame seg w =>
    have hs := h seg w rfl
    obtain ⟨v, hv⟩ := Option.isSome_iff_exists.mp hs
    cases l' with
    | frame seg' w' =>
      simp only [State.setCell, State.cell, State.seg, Tbl.get, State.modSeg_segs, Tbl.find_modify]
      by_cases e : seg' = seg
      · subst e
        by_cases e' : w' = w
        · subst e'
          simp [hv]
        · simp [hv, e', Tbl.find_put_ne]
      · simp [e]
    | shared a b => simp [State.setCell, State.cell]
    | queue a b c => simp [State.cell]
    | pred a b => simp [State.cell]
  | shared k i =>
    have hs := g k i rfl
    obtain ⟨v, hv⟩ := Option.isSome_iff_exists.mp hs
    cases l' with
    | frame a b => simp [State.setCell, State.cell, State.seg]
    | shared k' i' =>
      simp only [State.setCell, State.cell, State.modCrew_sched, Tbl.find_modify]
      by_cases e : k' = k
      · subst e
        by_cases e' : i' = i
        · subst e'
          simp [hv, Tbl.get]
        · simp [hv, e', Tbl.get, Tbl.find_put_ne]
      · simp [e]
    | queue a b c => simp [State.cell]
    | pred a b => simp [State.cell]
  | queue a b c => exact absurd rfl (q a b c)
  | pred a b => exact absurd rfl (p a b)

/-- A register of a place that does not exist: nothing is written. -/
theorem setCell_frame_none (seg w : Nat) (c : RegCell) (h : s.segs.find seg = none) : s.setCell (.frame seg w) c = s := by
  simp only [State.setCell, State.modSeg, Tbl.modify, h]

/-- Writing a register leaves everything else. -/
theorem apart_setCell (l : Loc) (c : RegCell) : Apart s (s.setCell l c) := by
  constructor <;> intros
  case links =>
    cases l <;> simp only [State.setCell, State.modSeg_segs, State.modCrew_segs, Tbl.find_modify]
    split
    · rename_i e
      rw [e]
      cases s.segs.find _ <;> rfl
    · rfl
  case crewRest =>
    cases l <;> simp only [State.setCell, State.modSeg_sched, State.modCrew_sched, Tbl.find_modify]
    split
    · rename_i e
      rw [e]
      cases s.sched.crews.find _ <;> rfl
    · rfl
  all_goals (cases l <;> rfl)

theorem same_setCell (l : Loc) (c : RegCell) (hv : c.val = (s.cell l).val) (hm : c.mark = (s.cell l).mark) :
    Same s (s.setCell l c) := by
  have parts : ∀ l', ((s.setCell l c).cell l').val = (s.cell l').val ∧ ((s.setCell l c).cell l').mark = (s.cell l').mark := by
    intro l'
    cases l with
    | frame seg w =>
      cases h : s.segs.find seg with
      | none => rw [setCell_frame_none _ _ _ h]; exact ⟨rfl, rfl⟩
      | some v =>
        rw [cell_setCell _ _ _ (by intro a b e; cases e; simp [h]) (by intro _ _ e; cases e) (by intro _ _ _ e; cases e)
          (by intro _ _ e; cases e)]
        split
        · rename_i e; rw [e]; exact ⟨hv, hm⟩
        · exact ⟨rfl, rfl⟩
    | shared k i =>
      cases h : s.sched.crews.find k with
      | none =>
        have e : (s.setCell (.shared k i) c).cell l' = s.cell l' := by
          apply cell_congr
          · rfl
          · simp [State.setCell, Tbl.modify, h]
        rw [e]
        exact ⟨rfl, rfl⟩
      | some v =>
        rw [cell_setCell _ _ _ (by intro _ _ e; cases e) (by intro a b e; cases e; simp [h]) (by intro _ _ _ e; cases e)
          (by intro _ _ e; cases e)]
        split
        · rename_i e; rw [e]; exact ⟨hv, hm⟩
        · exact ⟨rfl, rfl⟩
    | queue a b d => exact ⟨rfl, rfl⟩
    | pred a b => exact ⟨rfl, rfl⟩
  refine ⟨apart_setCell l c, fun l => (parts l).1, fun l => (parts l).2, ?_⟩
  intro k
  cases l <;> rfl

theorem same_useCell (l : Loc) : Same s (s.useCell l) := same_setCell l _ rfl rfl

theorem same_lastUses (f : Fibre) (ops : List Operand) : Same s (s.lastUses f ops) := by
  unfold State.lastUses
  exact same_foldl _ (fun _ l => same_useCell l) _ _

theorem same_readLane (k n : Nat) (f : Fibre) (own next : Pc) (form : Form) :
    Same s (s.readLane k n f own next form).2.2 := by
  unfold State.readLane
  dsimp only
  refine Same.trans ?_ (same_popDrops _ _)
  refine Same.trans ?_ (same_lastUses _ _)
  refine Same.trans ?_ (same_codes k n f _ _)
  refine Same.trans ?_ (same_operand _ k n f _)
  refine Same.trans ?_ (same_operand _ k n f _)
  refine Same.trans ?_ (same_operand _ k n f _)
  exact same_operand { taken := [], s := s } k n f _

end Sys2Proof.Safety
end

