-- ==== Sys2Proof/Laws/Exec.lean ====
section
/-! SUPPORT. What an instruction on the one active lane of a gang answers: the general laws that the claims about single
instructions rest on. -/
namespace Sys2Proof.Safety

open Sys2Proof.Machine

variable {s : State} {i : Instr} {t : Turn}

/-! ### The lane that is read -/

theorem isCured_same {a b : State} (h : b.code = a.code) (vf : Nat) (pc : Pc) : b.isCured vf pc = a.isCured vf pc := by
  unfold State.isCured State.codeOf
  rw [h]

/-- Charging leaves the fibres as they are. -/
theorem chargeStep_fibres (g : Gang) (n : Nat) : (s.chargeStep g n).fibres = s.fibres := by
  unfold State.chargeStep
  split
  · rfl
  · dsimp only
    split <;> rfl

theorem chargeStep_cur (g : Gang) (n : Nat) : (s.chargeStep g n).cur = s.cur := by
  unfold State.chargeStep
  split
  · rfl
  · dsimp only
    split <;> rfl

theorem chargeStep_gangs (g : Gang) (n : Nat) : (s.chargeStep g n).gangs = s.gangs := by
  unfold State.chargeStep
  split
  · rfl
  · dsimp only
    split <;> rfl

theorem foldl_keeps {α β : Type} (p : State → β) (f : State → α → State) (h : ∀ s a, p (f s a) = p s) (l : List α)
    (s : State) : p (l.foldl f s) = p s := by
  induction l generalizing s with
  | nil => rfl
  | cons a l ih => exact (ih (f s a)).trans (h s a)

/-- Reading operands leaves the fibres and the gangs as they are. -/
theorem readCode_keeps (k n : Nat) (f : Fibre) (c : Nat) :
    (s.readCode k n f c).2.fibres = s.fibres ∧ (s.readCode k n f c).2.gangs = s.gangs ∧
      (s.readCode k n f c).2.cur = s.cur := by
  unfold State.readCode State.readCell
  split
  · dsimp only
    split <;> exact ⟨rfl, rfl, rfl⟩
  · exact ⟨rfl, rfl, rfl⟩

theorem code_keeps (r : Reading) (k n : Nat) (f : Fibre) (c : Nat) :
    (r.code k n f c).2.s.fibres = r.s.fibres ∧ (r.code k n f c).2.s.gangs = r.s.gangs ∧
      (r.code k n f c).2.s.cur = r.s.cur := by
  unfold Reading.code State.popQueue
  split
  · split
    · rename_i e
      split at e
      · cases e
      · cases e
        exact ⟨rfl, rfl, rfl⟩
    · rename_i e
      split at e
      · cases e
        exact ⟨rfl, rfl, rfl⟩
      · cases e
  · exact readCode_keeps _ _ _ _

theorem operand_keeps (r : Reading) (k n : Nat) (f : Fibre) (o : Operand) :
    (r.operand k n f o).2.s.fibres = r.s.fibres ∧ (r.operand k n f o).2.s.gangs = r.s.gangs ∧
      (r.operand k n f o).2.s.cur = r.s.cur := by
  have two : ∀ a b : Nat, ((r.code k n f a).2.code k n f b).2.s.fibres = r.s.fibres ∧
      ((r.code k n f a).2.code k n f b).2.s.gangs = r.s.gangs ∧
      ((r.code k n f a).2.code k n f b).2.s.cur = r.s.cur := by
    intro a b
    have h := code_keeps r k n f a
    have g := code_keeps (r.code k n f a).2 k n f b
    exact ⟨g.1.trans h.1, g.2.1.trans h.2.1, g.2.2.trans h.2.2⟩
  unfold Reading.operand
  dsimp only
  split
  · split
    · exact ⟨rfl, rfl, rfl⟩
    · exact two _ _
  · split
    · exact ⟨rfl, rfl, rfl⟩
    · exact two _ _
  · exact code_keeps _ _ _ _ _
  · exact code_keeps _ _ _ _ _
  · exact code_keeps _ _ _ _ _
  · exact ⟨rfl, rfl, rfl⟩

theorem codes_keeps (k n : Nat) (f : Fibre) (l : List Nat) (r : Reading) :
    (r.codes k n f l).2.s.fibres = r.s.fibres ∧ (r.codes k n f l).2.s.gangs = r.s.gangs ∧
      (r.codes k n f l).2.s.cur = r.s.cur := by
  induction l generalizing r with
  | nil => exact ⟨rfl, rfl, rfl⟩
  | cons c l ih =>
    have h := code_keeps r k n f c
    have g := ih (r.code k n f c).2
    exact ⟨g.1.trans h.1, g.2.1.trans h.2.1, g.2.2.trans h.2.2⟩

theorem useCell_fibres (l : Loc) : (s.useCell l).fibres = s.fibres := by
  unfold State.useCell State.setCell
  split <;> rfl

theorem useCell_gangs (l : Loc) : (s.useCell l).gangs = s.gangs := by
  unfold State.useCell State.setCell
  split <;> rfl

theorem useCell_cur (l : Loc) : (s.useCell l).cur = s.cur := by
  unfold State.useCell State.setCell
  split <;> rfl

theorem readLane_keeps (k n : Nat) (f : Fibre) (own next : Pc) (form : Form) :
    (s.readLane k n f own next form).2.2.fibres = s.fibres ∧ (s.readLane k n f own next form).2.2.gangs = s.gangs ∧
      (s.readLane k n f own next form).2.2.cur = s.cur := by
  have uses : ∀ (s : State) (ops : List Operand), (s.lastUses f ops).fibres = s.fibres ∧
      (s.lastUses f ops).gangs = s.gangs ∧ (s.lastUses f ops).cur = s.cur := by
    intro s ops
    unfold State.lastUses
    exact ⟨foldl_keeps State.fibres _ (fun _ l => useCell_fibres l) _ _,
      foldl_keeps State.gangs _ (fun _ l => useCell_gangs l) _ _, foldl_keeps State.cur _ (fun _ l => useCell_cur l) _ _⟩
  have drops : ∀ (s : State) (c : Nat) (l : List (Nat × QPlace)), (s.popDrops c l).fibres = s.fibres ∧
      (s.popDrops c l).gangs = s.gangs ∧ (s.popDrops c l).cur = s.cur := by
    intro s c l
    unfold State.popDrops State.dropLeases
    split
    · refine ⟨foldl_keeps State.fibres _ ?_ _ _, foldl_keeps State.gangs _ ?_ _ _, foldl_keeps State.cur _ ?_ _ _⟩ <;>
        intro s a <;> split <;> rfl
    · exact ⟨rfl, rfl, rfl⟩
  have join : ∀ a b c : State, b.fibres = a.fibres ∧ b.gangs = a.gangs ∧ b.cur = a.cur →
      c.fibres = b.fibres ∧ c.gangs = b.gangs ∧ c.cur = b.cur → c.fibres = a.fibres ∧ c.gangs = a.gangs ∧ c.cur = a.cur :=
    fun a b c h g => ⟨g.1.trans h.1, g.2.1.trans h.2.1, g.2.2.trans h.2.2⟩
  unfold State.readLane
  dsimp only
  refine join _ _ _ ?_ (drops _ _ _)
  refine join _ _ _ ?_ (uses _ _)
  refine join _ _ _ ?_ (codes_keeps k n f _ _)
  refine join _ _ _ ?_ (operand_keeps _ k n f _)
  refine join _ _ _ ?_ (operand_keeps _ k n f _)
  refine join _ _ _ ?_ (operand_keeps _ k n f _)
  exact operand_keeps { taken := [], s := s } k n f _

/-! ### The lane as the gang executes it -/

/-- The one lane as the reading pass leaves it. -/
def Turn.line (t : Turn) (s : State) (i : Instr) : ReadLane :=
  { key := t.key, lane := t.lane, own := t.own s, next := t.next s i,
    read := .ready (t.x s i) (t.reading s i).2.1 }

/-- The lanes before the one lane has run. -/
def Turn.start (t : Turn) (s : State) (i : Instr) : Lanes :=
  { back := false, blocked := none, shared := [], s := t.read s i }

/-- The state that an outcome of the one lane leaves. -/
def Turn.after (t : Turn) (s : State) (i : Instr) (res : LaneRes) : State :=
  let a := Lanes.finish (t.charged s) (t.x s i) (t.reading s i).2.1 res (t.start s i)
  a.s.afterLanes i t.form t.gang [t.line s i] a.back

theorem read_fibres (h : Ready s i t) : (t.read s i).fibres.find t.key = some t.fibre := by
  have e := (readLane_keeps (s := t.charged s) t.key t.lane t.fibre (t.own s) (t.next s i) t.form).1
  unfold Turn.read Turn.reading
  rw [e, Turn.charged, chargeStep_fibres]
  exact h.fibre

theorem x_f (s : State) (i : Instr) (t : Turn) : (t.x s i).f = t.fibre := rfl

theorem x_key (s : State) (i : Instr) (t : Turn) : (t.x s i).key = t.key := rfl

theorem coreOf_key (h : Ready s i t) : coreOf t.key = t.gang.core := by
  have := h.index
  unfold coreOf Turn.key fibreKey
  omega

theorem indexOf_key (h : Ready s i t) : indexOf t.key = t.index := by
  have := h.index
  unfold indexOf Turn.key fibreKey
  omega

theorem readLanes_ready (h : Ready s i t) :
    (t.charged s).readLanes t.form (encode i).length t.gang.core t.gang.members = ([t.line s i], t.read s i) := by
  have hf : (t.charged s).fibres.find (fibreKey t.gang.core t.index) = some t.fibre := by
    rw [Turn.charged, chargeStep_fibres]
    exact h.fibre
  have hg : ¬(t.form.hdr.pred.toNat ≠ 0 ∧ t.fibre.preds.getLsbD t.form.hdr.pred.toNat = false) := by
    rintro ⟨a, b⟩
    rcases h.guard with g | g
    · rw [g] at a
      exact a rfl
    · rw [g] at b
      cases b
  have hs : (t.charged s).sourceStop (fibreKey t.gang.core t.index) t.fibre ((t.charged s).ownPc t.fibre)
      [t.form.a, t.form.b, t.form.c, t.form.d] = none := h.sources
  rw [h.alone]
  simp only [State.readLanes, State.readOne, hf, hg, hs, if_false]
  rfl

/-- An instruction that is ready runs its meaning on the lane. -/
theorem lanes_ready (h : Ready s i t) (priv : Nat → Bool) (hp : priv t.key = false)
    (body : LaneIn → State → LaneRes) :
    s.lanes i priv body = .next (t.after s i (body (t.x s i) (t.read s i))) := by
  have hr : s.runLanes i t.form t.gang body = t.after s i (body (t.x s i) (t.read s i)) := by
    have hf : (s.fibres.find (fibreKey t.gang.core (t.gang.members.headD (0, 0)).2)) = some t.fibre := by
      rw [h.alone]
      exact h.fibre
    have ht : (if s.isCured t.gang.tenant ((s.fibres.find (fibreKey t.gang.core (t.gang.members.headD (0, 0)).2)).elim
        t.gang.runStart Fibre.pc) then tooEarly t.gang i t.form else none) = none := by
      rw [hf]
      rcases h.inTime with g | g
      · simp [g]
      · simp [g]
    unfold State.runLanes
    rw [ht]
    have hl := readLanes_ready h
    unfold Turn.charged at hl
    simp only [hl, List.foldl_cons, List.foldl_nil]
    have hx : Lanes.lane body (t.charged s) (t.start s i) (t.line s i) =
        Lanes.finish (t.charged s) (t.x s i) (t.reading s i).2.1 (body (t.x s i) (t.read s i)) (t.start s i) := by
      unfold Lanes.lane
      have e : (t.start s i).s.fibres.find (t.line s i).key = some t.fibre := read_fibres h
      rw [e]
      simp only [h.issuing]
      rfl
    have hx' := hx
    unfold Turn.charged Turn.start at hx'
    rw [hx']
    rfl
  unfold State.lanes
  rw [h.gang, h.form]
  have hq : s.queuePriv (fibreKey t.gang.core t.index) t.gang.tenant t.form = false := h.owner
  have hk : priv (fibreKey t.gang.core t.index) = false := hp
  simp only [h.legal, h.alone, List.any_cons, List.any_nil, hq, hk, Bool.or_self]
  rw [← hr]
  rfl

theorem plain_ready (h : Ready s i t) (body : LaneIn → State → LaneRes) :
    s.plain i body = .next (t.after s i (body (t.x s i) (t.read s i))) :=
  lanes_ready h _ rfl body

end Sys2Proof.Safety
end

