-- ==== Sys2Proof/Laws/Complete.lean ====
section
/-! SUPPORT. An instruction whose lane gives results completes: they stand in its destinations, the fibre goes on, and
everything else is as it was. -/
namespace Sys2Proof.Safety

open Sys2Proof.Machine

variable {s s' s'' : State} {i : Instr} {t : Turn}

/-! ### Queues under bookkeeping -/

theorem SameQ.refl (s : State) : SameQ s s := ⟨fun _ _ => rfl, rfl⟩

theorem SameQ.trans (h : SameQ s s') (g : SameQ s' s'') : SameQ s s'' :=
  ⟨fun c q => (g.places c q).trans (h.places c q), g.l1.trans h.l1⟩

theorem SameQ.of_cores (h : s'.cores = s.cores) (h1 : s'.coh.l1 = s.coh.l1) : SameQ s s' := by
  refine ⟨?_, h1⟩
  intro c q
  unfold State.queueReg State.unit
  rw [h]

theorem sameQ_modUnit (c : Nat) (g : CoreUnit → CoreUnit) (h : ∀ u, (g u).queues = u.queues) :
    SameQ s (s.modUnit c g) := by
  refine ⟨?_, rfl⟩
  intro d q
  unfold State.queueReg
  rw [State.unit_modUnit]
  split
  · rename_i e
    subst e
    rw [h]
  · rfl

theorem sameQ_foldl {α : Type} (f : State → α → State) (h : ∀ s a, SameQ s (f s a)) (l : List α) (s : State) :
    SameQ s (l.foldl f s) := by
  induction l generalizing s with
  | nil => exact SameQ.refl s
  | cons a l ih => exact (h s a).trans (ih (f s a))

theorem fileAt_queues (u : CoreUnit) (k : StallKey) (m : Filed) : (u.fileAt k m).queues = u.queues := by
  unfold CoreUnit.fileAt
  split
  · rfl
  · split <;> rfl

theorem sameQ_wake (c : Nat) : SameQ s (s.wake c) := sameQ_modUnit _ _ fun _ => rfl

theorem sameQ_file (k : Nat) : SameQ s (s.file k) := by
  unfold State.file
  split
  · exact SameQ.refl s
  · exact SameQ.trans (s' := (s.fresh.2).setFibre k _) (SameQ.of_cores rfl rfl) (sameQ_modUnit _ _ fun u => fileAt_queues u _ _)

theorem sameQ_modFibre (k : Nat) (g : Fibre → Fibre) : SameQ s (s.modFibre k g) := SameQ.of_cores (by simp) (by simp)

theorem sameQ_askReload (k : Nat) : SameQ s (s.askReload k) := by
  refine sameQ_modUnit _ _ fun u => ?_
  split <;> rfl

theorem sameQ_wakeCrew (k : Nat) (crew : Option Nat) : SameQ s (s.wakeCrew k crew) := by
  unfold State.wakeCrew
  dsimp only
  split
  · exact SameQ.refl s
  · exact sameQ_modUnit _ _ fun _ => rfl

/-- A wake event leaves the fibres and the gangs. -/
theorem wakeCrew_keeps (k : Nat) (crew : Option Nat) : (s.wakeCrew k crew).fibres = s.fibres ∧
    (s.wakeCrew k crew).gangs = s.gangs ∧ (s.wakeCrew k crew).cur = s.cur := by
  unfold State.wakeCrew
  dsimp only
  split <;> exact ⟨rfl, rfl, rfl⟩

theorem sameQ_unpark (k : Nat) : SameQ s (s.unpark k) := by
  unfold State.unpark
  split
  · exact SameQ.refl s
  · split
    · exact (sameQ_file k).trans (sameQ_wake _)
    · refine SameQ.trans ?_ (sameQ_wake _)
      exact SameQ.trans (s' := s.setFibre k _) (SameQ.of_cores rfl rfl) (sameQ_askReload _)
    · exact SameQ.refl s

theorem sameQ_recheck (c : Nat) : SameQ s (s.recheck c) := by
  unfold State.recheck
  apply sameQ_foldl
  intro s p
  split
  · split
    · exact sameQ_unpark _
    · exact SameQ.refl _
  · split
    · exact sameQ_unpark _
    · exact SameQ.refl _
  · exact SameQ.refl _

theorem sameQ_fileHeld (c : Nat) (m : List (Nat × Nat)) : SameQ s (s.fileHeld c m) := by
  unfold State.fileHeld
  split
  · exact SameQ.refl s
  · split
    · exact SameQ.refl s
    · dsimp only
      refine SameQ.trans ?_ (sameQ_modUnit _ _ fun u => fileAt_queues u _ _)
      refine SameQ.trans (s' := s.fresh.2) (SameQ.of_cores rfl rfl) (sameQ_foldl _ ?_ _ _)
      intro s a
      exact sameQ_modFibre _ _

theorem sameQ_chargeEnd (g : Gang) (n : Nat) : SameQ s (s.chargeEnd g n) := by
  unfold State.chargeEnd
  split
  · exact SameQ.refl s
  · exact sameQ_modUnit _ _ fun _ => rfl

/-! ### The fibre and its gang while its results are written -/

/-- The fibre executes in the gang that issues. -/
structure Live (s : State) (t : Turn) (f : Fibre) : Prop where
  fibre : s.fibres.find t.key = some f
  issuing : f.state = .issuing
  gang : ∃ g, s.gangs.find s.cur = some g ∧ g.members = t.gang.members ∧ g.core = t.gang.core

theorem find_file_ne (k j : Nat) (h : j ≠ k) : (s.file k).fibres.find j = s.fibres.find j := by
  unfold State.file
  split
  · rfl
  · simp [Tbl.find_put_ne _ _ h]

theorem file_gangs (k : Nat) : (s.file k).gangs = s.gangs := by
  unfold State.file
  split <;> rfl

theorem file_cur (k : Nat) : (s.file k).cur = s.cur := by
  unfold State.file
  split <;> rfl

/-- Unparking leaves a fibre that executes, and the gangs. -/
theorem unpark_live (k j : Nat) (f : Fibre) (hf : s.fibres.find j = some f) (hi : f.state = .issuing) :
    (s.unpark k).fibres.find j = some f ∧ (s.unpark k).gangs = s.gangs ∧ (s.unpark k).cur = s.cur := by
  unfold State.unpark
  split
  · exact ⟨hf, rfl, rfl⟩
  · rename_i g hg
    by_cases e : j = k
    · subst e
      rw [hf] at hg
      cases hg
      rw [hi]
      exact ⟨hf, rfl, rfl⟩
    · split
      · refine ⟨?_, ?_, ?_⟩
        · show (s.file k).fibres.find j = some f
          rw [find_file_ne k j e]
          exact hf
        · exact file_gangs k
        · exact file_cur k
      · refine ⟨?_, rfl, rfl⟩
        show (s.fibres.put k _).find j = some f
        rw [Tbl.find_put_ne _ _ e]
        exact hf
      · exact ⟨hf, rfl, rfl⟩

theorem recheck_live (c j : Nat) (f : Fibre) (hf : s.fibres.find j = some f) (hi : f.state = .issuing) :
    (s.recheck c).fibres.find j = some f ∧ (s.recheck c).gangs = s.gangs ∧ (s.recheck c).cur = s.cur := by
  unfold State.recheck
  generalize s.fibres.select _ = l
  have key : ∀ (l : Tbl Fibre) (a : State), a.fibres.find j = some f ∧ a.gangs = s.gangs ∧ a.cur = s.cur →
      (l.foldl (fun s p =>
        match p.2.waiting with
        | some (.register w) => if s.registerMet c p.2.tenant w then s.unpark p.1 else s
        | some (.counter w) => if s.counterMet c p.2 w then s.unpark p.1 else s
        | _ => s) a).fibres.find j = some f ∧ (l.foldl (fun s p =>
        match p.2.waiting with
        | some (.register w) => if s.registerMet c p.2.tenant w then s.unpark p.1 else s
        | some (.counter w) => if s.counterMet c p.2 w then s.unpark p.1 else s
        | _ => s) a).gangs = s.gangs ∧ (l.foldl (fun s p =>
        match p.2.waiting with
        | some (.register w) => if s.registerMet c p.2.tenant w then s.unpark p.1 else s
        | some (.counter w) => if s.counterMet c p.2 w then s.unpark p.1 else s
        | _ => s) a).cur = s.cur := by
    intro l
    induction l with
    | nil => intro a h; exact h
    | cons p l ih =>
      intro a h
      rw [List.foldl_cons]
      have un := unpark_live (s := a) p.1 j f h.1 hi
      have un' := ih (a.unpark p.1) ⟨un.1, un.2.1.trans h.2.1, un.2.2.trans h.2.2⟩
      split
      · split
        · exact un'
        · exact ih _ h
      · split
        · exact un'
        · exact ih _ h
      · exact ih _ h
  exact key l s ⟨hf, rfl, rfl⟩

/-! ### One result -/

/-- What writing one result does. -/
structure Wrote (s s' : State) (t : Turn) (f f' : Fibre) (code : Nat) (v : Word) : Prop where
  live : Live s' t f'
  value : ∀ l, f.loc code = some l → (s'.cell l).val = v ∧ (s'.cell l).mark = .full
  cells : ∀ l, f.loc code ≠ some l → (s'.cell l).val = (s.cell l).val ∧ (s'.cell l).mark = (s.cell l).mark
  queue : isQueue code = true →
    ∃ before p, (s'.queueReg t.gang.core (code - 0xC0)).places = before ++ [p] ∧ p.word = some v
  queues : ∀ c, isQueue c = true → c ≠ code →
    (s'.queueReg t.gang.core (c - 0xC0)).places = (s.queueReg t.gang.core (c - 0xC0)).places
  pred : 0xD1 ≤ code → code < 0xD8 → f'.preds.getLsbD (code - 0xD0) = decide (v ≠ 0)
  preds : ∀ p, p < 8 → p + 0xD0 ≠ code → f'.preds.getLsbD p = f.preds.getLsbD p
  rest : { f' with preds := 0 } = { f with preds := 0 }
  others : ∀ k, k ≠ t.key → (s'.fibres.find k).map context = (s.fibres.find k).map context
  same : Apart s s'

/-- Bookkeeping after a result. -/
theorem Wrote.then {f f' : Fibre} {code : Nat} {v : Word} (h : Wrote s s' t f f' code v) (g : Same s' s'')
    (q : SameQ s' s'') (live : Live s'' t f') : Wrote s s'' t f f' code v where
  live := live
  value l hl := ⟨(g.value l).trans (h.value l hl).1, (g.mark l).trans (h.value l hl).2⟩
  cells l hl := ⟨(g.value l).trans (h.cells l hl).1, (g.mark l).trans (h.cells l hl).2⟩
  queue hq := by
    obtain ⟨b, p, e, w⟩ := h.queue hq
    exact ⟨b, p, by rw [q.places]; exact e, w⟩
  queues c hc hn := (q.places _ _).trans (h.queues c hc hn)
  pred := h.pred
  preds := h.preds
  rest := h.rest
  others k hk := (g.fibres k).trans (h.others k hk)
  same := h.same.trans g.toApart

/-- Bookkeeping before a result. -/
theorem Wrote.before {f f' : Fibre} {code : Nat} {v : Word} (g : Same s s') (q : SameQ s s')
    (h : Wrote s' s'' t f f' code v) : Wrote s s'' t f f' code v where
  live := h.live
  value := h.value
  cells l hl := ⟨(h.cells l hl).1.trans (g.value l), (h.cells l hl).2.trans (g.mark l)⟩
  queue := h.queue
  queues c hc hn := (h.queues c hc hn).trans (q.places _ _)
  pred := h.pred
  preds := h.preds
  rest := h.rest
  others k hk := (h.others k hk).trans (g.fibres k)
  same := g.toApart.trans h.same

theorem loc_lt {f : Fibre} {c : Nat} (h : 0xC0 ≤ c) : f.loc c = none := by
  unfold Fibre.loc
  rw [if_neg (by omega), if_neg (by omega)]

/-- A register is written: its cell holds the value, full. -/
theorem wrote_cell {f : Fibre} (h : Live s t f) (code : Nat) (v : Word) (l : Loc) (hl : f.loc code = some l)
    (hs : ∀ seg w, l = .frame seg w → (s.segs.find seg).isSome)
    (hc : ∀ k i, l = .shared k i → (s.sched.crews.find k).isSome) :
    Wrote s (s.writeCell l v) t f f code v ∧ (s.writeCell l v).gangs = s.gangs ∧ (s.writeCell l v).cur = s.cur := by
  have hlt : code < 0xC0 := by
    by_contra e
    rw [loc_lt (by omega)] at hl
    cases hl
  have hq : ∀ a b c, l ≠ .queue a b c := by
    intro a b c e
    subst e
    unfold Fibre.loc Fibre.gLoc Fibre.sLoc at hl
    split at hl <;> cases hl
  have hp : ∀ a b, l ≠ .pred a b := by
    intro a b e
    subst e
    unfold Fibre.loc Fibre.gLoc Fibre.sLoc at hl
    split at hl <;> cases hl
  have main : ∀ (s₁ : State) (c : RegCell), Live s₁ t f → Same s s₁ → SameQ s s₁ → c.val = v → c.mark = .full →
      Wrote s (s₁.setCell l c) t f f code v ∧ (s₁.setCell l c).gangs = s₁.gangs ∧ (s₁.setCell l c).cur = s₁.cur := by
    intro s₁ c h₁ g q hv hm
    have hs₁ : ∀ seg w, l = .frame seg w → (s₁.segs.find seg).isSome := fun seg w e => by
      rw [g.segs]
      exact hs seg w e
    have hc₁ : ∀ k i, l = .shared k i → (s₁.sched.crews.find k).isSome := fun k i e => by
      rw [g.crews]
      exact hc k i e
    have cell := fun l' => cell_setCell (s := s₁) l l' c hs₁ hc₁ hq hp
    have fib : (s₁.setCell l c).fibres = s₁.fibres := by
      unfold State.setCell
      split <;> rfl
    have gan : (s₁.setCell l c).gangs = s₁.gangs := by
      unfold State.setCell
      split <;> rfl
    have cur : (s₁.setCell l c).cur = s₁.cur := by
      unfold State.setCell
      split <;> rfl
    have cor : (s₁.setCell l c).cores = s₁.cores := by
      unfold State.setCell
      split <;> rfl
    have coh : (s₁.setCell l c).coh.l1 = s₁.coh.l1 := by
      unfold State.setCell
      split <;> rfl
    refine ⟨⟨?_, ?_, ?_, ?_, ?_, ?_, ?_, rfl, ?_, ?_⟩, gan, cur⟩
    · exact ⟨by rw [fib]; exact h₁.fibre, h₁.issuing, by rw [gan, cur]; exact h₁.gang⟩
    · intro l' hl'
      rw [hl] at hl'
      cases hl'
      rw [cell, if_pos rfl]
      exact ⟨hv, hm⟩
    · intro l' hl'
      have e : l' ≠ l := fun e => hl' (by rw [e]; exact hl)
      rw [cell, if_neg e]
      exact ⟨g.value l', g.mark l'⟩
    · intro e
      unfold isQueue at e
      simp at e
      omega
    · intro c' _ _
      exact ((SameQ.of_cores cor coh).places _ _).trans (q.places _ _)
    · intro a _
      omega
    · intro _ _ _
      trivial
    · intro k hk
      rw [fib]
      exact g.fibres k
    · exact g.toApart.trans (apart_setCell l c)
  unfold State.writeCell
  dsimp only
  split
  · exact main s.drawBit.2 _ ⟨h.fibre, h.issuing, h.gang⟩ same_drawBit (SameQ.of_cores rfl rfl) rfl rfl
  · exact main s _ h (Same.refl s) (SameQ.refl s) rfl rfl

/-- A word is appended to a q register. -/
theorem wrote_queue {f : Fibre} (h : Live s t f) (core tenant q : Nat) (v : Word) (hq : q < 16)
    (hc : core = t.gang.core) : Wrote s (s.pushQueue core tenant q (some v) false) t f f (q + 0xC0) v ∧
      (s.pushQueue core tenant q (some v) false).gangs = s.gangs ∧
      (s.pushQueue core tenant q (some v) false).cur = s.cur := by
  subst hc
  unfold State.pushQueue
  dsimp only
  generalize hg : (fun u : CoreUnit => _ : CoreUnit → CoreUnit) = g
  have gq : ∀ u c, c ≠ q → (g u).queues.find c = u.queues.find c := by
    intro u c e
    rw [← hg]
    exact Tbl.find_put_ne _ _ e
  have gp : ∀ u, ((g u).queues.get q { owner := none, places := [] }).places =
      (u.queues.get q { owner := none, places := [] }).places ++
        [{ place := s.nextId, word := some v, neighbour := false }] := by
    intro u
    rw [← hg]
    simp
  have hu : s.fresh.2.unit = s.unit := rfl
  have gb : ∀ u, bareUnit (g u) = bareUnit u := by
    intro u
    rw [← hg]
    rfl
  have w : Wrote s (s.fresh.2.modUnit t.gang.core g) t f f (q + 0xC0) v := by
    refine ⟨⟨h.fibre, h.issuing, h.gang⟩, ?_, ?_, ?_, ?_, ?_, ?_, rfl, ?_,
      (same_fresh.trans (same_modUnit _ _ gb)).toApart⟩
    · intro l hl
      rw [loc_lt (by omega)] at hl
      cases hl
    · intro l _
      exact ⟨rfl, rfl⟩
    · intro _
      refine ⟨(s.queueReg t.gang.core q).places, { place := s.nextId, word := some v, neighbour := false }, ?_, rfl⟩
      rw [Nat.add_sub_cancel]
      unfold State.queueReg
      rw [State.unit_modUnit, if_pos rfl, gp, hu]
    · intro c hc hn
      have e : c - 0xC0 ≠ q := by
        unfold isQueue at hc
        simp at hc
        omega
      unfold State.queueReg
      rw [State.unit_modUnit, if_pos rfl, hu]
      simp only [Tbl.get, gq _ _ e]
    · intro a _
      omega
    · intro _ _ _
      trivial
    · intro k _
      rfl
  have l1 : Live ((s.fresh.2.modUnit t.gang.core g).wake t.gang.core) t f := ⟨h.fibre, h.issuing, h.gang⟩
  have r := recheck_live (s := (s.fresh.2.modUnit t.gang.core g).wake t.gang.core) t.gang.core t.key f l1.fibre h.issuing
  refine ⟨(w.then (same_wake _) (sameQ_wake _) l1).then (same_recheck _) (sameQ_recheck _) ⟨r.1, h.issuing, ?_⟩, ?_, ?_⟩
  · rw [r.2.1, r.2.2]
    exact h.gang
  · exact r.2.1
  · exact r.2.2

/-- A predicate is set. -/
theorem wrote_pred {f : Fibre} (h : Live s t f) (code : Nat) (v : Word) (h1 : 0xD1 ≤ code) (h2 : code < 0xD8) :
    ∃ f', Wrote s (s.setPred t.key (code - 0xD0) (decide (v ≠ 0))) t f f' code v ∧
      (s.setPred t.key (code - 0xD0) (decide (v ≠ 0))).gangs = s.gangs ∧
      (s.setPred t.key (code - 0xD0) (decide (v ≠ 0))).cur = s.cur := by
  unfold State.setPred
  generalize hg : (fun f : Fibre => _ : Fibre → Fibre) = g
  have gf : g f = { f with preds := if decide (v ≠ 0) then f.preds ||| (1#8 <<< (code - 0xD0))
      else f.preds &&& ~~~(1#8 <<< (code - 0xD0)) } := by rw [← hg]
  have find : (s.modFibre t.key g).fibres.find t.key = some (g f) := by
    rw [State.find_modFibre, if_pos rfl, h.fibre]
    rfl
  have one : ∀ n, n < 8 → (1#8 <<< (code - 0xD0)).getLsbD n = decide (n = code - 0xD0) := by
    have : code - 0xD0 < 8 := by omega
    generalize code - 0xD0 = m at this ⊢
    intro n hn
    interval_cases m <;> interval_cases n <;> rfl
  refine ⟨g f, ⟨⟨find, ?_, ?_⟩, ?_, ?_, ?_, ?_, ?_, ?_, ?_, ?_, apart_modFibre _ _⟩, by simp, by simp⟩
  · rw [gf]
    exact h.issuing
  · simpa using h.gang
  · intro l hl
    rw [loc_lt (by omega)] at hl
    cases hl
  · intro l _
    rw [cell_congr (s := s) (by simp) (by simp)]
    exact ⟨rfl, rfl⟩
  · intro e
    unfold isQueue at e
    simp at e
    omega
  · intro c _ _
    exact (sameQ_modFibre _ _).places _ _
  · intro _ _
    rw [gf]
    dsimp only
    split
    · rename_i e
      rw [BitVec.getLsbD_or, one _ (by omega)]
      simp at e
      simp [e]
    · rename_i e
      have hn : code - 0xD0 < 8 := by omega
      rw [BitVec.getLsbD_and, BitVec.getLsbD_not, one _ hn]
      simp at e
      simp [e]
  · intro p hp hn
    rw [gf]
    dsimp only
    have e : decide (p = code - 0xD0) = false := by
      simp
      omega
    split
    · rw [BitVec.getLsbD_or, one _ hp, e, Bool.or_false]
    · rw [BitVec.getLsbD_and, BitVec.getLsbD_not, one _ hp, e]
      simp [hp]
  · rw [gf]
  · intro k hk
    rw [State.find_modFibre, if_neg hk]

/-- The place of a register code exists. -/
def Housed (s : State) (f : Fibre) (code : Nat) : Prop :=
  (s.segs.find (segKey f.tenant f.fbSeg)).isSome ∧
    (0x80 ≤ code → code < 0xC0 → (s.sched.crews.find (f.crew.getD 0)).isSome)

/-- One result is written by its code. -/
theorem wrote_code {f : Fibre} (h : Live s t f) (hi : t.index < 4096) (code : Nat) (v : Word) (hh : Housed s f code) :
    ∃ f', Wrote s (s.writeCode t.key code v) t f f' code v := by
  unfold State.writeCode
  rw [h.fibre]
  dsimp only
  have hcore : coreOf t.key = t.gang.core := by
    unfold coreOf Turn.key fibreKey
    omega
  split
  · rename_i h1
    have hl : f.loc code = some (f.gLoc code) := by
      unfold Fibre.loc
      rw [if_pos h1]
    exact ⟨f, (wrote_cell h code v _ hl (by intro a b e; cases e; exact hh.1) (by intro a b e; cases e)).1⟩
  · split
    · rename_i h1 h2
      have hl : f.loc code = some (f.sLoc (code - 0x80)) := by
        unfold Fibre.loc
        rw [if_neg h1, if_pos h2]
      have w := wrote_cell h code v _ hl (by intro a b e; cases e) (by intro a b e; cases e; exact hh.2 (by omega) h2)
      have k := wakeCrew_keeps (s := s.writeCell (f.sLoc (code - 0x80)) v) t.key f.crew
      have l1 : Live ((s.writeCell (f.sLoc (code - 0x80)) v).wakeCrew t.key f.crew) t f :=
        ⟨by rw [k.1]; exact w.1.live.fibre, h.issuing, by rw [k.2.1, k.2.2]; exact w.1.live.gang⟩
      have r := recheck_live (coreOf t.key) t.key f l1.fibre h.issuing
      refine ⟨f, (w.1.then (same_wakeCrew _ _) (sameQ_wakeCrew _ _) l1).then (same_recheck _) (sameQ_recheck _) ⟨r.1, h.issuing, ?_⟩⟩
      rw [r.2.1, r.2.2]
      exact l1.gang
    · split
      · rename_i h1 h2 h3
        have w := wrote_queue h (coreOf t.key) f.tenant (code - 0xC0) v (by omega) hcore
        rw [Nat.sub_add_cancel (by omega)] at w
        exact ⟨f, w.1⟩
      · split
        · rename_i h1 h2 h3 h4
          obtain ⟨f', w⟩ := wrote_pred h code v h4.1 h4.2
          exact ⟨f', w.1⟩
        · rename_i h1 h2 h3 h4
          refine ⟨f, ⟨h, ?_, ?_, ?_, ?_, ?_, ?_, rfl, ?_, Apart.refl s⟩⟩
          · intro l hl
            rw [loc_lt (by omega)] at hl
            cases hl
          · intro l _
            exact ⟨rfl, rfl⟩
          · intro e
            unfold isQueue at e
            simp at e
            omega
          · intro c _ _
            rfl
          · intro a b
            exact absurd ⟨a, b⟩ h4
          · intro _ _ _
            trivial
          · intro k _
            rfl

/-- A change of a gang that leaves its members. -/
theorem live_modGang {f : Fibre} (h : Live s t f) (k : Nat) (g : Gang → Gang)
    (hg : ∀ x, (g x).members = x.members ∧ (g x).core = x.core) : Live (s.modGang k g) t f := by
  refine ⟨h.fibre, h.issuing, ?_⟩
  obtain ⟨x, a, b, c⟩ := h.gang
  show ∃ y, (s.gangs.modify k g).find s.cur = some y ∧ _
  rw [Tbl.find_modify]
  by_cases e : s.cur = k
  · rw [if_pos e, ← e, a]
    exact ⟨g x, rfl, (hg x).1.trans b, (hg x).2.trans c⟩
  · rw [if_neg e]
    exact ⟨x, a, b, c⟩

/-- Noting a write leaves everything but the gang's notes. -/
theorem noteWrite_live {f : Fibre} (h : Live s t f) (x : LaneIn) (code : Nat) :
    Live (s.noteWrite x code) t f ∧ Same s (s.noteWrite x code) ∧ SameQ s (s.noteWrite x code) := by
  refine ⟨live_modGang h _ _ ?_, same_modGang _ _, SameQ.of_cores rfl rfl⟩
  intro y
  dsimp only
  split
  · exact ⟨rfl, rfl⟩
  · split <;> exact ⟨rfl, rfl⟩

/-- One result of a lane. -/
theorem wrote_now {f : Fibre} (h : Live s t f) (hi : t.index < 4096) (x : LaneIn) (hx : x.key = t.key) (code : Nat)
    (v : Word) (hh : Housed s f code) : ∃ f', Wrote s (s.writeNow x [] code v) t f f' code v := by
  obtain ⟨l, g, q⟩ := noteWrite_live h x code
  have e : s.writeNow x [] code v = (s.noteWrite x code).writeCode t.key code v := by
    unfold State.writeNow
    dsimp only
    rw [hx]
    split
    · split
      · rename_i a
        simp at a
      · rfl
    · rfl
  rw [e]
  have hh' : Housed (s.noteWrite x code) f code := hh
  obtain ⟨f', w⟩ := wrote_code l hi code v hh'
  exact ⟨f', w.before g q⟩

/-! ### All results -/

/-- What writing several results does. -/
structure WroteAll (s s' : State) (t : Turn) (f f' : Fibre) (o : List (Nat × Word)) : Prop where
  live : Live s' t f'
  value : ∀ p ∈ o, ∀ l, f.loc p.1 = some l → (s'.cell l).val = p.2 ∧ (s'.cell l).mark = .full
  cells : ∀ l, (∀ p ∈ o, f.loc p.1 ≠ some l) → (s'.cell l).val = (s.cell l).val ∧ (s'.cell l).mark = (s.cell l).mark
  queue : ∀ p ∈ o, isQueue p.1 = true →
    ∃ before q, (s'.queueReg t.gang.core (p.1 - 0xC0)).places = before ++ [q] ∧ q.word = some p.2
  queues : ∀ c, isQueue c = true → (∀ p ∈ o, c ≠ p.1) →
    (s'.queueReg t.gang.core (c - 0xC0)).places = (s.queueReg t.gang.core (c - 0xC0)).places
  pred : ∀ p ∈ o, 0xD1 ≤ p.1 → p.1 < 0xD8 → f'.preds.getLsbD (p.1 - 0xD0) = decide (p.2 ≠ 0)
  preds : ∀ p, p < 8 → (∀ q ∈ o, p + 0xD0 ≠ q.1) → f'.preds.getLsbD p = f.preds.getLsbD p
  rest : { f' with preds := 0 } = { f with preds := 0 }
  others : ∀ k, k ≠ t.key → (s'.fibres.find k).map context = (s.fibres.find k).map context
  same : Apart s s'

theorem loc_inj {f : Fibre} {a b : Nat} {l : Loc} (ha : f.loc a = some l) (hb : f.loc b = some l) : a = b := by
  unfold Fibre.loc Fibre.gLoc Fibre.sLoc at ha hb
  split at ha
  · split at hb
    · rw [← ha] at hb
      simp at hb
      omega
    · split at hb
      · rw [← ha] at hb
        simp at hb
      · cases hb
  · split at ha
    · split at hb
      · rw [← ha] at hb
        simp at hb
      · split at hb
        · rw [← ha] at hb
          simp at hb
          omega
        · cases hb
    · cases ha

theorem loc_of_rest {f f' : Fibre} (h : { f' with preds := 0 } = { f with preds := 0 }) :
    f'.loc = f.loc ∧ (∀ s c, Housed s f' c ↔ Housed s f c) := by
  have e1 := congrArg Fibre.tenant h
  have e1 : f'.tenant = f.tenant := e1
  have e2 := congrArg Fibre.fbSeg h
  have e2 : f'.fbSeg = f.fbSeg := e2
  have e3 := congrArg Fibre.fbWord h
  have e3 : f'.fbWord = f.fbWord := e3
  have e4 := congrArg Fibre.crew h
  have e4 : f'.crew = f.crew := e4
  refine ⟨?_, ?_⟩
  · funext c
    unfold Fibre.loc Fibre.gLoc Fibre.sLoc
    rw [e1, e2, e3, e4]
  · intro s c
    unfold Housed
    rw [e1, e2, e4]

/-- All results of a lane whose destinations are distinct. -/
theorem wrote_all (x : LaneIn) (hx : x.key = t.key) (hi : t.index < 4096) (o : List (Nat × Word)) :
    ∀ (s : State) (f : Fibre), Live s t f → (∀ p ∈ o, Housed s f p.1) → (o.map Prod.fst).Nodup →
      ∃ f', WroteAll s (o.foldl (fun s p => s.writeNow x [] p.1 p.2) s) t f f' o := by
  induction o with
  | nil =>
    intro s f h _ _
    exact ⟨f, ⟨h, by simp, by simp, by simp, by simp, by simp, by simp, rfl, by simp, Apart.refl s⟩⟩
  | cons p o ih =>
    intro s f h hh hn
    obtain ⟨f₁, w⟩ := wrote_now h hi x hx p.1 p.2 (hh p (by simp))
    have hl := loc_of_rest w.rest
    have hh₁ : ∀ q ∈ o, Housed (s.writeNow x [] p.1 p.2) f₁ q.1 := by
      intro q hq
      rw [hl.2]
      have a := hh q (by simp [hq])
      refine ⟨?_, ?_⟩
      · rw [w.same.segs]
        exact a.1
      · intro b c
        rw [w.same.crews]
        exact a.2 b c
    have hn' : p.1 ∉ o.map Prod.fst ∧ (o.map Prod.fst).Nodup := by simpa using hn
    obtain ⟨f₂, g⟩ := ih _ f₁ w.live hh₁ hn'.2
    have ne : ∀ q ∈ o, q.1 ≠ p.1 := fun q hq e => hn'.1 (by rw [← e]; exact List.mem_map_of_mem hq)
    refine ⟨f₂, ⟨g.live, ?_, ?_, ?_, ?_, ?_, ?_, g.rest.trans w.rest, ?_, ?_⟩⟩
    · intro q hq l hql
      rcases List.mem_cons.mp hq with e | e
      · subst e
        have a := w.value l hql
        have b := g.cells l (by
          intro r hr e
          rw [hl.1] at e
          exact ne r hr (loc_inj e hql))
        exact ⟨b.1.trans a.1, b.2.trans a.2⟩
      · exact g.value q e l (by rw [hl.1]; exact hql)
    · intro l hq
      have a := w.cells l (hq p (by simp))
      have b := g.cells l (by intro r hr; rw [hl.1]; exact hq r (by simp [hr]))
      exact ⟨b.1.trans a.1, b.2.trans a.2⟩
    · intro q hq hz
      rcases List.mem_cons.mp hq with e | e
      · subst e
        obtain ⟨b, r, e1, e2⟩ := w.queue hz
        exact ⟨b, r, (g.queues _ hz (fun r hr => (ne r hr).symm)).trans e1, e2⟩
      · exact g.queue q e hz
    · intro c hc hne
      exact (g.queues c hc fun r hr => hne r (by simp [hr])).trans (w.queues c hc (hne p (by simp)))
    · intro q hq h1 h2
      rcases List.mem_cons.mp hq with e | e
      · subst e
        rw [g.preds _ (by omega) (by
          intro r hr
          have := ne r hr
          omega)]
        exact w.pred h1 h2
      · exact g.pred q e h1 h2
    · intro n hn' hne
      rw [g.preds n hn' fun r hr => hne r (by simp [hr])]
      exact w.preds n hn' (hne p (by simp))
    · intro k hk
      exact (g.others k hk).trans (w.others k hk)
    · exact w.same.trans g.same

end Sys2Proof.Safety
end

