-- ==== Sys2Proof/Laws/RunEnd.lean ====
section
/-! SUPPORT. The end of a run when nothing waits at its safe point (R38 to R43): bookkeeping alone, so that what an
instruction gives is there after it. -/
namespace Sys2Proof.Safety

open Sys2Proof.Machine

variable {s s' s'' : State} {i : Instr} {t : Turn}

/-- Nothing waits for the safe point of a fibre. -/
structure Quiet (s : State) (t : Turn) (f : Fibre) : Prop where
  kill : f.killOrdered = false
  faults : f.pending = []
  request : f.request = none
  flags : f.trapping = false
  landings : ∀ p ∈ s.landings, p.2.fibre ≠ t.key
  window : ∀ c, f.live ≤ c → c < 128 → (s.cell (f.gLoc c)).mark = .full

/-- Quiet in a state that differs in bookkeeping alone. -/
theorem Quiet.same {f : Fibre} (q : Quiet s t f) (h : Same s s') : Quiet s' t f :=
  ⟨q.kill, q.faults, q.request, q.flags, by rw [h.landings]; exact q.landings,
    fun c a b => (h.mark _).trans (q.window c a b)⟩

theorem mem_upto (a n c : Nat) (h : c ∈ upto a n) : a ≤ c ∧ c < a + n := by
  induction n generalizing a with
  | zero => simp [upto] at h
  | succ n ih =>
    simp only [upto, List.mem_cons] at h
    rcases h with h | h
    · omega
    · have := ih _ h
      omega

/-- A fibre that awaits nothing from LIVE on leaves its safe point as it is (R42). -/
theorem liveFull_quiet {f : Fibre} (h : s.fibres.find t.key = some f) (q : Quiet s t f) : s.liveFull t.key = s := by
  unfold State.liveFull
  rw [h]
  have e : (((upto f.live (128 - f.live)).map f.gLoc).filter fun l => decide ((s.cell l).mark ≠ .full)) = [] := by
    rw [List.filter_eq_nil_iff]
    intro l hl
    obtain ⟨c, hc, rfl⟩ := List.mem_map.mp hl
    have b := mem_upto _ _ _ hc
    simp [q.window c b.1 (by omega)]
  dsimp only
  rw [e]
  rfl

theorem safePoint_quiet {f : Fibre} (h : s.fibres.find t.key = some f) (hi : f.state = .issuing) (q : Quiet s t f)
    (own : Pc) : s.safePoint t.key own = s := by
  unfold State.safePoint
  rw [h]
  simp only [hi, q.kill, q.faults, q.request, q.flags]
  simp

theorem maskedKill_same {f : Fibre} (k : Nat) (h : (s.fibres.find k).map context = some (context f))
    (hk : f.killOrdered = false) : s.maskedKill k = s := by
  unfold State.maskedKill
  cases hf : s.fibres.find k with
  | none => rfl
  | some g =>
    rw [hf] at h
    have e : context g = context f := by simpa using h
    have e' := congrArg Fibre.killOrdered e
    have e' : g.killOrdered = f.killOrdered := e'
    simp [e', hk]

/-- Counting a run for the spin detector is bookkeeping. -/
theorem same_countSpin (g : Gang) (b : Bool) : Same s (s.countSpin g b) ∧ SameQ s (s.countSpin g b) := by
  unfold State.countSpin
  dsimp only
  split
  · exact ⟨Same.refl s, SameQ.refl s⟩
  · generalize hu : (fun u : CoreUnit => _ : CoreUnit → CoreUnit) = upd
    have e : ∀ u, bareUnit (upd u) = bareUnit u ∧ (upd u).queues = u.queues := fun u => by
      rw [← hu]
      exact ⟨rfl, rfl⟩
    have a := same_modUnit (s := s) g.core upd fun u => (e u).1
    have b := sameQ_modUnit (s := s) g.core upd fun u => (e u).2
    split
    · exact ⟨(a.trans (same_setStat _ _ _ _)).trans (same_raise _ _ _ _ _ _),
        b.trans (SameQ.of_cores (s := s.modUnit g.core upd) rfl rfl)⟩
    · exact ⟨a, b⟩

theorem countSpin_keeps (g : Gang) (b : Bool) : (s.countSpin g b).fibres = s.fibres ∧
    (s.countSpin g b).code = s.code := by
  unfold State.countSpin
  dsimp only
  split
  · exact ⟨rfl, rfl⟩
  · split <;> exact ⟨rfl, rfl⟩

theorem enter_canonical (vf : Nat) (h o : Word) : (s.enter vf h o).handle = h ∧ (s.enter vf h o).off = o := by
  unfold State.enter
  split
  · split <;> exact ⟨rfl, rfl⟩
  · exact ⟨rfl, rfl⟩

theorem freshPc_canonical (vf : Nat) (pc : Pc) : (s.freshPc vf pc).handle = pc.handle ∧ (s.freshPc vf pc).off = pc.off := by
  unfold State.freshPc
  split
  · split <;> exact ⟨rfl, rfl⟩
  · exact ⟨rfl, rfl⟩

/-- A change of text alone: the fibre stands at the same canonical PC. -/
theorem context_pc (f : Fibre) (pc : Pc) (h : pc.handle = f.pc.handle ∧ pc.off = f.pc.off) :
    context { f with pc := pc } = context f := by
  unfold context
  simp only [h.1, h.2]

theorem same_leaveTwin (k : Nat) : Same s (s.leaveTwin k) :=
  same_modFibre _ _ fun f _ => context_pc f _ (freshPc_canonical _ _)

theorem same_changeOver (k : Nat) : Same s (s.changeOver k) := by
  refine same_modFibre _ _ fun f _ => context_pc f _ ?_
  split
  · exact enter_canonical _ _ _
  · exact freshPc_canonical _ _

theorem cell_touch (k : Nat) (l : Loc) : (s.touch k).cell l = s.cell l := by
  cases l with
  | frame seg w =>
    simp only [State.cell, State.seg, State.touch, Tbl.get, State.modSeg_segs, Tbl.find_modify]
    split
    · rename_i e
      subst e
      cases s.segs.find seg <;> rfl
    · rfl
  | _ => rfl

theorem apart_touch (k : Nat) : Apart s (s.touch k) := by
  constructor <;> intros
  case links =>
    simp only [State.touch, State.modSeg_segs, Tbl.find_modify]
    split
    · rename_i e
      rw [e]
      cases s.segs.find _ <;> rfl
    · rfl
  all_goals rfl

theorem same_touch (k : Nat) : Same s (s.touch k) :=
  ⟨apart_touch k, fun l => by rw [cell_touch], fun l => by rw [cell_touch], fun _ => rfl⟩

/-- A touch of the top segment is bookkeeping (R75). -/
theorem same_touchTop (k : Nat) : Same s (s.touchTop k) ∧ SameQ s (s.touchTop k) := by
  unfold State.touchTop
  split
  · exact ⟨same_touch _, SameQ.of_cores rfl rfl⟩
  · exact ⟨Same.refl s, SameQ.refl s⟩

theorem same_fileGang (gid : Nat) (g : Gang) (w : Bool) : Same s (s.fileGang gid g w) := by
  unfold State.fileGang
  have a : ∀ (l : List (Nat × Nat)) (a : State), Same s a → Same s (l.foldl (fun s m =>
      s.modFibre (fibreKey g.core m.2) fun f => { f with lane := m.1, reform := false }) a) := by
    intro l a h
    refine h.trans (same_foldl _ ?_ _ _)
    intro s m
    exact same_modFibre _ _ fun f _ => rfl
  have b : Same s (g.members.foldl (fun s m => s.touchTop (fibreKey g.core m.2)) { s with gangs := s.gangs.del gid }) :=
    (same_gangs _).trans (same_foldl _ (fun _ _ => (same_touchTop _).1) _ _)
  dsimp only
  split
  · exact (a _ _ b).trans (same_fileHeld _ _)
  · refine (a _ _ b).trans (same_foldl _ ?_ _ _)
    intro s m
    exact same_file _

theorem sameQ_fileGang (gid : Nat) (g : Gang) (w : Bool) : SameQ s (s.fileGang gid g w) := by
  unfold State.fileGang
  have a : ∀ (l : List (Nat × Nat)) (a : State), SameQ s a → SameQ s (l.foldl (fun s m =>
      s.modFibre (fibreKey g.core m.2) fun f => { f with lane := m.1, reform := false }) a) := by
    intro l a h
    refine h.trans (sameQ_foldl _ ?_ _ _)
    intro s m
    exact sameQ_modFibre _ _
  have b : SameQ s (g.members.foldl (fun s m => s.touchTop (fibreKey g.core m.2)) { s with gangs := s.gangs.del gid }) :=
    SameQ.trans (s' := { s with gangs := s.gangs.del gid }) (SameQ.of_cores rfl rfl)
      (sameQ_foldl _ (fun _ _ => (same_touchTop _).2) _ _)
  dsimp only
  split
  · exact (a _ _ b).trans (sameQ_fileHeld _ _)
  · refine (a _ _ b).trans (sameQ_foldl _ ?_ _ _)
    intro s m
    exact sameQ_file _

/-- Settling the one lane of a gang with nothing to deliver. -/
theorem settle_same {f : Fibre} (h : Live s t f) (hm : t.gang.members = [(t.lane, t.index)]) (q : Quiet s t f)
    (rb : Nat) (safe back : Bool) :
    Same s (s.settleGang s.cur rb safe back) ∧ SameQ s (s.settleGang s.cur rb safe back) := by
  obtain ⟨g, hg, hgm, hgc⟩ := h.gang
  have hkeys : g.members.map (fun m => fibreKey g.core m.2) = [t.key] := by
    rw [hgm, hm, hgc]
    rfl
  have hflush : s.flushLandings [t.key] = s := by
    have e : s.landings.select (fun _ l => [t.key].contains l.fibre) = [] := by
      unfold Tbl.select
      rw [List.filter_eq_nil_iff]
      intro p hp
      have := q.landings p hp
      simp [this]
    unfold State.flushLandings
    rw [e]
    rfl
  have hfull := liveFull_quiet h.fibre q
  unfold State.settleGang
  rw [hg]
  dsimp only
  rw [hkeys]
  have count := same_countSpin (s := s) g
  split
  · exact ⟨(((count false).1.trans (same_leaveTwin _))).trans (same_modGang _ _),
      ((count false).2.trans (sameQ_modFibre _ _)).trans (SameQ.of_cores rfl rfl)⟩
  · have main : ∀ (a : State) (w : Bool), Same s a → SameQ s a →
        Same s ([t.key].foldl State.maskedKill (a.fileGang s.cur g w)) ∧
        SameQ s ([t.key].foldl State.maskedKill (a.fileGang s.cur g w)) := by
      intro a w ha hq
      have b := ha.trans (same_fileGang (s := a) s.cur g w)
      have e : ((a.fileGang s.cur g w).fibres.find t.key).map context = some (context f) := by
        rw [b.fibres, h.fibre]
        rfl
      have m := maskedKill_same (s := a.fileGang s.cur g w) t.key e q.kill
      simp only [List.foldl_cons, List.foldl_nil]
      rw [m]
      exact ⟨b, hq.trans (sameQ_fileGang _ _ _)⟩
    cases safe
    · exact main _ _ ((count _).1.trans (same_leaveTwin _)) ((count _).2.trans (sameQ_modFibre _ _))
    · simp only [if_true, hflush, List.foldl_cons, List.foldl_nil, Bool.true_and]
      split
      · exact ⟨same_modGang _ _, SameQ.of_cores rfl rfl⟩
      · rw [hfull]
        exact main _ _ ((count _).1.trans (same_changeOver _)) ((count _).2.trans (sameQ_modFibre _ _))

/-- What holds after every look of a core's waiting fibres holds once they have seen words taken (R275). -/
theorem popsSeen_induct {P : State → Prop} (h : P s) (step : ∀ a c, P a → P (a.recheck c)) (core : Nat)
    (rs : List ReadLane) : P (s.popsSeen core rs) := by
  unfold State.popsSeen
  split
  · generalize upto (clusterOf core * 8) 8 = l
    induction l generalizing s with
    | nil => exact h
    | cons c l ih => exact ih (step _ _ h)
  · exact h

/-- A fibre that executes goes on doing so, and its gang with it, where others see words taken. -/
theorem popsSeen_live {f : Fibre} (h : Live s t f) (core : Nat) (rs : List ReadLane) :
    Live (s.popsSeen core rs) t f ∧ (s.popsSeen core rs).cur = s.cur ∧ Same s (s.popsSeen core rs) ∧
      SameQ s (s.popsSeen core rs) := by
  refine popsSeen_induct (P := fun a => Live a t f ∧ a.cur = s.cur ∧ Same s a ∧ SameQ s a)
    ⟨h, rfl, Same.refl s, SameQ.refl s⟩ ?_ core rs
  rintro a c ⟨l, e, x, y⟩
  have r := recheck_live (s := a) c t.key f l.fibre l.issuing
  exact ⟨⟨r.1, l.issuing, by rw [r.2.1, r.2.2]; exact l.gang⟩, r.2.2.trans e, x.trans (same_recheck _),
    y.trans (sameQ_recheck _)⟩

/-- After the one lane: bookkeeping alone, where the run goes on or nothing waits for its end. -/
theorem afterLanes_same {f : Fibre} (h : Live s t f) (hm : t.gang.members = [(t.lane, t.index)])
    (q : t.runsOn i ∨ Quiet s t f) (rs : List ReadLane) (back : Bool) :
    Same s (s.afterLanes i t.form t.gang rs back) ∧ SameQ s (s.afterLanes i t.form t.gang rs back) := by
  unfold State.afterLanes
  dsimp only
  generalize hgen : (fun g : Gang => _ : Gang → Gang) = g
  have hg : ∀ x, (g x).members = x.members ∧ (g x).core = x.core := by
    intro x
    rw [← hgen]
    exact ⟨rfl, rfl⟩
  clear hgen
  obtain ⟨h, hcur, seen, seenQ⟩ := popsSeen_live h t.gang.core rs
  replace q : t.runsOn i ∨ Quiet (s.popsSeen t.gang.core rs) t f := q.imp id fun q => q.same seen
  rw [← hcur]
  generalize s.popsSeen t.gang.core rs = s₀ at *
  suffices z : Same s₀ _ ∧ SameQ s₀ _ from ⟨seen.trans z.1, seenQ.trans z.2⟩
  clear seen seenQ hcur
  have l1 := live_modGang h s₀.cur g hg
  have a1 : Same s₀ (s₀.modGang s₀.cur g) := same_modGang _ _
  have b1 : SameQ s₀ (s₀.modGang s₀.cur g) := SameQ.of_cores rfl rfl
  split
  · split
    · have c := same_countSpin (s := (s₀.modGang s₀.cur g).chargeEnd t.gang (t.gang.runLen + 1)) t.gang false
      exact ⟨(a1.trans (same_chargeEnd _ _)).trans c.1, (b1.trans (sameQ_chargeEnd _ _)).trans c.2⟩
    · exact ⟨a1, b1⟩
  · rename_i hend
    have q' : Quiet s₀ t f := by
      rcases q with r | q
      · exfalso
        apply hend
        obtain ⟨r1, r2, r3⟩ := r
        simp [r1, r2]
        omega
      · exact q
    have l2 : Live ((s₀.modGang s₀.cur g).chargeEnd t.gang (t.gang.runLen + 1)) t f := by
      unfold State.chargeEnd
      split
      · exact l1
      · exact ⟨l1.fibre, l1.issuing, l1.gang⟩
    have c2 : ((s₀.modGang s₀.cur g).chargeEnd t.gang (t.gang.runLen + 1)).cur = s₀.cur := by
      unfold State.chargeEnd
      split <;> rfl
    have a2 := a1.trans (same_chargeEnd (s := s₀.modGang s₀.cur g) t.gang (t.gang.runLen + 1))
    have b2 := b1.trans (sameQ_chargeEnd (s := s₀.modGang s₀.cur g) t.gang (t.gang.runLen + 1))
    generalize (s₀.modGang s₀.cur g).chargeEnd t.gang (t.gang.runLen + 1) = s₂ at l2 c2 a2 b2 ⊢
    have q₂ : Quiet s₂ t f := q'.same a2
    have hsp : t.gang.members.foldl (fun s m => s.safePoint (fibreKey t.gang.core m.2)
        (ownOf rs (fibreKey t.gang.core m.2))) s₂ = s₂ := by
      rw [hm]
      exact safePoint_quiet l2.fibre l2.issuing q₂ _
    rw [hsp, ite_self, ← c2]
    have r := settle_same l2 hm q₂ t.form.hdr.rb.toNat (decide (2 ≤ t.form.hdr.rb.toNat) || back || endsSafe i) back
    split
    · have c := same_countSpin (s := s₂) t.gang false
      exact ⟨a2.trans c.1, b2.trans c.2⟩
    · exact ⟨a2.trans r.1, b2.trans r.2⟩

/-! ### Completion -/

theorem flags_withFlags (v : DWord) (fl : Flags) : (withFlags v fl).extractLsb' 0 6 = fl := by
  unfold withFlags
  ext n hn
  simp only [BitVec.getElem_extractLsb', BitVec.getLsbD_or, BitVec.getLsbD_and, BitVec.getLsbD_not,
    BitVec.getLsbD_setWidth, Nat.zero_add]
  have e : (0x3F#64).getLsbD n = true := by interval_cases n <;> rfl
  simp [e, hn]
  omega

theorem enables_withFlags (v : DWord) (fl : Flags) : (withFlags v fl).extractLsb' 16 6 = v.extractLsb' 16 6 := by
  unfold withFlags
  ext n hn
  simp only [BitVec.getElem_extractLsb', BitVec.getLsbD_or, BitVec.getLsbD_and, BitVec.getLsbD_not,
    BitVec.getLsbD_setWidth]
  have e : (0x3F#64).getLsbD (16 + n) = false := by interval_cases n <;> rfl
  have e' : fl.getLsbD (16 + n) = false := BitVec.getLsbD_of_ge fl (16 + n) (by omega)
  have e'' : 16 + n < 64 := by omega
  rw [e, e']
  simp [e'']

theorem flags_withSeed (v : DWord) (sd : Word) : (withSeed v sd).extractLsb' 0 6 = v.extractLsb' 0 6 := by
  unfold withSeed
  ext n hn
  have e := BitVec.getLsbD_append (x := sd) (y := v.extractLsb' 0 32) (i := n)
  rw [BitVec.getElem_extractLsb', BitVec.getElem_extractLsb', Nat.zero_add]
  refine e.trans ?_
  rw [if_pos (show n < 32 by omega)]
  simp
  omega

theorem enables_withSeed (v : DWord) (sd : Word) : (withSeed v sd).extractLsb' 16 6 = v.extractLsb' 16 6 := by
  unfold withSeed
  ext n hn
  have e := BitVec.getLsbD_append (x := sd) (y := v.extractLsb' 0 32) (i := 16 + n)
  rw [BitVec.getElem_extractLsb', BitVec.getElem_extractLsb']
  refine e.trans ?_
  rw [if_pos (show 16 + n < 32 by omega)]
  simp
  omega

theorem housed_read {codes : List Nat} (hf : Free s i t codes) (c : Nat) (hc : c ∈ codes) :
    Housed (t.read s i) t.fibre c := by
  have a : Same s (t.read s i) := (same_chargeStep _ _).trans (same_readLane _ _ _ _ _ _)
  refine ⟨?_, ?_⟩
  · rw [a.segs]
    exact hf.frame
  · intro h1 h2
    rw [a.crews]
    exact hf.crew c hc h1 h2

theorem stopAt_none (h : Ready s i t) {codes : List Nat} (hf : Free s i t codes) :
    Lanes.stopAt (t.start s i) (t.charged s) (t.x s i) codes = none := by
  unfold Lanes.stopAt
  rw [hf.takes, x_key, coreOf_key h]
  exact hf.room

/-- The law of completion: an instruction whose meaning is a lane's results. -/
theorem completes {o : List (Nat × Word)} {fl : Flags} {seed : Option Word}
    (h : Executes s i t (o.map Prod.fst) fl) (hn : (o.map Prod.fst).Nodup)
    (he : exec i s = .next (t.after s i (.outs false o fl seed))) : Completes s i t o fl seed := by
  obtain ⟨hr, hf, hc⟩ := h
  refine ⟨_, he, ?_⟩
  have base : Same s (t.read s i) := (same_chargeStep _ _).trans (same_readLane _ _ _ _ _ _)
  have keeps := readLane_keeps (s := t.charged s) t.key t.lane t.fibre (t.own s) (t.next s i) t.form
  have live : Live (t.read s i) t t.fibre := by
    refine ⟨read_fibres hr, hr.issuing, t.gang, ?_, rfl, rfl⟩
    show (t.reading s i).2.2.gangs.find (t.reading s i).2.2.cur = _
    unfold Turn.reading
    rw [keeps.2.1, keeps.2.2, Turn.charged, chargeStep_gangs, chargeStep_cur]
    exact hr.gang
  obtain ⟨f₁, w⟩ := wrote_all (t.x s i) rfl hr.index o (t.read s i) t.fibre live
    (fun p hp => housed_read hf p.1 (List.mem_map_of_mem hp)) hn
  have stop := stopAt_none hr hf
  have fin : Lanes.finish (t.charged s) (t.x s i) (t.reading s i).2.1 (.outs false o fl seed) (t.start s i) =
      (t.start s i).commit (t.x s i) false o fl seed := by
    unfold Lanes.finish
    dsimp only
    rw [stop]
  have after : t.after s i (.outs false o fl seed) =
      ((o.foldl (fun s' p => s'.writeNow (t.x s i) [] p.1 p.2) (t.read s i)).modFibre t.key fun f =>
        ({ f with pc := t.next s i, fsr := seeded f.fsr seed } : Fibre).raise
          fl (t.own s).pointer).afterLanes i t.form t.gang [t.line s i] false := by
    unfold Turn.after
    rw [fin]
    rfl
  rw [after]
  generalize o.foldl (fun s' p => s'.writeNow (t.x s i) [] p.1 p.2) (t.read s i) = W at w ⊢
  generalize hF : (fun f : Fibre => _ : Fibre → Fibre) = F
  have F1 : ∀ f, F f = { f with
      pc := t.next s i
      fsr := withFlags (seeded f.fsr seed) (f.flags ||| fl)
      heldPc := if f.heldPc.isNone ∧ fl &&& f.enables ≠ 0 then some (t.own s).pointer else f.heldPc } := by
    intro f
    rw [← hF]
    unfold Fibre.raise Fibre.flags Fibre.enables seeded
    cases seed with
    | none => rfl
    | some v =>
      dsimp only
      rw [flags_withSeed, enables_withSeed]
  clear hF
  have find : (W.modFibre t.key F).fibres.find t.key = some (F f₁) := by
    rw [State.find_modFibre, if_pos rfl, w.live.fibre]
    rfl
  have live' : Live (W.modFibre t.key F) t (F f₁) := by
    refine ⟨find, ?_, ?_⟩
    · rw [F1]
      exact w.live.issuing
    · simpa using w.live.gang
  have e_flags : f₁.fsr = t.fibre.fsr := (congrArg Fibre.fsr w.rest : _)
  have quiet : t.runsOn i ∨ Quiet (W.modFibre t.key F) t (F f₁) := by
    rcases hc with r | c
    · exact Or.inl r
    · right
      have k1 : f₁.killOrdered = t.fibre.killOrdered := (congrArg Fibre.killOrdered w.rest : _)
      have k2 : f₁.pending = t.fibre.pending := (congrArg Fibre.pending w.rest : _)
      have k3 : f₁.request = t.fibre.request := (congrArg Fibre.request w.rest : _)
      refine ⟨?_, ?_, ?_, ?_, ?_, ?_⟩
      · rw [F1]
        exact k1.trans c.kill
      · rw [F1]
        exact k2.trans c.faults
      · rw [F1]
        exact k3.trans c.request
      · have z := c.flags
        rw [F1]
        unfold Fibre.trapping Fibre.flags Fibre.enables
        unfold Fibre.flags Fibre.enables at z
        dsimp only
        rw [flags_withFlags, enables_withFlags, e_flags]
        unfold seeded
        cases seed with
        | none => simp [z]
        | some v =>
          dsimp only
          rw [enables_withSeed]
          simp [z]
      · intro p hp
        apply c.landings
        have : (W.modFibre t.key F).landings = s.landings := by
          simp only [State.modFibre_landings]
          exact w.same.landings.trans base.landings
        rw [this] at hp
        exact hp
      · intro n h1 h2
        have k4 : f₁.live = t.fibre.live := (congrArg Fibre.live w.rest : _)
        have k5 : f₁.tenant = t.fibre.tenant := (congrArg Fibre.tenant w.rest : _)
        have k6 : f₁.fbSeg = t.fibre.fbSeg := (congrArg Fibre.fbSeg w.rest : _)
        have k7 : f₁.fbWord = t.fibre.fbWord := (congrArg Fibre.fbWord w.rest : _)
        have e : (F f₁).gLoc n = t.fibre.gLoc n := by
          rw [F1]
          unfold Fibre.gLoc
          simp only [k5, k6, k7]
        rw [e, cell_congr (s := W) (by simp) (by simp)]
        rw [F1] at h1
        have full := (base.mark (t.fibre.gLoc n)).trans (c.window n (by rw [← k4]; exact h1) h2)
        by_cases hp : ∀ p ∈ o, t.fibre.loc p.1 ≠ some (t.fibre.gLoc n)
        · exact (w.cells _ hp).2.trans full
        · push Not at hp
          obtain ⟨p, hp, hl⟩ := hp
          exact (w.value p hp _ hl).2
  obtain ⟨a, b⟩ := afterLanes_same live' hr.alone quiet [t.line s i] false
  have cellF : ∀ l, (W.modFibre t.key F).cell l = W.cell l := by
    intro l
    exact cell_congr (by simp) (by simp) l
  have ctx : ∃ f', ((W.modFibre t.key F).afterLanes i t.form t.gang [t.line s i] false).fibres.find t.key = some f' ∧
      context f' = context (F f₁) := by
    have e := a.fibres t.key
    rw [find] at e
    cases hf' : ((W.modFibre t.key F).afterLanes i t.form t.gang [t.line s i] false).fibres.find t.key with
    | none => simp [hf'] at e
    | some f' =>
      rw [hf'] at e
      exact ⟨f', rfl, by simpa using e⟩
  obtain ⟨f', hf', hctx⟩ := ctx
  have preds' : f'.preds = f₁.preds := by
    have := congrArg Fibre.preds hctx
    rw [F1] at this
    exact this
  refine ⟨?_, ?_, ?_⟩
  · intro p hp
    refine ⟨?_, ?_, ?_⟩
    · intro l hl
      have v := w.value p hp l hl
      exact ⟨(a.value l).trans ((congrArg RegCell.val (cellF l)).trans v.1),
        (a.mark l).trans ((congrArg RegCell.mark (cellF l)).trans v.2)⟩
    · intro hq
      obtain ⟨before, q, e1, e2⟩ := w.queue p hp hq
      exact ⟨before, q, ((b.places _ _).trans ((sameQ_modFibre _ _).places _ _)).trans e1, e2⟩
    · intro h1 h2
      refine ⟨f', hf', ?_⟩
      rw [preds']
      exact w.pred p hp h1 h2
  · refine ⟨f', hf', ?_⟩
    have g : ∀ {α : Type} (P : Fibre → α), P (context f') = P (context (F f₁)) := fun P => congrArg P hctx
    have r : ∀ {α : Type} (P : Fibre → α), P { f₁ with preds := 0 } = P { t.fibre with preds := 0 } :=
      fun P => congrArg P w.rest
    have heldE : f₁.heldPc = t.fibre.heldPc := r Fibre.heldPc
    refine ⟨?_, ?_, ?_, ?_, ?_, ?_, ?_, ?_, ?_, ?_, ?_, ?_⟩
    · have e := g fun f => f.pc.pointer
      rw [F1] at e
      exact e
    · have e := g Fibre.fsr
      rw [F1] at e
      refine Eq.trans e ?_
      show withFlags (seeded f₁.fsr seed) (f₁.flags ||| fl) = _
      unfold Fibre.flags
      rw [e_flags]
    · have e := g Fibre.heldPc
      rw [F1] at e
      refine Eq.trans e ?_
      show (if f₁.heldPc.isNone ∧ fl &&& f₁.enables ≠ 0 then _ else f₁.heldPc) = _
      unfold Fibre.enables
      rw [heldE, e_flags]
    · intro p hp hn'
      rw [preds']
      apply w.preds p hp
      intro q hq e
      exact hn' (by rw [e]; exact List.mem_map_of_mem hq)
    all_goals
      first
      | exact (by have e := g Fibre.hchain; rw [F1] at e; exact Eq.trans e (r Fibre.hchain))
      | exact (by have e := g Fibre.fbSeg; rw [F1] at e; exact Eq.trans e (r Fibre.fbSeg))
      | exact (by have e := g Fibre.fbWord; rw [F1] at e; exact Eq.trans e (r Fibre.fbWord))
      | exact (by have e := g Fibre.live; rw [F1] at e; exact Eq.trans e (r Fibre.live))
      | exact (by have e := g Fibre.crew; rw [F1] at e; exact Eq.trans e (r Fibre.crew))
      | exact (by have e := g Fibre.workId; rw [F1] at e; exact Eq.trans e (r Fibre.workId))
      | exact (by have e := g Fibre.pending; rw [F1] at e; exact Eq.trans e (r Fibre.pending))
      | exact (by have e := g Fibre.counted; rw [F1] at e; exact Eq.trans e (r Fibre.counted))
  · have off : ∀ l, (∀ c ∈ o.map Prod.fst, t.fibre.loc c ≠ some l) → ∀ p ∈ o, t.fibre.loc p.1 ≠ some l :=
      fun l hl p hp => hl p.1 (List.mem_map_of_mem hp)
    refine ⟨((base.toApart.trans w.same).trans (apart_modFibre _ _)).trans a.toApart, ?_, ?_, ?_⟩
    · intro l hl
      exact ((a.value l).trans (congrArg RegCell.val (cellF l))).trans ((w.cells l (off l hl)).1.trans (base.value l))
    · intro l hl
      exact ((a.mark l).trans (congrArg RegCell.mark (cellF l))).trans ((w.cells l (off l hl)).2.trans (base.mark l))
    · intro k hk
      refine (a.fibres k).trans ?_
      rw [State.find_modFibre, if_neg hk]
      exact (w.others k hk).trans (base.fibres k)

end Sys2Proof.Safety
end

