-- ==== Sys2Proof/Laws/Does.lean ====
section
/-! SUPPORT. An instruction that changes the state otherwise than by results: what it does stands in the next state, and
the fibre goes on or has left its gang. -/
namespace Sys2Proof.Safety

open Sys2Proof.Machine

variable {s s' s'' s₁ : State} {i : Instr} {t : Turn} {f₁ : Fibre}

/-- Reading the operands is bookkeeping. -/
theorem same_read (s : State) (i : Instr) (t : Turn) : Same s (t.read s i) :=
  (same_chargeStep _ _).trans (same_readLane _ _ _ _ _ _)

theorem read_gangs (s : State) (i : Instr) (t : Turn) : (t.read s i).gangs = s.gangs ∧ (t.read s i).cur = s.cur ∧
    (t.read s i).fibres = s.fibres := by
  have keeps := readLane_keeps (s := t.charged s) t.key t.lane t.fibre (t.own s) (t.next s i) t.form
  unfold Turn.read Turn.reading
  refine ⟨?_, ?_, ?_⟩
  · rw [keeps.2.1, Turn.charged, chargeStep_gangs]
  · rw [keeps.2.2, Turn.charged, chargeStep_cur]
  · rw [keeps.1, Turn.charged, chargeStep_fibres]

/-- The fibre still executes once its operands have been read. -/
theorem read_live (h : Ready s i t) : Live (t.read s i) t t.fibre := by
  have g := read_gangs s i t
  exact ⟨read_fibres h, h.issuing, t.gang, by rw [g.1, g.2.1]; exact h.gang, rfl, rfl⟩

theorem read_quiet (c : Calm s t 0) : Quiet (t.read s i) t t.fibre := by
  refine ⟨c.kill, c.faults, c.request, ?_, ?_, fun n a b => ((same_read s i t).mark _).trans (c.window n a b)⟩
  · have z := c.flags
    unfold Fibre.trapping
    simpa using z
  · rw [(same_read s i t).landings]
    exact c.landings

/-- A fibre that executes goes on doing so where the fibres and the gangs are left alone. -/
theorem Live.of_parts (h : Live s t f₁) (hf : s'.fibres.find t.key = s.fibres.find t.key) (hg : s'.gangs = s.gangs)
    (hc : s'.cur = s.cur) : Live s' t f₁ :=
  ⟨by rw [hf]; exact h.fibre, h.issuing, by rw [hg, hc]; exact h.gang⟩

theorem Live.modFibre (h : Live s t f₁) (g : Fibre → Fibre) (hi : (g f₁).state = .issuing) :
    Live (s.modFibre t.key g) t (g f₁) := by
  refine ⟨?_, hi, by simpa using h.gang⟩
  rw [State.find_modFibre, if_pos rfl, h.fibre]
  rfl

theorem Quiet.withPc (h : Quiet s t f₁) (pc : Pc) : Quiet s t { f₁ with pc := pc } :=
  ⟨h.kill, h.faults, h.request, h.flags, h.landings, h.window⟩

/-- A fibre that is what it was for the safe point. -/
theorem Quiet.congr (h : Quiet s t t.fibre) (hl : s'.landings = s.landings) (hk : f₁.killOrdered = t.fibre.killOrdered)
    (hp : f₁.pending = t.fibre.pending) (hr : f₁.request = t.fibre.request) (hf : f₁.fsr = t.fibre.fsr)
    (hw : ∀ c, f₁.live ≤ c → c < 128 → (s'.cell (f₁.gLoc c)).mark = .full) : Quiet s' t f₁ := by
  refine ⟨hk.trans h.kill, hp.trans h.faults, hr.trans h.request, ?_, by rw [hl]; exact h.landings, hw⟩
  have z := h.flags
  unfold Fibre.trapping Fibre.flags Fibre.enables at z ⊢
  rw [hf]
  exact z

theorem does_at (h : Goes s i t) (l : Live s₁ t f₁) (q : Calm s t 0 → Quiet s₁ t f₁) (pc : Pc) (back : Bool)
    (he : exec i s = .next ((s₁.modFibre t.key fun f => { f with pc := pc }).afterLanes i t.form t.gang [t.line s i] back)) :
    Does s i t s₁ pc := by
  have l' := l.modFibre (fun f => { f with pc := pc }) l.issuing
  have q' : t.runsOn i ∨ Quiet (s₁.modFibre t.key fun f => { f with pc := pc }) t { f₁ with pc := pc } := by
    rcases h.calm with r | c
    · exact Or.inl r
    · refine Or.inr ?_
      have z := (q c).withPc pc
      refine ⟨z.kill, z.faults, z.request, z.flags, by simpa using z.landings, fun n a b => ?_⟩
      rw [cell_congr (s := s₁) (by simp) (by simp)]
      exact z.window n a b
  have r := afterLanes_same l' h.ready.alone q' [t.line s i] back
  exact ⟨_, he, r.1, (sameQ_modFibre _ _).trans r.2⟩

/-- An instruction whose lane changes the state and goes on to the next PC. -/
theorem does_next (h : Goes s i t) (l : Live s₁ t f₁) (q : Calm s t 0 → Quiet s₁ t f₁)
    (he : exec i s = .next (t.after s i (.next s₁))) : Does s i t s₁ (t.next s i) := by
  refine does_at h l q (t.next s i) false ?_
  rw [he]
  rfl

/-- An instruction whose lane changes the state and goes on elsewhere. -/
theorem does_jump {pc : Pc} {back : Bool} (h : Goes s i t) (l : Live s₁ t f₁) (q : Calm s t 0 → Quiet s₁ t f₁)
    (he : exec i s = .next (t.after s i (.jump s₁ pc back))) : Does s i t s₁ pc := by
  refine does_at h l q pc back ?_
  rw [he]
  rfl

/-! ### Leaving the gang -/

theorem find_select_none {α : Type} (l : Tbl α) (p : Nat → α → Bool) (k : Nat) (hn : (l.map Prod.fst).Nodup)
    (h : ∀ v, l.find k = some v → p k v = false) : (l.select p).find k = none := by
  induction l with
  | nil => rfl
  | cons e l ih =>
    obtain ⟨j, w⟩ := e
    simp only [List.map_cons, List.nodup_cons] at hn
    have tail : (j = k → ∀ v, Tbl.find l k ≠ some v) := by
      intro e v hv
      subst e
      exact hn.1 (List.mem_map_of_mem (Tbl.mem_of_find hv))
    have step : Tbl.select ((j, w) :: l) p = if p j w then (j, w) :: Tbl.select l p else Tbl.select l p := by
      unfold Tbl.select
      exact List.filter_cons
    rw [step]
    split
    · rename_i hp
      rw [Tbl.find_cons]
      split
      · rename_i e
        subst e
        have := h w (by simp [Tbl.find_cons])
        rw [this] at hp
        cases hp
      · rename_i e
        exact ih hn.2 fun v hv => h v (by rw [Tbl.find_cons, if_neg e]; exact hv)
    · apply ih hn.2
      intro v hv
      by_cases e : j = k
      · exact absurd hv (tail e v)
      · exact h v (by rw [Tbl.find_cons, if_neg e]; exact hv)

theorem keys_mapVals {α β : Type} (l : Tbl α) (f : Nat → α → β) : (l.mapVals f).map Prod.fst = l.map Prod.fst := by
  unfold Tbl.mapVals
  rw [List.map_map]
  rfl

/-- Keys that rise are distinct. -/
theorem rising_nodup {α : Type} {l : Tbl α} (h : rising l) : (l.map Prod.fst).Nodup := by
  unfold List.Nodup
  rw [List.pairwise_map]
  exact h.imp fun a => Nat.ne_of_lt a

/-- A touch of the top segment leaves gangs and fibres. -/
theorem touchTop_keeps (k : Nat) :
    (s.touchTop k).gangs = s.gangs ∧ (s.touchTop k).cur = s.cur ∧ (s.touchTop k).fibres = s.fibres := by
  unfold State.touchTop
  split <;> exact ⟨rfl, rfl, rfl⟩

theorem leaveGang_keeps (k : Nat) : (s.leaveGang k).cur = s.cur ∧ (s.leaveGang k).fibres = s.fibres :=
  ⟨(touchTop_keeps k).2.1, (touchTop_keeps k).2.2⟩

/-- The gang of a fibre alone in it is gone once the fibre has left. -/
theorem leaveGang_gone {g : Gang} (hn : (s.gangs.map Prod.fst).Nodup) (hg : s.gangs.find s.cur = some g)
    (hm : g.members = [(t.lane, t.index)]) (hc : g.core = coreOf t.key) (hi : indexOf t.key = t.index) :
    (s.leaveGang t.key).gangs.find s.cur = none := by
  have e := touchTop_keeps (s := s) t.key
  unfold State.leaveGang
  dsimp only
  apply find_select_none
  · rw [keys_mapVals, e.1]
    exact hn
  · intro v hv
    rw [Tbl.find_mapVals, e.1, hg] at hv
    simp only [Option.map_some, Option.some.injEq] at hv
    rw [← hv, if_pos hc, hm, hi]
    simp

/-- Unparking makes no fibre execute, and leaves the gangs. -/
theorem unpark_idle (k j : Nat) (h : ∀ f, s.fibres.find j = some f → f.state ≠ .issuing) :
    (∀ f, (s.unpark k).fibres.find j = some f → f.state ≠ .issuing) ∧ (s.unpark k).gangs = s.gangs ∧
      (s.unpark k).cur = s.cur := by
  unfold State.unpark
  split
  · exact ⟨h, rfl, rfl⟩
  · rename_i g hg
    split
    · refine ⟨?_, file_gangs k, file_cur k⟩
      intro f hf
      by_cases e : j = k
      · subst e
        have hf : (s.file j).fibres.find j = some f := hf
        unfold State.file at hf
        rw [hg] at hf
        have hf : (s.fibres.put j { g with state := .stalled }).find j = some f := hf
        rw [Tbl.find_put_same] at hf
        cases hf
        simp
      · have hf : (s.file k).fibres.find j = some f := hf
        rw [find_file_ne k j e] at hf
        exact h f hf
    · refine ⟨?_, rfl, rfl⟩
      intro f hf
      have hf : (s.fibres.put k { g with state := .cold none }).find j = some f := hf
      by_cases e : j = k
      · subst e
        rw [Tbl.find_put_same] at hf
        cases hf
        simp
      · rw [Tbl.find_put_ne _ _ e] at hf
        exact h f hf
    · exact ⟨h, rfl, rfl⟩

theorem recheck_idle (c j : Nat) (h : ∀ f, s.fibres.find j = some f → f.state ≠ .issuing) :
    (∀ f, (s.recheck c).fibres.find j = some f → f.state ≠ .issuing) ∧ (s.recheck c).gangs = s.gangs ∧
      (s.recheck c).cur = s.cur := by
  unfold State.recheck
  generalize s.fibres.select _ = l
  suffices key : ∀ (l : Tbl Fibre) (g : State → Nat × Fibre → State), (∀ a p, g a p = a ∨ g a p = a.unpark p.1) →
      ∀ a : State, (∀ f, a.fibres.find j = some f → f.state ≠ .issuing) ∧ a.gangs = s.gangs ∧ a.cur = s.cur →
      (∀ f, (l.foldl g a).fibres.find j = some f → f.state ≠ .issuing) ∧ (l.foldl g a).gangs = s.gangs ∧
        (l.foldl g a).cur = s.cur by
    refine key l _ ?_ s ⟨h, rfl, rfl⟩
    intro a p
    split
    · split
      · exact Or.inr rfl
      · exact Or.inl rfl
    · split
      · exact Or.inr rfl
      · exact Or.inl rfl
    · exact Or.inl rfl
  intro l g hg
  induction l with
  | nil => intro a h; exact h
  | cons p l ih =>
    intro a h
    rw [List.foldl_cons]
    rcases hg a p with e | e
    · rw [e]
      exact ih _ h
    · rw [e]
      have u := unpark_idle (s := a) p.1 j h.1
      exact ih _ ⟨u.1, u.2.1.trans h.2.1, u.2.2.trans h.2.2⟩

/-- Where the gang is gone and the fibre executes no more, that stays so where others see words taken. -/
theorem popsSeen_gone (hg : s.gangs.find s.cur = none) (hi : ∀ f, s.fibres.find t.key = some f → f.state ≠ .issuing)
    (core : Nat) (rs : List ReadLane) :
    (s.popsSeen core rs).gangs.find (s.popsSeen core rs).cur = none ∧
      (∀ f, (s.popsSeen core rs).fibres.find t.key = some f → f.state ≠ .issuing) ∧
      (s.popsSeen core rs).cur = s.cur ∧ Same s (s.popsSeen core rs) ∧ SameQ s (s.popsSeen core rs) := by
  refine popsSeen_induct (P := fun a => a.gangs.find a.cur = none ∧
    (∀ f, a.fibres.find t.key = some f → f.state ≠ .issuing) ∧ a.cur = s.cur ∧ Same s a ∧ SameQ s a)
    ⟨hg, hi, rfl, Same.refl s, SameQ.refl s⟩ ?_ core rs
  rintro a c ⟨x, y, e, p, q⟩
  have r := recheck_idle (s := a) c t.key y
  exact ⟨by rw [r.2.1, r.2.2]; exact x, r.1, r.2.2.trans e, p.trans (same_recheck _), q.trans (sameQ_recheck _)⟩

/-- After the lanes, where the gang is gone and the fibre executes no more: bookkeeping. -/
theorem afterLanes_gone (hg : s.gangs.find s.cur = none) (hm : t.gang.members = [(t.lane, t.index)])
    (hi : ∀ f, s.fibres.find t.key = some f → f.state ≠ .issuing) (rs : List ReadLane) (back : Bool) :
    Same s (s.afterLanes i t.form t.gang rs back) ∧ SameQ s (s.afterLanes i t.form t.gang rs back) := by
  unfold State.afterLanes
  dsimp only
  generalize (fun g : Gang => _ : Gang → Gang) = g
  obtain ⟨hg, hi, hcur, seen, seenQ⟩ := popsSeen_gone hg hi t.gang.core rs
  rw [← hcur]
  generalize s.popsSeen t.gang.core rs = s₀ at *
  suffices z : Same s₀ _ ∧ SameQ s₀ _ from ⟨seen.trans z.1, seenQ.trans z.2⟩
  clear seen seenQ hcur
  have a1 : Same s₀ (s₀.modGang s₀.cur g) := same_modGang _ _
  have b1 : SameQ s₀ (s₀.modGang s₀.cur g) := SameQ.of_cores rfl rfl
  have a2 := a1.trans (same_chargeEnd (s := s₀.modGang s₀.cur g) t.gang (t.gang.runLen + 1))
  have b2 := b1.trans (sameQ_chargeEnd (s := s₀.modGang s₀.cur g) t.gang (t.gang.runLen + 1))
  have f2 : ((s₀.modGang s₀.cur g).chargeEnd t.gang (t.gang.runLen + 1)).fibres = s₀.fibres := by
    unfold State.chargeEnd
    split <;> rfl
  have g2 : ((s₀.modGang s₀.cur g).chargeEnd t.gang (t.gang.runLen + 1)).gangs.find s₀.cur = none := by
    have e : ((s₀.modGang s₀.cur g).chargeEnd t.gang (t.gang.runLen + 1)).gangs = (s₀.modGang s₀.cur g).gangs := by
      unfold State.chargeEnd
      split <;> rfl
    rw [e, State.modGang_gangs, Tbl.find_modify, if_pos rfl, hg]
    rfl
  split
  · split
    · have c := same_countSpin (s := (s₀.modGang s₀.cur g).chargeEnd t.gang (t.gang.runLen + 1)) t.gang false
      exact ⟨a2.trans c.1, b2.trans c.2⟩
    · exact ⟨a1, b1⟩
  · generalize (s₀.modGang s₀.cur g).chargeEnd t.gang (t.gang.runLen + 1) = s₂ at a2 b2 f2 g2 ⊢
    have hsp : t.gang.members.foldl (fun s m => s.safePoint (fibreKey t.gang.core m.2)
        (ownOf rs (fibreKey t.gang.core m.2))) s₂ = s₂ := by
      rw [hm]
      show s₂.safePoint t.key _ = s₂
      unfold State.safePoint
      rw [f2]
      cases hf : s₀.fibres.find t.key with
      | none => rfl
      | some f => simp [hi f hf]
    rw [hsp, ite_self, if_pos (by rw [g2]; rfl)]
    have c := same_countSpin (s := s₂) t.gang false
    exact ⟨a2.trans c.1, b2.trans c.2⟩

/-- An instruction after which the fibre has left its gang. -/
theorem leaves_stop (h : Ready s i t) (hg : s₁.gangs.find s₁.cur = none)
    (hi : ∀ f, s₁.fibres.find t.key = some f → f.state ≠ .issuing ∧ f.killOrdered = false)
    (he : exec i s = .next (t.after s i (.stop s₁))) : Leaves s i s₁ := by
  have hk : s₁.maskedKill t.key = s₁ := by
    unfold State.maskedKill
    cases hf : s₁.fibres.find t.key with
    | none => rfl
    | some f => simp [(hi f hf).2]
  have e : t.after s i (.stop s₁) = s₁.afterLanes i t.form t.gang [t.line s i] false := by
    unfold Turn.after
    show (s₁.maskedKill t.key).afterLanes i t.form t.gang [t.line s i] false = _
    rw [hk]
  rw [e] at he
  have r := afterLanes_gone (i := i) hg h.alone (fun f hf => (hi f hf).1) [t.line s i] false
  exact ⟨_, he, r.1, r.2⟩

/-- A fibre that executes alone parks: it has left its gang. -/
theorem park_gone (h : Ready s i t) (n : Sound s t) (l : Live s₁ t f₁) (hg : s₁.gangs = s.gangs)
    (hk : f₁.killOrdered = t.fibre.killOrdered) (w : Park) :
    (s₁.park t.key w).gangs.find (s₁.park t.key w).cur = none ∧
      ∀ f, (s₁.park t.key w).fibres.find t.key = some f → f.state ≠ .issuing ∧ f.killOrdered = false := by
  obtain ⟨g, a, b, c⟩ := l.gang
  unfold State.park
  refine ⟨?_, ?_⟩
  · rw [(leaveGang_keeps _).1]
    refine leaveGang_gone (s := s₁.modFibre t.key _) (g := g) ?_ (by simpa using a) (b.trans h.alone) (c.trans (coreOf_key h).symm)
      (indexOf_key h)
    simp only [State.modFibre_gangs, hg]
    exact rising_nodup n.gangs
  · intro f hf
    have e := hf
    rw [(leaveGang_keeps _).2, State.find_modFibre, if_pos rfl, l.fibre] at e
    simp only [Option.map_some, Option.some.injEq] at e
    rw [← e]
    exact ⟨by simp, hk.trans n.kill⟩

/-- An instruction that parks its lane in a changed state. -/
theorem leaves_parkIn {w : Park} (h : Ready s i t) (n : Sound s t) (l : Live s₁ t f₁) (hg : s₁.gangs = s.gangs)
    (hk : f₁.killOrdered = t.fibre.killOrdered) (he : exec i s = .next (t.after s i (.parkIn s₁ w))) :
    Leaves s i (s₁.park t.key w) := by
  have p := park_gone h n l hg hk w
  refine leaves_stop h p.1 p.2 ?_
  rw [he]
  rfl

end Sys2Proof.Safety
end

