-- ==== Sys2Proof/Laws/Gives.lean ====
section
/-! SUPPORT. From the meaning of an instruction to what it gives: an instruction whose meaning is one lane's results. -/
namespace Sys2Proof.Safety

open Sys2Proof.Machine

variable {i : Instr}

theorem nodup_outPair (c : Nat) (wide : Bool) (v : DWord) : ((outPair c wide v).map Prod.fst).Nodup := by
  cases wide <;> simp [outPair]

theorem gives_outs {o : LaneIn → List (Nat × Word)} {fl : LaneIn → Flags} {seed : LaneIn → Option Word}
    (hn : ∀ x, ((o x).map Prod.fst).Nodup)
    (he : ∀ s, exec i s = s.plain i fun x _ => .outs false (o x) (fl x) (seed x)) : Gives i o fl seed := by
  intro s t h
  refine completes h (hn _) ?_
  rw [he]
  exact plain_ready h.ready _

theorem gives_int {a : BitVec 8} {wide : Bool} {r : LaneIn → DWord × Flags}
    (he : ∀ s, exec i s = s.plain i fun x _ => x.write a wide (r x)) : GivesInt i a wide r :=
  gives_outs (fun _ => nodup_outPair _ _ _) he

theorem gives_fp {a : BitVec 8} {wide : Bool} {mode : Nat} {r : LaneIn → FpOut}
    (he : ∀ s, exec i s = s.plain i fun x _ => x.rounded a wide mode (r x)) : GivesFp i a wide mode r :=
  gives_outs (fun _ => nodup_outPair _ _ _) he

/-- The results only matter as functions of the operands. -/
theorem GivesInt.congr {a : BitVec 8} {wide : Bool} {r r' : LaneIn → DWord × Flags} (h : GivesInt i a wide r)
    (e : ∀ x, r' x = r x) : GivesInt i a wide r' := by
  have : r' = r := funext e
  rw [this]
  exact h

end Sys2Proof.Safety
end

