-- ==== Sys2Proof/Laws/Memory.lean ====
section
/-! SUPPORT. Memory: every write keeps the canonical form, and what a read after a write gives. -/
namespace Sys2Proof.Machine

/-- A lower bound of a canonical list may be lowered. -/
theorem Memory.above_mono (m : Memory) {lo lo' : Nat} (h : lo' ≤ lo) (w : m.above lo = true) : m.above lo' = true := by
  cases m with
  | nil => rfl
  | cons p m =>
    simp only [Memory.above, Bool.and_eq_true, decide_eq_true_eq] at w ⊢
    exact ⟨⟨by omega, w.1.2⟩, w.2⟩

/-- Below the bound of a canonical list every byte is 0. -/
theorem Memory.read_below (m : Memory) {lo a : Nat} (w : m.above lo = true) (h : a < lo) : m.read a = 0 := by
  induction m generalizing lo with
  | nil => rfl
  | cons p m ih =>
    simp only [Memory.above, Bool.and_eq_true, decide_eq_true_eq] at w
    unfold Memory.read
    rw [if_neg (by omega)]
    exact ih w.2 (by omega)

theorem Memory.above_write (m : Memory) {lo a : Nat} (v : Byte) (w : m.above lo = true) (h : lo ≤ a) :
    (m.write a v).above lo = true := by
  induction m generalizing lo with
  | nil =>
    unfold Memory.write
    split <;> simp_all [Memory.above]
  | cons p m ih =>
    obtain ⟨b, x⟩ := p
    have w' := w
    simp only [Memory.above, Bool.and_eq_true, decide_eq_true_eq] at w
    unfold Memory.write
    split
    · split
      · exact w'
      · simp only [Memory.above, Bool.and_eq_true, decide_eq_true_eq]
        exact ⟨⟨h, by assumption⟩, ⟨by omega, w.1.2⟩, w.2⟩
    · split
      · split
        · exact Memory.above_mono _ (by omega) w.2
        · rename_i e _
          subst e
          simp only [Memory.above, Bool.and_eq_true, decide_eq_true_eq]
          exact ⟨⟨h, by assumption⟩, w.2⟩
      · simp only [Memory.above, Bool.and_eq_true, decide_eq_true_eq]
        exact ⟨w.1, ih w.2 (by omega)⟩

/-- A write keeps the canonical form. -/
theorem Memory.wf_write (m : Memory) (a : Nat) (v : Byte) (w : m.wf = true) : (m.write a v).wf = true :=
  m.above_write v w (Nat.zero_le _)

theorem Memory.wf_writeBytes (m : Memory) (a : Nat) (b : List Byte) (w : m.wf = true) : (m.writeBytes a b).wf = true := by
  induction b generalizing m a with
  | nil => exact w
  | cons v b ih => exact ih _ _ (m.wf_write a v w)

theorem Memory.wf_writeCells (m : Memory) (l : List (Nat × Byte)) (w : m.wf = true) : (m.writeCells l).wf = true := by
  induction l generalizing m with
  | nil => exact w
  | cons p l ih => exact ih _ (m.wf_write p.1 p.2 w)

theorem Memory.read_cons (p : Nat × Byte) (m : Memory) (x : Nat) :
    Memory.read (p :: m) x = if p.1 = x then p.2 else Memory.read m x := rfl

/-- Putting a byte before a canonical list that lies above it. -/
theorem Memory.read_put (m : Memory) {lo : Nat} (w : Memory.above lo m = true) (a : Nat) (h : a < lo) (v : Byte) (x : Nat) :
    Memory.read (if v = 0 then m else (a, v) :: m) x = if x = a then v else Memory.read m x := by
  by_cases hx : x = a
  · subst hx
    rw [if_pos rfl]
    by_cases hv : v = 0
    · rw [if_pos hv, hv]
      exact Memory.read_below m w h
    · rw [if_neg hv, Memory.read_cons, if_pos rfl]
  · rw [if_neg hx]
    by_cases hv : v = 0
    · rw [if_pos hv]
    · rw [if_neg hv, Memory.read_cons, if_neg fun e => hx e.symm]

/-- A read after a write of one byte, in a memory in canonical form. -/
theorem Memory.read_write_above (m : Memory) {lo : Nat} (w : m.above lo = true) (a : Nat) (v : Byte) (x : Nat) :
    (m.write a v).read x = if x = a then v else m.read x := by
  induction m generalizing lo with
  | nil =>
    exact Memory.read_put [] (lo := a + 1) rfl a (by omega) v x
  | cons p m ih =>
    have w' := w
    obtain ⟨b, y⟩ := p
    simp only [Memory.above, Bool.and_eq_true, decide_eq_true_eq] at w
    unfold Memory.write
    by_cases h1 : a < b
    · rw [if_pos h1]
      refine Memory.read_put ((b, y) :: m) (lo := b) ?_ a h1 v x
      simp only [Memory.above, Bool.and_eq_true, decide_eq_true_eq]
      exact ⟨⟨le_refl _, w.1.2⟩, w.2⟩
    · rw [if_neg h1]
      by_cases h2 : a = b
      · rw [if_pos h2, Memory.read_put m w.2 a (by omega) v x, Memory.read_cons]
        by_cases hx : x = a
        · rw [if_pos hx, if_pos hx]
        · rw [if_neg hx, if_neg hx, if_neg fun e => hx (by rw [h2]; exact e.symm)]
      · rw [if_neg h2, Memory.read_cons, Memory.read_cons, ih w.2]
        by_cases hx : b = x
        · rw [if_pos hx, if_pos hx, if_neg fun e => h2 (e.symm.trans hx.symm)]
        · rw [if_neg hx, if_neg hx]

theorem Memory.read_write (m : Memory) (w : m.wf = true) (a : Nat) (v : Byte) (x : Nat) :
    (m.write a v).read x = if x = a then v else m.read x := m.read_write_above w a v x

/-- A read after a write of bytes. -/
theorem Memory.read_writeBytes (m : Memory) (w : m.wf = true) (a : Nat) (b : List Byte) (x : Nat) :
    (m.writeBytes a b).read x = if a ≤ x ∧ x < a + b.length then b.getD (x - a) 0 else m.read x := by
  induction b generalizing m a with
  | nil =>
    rw [if_neg (by simp)]
    rfl
  | cons v b ih =>
    show (Memory.writeBytes (m.write a v) (a + 1) b).read x = _
    rw [ih _ (m.wf_write a v w), m.read_write w]
    simp only [List.length_cons]
    by_cases h1 : x = a
    · subst h1
      rw [if_neg (by omega), if_pos rfl, if_pos (by omega)]
      simp
    · rw [if_neg h1]
      by_cases h2 : a + 1 ≤ x ∧ x < a + 1 + b.length
      · have e : x - a = x - (a + 1) + 1 := by omega
        rw [if_pos h2, if_pos (by omega), e]
        simp
      · rw [if_neg h2, if_neg (by omega)]

theorem Memory.length_readBytes (m : Memory) (a n : Nat) : (m.readBytes a n).length = n := by
  induction n generalizing a with
  | zero => rfl
  | succ n ih => simp [Memory.readBytes, ih]

theorem Memory.getD_readBytes (m : Memory) (a n k : Nat) (h : k < n) : (m.readBytes a n).getD k 0 = m.read (a + k) := by
  induction n generalizing a k with
  | zero => omega
  | succ n ih =>
    cases k with
    | zero => rfl
    | succ k =>
      have := ih (a + 1) k (by omega)
      simpa [Memory.readBytes, Nat.add_assoc, Nat.add_comm 1 k] using this

end Sys2Proof.Machine
end

