-- ==== Sys2Proof/Laws/PerInstr.lean ====
section
/-! SUPPORT. Statements made for each instruction: the encoding is as long as the L field of its first parcel says (R155). -/
namespace Sys2Proof.Laws.Length

/-- The parcel count that the first parcel of an instruction's encoding names is the length of the encoding (R155). -/
def Statement (i : Instr) : Prop := ∀ p rest, encode i = p :: rest → parcelCount p = some (rest.length + 1)

/-- The two lowest bits of a parcel that ends in a header are the header's L. -/
theorem header_low (h : Header) (op : BitVec 8) (l : BitVec 2) (x : BitVec 17) :
    (x ++ packHeader h op l).toNat % 4 = l.toNat := by
  have low : ∀ {n : Nat} (y : BitVec n), (y ++ l).toNat % 4 = l.toNat := by
    intro n y
    rw [BitVec.toNat_append, ← Nat.shiftLeft_add_eq_or_of_lt (BitVec.isLt _), Nat.shiftLeft_eq]
    have := l.isLt
    omega
  unfold packHeader
  rw [BitVec.toNat_append, Nat.or_mod_two_pow (n := 2)]
  rw [show (op ++ h.pred ++ h.rb ++ l).toNat % 2 ^ 2 = l.toNat from low _, Nat.shiftLeft_eq]
  rw [show x.toNat * 2 ^ (8 + 3 + 2 + 2) % 2 ^ 2 = 0 by omega, Nat.zero_or]

/-- A parcel that ends in a header of L below 3 names L + 1 parcels. -/
theorem count_of (h : Header) (op : BitVec 8) (l : BitVec 2) (x : BitVec 17) (n : Nat) (hl : l.toNat = n) (hn : n < 3) :
    parcelCount (x ++ packHeader h op l) = some (n + 1) := by
  have := header_low h op l x
  unfold parcelCount
  rw [this, hl]
  match n, hn with
  | 0, _ => rfl
  | 1, _ => rfl
  | 2, _ => rfl

variable {i : Instr} {op : BitVec 8}

theorem ofQ {f : FormQ} (h : encode i = encQ op f) : Statement i := by
  intro p rest he
  rw [h] at he
  obtain ⟨rfl, rfl⟩ := List.cons.inj he
  exact count_of f.hdr op 0 _ 0 rfl (by decide)

theorem ofQI {f : FormQI} (h : encode i = encQI op f) : Statement i := by
  intro p rest he
  rw [h] at he
  obtain ⟨rfl, rfl⟩ := List.cons.inj he
  exact count_of f.hdr op 0 _ 0 rfl (by decide)

theorem ofQB {f : FormQB} (h : encode i = encQB op f) : Statement i := by
  intro p rest he
  rw [h] at he
  obtain ⟨rfl, rfl⟩ := List.cons.inj he
  exact count_of f.hdr op 0 _ 0 rfl (by decide)

theorem ofW {f : FormW} (h : encode i = encW op f) : Statement i := by
  intro p rest he
  rw [h] at he
  obtain ⟨rfl, rfl⟩ := List.cons.inj he
  exact count_of f.hdr op 1 _ 1 rfl (by decide)

theorem ofWI {f : FormWI} (h : encode i = encWI op f) : Statement i := by
  intro p rest he
  rw [h] at he
  obtain ⟨rfl, rfl⟩ := List.cons.inj he
  exact count_of f.hdr op 1 _ 1 rfl (by decide)

theorem ofX {f : FormW} {lit : Word} (h : encode i = encX op f lit) : Statement i := by
  intro p rest he
  rw [h] at he
  obtain ⟨rfl, rfl⟩ := List.cons.inj he
  exact count_of f.hdr op 2 _ 2 rfl (by decide)

theorem ofNone (h : encode i = []) : Statement i := by
  intro p rest he
  rw [h] at he
  cases he

theorem nopQ (f : FormQ) : Statement (.nopQ f) := ofQ rfl
theorem nopW (f : FormW) : Statement (.nopW f) := ofW rfl
theorem nopX (f : FormW) (lit : Word) : Statement (.nopX f lit) := ofX rfl
theorem braQb (f : FormQB) : Statement (.braQb f) := ofQB rfl
theorem braWi (f : FormWI) : Statement (.braWi f) := ofWI rfl
theorem call (f : FormWI) : Statement (.call f) := ofWI rfl
theorem calli (f : FormW) : Statement (.calli f) := ofW rfl
theorem jmpi (f : FormQ) : Statement (.jmpi f) := ofQ rfl
theorem ret (f : FormQI) : Statement (.ret f) := ofQI rfl
theorem reform (f : FormQ) : Statement (.reform f) := ofQ rfl
theorem convene (f : FormQI) : Statement (.convene f) := ofQI rfl
theorem disband (f : FormQ) : Statement (.disband f) := ofQ rfl
theorem bar (f : FormQ) : Statement (.bar f) := ofQ rfl
theorem exit (f : FormQ) : Statement (.exit f) := ofQ rfl
theorem spawn (f : FormW) : Statement (.spawn f) := ofW rfl
theorem hinst (f : FormW) : Statement (.hinst f) := ofW rfl
theorem hpop (f : FormQ) : Statement (.hpop f) := ofQ rfl
theorem perform (f : FormWI) : Statement (.perform f) := ofWI rfl
theorem performv (f : FormWI) : Statement (.performv f) := ofWI rfl
theorem resume (f : FormW) : Statement (.resume f) := ofW rfl
theorem drop (f : FormQ) : Statement (.drop f) := ofQ rfl
theorem ksend (f : FormW) : Statement (.ksend f) := ofW rfl
theorem krecv (f : FormQ) : Statement (.krecv f) := ofQ rfl
theorem kinfo (f : FormW) : Statement (.kinfo f) := ofW rfl
theorem yield (f : FormQ) : Statement (.yield f) := ofQ rfl
theorem safe (f : FormQI) : Statement (.safe f) := ofQI rfl
theorem pause (f : FormQI) : Statement (.pause f) := ofQI rfl
theorem trap (f : FormQI) : Statement (.trap f) := ofQI rfl
theorem iaddQ (f : FormQ) : Statement (.iaddQ f) := ofQ rfl
theorem iaddW (f : FormW) : Statement (.iaddW f) := ofW rfl
theorem iaddX (f : FormW) (lit : Word) : Statement (.iaddX f lit) := ofX rfl
theorem isubQ (f : FormQ) : Statement (.isubQ f) := ofQ rfl
theorem isubW (f : FormW) : Statement (.isubW f) := ofW rfl
theorem isubX (f : FormW) (lit : Word) : Statement (.isubX f lit) := ofX rfl
theorem imulQ (f : FormQ) : Statement (.imulQ f) := ofQ rfl
theorem imulW (f : FormW) : Statement (.imulW f) := ofW rfl
theorem imulX (f : FormW) (lit : Word) : Statement (.imulX f lit) := ofX rfl
theorem imulhQ (f : FormQ) : Statement (.imulhQ f) := ofQ rfl
theorem imulhW (f : FormW) : Statement (.imulhW f) := ofW rfl
theorem imulhX (f : FormW) (lit : Word) : Statement (.imulhX f lit) := ofX rfl
theorem imadW (f : FormW) : Statement (.imadW f) := ofW rfl
theorem imadX (f : FormW) (lit : Word) : Statement (.imadX f lit) := ofX rfl
theorem idivQ (f : FormQ) : Statement (.idivQ f) := ofQ rfl
theorem idivW (f : FormW) : Statement (.idivW f) := ofW rfl
theorem idivX (f : FormW) (lit : Word) : Statement (.idivX f lit) := ofX rfl
theorem iremQ (f : FormQ) : Statement (.iremQ f) := ofQ rfl
theorem iremW (f : FormW) : Statement (.iremW f) := ofW rfl
theorem iremX (f : FormW) (lit : Word) : Statement (.iremX f lit) := ofX rfl
theorem iminQ (f : FormQ) : Statement (.iminQ f) := ofQ rfl
theorem iminW (f : FormW) : Statement (.iminW f) := ofW rfl
theorem iminX (f : FormW) (lit : Word) : Statement (.iminX f lit) := ofX rfl
theorem imaxQ (f : FormQ) : Statement (.imaxQ f) := ofQ rfl
theorem imaxW (f : FormW) : Statement (.imaxW f) := ofW rfl
theorem imaxX (f : FormW) (lit : Word) : Statement (.imaxX f lit) := ofX rfl
theorem iabsQ (f : FormQ) : Statement (.iabsQ f) := ofQ rfl
theorem iabsW (f : FormW) : Statement (.iabsW f) := ofW rfl
theorem andQ (f : FormQ) : Statement (.andQ f) := ofQ rfl
theorem andW (f : FormW) : Statement (.andW f) := ofW rfl
theorem andX (f : FormW) (lit : Word) : Statement (.andX f lit) := ofX rfl
theorem orQ (f : FormQ) : Statement (.orQ f) := ofQ rfl
theorem orW (f : FormW) : Statement (.orW f) := ofW rfl
theorem orX (f : FormW) (lit : Word) : Statement (.orX f lit) := ofX rfl
theorem xorQ (f : FormQ) : Statement (.xorQ f) := ofQ rfl
theorem xorW (f : FormW) : Statement (.xorW f) := ofW rfl
theorem xorX (f : FormW) (lit : Word) : Statement (.xorX f lit) := ofX rfl
theorem andnQ (f : FormQ) : Statement (.andnQ f) := ofQ rfl
theorem andnW (f : FormW) : Statement (.andnW f) := ofW rfl
theorem andnX (f : FormW) (lit : Word) : Statement (.andnX f lit) := ofX rfl
theorem notQ (f : FormQ) : Statement (.notQ f) := ofQ rfl
theorem notW (f : FormW) : Statement (.notW f) := ofW rfl
theorem shlQi (f : FormQI) : Statement (.shlQi f) := ofQI rfl
theorem shlW (f : FormW) : Statement (.shlW f) := ofW rfl
theorem shrQi (f : FormQI) : Statement (.shrQi f) := ofQI rfl
theorem shrW (f : FormW) : Statement (.shrW f) := ofW rfl
theorem sarQi (f : FormQI) : Statement (.sarQi f) := ofQI rfl
theorem sarW (f : FormW) : Statement (.sarW f) := ofW rfl
theorem rotQi (f : FormQI) : Statement (.rotQi f) := ofQI rfl
theorem rotW (f : FormW) : Statement (.rotW f) := ofW rfl
theorem bfxW (f : FormW) : Statement (.bfxW f) := ofW rfl
theorem bfxX (f : FormW) (lit : Word) : Statement (.bfxX f lit) := ofX rfl
theorem bfiW (f : FormW) : Statement (.bfiW f) := ofW rfl
theorem bfiX (f : FormW) (lit : Word) : Statement (.bfiX f lit) := ofX rfl
theorem popcQ (f : FormQ) : Statement (.popcQ f) := ofQ rfl
theorem popcW (f : FormW) : Statement (.popcW f) := ofW rfl
theorem clzQ (f : FormQ) : Statement (.clzQ f) := ofQ rfl
theorem clzW (f : FormW) : Statement (.clzW f) := ofW rfl
theorem brevQ (f : FormQ) : Statement (.brevQ f) := ofQ rfl
theorem brevW (f : FormW) : Statement (.brevW f) := ofW rfl
theorem prm8W (f : FormW) : Statement (.prm8W f) := ofW rfl
theorem prm8X (f : FormW) (lit : Word) : Statement (.prm8X f lit) := ofX rfl
theorem movQ (f : FormQ) : Statement (.movQ f) := ofQ rfl
theorem movW (f : FormW) : Statement (.movW f) := ofW rfl
theorem moviQi (f : FormQI) : Statement (.moviQi f) := ofQI rfl
theorem moviWi (f : FormWI) : Statement (.moviWi f) := ofWI rfl
theorem moviX (f : FormW) (lit : Word) : Statement (.moviX f lit) := ofX rfl
theorem leaW (f : FormW) : Statement (.leaW f) := ofW rfl
theorem leaX (f : FormW) (lit : Word) : Statement (.leaX f lit) := ofX rfl
theorem sel (f : FormW) : Statement (.sel f) := ofW rfl
theorem hadd2Q (f : FormQ) : Statement (.hadd2Q f) := ofQ rfl
theorem hadd2W (f : FormW) : Statement (.hadd2W f) := ofW rfl
theorem hmnx2Q (f : FormQ) : Statement (.hmnx2Q f) := ofQ rfl
theorem hmnx2W (f : FormW) : Statement (.hmnx2W f) := ofW rfl
theorem hmaxd2 (f : FormW) : Statement (.hmaxd2 f) := ofW rfl
theorem icmpW (f : FormW) : Statement (.icmpW f) := ofW rfl
theorem icmpX (f : FormW) (lit : Word) : Statement (.icmpX f lit) := ofX rfl
theorem fcmpW (f : FormW) : Statement (.fcmpW f) := ofW rfl
theorem fcmpX (f : FormW) (lit : Word) : Statement (.fcmpX f lit) := ofX rfl
theorem plog (f : FormW) : Statement (.plog f) := ofW rfl
theorem pnot (f : FormQ) : Statement (.pnot f) := ofQ rfl
theorem p2g (f : FormQ) : Statement (.p2g f) := ofQ rfl
theorem g2p (f : FormQ) : Statement (.g2p f) := ofQ rfl
theorem vote (f : FormW) : Statement (.vote f) := ofW rfl
theorem cvt (f : FormW) : Statement (.cvt f) := ofW rfl
theorem cvtpk (f : FormW) : Statement (.cvtpk f) := ofW rfl
theorem qpack (f : FormW) : Statement (.qpack f) := ofW rfl
theorem qunpk (f : FormW) : Statement (.qunpk f) := ofW rfl
theorem scalex (f : FormW) : Statement (.scalex f) := ofW rfl
theorem ldW (f : FormW) : Statement (.ldW f) := ofW rfl
theorem ldX (f : FormW) (lit : Word) : Statement (.ldX f lit) := ofX rfl
theorem stW (f : FormW) : Statement (.stW f) := ofW rfl
theorem stX (f : FormW) (lit : Word) : Statement (.stX f lit) := ofX rfl
theorem ldq (f : FormW) : Statement (.ldq f) := ofW rfl
theorem stq (f : FormW) : Statement (.stq f) := ofW rfl
theorem atom (f : FormW) : Statement (.atom f) := ofW rfl
theorem atomn (f : FormW) : Statement (.atomn f) := ofW rfl
theorem acq (f : FormW) : Statement (.acq f) := ofW rfl
theorem rel (f : FormW) : Statement (.rel f) := ofW rfl
theorem acqrel (f : FormW) : Statement (.acqrel f) := ofW rfl
theorem fence (f : FormQI) : Statement (.fence f) := ofQI rfl
theorem pref (f : FormW) : Statement (.pref f) := ofW rfl
theorem wb (f : FormW) : Statement (.wb f) := ofW rfl
theorem inv (f : FormW) : Statement (.inv f) := ofW rfl
theorem dlease (f : FormW) : Statement (.dlease f) := ofW rfl
theorem objopen (f : FormW) : Statement (.objopen f) := ofW rfl
theorem objclose (f : FormQ) : Statement (.objclose f) := ofQ rfl
theorem objset (f : FormW) : Statement (.objset f) := ofW rfl
theorem cpy (f : FormW) : Statement (.cpy f) := ofW rfl
theorem cpy2d (f : FormW) : Statement (.cpy2d f) := ofW rfl
theorem cpyw (f : FormW) : Statement (.cpyw f) := ofW rfl
theorem gath (f : FormW) : Statement (.gath f) := ofW rfl
theorem scat (f : FormW) : Statement (.scat f) := ofW rfl
theorem waitc (f : FormWI) : Statement (.waitc f) := ofWI rfl
theorem waita (f : FormW) : Statement (.waita f) := ofW rfl
theorem qsend (f : FormW) : Statement (.qsend f) := ofW rfl
theorem qstat (f : FormQ) : Statement (.qstat f) := ofQ rfl
theorem mbar (f : FormQI) : Statement (.mbar f) := ofQI rfl
theorem cntrd (f : FormQI) : Statement (.cntrd f) := ofQI rfl
theorem faddQ (f : FormQ) : Statement (.faddQ f) := ofQ rfl
theorem faddW (f : FormW) : Statement (.faddW f) := ofW rfl
theorem faddX (f : FormW) (lit : Word) : Statement (.faddX f lit) := ofX rfl
theorem fsubQ (f : FormQ) : Statement (.fsubQ f) := ofQ rfl
theorem fsubW (f : FormW) : Statement (.fsubW f) := ofW rfl
theorem fsubX (f : FormW) (lit : Word) : Statement (.fsubX f lit) := ofX rfl
theorem fmulQ (f : FormQ) : Statement (.fmulQ f) := ofQ rfl
theorem fmulW (f : FormW) : Statement (.fmulW f) := ofW rfl
theorem fmulX (f : FormW) (lit : Word) : Statement (.fmulX f lit) := ofX rfl
theorem fmaW (f : FormW) : Statement (.fmaW f) := ofW rfl
theorem fmaX (f : FormW) (lit : Word) : Statement (.fmaX f lit) := ofX rfl
theorem fminQ (f : FormQ) : Statement (.fminQ f) := ofQ rfl
theorem fminW (f : FormW) : Statement (.fminW f) := ofW rfl
theorem fminX (f : FormW) (lit : Word) : Statement (.fminX f lit) := ofX rfl
theorem fmaxQ (f : FormQ) : Statement (.fmaxQ f) := ofQ rfl
theorem fmaxW (f : FormW) : Statement (.fmaxW f) := ofW rfl
theorem fmaxX (f : FormW) (lit : Word) : Statement (.fmaxX f lit) := ofX rfl
theorem fmovQ (f : FormQ) : Statement (.fmovQ f) := ofQ rfl
theorem fmovW (f : FormW) : Statement (.fmovW f) := ofW rfl
theorem frcpQ (f : FormQ) : Statement (.frcpQ f) := ofQ rfl
theorem frcpW (f : FormW) : Statement (.frcpW f) := ofW rfl
theorem frsqQ (f : FormQ) : Statement (.frsqQ f) := ofQ rfl
theorem frsqW (f : FormW) : Statement (.frsqW f) := ofW rfl
theorem fsqrtQ (f : FormQ) : Statement (.fsqrtQ f) := ofQ rfl
theorem fsqrtW (f : FormW) : Statement (.fsqrtW f) := ofW rfl
theorem fdivQ (f : FormQ) : Statement (.fdivQ f) := ofQ rfl
theorem fdivW (f : FormW) : Statement (.fdivW f) := ofW rfl
theorem fdivX (f : FormW) (lit : Word) : Statement (.fdivX f lit) := ofX rfl
theorem fexp2Q (f : FormQ) : Statement (.fexp2Q f) := ofQ rfl
theorem fexp2W (f : FormW) : Statement (.fexp2W f) := ofW rfl
theorem flog2Q (f : FormQ) : Statement (.flog2Q f) := ofQ rfl
theorem flog2W (f : FormW) : Statement (.flog2W f) := ofW rfl
theorem fsinQ (f : FormQ) : Statement (.fsinQ f) := ofQ rfl
theorem fsinW (f : FormW) : Statement (.fsinW f) := ofW rfl
theorem fcosQ (f : FormQ) : Statement (.fcosQ f) := ofQ rfl
theorem fcosW (f : FormW) : Statement (.fcosW f) := ofW rfl
theorem ftanhQ (f : FormQ) : Statement (.ftanhQ f) := ofQ rfl
theorem ftanhW (f : FormW) : Statement (.ftanhW f) := ofW rfl
theorem frndQ (f : FormQ) : Statement (.frndQ f) := ofQ rfl
theorem frndW (f : FormW) : Statement (.frndW f) := ofW rfl
theorem fclassQ (f : FormQ) : Statement (.fclassQ f) := ofQ rfl
theorem fclassW (f : FormW) : Statement (.fclassW f) := ofW rfl
theorem fscaleQ (f : FormQ) : Statement (.fscaleQ f) := ofQ rfl
theorem fscaleW (f : FormW) : Statement (.fscaleW f) := ofW rfl
theorem fscaleX (f : FormW) (lit : Word) : Statement (.fscaleX f lit) := ofX rfl
theorem hfadd2Q (f : FormQ) : Statement (.hfadd2Q f) := ofQ rfl
theorem hfadd2W (f : FormW) : Statement (.hfadd2W f) := ofW rfl
theorem hfmul2Q (f : FormQ) : Statement (.hfmul2Q f) := ofQ rfl
theorem hfmul2W (f : FormW) : Statement (.hfmul2W f) := ofW rfl
theorem hfma2 (f : FormW) : Statement (.hfma2 f) := ofW rfl
theorem dot4f8 (f : FormW) : Statement (.dot4f8 f) := ofW rfl
theorem dot8f4 (f : FormW) : Statement (.dot8f4 f) := ofW rfl
theorem fstat (f : FormW) : Statement (.fstat f) := ofW rfl
theorem pset (f : FormW) : Statement (.pset f) := ofW rfl
theorem perm (f : FormW) : Statement (.perm f) := ofW rfl
theorem shfl (f : FormW) : Statement (.shfl f) := ofW rfl
theorem bcast (f : FormW) : Statement (.bcast f) := ofW rfl
theorem reduce (f : FormW) : Statement (.reduce f) := ofW rfl
theorem scan (f : FormW) : Statement (.scan f) := ofW rfl
theorem mma (f : FormW) : Statement (.mma f) := ofW rfl
theorem mzero (f : FormQI) : Statement (.mzero f) := ofQI rfl
theorem mdrain (f : FormW) : Statement (.mdrain f) := ofW rfl
theorem macc (f : FormW) : Statement (.macc f) := ofW rfl
theorem mstat (f : FormQI) : Statement (.mstat f) := ofQI rfl
theorem srd (f : FormWI) : Statement (.srd f) := ofWI rfl
theorem swr (f : FormWI) : Statement (.swr f) := ofWI rfl
theorem sret (f : FormW) : Statement (.sret f) := ofW rfl
theorem ifence (f : FormQ) : Statement (.ifence f) := ofQ rfl
theorem codex (f : FormW) : Statement (.codex f) := ofW rfl
theorem npost (f : FormW) : Statement (.npost f) := ofW rfl
theorem npoll (f : FormW) : Statement (.npoll f) := ofW rfl
theorem tmark (f : FormWI) : Statement (.tmark f) := ofWI rfl
theorem trd (f : FormWI) : Statement (.trd f) := ofWI rfl
theorem halt (f : FormQ) : Statement (.halt f) := ofQ rfl
theorem kill (f : FormW) : Statement (.kill f) := ofW rfl
theorem issueOpportunity (core port : Nat) : Statement (.issueOpportunity core port) := ofNone rfl
theorem stallAgeRelease (core : Nat) : Statement (.stallAgeRelease core) := ofNone rfl
theorem overdueClaim (core : Nat) : Statement (.overdueClaim core) := ofNone rfl
theorem pauseRelease (core fibre : Nat) : Statement (.pauseRelease core fibre) := ofNone rfl
theorem segmentReload (core : Nat) : Statement (.segmentReload core) := ofNone rfl
theorem killDeadline (crew : Nat) : Statement (.killDeadline crew) := ofNone rfl
theorem landingWrite (id : Nat) : Statement (.landingWrite id) := ofNone rfl
theorem performEffect (core fibre : Nat) : Statement (.performEffect core fibre) := ofNone rfl
theorem mailboxDeferredPost (core : Nat) : Statement (.mailboxDeferredPost core) := ofNone rfl
theorem doorbell (port : HostPort) (vf queue : Nat) (value : BitVec 64) : Statement (.doorbell port vf queue value) := ofNone rfl
theorem qheadWrite (port : HostPort) (vf queue : Nat) (value : BitVec 64) : Statement (.qheadWrite port vf queue value) := ofNone rfl
theorem qstatHaltClear (port : HostPort) (vf queue : Nat) (value : BitVec 64) : Statement (.qstatHaltClear port vf queue value) := ofNone rfl
theorem queueDisable (port : HostPort) (vf queue : Nat) (value : BitVec 64) : Statement (.queueDisable port vf queue value) := ofNone rfl
theorem launchReady (vf queue : Nat) : Statement (.launchReady vf queue) := ofNone rfl
theorem deppollRead (vf queue : Nat) : Statement (.deppollRead vf queue) := ofNone rfl
theorem repartition (core : Nat) : Statement (.repartition core) := ofNone rfl
theorem crewStart (crew : Nat) : Statement (.crewStart crew) := ofNone rfl
theorem runlimExpiry (crew : Nat) : Statement (.runlimExpiry crew) := ofNone rfl
theorem launchComplete (launch : Nat) : Statement (.launchComplete launch) := ofNone rfl
theorem crewRelaunch (crew : Nat) : Statement (.crewRelaunch crew) := ofNone rfl
theorem tokenRefill : Statement .tokenRefill := ofNone rfl
theorem homeWriteApply (line : Nat) : Statement (.homeWriteApply line) := ofNone rfl
theorem waitaHostPoll (id : Nat) : Statement (.waitaHostPoll id) := ofNone rfl
theorem recallLine (core line : Nat) : Statement (.recallLine core line) := ofNone rfl
theorem orderingComplete (id : Nat) : Statement (.orderingComplete id) := ofNone rfl
theorem clusterGate (cluster : Nat) : Statement (.clusterGate cluster) := ofNone rfl
theorem hostSnoop (port : HostPort) (line : Nat) : Statement (.hostSnoop port line) := ofNone rfl
theorem hostSnoopAnswer (port : HostPort) (line : Nat) : Statement (.hostSnoopAnswer port line) := ofNone rfl
theorem hostAtomicRead (port : HostPort) (vf addr : Nat) (wide : Bool) : Statement (.hostAtomicRead port vf addr wide) := ofNone rfl
theorem hostWrite (port : HostPort) (cxlMem : Bool) (vf addr : Nat) (data : List Byte) : Statement (.hostWrite port cxlMem vf addr data) := ofNone rfl
theorem hostMemoryRead (port : HostPort) (vf addr len : Nat) : Statement (.hostMemoryRead port vf addr len) := ofNone rfl
theorem copyComplete (op : Nat) : Statement (.copyComplete op) := ofNone rfl
theorem gsComplete (op : Nat) : Statement (.gsComplete op) := ofNone rfl
theorem mtxCommandComplete (core ctx : Nat) : Statement (.mtxCommandComplete core ctx) := ofNone rfl
theorem wbComplete (op : Nat) : Statement (.wbComplete op) := ofNone rfl
theorem engineStop (op : Nat) (hostError : Option Nat) : Statement (.engineStop op hostError) := ofNone rfl
theorem codexReserve (op index : Nat) : Statement (.codexReserve op index) := ofNone rfl
theorem codexSeal (op place : Nat) : Statement (.codexSeal op place) := ofNone rfl
theorem codexPatch (op : Nat) : Statement (.codexPatch op) := ofNone rfl
theorem codexSwap (op place : Nat) : Statement (.codexSwap op place) := ofNone rfl
theorem codexFree (op : Nat) : Statement (.codexFree op) := ofNone rfl
theorem codexCompletion (op : Nat) : Statement (.codexCompletion op) := ofNone rfl
theorem dataFragmentReceive (io : Nat) (packet : Packet) : Statement (.dataFragmentReceive io packet) := ofNone rfl
theorem parityFragmentReceive (io : Nat) (packet : Packet) : Statement (.parityFragmentReceive io packet) := ofNone rfl
theorem stripeAckReceive (io : Nat) (packet : Packet) : Statement (.stripeAckReceive io packet) := ofNone rfl
theorem retransmitRequestReceive (io : Nat) (packet : Packet) : Statement (.retransmitRequestReceive io packet) := ofNone rfl
theorem probeReceive (io : Nat) (packet : Packet) : Statement (.probeReceive io packet) := ofNone rfl
theorem abortReceive (io : Nat) (packet : Packet) : Statement (.abortReceive io packet) := ofNone rfl
theorem targetResetIndication (io : Nat) (packet : Packet) : Statement (.targetResetIndication io packet) := ofNone rfl
theorem atomicReplyReceive (io : Nat) (packet : Packet) : Statement (.atomicReplyReceive io packet) := ofNone rfl
theorem pdsNackReceive (io : Nat) (packet : Packet) : Statement (.pdsNackReceive io packet) := ofNone rfl
theorem stripeResend (op stripe : Nat) : Statement (.stripeResend op stripe) := ofNone rfl
theorem unsupportedPacket (io : Nat) (source : Nat) : Statement (.unsupportedPacket io source) := ofNone rfl
theorem stripeWaitExpiry (message stripe : Nat) : Statement (.stripeWaitExpiry message stripe) := ofNone rfl
theorem ntimeoutExpiry (op : Nat) : Statement (.ntimeoutExpiry op) := ofNone rfl
theorem probeWaitExpiry (op : Nat) : Statement (.probeWaitExpiry op) := ofNone rfl
theorem messageRecordExpiry (message : Nat) : Statement (.messageRecordExpiry message) := ofNone rfl
theorem dieLinkFlitReceive (src dst : Nat) (flit : Flit) : Statement (.dieLinkFlitReceive src dst flit) := ofNone rfl
theorem dieLinkRetryExpiry (src dst : Nat) (group : Nat) : Statement (.dieLinkRetryExpiry src dst group) := ofNone rfl
theorem dieLinkGroupFailure (src dst : Nat) (group : Nat) : Statement (.dieLinkGroupFailure src dst group) := ofNone rfl
theorem filterRun (die : Nat) : Statement (.filterRun die) := ofNone rfl
theorem bitternPeriod : Statement .bitternPeriod := ofNone rfl
theorem sluiceOcc : Statement .sluiceOcc := ofNone rfl
theorem fctlEnable (port : HostPort) (vf die slot : Nat) (value : BitVec 64) : Statement (.fctlEnable port vf die slot value) := ofNone rfl
theorem hsnap (port : HostPort) (vf die : Nat) (value : BitVec 64) : Statement (.hsnap port vf die value) := ofNone rfl
theorem iclr (port : HostPort) (vf die : Nat) (value : BitVec 64) : Statement (.iclr port vf die value) := ofNone rfl
theorem btOwnerWrite (offset : Nat) (value : BitVec 64) : Statement (.btOwnerWrite offset value) := ofNone rfl
theorem mboxPop (core : Nat) : Statement (.mboxPop core) := ofNone rfl
theorem mboxWaitTimeout (core : Nat) : Statement (.mboxWaitTimeout core) := ofNone rfl
theorem haltedWrite (core : Nat) (value : BitVec 64) : Statement (.haltedWrite core value) := ofNone rfl
theorem xlinvC (core : Nat) (value : BitVec 64) : Statement (.xlinvC core value) := ofNone rfl
theorem xlinv (vf : Nat) (value : BitVec 64) : Statement (.xlinv vf value) := ofNone rfl
theorem hpartWrite (offset : Nat) (value : BitVec 64) : Statement (.hpartWrite offset value) := ofNone rfl
theorem registerWrite (space : RegSpace) (offset : Nat) (value : BitVec 64) : Statement (.registerWrite space offset value) := ofNone rfl
theorem hlRenew (port : HostPort) (value : BitVec 64) : Statement (.hlRenew port value) := ofNone rfl
theorem hlClaim (port : HostPort) (value : BitVec 64) : Statement (.hlClaim port value) := ofNone rfl
theorem hostLeaseExpiry : Statement .hostLeaseExpiry := ofNone rfl
theorem ptpOfsWrite (value : BitVec 64) : Statement (.ptpOfsWrite value) := ofNone rfl
theorem ptpTrimWrite (value : BitVec 64) : Statement (.ptpTrimWrite value) := ofNone rfl
theorem ptpEventTimestamp (ethPort message : Nat) : Statement (.ptpEventTimestamp ethPort message) := ofNone rfl
theorem heartbeatCheck : Statement .heartbeatCheck := ofNone rfl
theorem mcBeat (controller : Nat) : Statement (.mcBeat controller) := ofNone rfl
theorem mcTakeover : Statement .mcTakeover := ofNone rfl
theorem coreReset (core : Nat) : Statement (.coreReset core) := ofNone rfl
theorem dieReset (die : Nat) : Statement (.dieReset die) := ofNone rfl
theorem partitionReset (partition : Nat) : Statement (.partitionReset partition) := ofNone rfl
theorem packageWarmReset : Statement .packageWarmReset := ofNone rfl
theorem coldReset (image : List Byte) : Statement (.coldReset image) := ofNone rfl
theorem vfFlr (vf : Nat) : Statement (.vfFlr vf) := ofNone rfl
theorem resetGraceExpiry (vf : Nat) : Statement (.resetGraceExpiry vf) := ofNone rfl
theorem mctpStatusRead (via : MctpPath) (offset : Nat) : Statement (.mctpStatusRead via offset) := ofNone rfl
theorem mctpResetOrder (via : MctpPath) (level : ResetLevel) : Statement (.mctpResetOrder via level) := ofNone rfl
theorem mctpFirmwareLoad (image : List Byte) : Statement (.mctpFirmwareLoad image) := ofNone rfl
theorem spdmRequest (port : HostPort) (request : SpdmRequest) : Statement (.spdmRequest port request) := ofNone rfl
theorem ideKm (vf : Nat) (key : BitVec 256) : Statement (.ideKm vf key) := ofNone rfl
theorem lockInterfaceRequest (vf : Nat) : Statement (.lockInterfaceRequest vf) := ofNone rfl
theorem startInterfaceRequest (vf : Nat) : Statement (.startInterfaceRequest vf) := ofNone rfl
theorem stopInterfaceRequest (vf : Nat) : Statement (.stopInterfaceRequest vf) := ofNone rfl
theorem tdispFrozenWrite (port : HostPort) (vf offset : Nat) (value : BitVec 64) : Statement (.tdispFrozenWrite port vf offset value) := ofNone rfl
theorem ideIntegrityFailure (vf : Nat) : Statement (.ideIntegrityFailure vf) := ofNone rfl
theorem eccUncorrectable (location : EccLocation) : Statement (.eccUncorrectable location) := ofNone rfl
theorem eccCorrected (location : EccLocation) : Statement (.eccCorrected location) := ofNone rfl
theorem thermalStepChange (sensor step : Nat) (temperature : Word) : Statement (.thermalStepChange sensor step temperature) := ofNone rfl
theorem hostPortLinkChange (port : HostPort) (up : Bool) : Statement (.hostPortLinkChange port up) := ofNone rfl
theorem stripeSend (op stripe : Nat) : Statement (.stripeSend op stripe) := ofNone rfl
theorem hostWriteAcknowledgement (id : Nat) : Statement (.hostWriteAcknowledgement id) := ofNone rfl
theorem msixVectorUnmask (vf vector : Nat) : Statement (.msixVectorUnmask vf vector) := ofNone rfl
theorem clusterUngate (cluster : Nat) : Statement (.clusterUngate cluster) := ofNone rfl

end Sys2Proof.Laws.Length
end

