-- ==== Sys2Proof/Tests/Slice0.lean ====
section
/-! SUPPORT. Tests: words of the specification's worked examples, ill-formed words, worked results, and states that meet
the hypotheses of the statements. Expected values are the specification's, or worked out by hand from its rules. -/
namespace Sys2Proof.Tests

-- One theorem after another: in parallel the kernel’s runs take too much memory.
set_option Elab.async false

open Sys2Proof.Machine Sys2Proof.Safety

/-! ### Decoding: the worked encodings of the specification -/

/-- No guard, no run mark. -/
def h0 : Header := { pred := 0, rb := 0 }

/-- Format W with every field zero. -/
def w0 : FormW :=
  { hdr := h0, a := 0, b := 0, c := 0, d := 0, lb := false, lc := false, ld := false, tb := false, tc := false,
    td := false, mod := 0, sub := 0 }

/-- Format WI with every field zero. -/
def wi0 : FormWI := { hdr := h0, a := 0, b := 0, lb := false, imm := 0, mod := 0, sub := 0 }

/-- Format Q with these operands. -/
def q2 (a b : BitVec 8) : FormQ := { hdr := h0, a := a, b := b, lb := false }

/-- Format QI with these operands. -/
def qi (a : BitVec 8) (imm : BitVec 9) : FormQI := { hdr := h0, a := a, imm := imm }

/-- The instruction of two parcels. -/
def dec2 (p0 p1 : Nat) : Option Instr := decodeTableWord 64 (p0 + p1 * 2 ^ 32)

/-- The instruction of three parcels. -/
def dec3 (p0 p1 p2 : Nat) : Option Instr := decodeTableWord 96 (p0 + p1 * 2 ^ 32 + p2 * 2 ^ 64)

/-- `iadd.w g3, g4, g5` with the safe-point mark (spec/15, the worked encodings). -/
theorem test_decode_iadd : dec2 0x02019009 5 = some (.iaddW { w0 with hdr := { pred := 0, rb := 2 }, a := 3, b := 4, c := 5 }) := by
  decide +kernel

/-- `shl.w g7, #3`. -/
theorem test_decode_shl : decodeTableWord 32 0x01839780 = some (.shlQi (qi 7 3)) := by decide +kernel

/-- `icmp.eq.n32 p1, s5, %zero`. -/
theorem test_decode_icmp :
    dec2 0x42E8A001 0x004000D8 = some (.icmpW { w0 with a := 0xD1, b := 0x85, c := 0xD8, mod := 2 }) := by decide +kernel

/-- `?p1 bra wait <s>`, two parcels back. -/
theorem test_decode_bra :
    decodeTableWord 32 0xFFFE0098 = some (.braQb { hdr := { pred := 1, rb := 2 }, off := 0xFFFE, spare := false }) := by
  decide +kernel

/-- The IADD with the literal 100,000. -/
theorem test_decode_literal : dec3 0x02019002 0 0x000186A0 = some (.iaddX { w0 with a := 3, b := 4 } 0x000186A0) := by
  decide +kernel

/-- `call f, #16`. -/
theorem test_decode_call :
    dec2 0x00000105 0x10000010 = some (.call { wi0 with hdr := { pred := 0, rb := 1 }, imm := 0x10, sub := 2 }) := by
  decide +kernel

/-- `calli d6, #16 <s>` (spec/22). -/
theorem test_decode_calli :
    dec2 0x06000189 0x10000000 = some (.calli { w0 with hdr := { pred := 0, rb := 2 }, b := 12, sub := 2 }) := by
  decide +kernel

/-- PERFORM of a tag in a register field (spec/19). -/
theorem test_decode_perform :
    dec2 0x01040705 0x00000120 =
      some (.perform { wi0 with hdr := { pred := 0, rb := 1 }, a := 0x08, b := 0x02, imm := 0x120 }) := by decide +kernel

/-- `lea` of d16 + 64 (spec/19). -/
theorem test_decode_lea :
    (dec3 0x04041D82 0x00200000 0x40) = some (.leaX { w0 with a := 8, b := 8, mod := 1 } 0x40) := by decide +kernel

/-- A load with a literal displacement of 64 (spec/21). -/
theorem test_decode_ld : dec3 0x0802B002 0x10000000 0x40 = some (.ldX { w0 with a := 5, b := 0x10, sub := 2 } 0x40) := by
  decide +kernel

/-- `st.n32.pt [g10 + g11], g12`. -/
theorem test_decode_st :
    dec2 0x05003081 0x10200C0B = some (.stW { w0 with b := 10, c := 11, d := 12, mod := 1, sub := 2 }) := by decide +kernel

/-- `waitc copy, #1`, and `waitc net, #0`. -/
theorem test_decode_waitc :
    dec2 0x00004281 1 = some (.waitc { wi0 with imm := 1 }) ∧ dec2 0x00004281 0x300 = some (.waitc { wi0 with imm := 0x300 }) := by
  decide +kernel

/-- WAITA on the word of d64 (spec/24). -/
theorem test_decode_waita :
    dec2 0x40004301 0x14000006 = some (.waita { w0 with b := 0x80, c := 6, mod := 0x20, sub := 2 }) := by decide +kernel

/-- `scalex` of g9 to g4 (spec/19). -/
theorem test_decode_scalex :
    dec2 0x04822A01 0x1B000000 = some (.scalex { w0 with a := 4, b := 9, mod := 0x18, sub := 3 }) := by decide +kernel

/-- `hadd2.w g19, g17, g14`, `hmaxd2.w g21, g19, g20, g10` and `prm8.w g23, g21, g7, g22` (spec/22). -/
theorem test_decode_packed :
    dec2 0x08899E81 0xE = some (.hadd2W { w0 with a := 19, b := 17, c := 14 }) ∧
    dec2 0x098A9F81 0xA14 = some (.hmaxd2 { w0 with a := 21, b := 19, c := 20, d := 10 }) ∧
    dec2 0x0A8B9C01 0x1607 = some (.prm8W { w0 with a := 23, b := 21, c := 7, d := 22 }) := by decide +kernel

/-- `pset.g16 g4, #2`, `perm.n32 g6, g5, #2`, `shfl.idx.n32 g9, g23, g8` and `vote.ballot.n32 g26, g24`. -/
theorem test_decode_lanes :
    dec2 0x02006001 0x10000000 = some (.pset { w0 with b := 4, sub := 2 }) ∧
    dec2 0x02836081 0x10400000 = some (.perm { w0 with a := 6, b := 5, mod := 2, sub := 2 }) ∧
    dec2 0x0B84E101 0x00400008 = some (.shfl { w0 with a := 9, b := 23, c := 8, mod := 2 }) ∧
    dec2 0x0C0D2301 0x10400000 = some (.vote { w0 with a := 26, b := 24, mod := 2, sub := 2 }) := by decide +kernel

/-- MMA and MDRAIN of the matrix program (spec/23, spec/24). -/
theorem test_decode_matrix :
    dec2 0x04006801 0x7B00100C = some (.mma { w0 with b := 8, c := 12, d := 16, mod := 0x18, sub := 15 }) ∧
    dec2 0x0A006901 0x7B600000 = some (.mdrain { w0 with b := 20, mod := 0x1B, sub := 15 }) := by decide +kernel

/-- `srd` of 0x100, `npost d12` and `npost d4` (spec/25, spec/27). -/
theorem test_decode_system :
    dec2 0x6C047001 0x100 = some (.srd { wi0 with a := 8, b := 0xD8, imm := 0x100 }) ∧
    dec2 0x0C007281 0 = some (.npost { w0 with b := 24 }) ∧ dec2 0x04007281 0 = some (.npost { w0 with b := 8 }) := by
  decide +kernel

/-! ### Ill-formed words -/

/-- The reserved length, an opcode without a meaning, and a format that its opcode does not have (R155, R179). -/
theorem test_reserved :
    decodeTableWord 32 3 = none ∧ decodeTableWord 32 (0xFF * 128) = none ∧ dec2 (0x3F * 128) 0 = none ∧
    decodeTableWord 32 (0x3F * 128) = none := by decide +kernel

/-- An operand that must be absent is named: D of an IADD (R163, R205). -/
theorem test_ill_absent : dec2 0x02019001 0x00000105 = none := by decide +kernel

/-- A register code that does not exist, and an odd code for a d-register (R164, R166). -/
theorem test_ill_code :
    Instr.wellFormed (.iaddW { w0 with a := 0xDC }) = false ∧ Instr.wellFormed (.iaddW { w0 with mod := 1, a := 1 }) = false := by
  decide +kernel

/-- The T and L bits of absent operands (R163). -/
theorem test_ill_marks :
    Instr.wellFormed (.nopW { w0 with tb := true }) = false ∧ Instr.wellFormed (.nopW { w0 with lb := true }) = false := by
  decide +kernel

/-- A predicate register 0 as a destination (R238). -/
theorem test_ill_p0 : Instr.wellFormed (.icmpW { w0 with a := 0xD0, mod := 2 }) = false := by decide +kernel

/-- A modifier that the description does not list: the signed bit of an AND, SUB5 of an IADD, format 8 in an ICMP (R180). -/
theorem test_ill_mod :
    Instr.wellFormed (.andW { w0 with mod := 2 }) = false ∧ Instr.wellFormed (.iaddW { w0 with sub := 1 }) = false ∧
    Instr.wellFormed (.icmpW { w0 with mod := 8 }) = false := by decide +kernel

/-- The spare bit of format QB (R159), and a shift count of 32 (R230). -/
theorem test_ill_quick :
    Instr.wellFormed (.braQb { hdr := h0, off := 0, spare := true }) = false ∧
    Instr.wellFormed (.shlQi (qi 0 32)) = false := by decide +kernel

/-- C of an instruction in format X (R162). -/
theorem test_ill_literal : Instr.wellFormed (.iaddX { w0 with c := 1 } 0) = false := by decide +kernel

/-- A well-formed instruction of each format. -/
theorem test_well_formed :
    ∀ i ∈ [Instr.nopQ (q2 0 0), .shlQi (qi 0 31), .braQb { hdr := h0, off := 0, spare := false }, .iaddW w0, .call { wi0 with sub := 1 },
      .iaddX w0 0], i.wellFormed = true := by decide +kernel

/-! ### One fibre that issues -/

/-- The fibre of the tests: descriptor 0 of core 0, of tenant 1 and crew 1. -/
def fib : Fibre :=
  { Fibre.clerk 0 with tenant := 1, launch := 1, crew := some 1, state := .issuing, pc := fetchPc, fbSeg := 0x604000 }

/-- Its gang: lane 0 of port 0. -/
def gang1 : Gang := { fetchGangOf with tenant := 1, launch := 1 }

/-- A register that holds a word. -/
def held (v : Word) : RegCell := { RegCell.zero with val := v }

/-- A launch record of one crew of 16 fibres. -/
def rec1 : LaunchRecord :=
  { code := fetchHandle, entry := 0, flags := 0, widths := [1, 1, 1, 1, 1], counts := [1, 1, 1, 1, 1], frameW := 248,
    partFrame := 8, partScratch := 0, partWeight := 8, partCache := 8, actx := 15, tokcls := 0, prio := 0, args := 0,
    start := 0, depAddr := 0, depVal := 0, doneAddr := 0, doneVal := 0, msix := 0xFFFF, runlim := 0 }

/-- Its launch, from queue 0 of tenant 1. -/
def launch1 : Launch :=
  { vf := 1, queue := 0, record := rec1, placed := 1, late := false, crewKilled := false, completing := false }

/-- A crew of it on core 0, with its s-registers. -/
def crew1 (sregs : List (Nat × Word)) : Crew :=
  { core := 0, launch := 1, band := 0, firstWid := 0, number := 0, started := some 0,
    sregs := sregs.map fun p => (p.1, held p.2), broken := false, scrBase := 0, scrCount := 0, wgtBase := 0, wgtCount := 0,
    relaunches := 0, ended := false, killCause := none, noRelaunch := false, ecc := false, deadline := none, cycles := 0 }

/-- A sealed text of 4096 bytes at `fetchText`, with entries 0 and 16. -/
def code1 : CodeEntry := { fetchEntry with tlen := 4096, entries := [0, 16], frameW := 248 }

/-- The state of the tests: the fibre issues alone in its gang, with these g-registers and s-registers. The first GiB of
GLOBAL is mapped to itself, the backing area at 0x600000 holds 64 K slots and 4 segments, and one granule of SCRATCH and one of WEIGHT belong to the crew. -/
def st (f : Fibre) (g s : List (Nat × Word)) : State :=
  { State.reset with
    fibres := [(0, f)]
    segs := [(segKey 1 0x604000, { Segment.empty with words := g.map fun p => (p.1, held p.2), resident := some 0 })]
    gangs := [(1, gang1)]
    cur := 1
    code := [(codeKey 1 1, code1)]
    regs := { State.reset.regs with
      core := [(0x110, 0x0602020E)]
      mgmt := [(0x8010, 0x40001), (0x9080, 0xFFC0000000000000), (0x9088, 0x000FFFFFFFFFF000), (0xD010, 0x600000),
               (0xD018, 0x100000004)] }
    store := { State.reset.store with
      phys := ((State.reset.store.phys.writeBytes 0x40000 [7, 0x10, 4]).writeBytes 0x41000 [0x87]) }
    cores := [(0, { CoreUnit.reset with scratch := [(0, (1, 1))], weight := [(0, (1, 1))] })]
    sched := { State.reset.sched with launches := [(1, launch1)], crews := [(1, crew1 s)] } }

/-- A continuation in K slot 0 of tenant 1, of generation 1, that stands at entry 16 with its frame in the second segment. -/
def k1 : KObject :=
  { magic := 0x4B4F, ver := 1, state := 0, owner := 1, tag := 0x20, pc := 0x100100000010, top := 0x604400, nseg := 1, live := 128,
    feat := 0, hrec := 0, wid := 0, crew := 1, flags := 0, gen := 1,
    record := { tag := 0x20, vf := 1, core := 0, fibre := 0, handle := 0x0001000000600000, payload := 0, pc := 0x100100000010,
                addr := 0, info := 0, gtc := 0, seq := 0 },
    replay := [], heldStores := [], free := false }

/-- A state with that continuation. -/
def putK (s : State) : State := { s with kobjs := [(kKey 1 0, k1)] }

/-- The turn of the test fibre for an instruction in a state. -/
def turn (s : State) (i : Instr) : Turn :=
  { gang := s.gangs.get s.cur gang1, lane := 0, index := 0, fibre := s.fibres.get 0 fib, form := i.form.getD (formQ (q2 0 0) .none .none) }

/-- The next state of an instruction, or the state itself. -/
def after (s : State) (i : Instr) : State :=
  match exec i s with
  | .next t => t
  | _ => s

/-- The registers of the test fibre, named by code. -/
def reg (s : State) (code : Nat) : Word := ((fib.loc code).map fun l => (s.cell l).val).getD 0

/-- The test fibre. -/
def fibOf (s : State) : Fibre := s.fibres.get 0 fib

/-- A state with bytes in the SCRATCH of core 0. -/
def putPitch (s : State) (a : Nat) (b : List Byte) : State :=
  { s with store := { s.store with pitch := s.store.pitch.writeBytes (scratchKey 0 a) b } }

/-- A state with bytes in HBM. -/
def putPhys (s : State) (a : Nat) (b : List Byte) : State :=
  { s with store := { s.store with phys := s.store.phys.writeBytes a b } }

/-! ### Results worked out from the rules -/

/-- 0xFFFFFFFF + 1 wraps, and as an unsigned saturating sum clamps with SAT (R227). -/
theorem test_iadd :
    let s := st fib [(4, 0xFFFFFFFF), (5, 1)] []
    reg (after s (.iaddW { w0 with a := 3, b := 4, c := 5 })) 3 = 0 ∧
    (let t := after s (.iaddW { w0 with a := 3, b := 4, c := 5, mod := 4 })
     reg t 3 = 0xFFFFFFFF ∧ (fibOf t).flags = flagSAT ∧ (fibOf t).pc.off = 8) := by decide +kernel

/-- −7 ÷ 2 is −3 remainder −1; ÷ 0 gives the minimum of a negative operand with DZ (R227, R228). A result that R175 does not
list comes later: its register is empty until it lands (R168, R171). -/
theorem test_idiv :
    let s := st fib [(4, 0xFFFFFFF9), (5, 2), (6, 0)] []
    let t := after s (.idivW { w0 with a := 3, b := 4, c := 5, mod := 2 })
    (t.cell (fib.gLoc 3)).mark = .empty ∧ reg (t.flushLandings [0]) 3 = 0xFFFFFFFD ∧
    reg ((after s (.iremW { w0 with a := 3, b := 4, c := 5, mod := 2 })).flushLandings [0]) 3 = 0xFFFFFFFF ∧
    (let t := after s (.idivW { w0 with a := 3, b := 4, c := 6, mod := 2 })
     reg (t.flushLandings [0]) 3 = 0x80000000 ∧ (fibOf t).flags = flagDZ) := by decide +kernel

/-- The high word of (2^32 − 1)², and a 64-bit product (R227). -/
theorem test_imul :
    let s := st fib [(4, 0xFFFFFFFF), (5, 0), (6, 0xFFFFFFFF), (7, 0)] []
    reg (after s (.imulhW { w0 with a := 3, b := 4, c := 6 })) 3 = 0xFFFFFFFE ∧
    (let t := after s (.imulW { w0 with a := 8, b := 4, c := 6, mod := 1 })
     (reg t 8, reg t 9) = (1, 0xFFFFFFFE)) := by decide +kernel

/-- SAR copies the sign, ROT turns, and a count is taken modulo the width (R230). -/
theorem test_shifts :
    let s := st fib [(3, 0x80000001), (4, 33)] []
    reg (after s (.sarQi (qi 3 1))) 3 = 0xC0000000 ∧ reg (after s (.rotQi (qi 3 4))) 3 = 0x18 ∧
    reg (after s (.shlW { w0 with a := 5, b := 3, c := 4 })) 5 = 2 := by decide +kernel

/-- Bits 11 to 8 of 0x0F40, signed and not, and 0xF put into bits 7 to 4 (R231). -/
theorem test_fields :
    let s := st fib [(4, 0x0F40), (6, 0x1F)] []
    reg (after s (.bfxX { w0 with a := 3, b := 4 } 0x0408)) 3 = 0xF ∧
    reg (after s (.bfxX { w0 with a := 3, b := 4, mod := 2 } 0x0408)) 3 = 0xFFFFFFFF ∧
    reg (after s (.bfiX { w0 with a := 3, b := 4, d := 6 } 0x0404)) 3 = 0x0FF0 := by decide +kernel

/-- PRM8 takes byte 0 of B, byte 0 of D, the sign of byte 3 of B, and byte 1 of B (R232). -/
theorem test_prm8 :
    let s := st fib [(4, 0x84332211), (6, 0x88776655)] []
    reg (after s (.prm8X { w0 with a := 3, b := 4, d := 6 } 0x1B40)) 3 = 0x22FF5511 := by decide +kernel

/-- The worked example of R237. -/
theorem test_hmaxd2 :
    let s := st fib [(4, 0x00050010), (5, 0x0007000C), (6, 3)] []
    let t := after s (.hmaxd2 { w0 with a := 3, b := 4, c := 5, d := 6 })
    (reg t 3, reg t 6) = (0x00070010, 0xE) := by decide +kernel

/-- LEA adds the signed index times 4 (R234); MOVI `.hi` keeps the low word (R233). -/
theorem test_moves :
    let s := st fib [(4, 0), (5, 1), (6, 0xFFFFFFFF)] []
    (let t := after s (.leaW { w0 with a := 8, b := 4, c := 6, mod := 0x13 })
     (reg t 8, reg t 9) = (0xFFFFFFFC, 0)) ∧
    (let t := after s (.moviX { w0 with a := 4, mod := 1, sub := 1 } 7)
     (reg t 4, reg t 5) = (0, 7)) := by decide +kernel

/-- −1 < 1 as a signed and not as an unsigned number, into a predicate (R238). -/
theorem test_icmp :
    let s := st fib [(4, 0xFFFFFFFF), (5, 1)] []
    (fibOf (after s (.icmpW { w0 with a := 0xD1, b := 4, c := 5, mod := 6, sub := 2 }))).preds = 3 ∧
    (fibOf (after s (.icmpW { w0 with a := 0xD1, b := 4, c := 5, mod := 2, sub := 2 }))).preds = 1 := by decide +kernel

/-- 1.5 + 2.25 = 3.75; 1 ÷ 0 is ∞ with DZ; √2 rounds to 0x3FB504F3 with NX (R107, R108). -/
theorem test_float :
    let s := st fib [(4, 0x3FC00000), (5, 0x40100000), (6, 0x3F800000), (7, 0), (8, 0x40000000)] []
    reg (after s (.faddW { w0 with a := 3, b := 4, c := 5, mod := 0 })) 3 = 0x40700000 ∧
    (let t := after s (.fdivW { w0 with a := 3, b := 6, c := 7, mod := 0 })
     reg t 3 = 0x7F800000 ∧ (fibOf t).flags = flagDZ) ∧
    (let t := after s (.fsqrtQ (q2 3 8))
     reg t 3 = 0x3FB504F3 ∧ (fibOf t).flags = flagNX) := by decide +kernel

/-- The four stochastic roundings of 1.25, 2.25, 2.0 and 0.75 from SEED 1 (R106, spec/10). -/
theorem test_stochastic :
    let r := fun (n : Nat) (e : Int) (seed : Word) => roundDraw 8 4 false seed 0 (.fin false n e false)
    (r 5 (-2) 1).code = 3 ∧ (r 5 (-2) 1).seed = 0x00042021 ∧ (r 9 (-2) 0x00042021).code = 5 ∧
    (r 9 (-2) 0x00042021).seed = 0x04080601 ∧ (r 2 0 0x04080601).code = 4 ∧ (r 2 0 0x04080601).seed = 0x9DCCA8C5 ∧
    (r 3 (-2) 0x9DCCA8C5).code = 2 ∧ (r 3 (-2) 0x9DCCA8C5).seed = 0x1255994F := by decide +kernel

/-- CVT of 300.5 to signed 8 bits clamps (R96, R244); the scale code of 2.0 (R248). -/
theorem test_convert :
    let s := st fib [(4, 0x43964000), (5, 0x40000000)] []
    reg (after s (.cvt { w0 with a := 3, b := 4, mod := 0x14, sub := 3 })) 3 = 0x7F := by decide +kernel

/-- A taken branch two parcels back leaves the registers and goes to the target (R207). -/
theorem test_branch :
    let s := st { fib with pc := { fetchPc with off := 8 } } [] []
    (fibOf (after s (.braQb { hdr := h0, off := 0xFFFE, spare := false }))).pc.off = 0 := by decide +kernel

/-- A call moves the frame by its slide, with the return pointer below it, and a return undoes it (R208, R210). -/
theorem test_call_ret :
    let s := st fib [] []
    let t := after s (.call { wi0 with imm := 4, sub := 2 })
    (fibOf t).fbWord = 16 ∧ (fibOf t).pc.off = 16 ∧
    ((t.cell (.frame (segKey 1 0x604000) 14)).val, (t.cell (.frame (segKey 1 0x604000) 15)).val) = (8, 0x1001) ∧
    (let u := after { t with gangs := [(1, gang1)], fibres := [(0, { fibOf t with state := .issuing })] } (.ret (qi 0 2))
     (fibOf u).fbWord = 0 ∧ (fibOf u).pc.off = 8) := by decide +kernel

/-- A SCRATCH store is read back by a load that extends the sign (R250, R252). -/
theorem test_scratch :
    let s := st fib [(4, 0x100), (5, 0x1FE)] []
    let put : Instr := .stX { w0 with b := 4, d := 5, mod := 1 } 3
    (after s put).store.pitch.read (scratchKey 0 0x103) = 0xFE := by decide +kernel

/-- An atomic addition in SCRATCH returns the old word (R254). -/
theorem test_atom :
    let s := putPitch (st fib [(4, 0x100), (5, 3)] []) 0x100 [9, 0, 0, 0]
    let t := after s (.atom { w0 with a := 3, b := 4, c := 5, mod := 1, sub := 2 })
    t.store.pitch.readBytes (scratchKey 0 0x100) 4 = [12, 0, 0, 0] := by decide +kernel

/-- The word that the host places is the first that runs after reset (R155). -/
theorem test_fetch :
    let r := step (State.reset.withFetchWord 64 0x0000000502019009)
    (match r with | .next t => ((t.fibres.get 0 fib).pc.off, t.agenda) | _ => (0, [])) = (8, []) := by decide +kernel

/-- An ill-formed word performs ILLEGAL at its own PC; no handler takes it, and the clerk gets a notice (R80, R182). -/
theorem test_illegal :
    ((after (st fib [] []) (.andW { w0 with mod := 2 })).unit 0).mailbox.map (fun p => (p.1.tag, p.1.pc)) =
      [(12, 0x100100000000)] := by decide +kernel

/-! ### The hypotheses of the statements, decided -/

/-- A result is this value. -/
def isOk {ε α : Type} [DecidableEq α] (r : Except ε α) (v : α) : Bool :=
  match r with
  | .ok x => decide (x = v)
  | .error _ => false

theorem ok_of {ε α : Type} [DecidableEq α] {r : Except ε α} {v : α} (h : isOk r v = true) : r = .ok v := by
  cases r with
  | ok x => exact congrArg Except.ok (of_decide_eq_true h)
  | error e => cases h

/-- `Ready`, decided. -/
def readyB (s : State) (i : Instr) (t : Turn) : Bool :=
  decide (s.gangs.find s.cur = some t.gang ∧ t.gang.members = [(t.lane, t.index)] ∧ t.index < 4096 ∧
    i.form = some t.form ∧ i.wellFormed = true ∧ s.fibres.find t.key = some t.fibre ∧ t.fibre.state = .issuing ∧
    s.queuePriv t.key t.gang.tenant t.form = false ∧
    (s.isCured t.gang.tenant t.fibre.pc = false ∨ tooEarly t.gang i t.form = none) ∧
    (t.form.hdr.pred = 0 ∨ t.fibre.preds.getLsbD t.form.hdr.pred.toNat = true) ∧
    (t.charged s).sourceStop t.key t.fibre (t.own s) [t.form.a, t.form.b, t.form.c, t.form.d] = none)

theorem ready_of {s : State} {i : Instr} {t : Turn} (h : readyB s i t = true) : Ready s i t := by
  obtain ⟨h1, h2, h3, h4, h5, h6, h7, h8, h9, h10, h11⟩ := of_decide_eq_true h
  exact ⟨h1, h2, h3, h4, h5, h6, h7, h8, h9, h10, h11⟩

/-- `Free`, decided. -/
def freeB (s : State) (i : Instr) (t : Turn) (codes : List Nat) : Bool :=
  decide ((t.charged s).destStop (t.x s i) codes = none ∧ (t.read s i).queueStop t.gang.core codes = none ∧
    (s.segs.find (segKey t.fibre.tenant t.fibre.fbSeg)).isSome = true ∧
    ∀ c ∈ codes, 0x80 ≤ c → c < 0xC0 → (s.sched.crews.find (t.fibre.crew.getD 0)).isSome = true)

theorem free_of {s : State} {i : Instr} {t : Turn} {codes : List Nat} (h : freeB s i t codes = true) :
    Free s i t codes := by
  obtain ⟨h1, h2, h3, h4⟩ := of_decide_eq_true h
  exact ⟨h1, h2, h3, h4⟩

/-- The run goes on, decided. -/
def runsOnB (t : Turn) (i : Instr) : Bool :=
  decide (t.form.hdr.rb = 0 ∧ endsRun i = false ∧ t.gang.runLen + 1 < 24)

theorem runs_of {t : Turn} {i : Instr} (h : runsOnB t i = true) : t.runsOn i := by
  have := of_decide_eq_true h
  exact this

/-- `Alone`, decided. -/
def aloneB (s : State) (i : Instr) (t : Turn) : Bool :=
  decide (s.gangs.find s.cur = some t.gang ∧ t.gang.members = [(t.lane, t.index)] ∧ t.index < 4096 ∧
    i.form = some t.form ∧ s.fibres.find t.key = some t.fibre ∧ t.fibre.state = .issuing ∧
    s.gangs.Pairwise (fun p q => p.1 < q.1) ∧ s.fibres.Pairwise (fun p q => p.1 < q.1) ∧ t.fibre.killOrdered = false)

theorem alone_of {s : State} {i : Instr} {t : Turn} (h : aloneB s i t = true) : Alone s i t := by
  obtain ⟨h1, h2, h3, h4, h5, h6, h7, h8, h9⟩ := of_decide_eq_true h
  exact ⟨h1, h2, h3, h4, h5, h6, ⟨h7, h8, h9⟩⟩

/-- The test fibre executes these instructions with results in these destinations, whatever flags they raise. -/
def Meets (s : State) (l : List (Instr × List Nat)) : Prop :=
  ∀ p ∈ l, ∀ fl, Executes s p.1 (turn s p.1) p.2 fl

theorem meets_of {s : State} {l : List (Instr × List Nat)}
    (h : l.all (fun p => readyB s p.1 (turn s p.1) && freeB s p.1 (turn s p.1) p.2 && runsOnB (turn s p.1) p.1) = true) :
    Meets s l := by
  intro p hp fl
  have h' := List.all_eq_true.mp h p hp
  simp only [Bool.and_eq_true] at h'
  exact ⟨ready_of h'.1.1, free_of h'.1.2, .inl (runs_of h'.2)⟩

/-- `Calm` without flags, decided. -/
def calmB (s : State) (t : Turn) : Bool :=
  decide (t.fibre.killOrdered = false ∧ t.fibre.pending = [] ∧ t.fibre.request = none ∧
    (t.fibre.flags ||| 0) &&& t.fibre.enables = 0 ∧ (∀ p ∈ s.landings, p.2.fibre ≠ t.key) ∧
    ∀ c ∈ List.range 128, c < t.fibre.live ∨ (s.cell (t.fibre.gLoc c)).mark = .full)

theorem calm_of {s : State} {t : Turn} (h : calmB s t = true) : Calm s t 0 := by
  obtain ⟨h1, h2, h3, h4, h5, h6⟩ := of_decide_eq_true h
  exact ⟨h1, h2, h3, h4, h5, fun c a b => (h6 c (List.mem_range.mpr b)).resolve_left (by omega)⟩

/-- `Goes`, decided. -/
def goesB (s : State) (i : Instr) : Bool :=
  readyB s i (turn s i) && (runsOnB (turn s i) i || calmB s (turn s i))

theorem goes_of {s : State} {i : Instr} (h : goesB s i = true) : Goes s i (turn s i) := by
  simp only [goesB, Bool.and_eq_true, Bool.or_eq_true] at h
  exact ⟨ready_of h.1, h.2.imp runs_of calm_of⟩

/-- The test fibre goes on with these instructions, with these destinations free; the gang and the fibre are sound. -/
def GoesWith (s : State) (l : List (Instr × List Nat)) : Prop :=
  ∀ p ∈ l, Goes s p.1 (turn s p.1) ∧ Free s p.1 (turn s p.1) p.2 ∧ Sound s (turn s p.1)

theorem goes_with {s : State} {l : List (Instr × List Nat)}
    (h : l.all (fun p => goesB s p.1 && freeB s p.1 (turn s p.1) p.2 && aloneB s p.1 (turn s p.1)) = true) :
    GoesWith s l := by
  intro p hp
  have h' := List.all_eq_true.mp h p hp
  simp only [Bool.and_eq_true] at h'
  exact ⟨goes_of h'.1.1, free_of h'.1.2, (alone_of h'.2).sound⟩

/-- An instruction in format W with operands in g8, g4, g6 and g10, MOD6 and SUB5. -/
def w (d : BitVec 8) (mod : BitVec 6) (sub : BitVec 5) : FormW := { w0 with a := 8, b := 4, c := 6, d := d, mod := mod, sub := sub }

/-- The same without C. -/
def wb (mod : BitVec 6) (sub : BitVec 5) : FormW := { w0 with a := 8, b := 4, mod := mod, sub := sub }

/-- The registers of the test fibre in the tests below: g4 to g7 hold 5, 0, 3 and 0. -/
def s1 : State := st fib [(4, 5), (6, 3)] []

/-- IntegerArithmeticResults and IntegerDivisionResults: every instruction that they speak of, of 32 and of 64 bits. -/
theorem witness_integer_arithmetic : Meets s1
    ([Instr.iaddQ, .isubQ, .imulQ, .imulhQ, .iminQ, .imaxQ, .idivQ, .iremQ].map (fun k => (k (q2 8 4), [8])) ++
     [Instr.iaddW, .isubW, .imulW, .imulhW, .iminW, .imaxW, .idivW, .iremW].flatMap
       (fun k => [(k (w 0 2 0), [8]), (k (w 0 3 0), [8, 9])]) ++
     [Instr.iaddX, .isubX, .imulX, .imulhX, .iminX, .imaxX, .idivX, .iremX].map (fun k => (k (wb 1 0) 7, [8, 9])) ++
     [(Instr.imadW (w 10 4 0), [8]), (Instr.imadX { wb 1 0 with d := 10 } 7, [8, 9])]) :=
  meets_of (by decide +kernel)

/-- LogicalResults, ShiftResults and FieldAndByteResults. -/
theorem witness_logical : Meets s1
    ([Instr.andQ, .orQ, .xorQ, .andnQ, .notQ, .iabsQ, .popcQ, .clzQ, .brevQ].map (fun k => (k (q2 8 4), [8])) ++
     [Instr.andW, .orW, .xorW, .andnW, .shlW, .shrW, .sarW, .rotW].flatMap
       (fun k => [(k (w 0 0 0), [8]), (k (w 0 1 0), [8, 9])]) ++
     [Instr.notW, .iabsW, .popcW, .clzW, .brevW].map (fun k => (k (wb 1 0), [8, 9])) ++
     [Instr.andX, .orX, .xorX, .andnX].map (fun k => (k (wb 1 0) 7, [8, 9])) ++
     [Instr.shlQi, .shrQi, .sarQi, .rotQi].flatMap (fun k => [(k (qi 8 0), [8]), (k (qi 8 31), [8])]) ++
     [(Instr.bfxW (w 0 1 0), [8, 9]), (.bfxX (wb 2 0) 0x0408, [8]), (.bfiW (w 10 1 0), [8, 9]),
      (.bfiX { wb 0 0 with d := 10 } 7, [8]), (.prm8W (w 10 0 0), [8]), (.prm8X { wb 0 0 with d := 10 } 7, [8])]) :=
  meets_of (by decide +kernel)

/-- LogicalResults, ShiftResults, FieldAndByteResults, MoveResults, PackedIntegerResults, PredicateResults and
RefusedInstructionsPerformTheirEffect: a lane that issues an ill-formed instruction. -/
theorem witness_ill_formed :
    ∀ i ∈ [Instr.andW (w 0 2 0), .iabsW (wb 2 0), .shlQi (qi 8 32), .shrW (w 0 4 0), .bfiW (w 10 2 0), .prm8W (w 10 1 0),
        .moviWi { wi0 with mod := 2 }, .leaW (w 0 0 0), .sel (w 10 2 0), .hadd2W (w 0 1 0), .icmpW { w 0 0 0 with a := 0xD0 },
        .plog (w 1 0 7), .p2g (q2 8 1), .g2p (q2 1 4)],
      i.wellFormed = false ∧ Alone s1 i (turn s1 i) := by
  intro i hi
  have h := List.all_eq_true.mp (show List.all _ (fun i => !i.wellFormed && aloneB s1 i (turn s1 i)) = true by decide +kernel) i hi
  simp only [Bool.and_eq_true, Bool.not_eq_true'] at h
  exact ⟨h.1, alone_of h.2⟩

/-- MoveResults, PackedIntegerResults and PredicateResults. -/
theorem witness_moves : Meets s1
    [(.movQ (q2 8 4), [8]), (.movW (wb 1 0), [8, 9]), (.moviQi (qi 8 511), [8]),
     (.moviWi { wi0 with a := 8, mod := 1, sub := 1 }, [8, 9]), (.moviX { w0 with a := 8, mod := 1, sub := 1 } 7, [8, 9]),
     (.leaW (w 0 1 0), [8, 9]), (.leaX (wb 1 0) 7, [8, 9]), (.sel (w 10 1 0), [8, 9]), (.hadd2Q (q2 8 4), [8]),
     (.hadd2W (w 0 6 0), [8]), (.hmnx2Q (q2 8 4), [8]), (.hmnx2W (w 0 10 0), [8]), (.hmaxd2 (w 10 2 0), [8, 10]),
     (.icmpW (w 0 2 5), [8]), (.icmpX { wb 7 0 with a := 0xD1 } 7, [0xD1]), (.fcmpW (w 0 13 7), [8]),
     (.fcmpX (wb 11 0) 7, [8]), (.plog (w 10 0 11), [8]), (.pnot (q2 8 4), [8]), (.p2g (q2 8 0), [8]),
     (.g2p (q2 0 4), [0xD1, 0xD2, 0xD3, 0xD4, 0xD5, 0xD6, 0xD7])] :=
  meets_of (by decide +kernel)

/-- FloatArithmeticResults, SpecialFunctionResults, FloatSelectionResults and PackedFloatResults. -/
theorem witness_float : Meets s1
    ([Instr.faddQ, .fsubQ, .fmulQ, .fdivQ, .fsqrtQ, .frcpQ, .frsqQ, .fexp2Q, .flog2Q, .fsinQ, .fcosQ, .ftanhQ, .fminQ, .fmaxQ,
      .fmovQ, .frndQ, .fclassQ, .fscaleQ, .hfadd2Q, .hfmul2Q].map (fun k => (k (q2 8 4), [8])) ++
     [Instr.faddW, .fsubW, .fmulW, .fdivW, .fscaleW, .hfadd2W, .hfmul2W].map
       (fun k => (k (w 0 0x21 0), [8])) ++
     [Instr.fminW, .fmaxW].map (fun k => (k (w 0 4 0), [8])) ++
     [Instr.fsqrtW, .frcpW, .frsqW, .fexp2W, .flog2W, .fsinW, .fcosW, .ftanhW, .fmovW, .frndW, .fclassW].map
       (fun k => (k (wb 1 0), [8])) ++
     [Instr.faddX, .fsubX, .fmulX, .fdivX, .fminX, .fmaxX, .fscaleX].map (fun k => (k (wb 0 0) 7, [8])) ++
     [(.fmaW (w 10 4 0), [8]), (.fmaX { wb 0 0 with d := 10 } 7, [8]), (.hfma2 (w 10 1 0), [8]),
      (.dot4f8 (w 10 0x10 4), [8]), (.dot8f4 (w 10 0 3), [8])]) :=
  meets_of (by decide +kernel)

/-- ConversionResults: QPACK reads 32 registers from g32 and QUNPK 4 of them. -/
theorem witness_convert : Meets s1
    [(.cvt (wb 0x23 0), [8, 9]), (.cvtpk (w 0 0x10 3), [8]),
     (.qpack { w0 with a := 8, b := 32, d := 20, mod := 0x18, sub := 3 }, [8, 9, 10, 11, 20]),
     (.qunpk { w0 with a := 32, b := 8, c := 20, mod := 0xD, sub := 2 }, upto 32 32), (.scalex (wb 0x18 3), [8]),
     (.scalex (wb 0xD 2), [8])] :=
  meets_of (by decide +kernel)

/-! ### Witnesses: rounding, steps, encodings, storage -/

/-- RoundingChoosesANeighbour: 5/4 in quanta of 1/2, in the mode of each number, and the greatest finite FP8 code. -/
theorem witness_rounding :
    (∀ mode < 5, roundUp mode 0x00042021 false (cutAt 5 (-2) (-1)).1 (cutAt 5 (-2) (-1)).2.1 (cutAt 5 (-2) (-1)).2.2 false =
      decide (mode = 2 ∨ mode = 4)) ∧
    0x7E % 2 ^ ((floatFmt 9).m + (floatFmt 9).eb) ≤ (floatFmt 9).most ∧
    0x7E < 2 ^ ((floatFmt 9).m + (floatFmt 9).eb + 1) := by decide +kernel

/-- FloatOperationsAreExact: 3 ÷ 2 leaves nothing over, 1 ÷ 3 does, and so does √2. -/
theorem witness_exact :
    (match (fdiv (.fin false 3 0 false) (.fin false 2 0 false)).1 with | .fin _ _ _ more => more | _ => true) = false ∧
    (match (fdiv (.fin false 1 0 false) (.fin false 3 0 false)).1 with | .fin _ _ _ more => more | _ => false) = true ∧
    (match (fsqrt (.fin false 2 0 false)).1 with | .fin _ _ _ more => more | _ => false) = true := by decide +kernel

/-- The test state with the words of `iadd.w g3, g4, g5` at its PC. -/
def stFetch : State := putPhys s1 fetchText [9, 0x90, 1, 2, 5]

/-- StepRunsTheDecodedInstruction: the bytes at the PC decode, the gang may issue and is the first that does. -/
theorem witness_step :
    let e := code1
    let p := e.place (fib.pc.current e)
    stFetch.gangs.find 1 = some gang1 ∧ stFetch.mayIssue gang1 = true ∧ stFetch.nextGang = some 1 ∧
    stFetch.codeOf 1 fib.pc.handle = some e ∧ p.2.2 % 4 = 0 ∧ p.2.2 < p.2.1 ∧
    isOk (decode (stFetch.store.phys.readBytes (p.1 + p.2.2) (min 12 (p.2.1 - p.2.2))))
      (Instr.iaddW { w0 with hdr := { pred := 0, rb := 2 }, a := 3, b := 4, c := 5 }, 2) = true := by decide +kernel

/-- EncodingsDecode and DecodedBytesAreAnEncoding: the bytes of an instruction of each length. -/
theorem witness_encoding :
    isOk (decode (encodeBytes (.iaddQ (q2 3 4)))) (Instr.iaddQ (q2 3 4), 1) = true ∧
    isOk (decode (encodeBytes (.iaddW (w 0 0 0)) ++ [1, 2])) (Instr.iaddW (w 0 0 0), 2) = true ∧
    isOk (decode (encodeBytes (.iaddX (wb 0 0) 7))) (Instr.iaddX (wb 0 0) 7, 3) = true := by decide +kernel

/-- BytesReadBack: a memory in canonical form, and a zero written into it, which leaves it as it was. -/
theorem witness_memory :
    (Memory.wf s1.store.phys = true ∧ storageOk s1 = true) ∧ s1.store.phys.writeBytes 0x50000 [0] = s1.store.phys ∧
    (s1.store.phys.writeBytes 0x50000 [1, 2]).wf = true := by decide +kernel

/-- SourcesReadTheirRegisters: g4, the pair of g4 and g5, and a special value; no register has had its last use. -/
theorem witness_sources :
    Ready s1 (.iaddW (w 0 1 0)) (turn s1 (.iaddW (w 0 1 0))) ∧
    (∀ c < 8, (fib.loc c).isSome = true ∧ ((fib.loc c).all fun l => !(s1.cell l).lastUsed) = true) :=
  ⟨ready_of (by decide +kernel), by decide +kernel⟩

/-! ### Witnesses: what comes before the effect -/

/-- A cured text in which g4 was produced by the instruction before, with a distance of 4. -/
def stCured : State :=
  { s1 with code := [(codeKey 1 1, { code1 with cured := true })]
            gangs := [(1, { gang1 with pos := 3, recent := [{ code := 4, pos := 2, distance := 4, pc := 0 }] })] }

/-- RefusedInstructionsPerformTheirEffect: HALT of a fibre that is no clerk, and a read that comes too early. -/
theorem witness_refused :
    (Alone s1 (.halt (q2 0 0)) (turn s1 (.halt (q2 0 0))) ∧ Instr.wellFormed (.halt (q2 0 0)) = true ∧
      privileged s1 (.halt (q2 0 0)) 0 = true) ∧
    (let i := Instr.iaddQ (q2 8 4)
     Alone stCured i (turn stCured i) ∧ stCured.isCured 1 fib.pc = true ∧
      (tooEarly (turn stCured i).gang i (turn stCured i).form).isSome = true) :=
  ⟨⟨alone_of (by decide +kernel), by decide +kernel⟩, alone_of (by decide +kernel), by decide +kernel⟩

/-- The test state whose g4 has this mark. -/
def stMark (m : Mark) : State :=
  { s1 with segs := [(segKey 1 0x604000, { Segment.empty with words := [(4, { held 5 with mark := m })], resident := some 0 })] }

/-- How the sources of an instruction stop it: the tag of its effect, 256 for a park, 257 otherwise. -/
def stopKind (s : State) (i : Instr) : Nat :=
  let t := turn s i
  match (t.charged s).sourceStop t.key t.fibre (t.own s) [t.form.a, t.form.b, t.form.c, t.form.d] with
  | some (.effect e) => e.tag
  | some (.park _) => 256
  | _ => 257

/-- GuardsAndSourcesComeFirst: a false guard, an orphaned source and an empty one. -/
theorem witness_guards :
    (let i := Instr.iaddQ { q2 8 4 with hdr := { pred := 1, rb := 0 } }
     Alone s1 i (turn s1 i) ∧ fib.preds.getLsbD 1 = false ∧ (turn s1 i).runsOn i) ∧
    (let i := Instr.iaddQ (q2 8 4)
     Alone (stMark .orphaned) i (turn (stMark .orphaned) i) ∧ Alone (stMark .empty) i (turn (stMark .empty) i) ∧
      stopKind (stMark .orphaned) i = 7 ∧ stopKind (stMark .empty) i = 256) :=
  ⟨⟨alone_of (by decide +kernel), by decide +kernel, runs_of (by decide +kernel)⟩,
    alone_of (by decide +kernel), alone_of (by decide +kernel), by decide +kernel, by decide +kernel⟩

/-! ### Witnesses: control, fibres and effects -/

/-- The operands that the test fibre reads for an instruction. -/
def inp (s : State) (i : Instr) : LaneIn := (turn s i).x s i

/-- The state after the reading of its operands. -/
def rd (s : State) (i : Instr) : State := (turn s i).read s i

/-- The test fibre, convened, with a handler record at word 16 of its frame and a continuation's handle in g10. -/
def s2 : State :=
  putK (st { fib with conv := some 3, hchain := 0x604020 + 64 }
    [(10, 0x600000), (11, 0x00010000), (18, 0x10), (19, 0x1001), (20, 0x0020)] [])

/-- PlainInstructionsGoOn, each clause; SAFE at the ends of its range. -/
theorem witness_plain :
    GoesWith s2 [(.nopQ (q2 0 0), []), (.nopW w0, []), (.nopX w0 7, []), (.reform (q2 0 0), []), (.pause (qi 0 255), []),
      (.safe (qi 0 0), []), (.safe (qi 0 128), []), (.disband (q2 0 0), []), (.hpop (q2 0 0), []), (.drop (q2 0 10), [])] ∧
    (let f := fibOf s2
     f.conv.isSome = true ∧ isClerk 0 = false ∧ f.hchain ≠ 0 ∧ s2.recordOk 1 f.hchain = true ∧ frameSeg f.hchain = f.fbSeg ∧
      (s2.recordAt 1 f.hchain).fbw = f.fbWord) ∧
    isOk (s2.checkHandle 1 (inp s2 (.drop (q2 0 10))).b) (0, k1) = true :=
  ⟨goes_with (by decide +kernel), by decide +kernel, by decide +kernel⟩

/-- A fibre whose g4 and g5 name entry 16. -/
def s3 : State := st fib [(4, 16), (5, 0x1001)] []

/-- BranchesGoToTheirTargets, and CallsOpenTheirWindow within the segment with the widest slide. -/
theorem witness_branch :
    GoesWith s3 [(.braQb { hdr := h0, off := 4, spare := false }, []), (.braWi { wi0 with imm := 4 }, []), (.jmpi (q2 0 4), []),
      (.call { wi0 with sub := 15 }, [118, 119]), (.calli { w0 with b := 4, sub := 1 }, [6, 7])] ∧
    s3.listedEntry 1 (inp s3 (.jmpi (q2 0 4))).b = true ∧ fib.fbWord + 120 + 128 ≤ s3.frameW fib ∧
    s3.listedEntry 1 (inp s3 (.calli { w0 with b := 4, sub := 1 })).b = true ∧
    ((turn s3 (.jmpi (q2 0 4))).own s3).twin = none :=
  ⟨goes_with (by decide +kernel), by decide +kernel, by decide +kernel, by decide +kernel, by decide +kernel⟩

/-- The same fibre at word 8 of its segment, where a slide of 120 does not fit. -/
def s4 : State := st { fib with fbWord := 8 } [(4, 16), (5, 0x1001)] []

/-- CallsOpenTheirWindow: a call that hops, with room in the heap and a free segment. -/
theorem witness_hop :
    let i := Instr.call { wi0 with sub := 15 }
    GoesWith s4 [(i, [118, 119])] ∧ s4.frameW (fibOf s4) < 8 + 120 + 128 ∧
    ((rd s4 i).heapRoom 0 false).any (fun u =>
      decide (((u.writeCode 0 118 0).freeSegFor 0 1) = some 0x604400)) = true :=
  ⟨goes_with (by decide +kernel), by decide +kernel, by decide +kernel⟩

/-- A callee in the first segment at word 16, with the return pointer below it. -/
def s5 : State :=
  { st { fib with fbWord := 16 } [] [] with
    segs := [(segKey 1 0x604000, { Segment.empty with words := [(14, held 16), (15, held 0x1001)], resident := some 0 })] }

/-- The link of a callee that came across a hop. -/
def link6 : Segment :=
  { Segment.empty with next := 0x604000, slide := 16, savedFbw := 8, retpc := 0x100100000010, resident := some 0 }

/-- A callee at word 0 of the second segment, with its caller's segment at hand or away. -/
def s6 (home : Option Nat) : State :=
  { st { fib with fbSeg := 0x604400 } [] [] with
    segs := [(segKey 1 0x604000, { Segment.empty with resident := home }),
             (segKey 1 0x604400, link6)] }

/-- ReturnsCloseTheirWindow: within the segment, and across a hop. -/
theorem witness_return :
    let i := Instr.ret (qi 0 2)
    (GoesWith s5 [(i, [])] ∧
      s5.validReturn 1 (pair (s5.segWord 1 0x604000 14) (s5.segWord 1 0x604000 15)) = true) ∧
    (GoesWith (s6 (some 0)) [(i, [])] ∧ GoesWith (s6 none) [(i, [])] ∧
      (s6 none).validReturn 1 ((s6 none).seg (segKey 1 0x604400)).retpc = true) :=
  ⟨⟨goes_with (by decide +kernel), by decide +kernel⟩, goes_with (by decide +kernel), goes_with (by decide +kernel),
    by decide +kernel⟩

/-- A fibre whose OF is set. -/
def s7 : State := st { fib with fsr := fib.fsr ||| 4 } [] []

/-- FibresLeaveTheirGang: TRAP with its flag clear and set, BAR, CONVENE and EXIT. -/
theorem witness_leave :
    let i := Instr.trap (qi 0 4)
    (GoesWith s1 [(i, [])] ∧ fib.flags &&& (4 : BitVec 9).setWidth 6 = 0) ∧
    (GoesWith s7 [(i, [])] ∧ (fibOf s7).flags &&& (4 : BitVec 9).setWidth 6 ≠ 0) ∧
    (GoesWith s1 [(.bar (q2 0 0), []), (.convene (qi 0 0), []), (.exit (q2 0 0), [])] ∧ s1.crewBroken fib = false ∧
      fib.conv = none ∧ s1.levelOk fib 0 = true ∧ s1.conveneConflicts 0 fib 0 = [] ∧ fib.pending = [] ∧
      fib.trapping = false ∧ fib.counted = []) :=
  ⟨⟨goes_with (by decide +kernel), by decide +kernel⟩, ⟨goes_with (by decide +kernel), by decide +kernel⟩,
    goes_with (by decide +kernel), by decide +kernel⟩

/-- RequestsAreMadeAtTheRunEnd. -/
theorem witness_requests :
    GoesWith s2 [(.perform { wi0 with hdr := { pred := 0, rb := 1 }, a := 8, b := 4, imm := 0x40 }, []),
      (.performv { wi0 with a := 8, b := 4, imm := 0x7F, mod := 1 }, []), (.yield (q2 0 0), []),
      (.resume { w0 with b := 10, c := 4 }, [])] ∧
    performable 0x40 = true ∧ performable 0x7F = true ∧ (fibOf s2).pending = [] ∧ (fibOf s2).trapping = false :=
  ⟨goes_with (by decide +kernel), by decide +kernel⟩

/-- FibresHandlersAndHandles: SPAWN with room, HINST with the least frame above its record, and KINFO of both widths. -/
theorem witness_handles :
    GoesWith s3 [(.spawn { w0 with a := 8, b := 4, c := 6, d := 7 }, [8])] ∧
    s3.listedEntry 1 (inp s3 (.spawn { w0 with a := 8, b := 4, c := 6, d := 7 })).b = true ∧
    ((rd s3 (.spawn { w0 with a := 8, b := 4, c := 6, d := 7 })).spawnFibre 0 fib 0x100100000010 0 0).isSome = true ∧
    GoesWith s2 [(.hinst { w0 with b := 4, c := 6, mod := 1, sub := 2 }, upto 8 8), (.kinfo (wb 0 0), [8]),
      (.kinfo { w0 with a := 8, b := 10, mod := 1, sub := 8 }, [8, 9])] ∧
    s2.kSlotAt 1 ((inp s2 (.kinfo { w0 with a := 8, b := 10, mod := 1, sub := 8 })).b.toNat % 2 ^ 48) = some 0 :=
  ⟨goes_with (by decide +kernel), by decide +kernel, by decide +kernel, goes_with (by decide +kernel), by decide +kernel⟩

/-- StatusAndReceiveResults. -/
theorem witness_status :
    GoesWith s1 [(.fstat { w0 with a := 8 }, [8, 9]), (.fstat { w0 with b := 4, sub := 1 }, []),
      (.fstat { w0 with a := 8, b := 4, sub := 2 }, [8]), (.fstat { w0 with b := 4, sub := 3 }, []), (.krecv (q2 8 0), [8, 9])] :=
  goes_with (by decide +kernel)

/-! ### Witnesses: memory and engines -/

/-- g4 and g5 hold the address 0x5000, g6 the offset 8, g7 the value 0x1234 and g10 an address that is not mapped. -/
def s8 : State := putPitch (st fib [(4, 0x5000), (6, 8), (7, 0x1234), (10, 0x40000000), (12, 0x100), (13, 0x1FC)] []) 0x100 [9]

/-- A load of 4 bytes from a space. -/
def ldAt (b : BitVec 8) (mod : BitVec 6) : Instr := .ldX { w0 with a := 8, b := b, mod := mod, sub := 2 } 0

/-- LoadsReadTheirSpaces: each space, the last word of FRAME, an address that does not translate, and LDQ. -/
theorem witness_loads :
    GoesWith s8 [(.ldW { w0 with a := 8, b := 4, c := 6, sub := 3 }, [8, 9]), (ldAt 4 0, [8]), (ldAt 10 0, [8]), (ldAt 12 1, [8]),
      (ldAt 12 2, [8]), (ldAt 13 3, [8]), (.ldq { w0 with a := 0xC0, b := 12, c := 6, mod := 1, sub := 2 }, [0xC0])] ∧
    ((rd s8 (ldAt 4 0)).loadGlobal 0 1 0x5000 4).isOk = true ∧ s8.translate 1 0 0x40000000 false = .fault ∧
    (turn s8 (ldAt 10 0)).runsOn (ldAt 10 0) ∧ fib.overlapsStore 0x5000 4 = false ∧ s8.atomicOn 0 1 0x5000 = none ∧
    s8.pitchRange 0 1 0x100 4 = none ∧ s8.clusterRange 0 1 0x100 4 = none ∧ s8.inM0 0 fib = false ∧
    s8.tableHeld 1 0x5000 = none ∧ s8.tableHeld 1 0x40000000 = none ∧
    (∀ l ∈ fib.frameLocs 0x1FC 4, (s8.cell l).mark = .full) :=
  ⟨goes_with (by decide +kernel), by decide +kernel, by decide +kernel, runs_of (by decide +kernel), by decide +kernel,
    by decide +kernel, by decide +kernel, by decide +kernel, by decide +kernel⟩

/-- A store of 4 bytes into a space. -/
def stAt (b : BitVec 8) (mod : BitVec 6) : Instr := .stX { w0 with b := b, d := 7, mod := mod, sub := 2 } 0

/-- The same state with a constant segment of 256 bytes at 0x30000. -/
def s9 : State := { s8 with code := [(codeKey 1 1, { code1 with const := 0x30000, klen := 260 })] }

/-- LoadsReadTheirSpaces and CrossLaneResults: the last bytes of the constant segment. -/
theorem witness_const :
    GoesWith s9 [(ldAt 12 4, [8]), (.pset { w0 with b := 12, sub := 2 }, []), (.pset { w0 with b := 6, mod := 0x20 }, [])] ∧
    0x100 + 4 ≤ (s9.constSegment fib).2 ∧ 8 + 48 ≤ (s9.constSegment fib).2 ∧
    s9.isPoisoned (lineOf ((s9.constSegment fib).1 + 0x100)) = false :=
  ⟨goes_with (by decide +kernel), by decide +kernel, by decide +kernel, by decide +kernel⟩

/-- LoadsReadTheirSpaces and StoresIntoMemory: a load and a store in M0 with no access of the fibre pending. -/
theorem witness_m0 :
    let s : State := { s8 with fibres := [(0, { fib with fsm := true })] }
    GoesWith s [(ldAt 4 0, [8]), (stAt 4 0, [])] ∧ s.inM0 0 (fibOf s) = true ∧ (fibOf s).pending = [] ∧
    (s.objectAt 1 0x5000).1 ≠ .stream :=
  ⟨goes_with (by decide +kernel), by decide +kernel⟩

/-- The state with a store that waits for the delivery of its fault at 0x5000. -/
def s10 : State :=
  { s8 with fibres := [(0, { fib with pending := [{ addr := 0x5010, data := 0, pcOff := 0, kind := 1, size := 2, reg := 0 }] })] }

/-- An object of the line at 0x5000. -/
def obj1 (k : ObjState) : CohObject :=
  { gen := 1, open_ := true, vf := 1, base := 0x5000, dim0 := 64, dim1 := 1, stride := 64, esize := 0, kind := k, owner := 0 }

/-- The state with such an object. -/
def putObj (s : State) (k : ObjState) : State := { s with coh := { s.coh with objects := [(0, obj1 k)] } }

/-- The state with a STREAM object over 0x5000. -/
def s11 : State := putObj s8 .stream

/-- A q register with one word. -/
def putQ (s : State) : State :=
  s.modUnit 0 fun u => { u with queues := [(0, { owner := some 1, places := [{ place := 0, word := some 5, neighbour := false }] })] }

/-- StoresWriteTheirSpaces and StoresIntoMemory: each space, STQ, and for GLOBAL each clause. -/
theorem witness_stores :
    GoesWith s8 [(.stW { w0 with b := 4, c := 6, d := 12, sub := 3 }, []), (stAt 12 1, []), (stAt 12 2, []), (stAt 13 3, []),
      (stAt 4 0, []), (stAt 10 0, [])] ∧
    GoesWith (putQ s8) [(.stq { w0 with b := 12, c := 6, d := 0xC0, mod := 1, sub := 2 }, [])] ∧ GoesWith s10 [(stAt 4 0, [])] ∧
    GoesWith s11 [(stAt 4 0, [])] ∧ storageOk s8 = true ∧ (fibOf s10).holdsLine 0x5000 = true ∧
    s8.translate 1 0 0x40000000 true = .fault ∧ s8.translate 1 0 0x5000 true = .ok 0x5000 ∧
    s8.atomicOn 0 1 0x5000 = none ∧ s8.doorbellOf 1 0x5000 2 = none ∧ s8.inBacking 1 0x5000 = false ∧
    s8.storeBad 0 1 0x5000 0x5000 false = none ∧ (s11.objectAt 1 0x5000).1 = .stream ∧
    s11.storeBad 0 1 0x5000 0x5000 false = none ∧ (s11.home 0x5000).waiting = [] ∧ s11.watchers 0x5000 = [] ∧
    s11.coh.homes = [] ∧ s8.inM0 0 fib = false ∧ s8.tableHeld 1 0x5000 = none ∧ s8.tableHeld 1 0x40000000 = none :=
  ⟨goes_with (by decide +kernel), goes_with (by decide +kernel), goes_with (by decide +kernel), goes_with (by decide +kernel),
    by decide +kernel⟩

/-- SynchronisationOnThePitch: in SCRATCH and through the cluster. -/
theorem witness_pitch_sync :
    GoesWith s8 [(.atom { w0 with a := 8, b := 12, c := 7, mod := 1, sub := 2 }, [8]),
      (.atom { w0 with a := 8, b := 12, c := 6, d := 14, mod := 10, sub := 31 }, [8, 9]),
      (.atomn { w0 with b := 12, c := 7, mod := 1, sub := 22 }, []), (.acq { w0 with a := 8, b := 12, mod := 2, sub := 2 }, [8]),
      (.rel { w0 with b := 12, c := 7, mod := 9, sub := 2 }, []), (.acqrel { w0 with a := 8, b := 12, c := 7, mod := 1, sub := 2 }, [8]),
      (.waita { w0 with b := 12, c := 7, mod := 1, sub := 1 }, [])] ∧
    0x100 + 8 ≤ s8.scratchSize 0 ∧ s8.pitchRange 0 1 0x100 8 = none ∧ s8.clusterRange 0 1 0x100 8 = none ∧
    waitCond 1 9 0x1234 = true :=
  ⟨goes_with (by decide +kernel), by decide +kernel⟩

/-- SynchronisationOnLines: ACQ below and at the cluster scope, REL, and an atomic on a line that no core holds. -/
theorem witness_line_sync :
    GoesWith s8 [(.acq { w0 with a := 8, b := 4, mod := 8, sub := 2 }, [8]), (.acq { w0 with a := 8, b := 4, mod := 16, sub := 3 }, [8, 9]),
      (.rel { w0 with b := 4, c := 7, mod := 16, sub := 2 }, []), (.atom { w0 with a := 8, b := 4, c := 7, mod := 0, sub := 2 }, [8])] ∧
    isOk (s8.syncPlace 0 fib (.acq 0) 0x5000) 0x5000 = true ∧ isOk (s8.syncPlace 0 fib .rel 0x5000) 0x5000 = true ∧
    isOk (s8.syncPlace 0 fib (.atom 0) 0x5000) 0x5000 = true ∧ (s8.home 0x5000).tagState = .untagged ∧
    isHostLine (lineOf 0x5000) = false ∧ (s8.objectAt 1 0x5000).1 = .shared ∧ s8.watchers 0x5000 = [] ∧
    s8.homeFree 0x5000 = true ∧ s8.l1 0 0x5000 = none ∧ storageOk s8 = true ∧ s8.atomUnderWay 0 = none ∧
    s8.tableHeld 1 0x5000 = none ∧ s8.inBacking 1 0x5000 = false ∧ (s8.home 0x5000).atomicWaits = false ∧
    s8.coh.ops = [] ∧ s8.coh.l1 = [] :=
  ⟨goes_with (by decide +kernel), by decide +kernel⟩

/-- CacheControl. -/
theorem witness_cache :
    GoesWith s8 [(.fence (qi 0 1), []), (.fence (qi 0 5), []), (.pref { w0 with b := 4, c := 6 }, []), (.dlease { w0 with b := 4, c := 6 }, []),
      (.wb { w0 with b := 4, c := 6, mod := 16 }, []), (.inv { w0 with b := 4, c := 6, mod := 40 }, [])] ∧
    s8.coreHostWrites 0 = [] ∧ s8.coreWrites 0 = [] ∧ s8.atomUnderWay 0 = none ∧ s8.coh.l1 = [] ∧ fib.counter 4 < 255 :=
  ⟨goes_with (by decide +kernel), by decide +kernel⟩

/-- An object descriptor at 0x5000: the line at 0x8000, in this state. -/
def s12 (state : Byte) : State :=
  putPhys s8 0x5000 [0, 0x80, 0, 0, 0, 0, 0, 0, 64, 0, 0, 0, 1, 0, 0, 0, 64, 0, 0, 0, 0, 0, 0, 0, 0, state]

/-- A fibre with the handle of that object in g8, and the change to RONLY in g6. -/
def s13 : State := putObj (st fib [(8, 0x10000), (6, 2)] []) .shared

/-- ObjectsOpenAndClose: a sound descriptor, one with a state that is not listed, and a change of an object that is free. -/
theorem witness_objects :
    (let i := Instr.objopen { w0 with a := 8, b := 4 }
     GoesWith (s12 2) [(i, [8])] ∧ GoesWith (s12 4) [(i, [8])] ∧ ((rd (s12 2) i).loadGlobal 0 1 0x5000 32).isOk = true ∧
      (s12 2).objectErrors (CohObject.ofBytes 1 ((s12 2).store.phys.readBytes 0x5000 32)) 2 = [] ∧
      (s12 4).objectErrors (CohObject.ofBytes 1 ((s12 4).store.phys.readBytes 0x5000 32)) 4 = [5] ∧
      (List.range 8192).find? (s12 2).objectFree = some 0 ∧ (s12 2).tableHeld 1 0x5000 = none) ∧
    GoesWith s13 [(.objset { w0 with b := 8, c := 6 }, []), (.objclose (q2 0 8), [])] ∧
    isOk (s13.objectOf 1 0x10000) (0, obj1 .shared) = true ∧ s13.coh.l1 = [] ∧
    (∀ l ∈ s13.objectLines (obj1 .shared), (s13.home l).exp ≤ s13.gtc) :=
  ⟨⟨goes_with (by decide +kernel), goes_with (by decide +kernel), by decide +kernel, by decide +kernel, by decide +kernel,
    by decide +kernel⟩, goes_with (by decide +kernel), by decide +kernel, by decide +kernel, by decide +kernel⟩

/-! ### Witnesses: engines, counters, queues, lanes, matrices and the system -/

/-- A copy block at SCRATCH 0x100 (one row of 16 bytes from 0x240 to 0x280, and a completion word at 0x5000), and a block of zeros
at 0x140. g4 holds 0x100, g6 0x140, g10 the handle of the continuation in K slot 0, g12 to g15 two addresses and g16 a length. -/
def s14 : State :=
  putK (putPitch (st fib [(4, 0x100), (6, 0x140), (10, 0x600000), (11, 0x10000), (12, 0x280), (14, 0x240), (16, 16)] []) 0x100
    [0x80, 2, 0, 0, 0, 0, 0, 0, 0x40, 2, 0, 0, 0, 0, 0, 0, 1, 0, 0, 0, 16, 0, 0, 0, 0, 0, 0, 0, 0, 0, 0, 0, 0, 0, 0, 0, 0, 0, 0, 0,
     1, 1, 0, 0, 0, 0, 0, 0, 0, 0x50])

/-- The bytes of a block at an address of SCRATCH, as the instruction reads them. -/
def blockOf (s : State) (a : Nat) : List Byte := s.store.pitch.readBytes (scratchKey 0 a) 64

/-- EngineInstructionsIssue. -/
theorem witness_engines :
    let cpy := Instr.cpy { w0 with b := 12, c := 14, d := 16, mod := 9 }
    let rect := Instr.cpy2d { w0 with b := 4, mod := 1 }
    let word := Instr.cpyw { w0 with b := 4, mod := 17 }
    let gath := Instr.gath { w0 with b := 6, mod := 1 }
    let post := Instr.npost { w0 with b := 6, mod := 1 }
    let j := CopyJob.ofBytes (blockOf s14 0x100) (some 2)
    let q := NetRequest.ofBytes (blockOf s14 0x140)
    GoesWith s14 [(cpy, []), (rect, []), (word, []), (gath, []), (.scat { w0 with b := 6, mod := 1 }, []),
      (post, []), (.ksend { w0 with b := 10, c := 6, d := 8 }, [])] ∧
    (∀ cls < 8, fib.counter cls < 255) ∧ fib.pending = [] ∧
    (((inp s14 rect).readBlock (rd s14 rect) 1 0x100).isOk = true ∧ j.illegal = false ∧
      ((inp s14 word).engineRanges (rd s14 word) (j.ranges ++ [(0, 0x5000, 8, true)])).isOk = true) ∧
    ((GsJob.ofBytes false (blockOf s14 0x140)).illegal = false ∧
      ((inp s14 gath).engineRanges (rd s14 gath) (GsJob.ofBytes false (blockOf s14 0x140)).ranges).isOk = true) ∧
    (q.illegal = false ∧ q.op ≠ 2 ∧ ((inp s14 post).readBlock ((rd s14 post).flushLines 0 1 []).2 1 0x140).isOk = true) ∧
    s14.atomUnderWay 0 = none ∧
    isOk (s14.checkHandle 1 (inp s14 (.ksend { w0 with b := 10, c := 6, d := 8 })).b) (0, k1) = true :=
  ⟨goes_with (by decide +kernel), by decide +kernel⟩

/-- OperationsAreCountedInOrder: a fibre with two operations of a class, the second of which is done first. -/
theorem witness_counted :
    let op := fun (n : Nat) (done : Bool) => ({ cls := 0, op := n, num := n, done := done, stopped := none } : Counted)
    s1.fibres.find 0 = some fib ∧ (dropDone [op 1 false, op 2 true] []).map Counted.op = [1, 2] ∧
    (dropDone [op 1 true, op 2 true] []).map Counted.op = [] := by decide +kernel

/-- The test fibre with two copies that run. -/
def s15 : State :=
  putQ { s14 with fibres := [(0, { fib with counted := [1, 2].map fun n => { cls := 0, op := n, num := n, done := false, stopped := none } })] }

/-- CountersAndStatusAreReported: WAITC that goes on and one that waits, and the reports. -/
theorem witness_counters :
    let go := Instr.waitc { wi0 with imm := 2 }
    let wait := Instr.waitc { wi0 with imm := 1 }
    GoesWith s15 [(go, []), (wait, []), (.cntrd (qi 8 0), [8]), (.cntrd (qi 8 4), [8]), (.qstat (q2 8 0xC0), [8]),
      (.qstat (q2 8 0xCF), [8]), (.npoll { w0 with a := 8, b := 4, mod := 1 }, [8, 9]), (.mstat (qi 8 3), [8]),
      (.mbar (qi 0 7), [])] ∧
    (fibOf s15).counter 0 = 2 ∧ (fibOf s15).reached 0 1 = none ∧ (rd s15 wait).hasHandler (fibOf s15) 2 = false ∧
    s15.contextPriv 3 0 = false ∧ (s15.context 0 3).queue.length < 16 ∧ s15.crewBroken (fibOf s15) = false ∧
    ((fibOf s15).crew.bind s15.sched.crews.find).isSome = true ∧ s15.atomUnderWay 0 = none ∧
    (let t := turn s15 (.mbar (qi 0 7))
     let u := (t.read s15 (.mbar (qi 0 7))).fresh.2
     let part := u.fencePart 0 1 2 ((inp s15 (.mbar (qi 0 7))).ordOp u .flush 0 0 0 2 0 0)
     part.2.writesPending part.1.writes = false) :=
  ⟨goes_with (by decide +kernel), by decide +kernel⟩

/-- A fibre that sends to q1 of its core, which has no room left. -/
def s16 : State :=
  (st fib [(4, 7), (6, 2)] []).modUnit 0 fun u =>
    { u with queues := [(1, { owner := some 1, places := (List.range 64).map fun k => { place := k, word := some 0, neighbour := false } })] }

/-- QueuesTakeWhatIsSent: into q1 with and without room, and two words into q0 and q15. -/
theorem witness_queues :
    let i := Instr.qsend { w0 with b := 4, c := 6, d := 8, mod := 8 }
    let j := Instr.qsend { w0 with b := 4, c := 6, d := 8, mod := 8, sub := 1 }
    let s := st fib [(4, 7), (6, 2)] []
    let s' := st fib [(4, 7), (6, 0x8001)] []
    (GoesWith s [(i, [])] ∧ GoesWith s16 [(i, [])] ∧ GoesWith s' [(j, [])]) ∧
    qsendBad 2 0 false false = false ∧ consumersLeft 2 0 = [1] ∧ (rd s i).queueHasRoom 0 1 1 = true ∧
    (rd s16 i).queueHasRoom 0 1 1 = false ∧ ((rd s16 i).offerAll 0 1 0 7 false [1]).1 = [1] ∧
    qsendBad 0x8001 0 true false = false ∧ consumersLeft 0x8001 0 = [0, 15] ∧ (rd s' j).queueHasRoom 0 15 2 = true ∧
    (∀ c < 16, (rd s16 i).queueForeign 0 1 c = false) ∧ (rd s i).hasRoom 0 (consumerOf 0 0 1) 1 = true ∧
    (rd s16 i).hasRoom 0 (consumerOf 0 0 1) 1 = false ∧ (rd s i).writesPending [] = false :=
  ⟨⟨goes_with (by decide +kernel), goes_with (by decide +kernel), goes_with (by decide +kernel)⟩, by decide +kernel⟩

/-- QueuesTakeWhatIsSent: a copy block in memory goes to the copy engine, and the value to q0 beside it. -/
theorem witness_copy_sent :
    let i := Instr.qsend { w0 with b := 4, c := 6, d := 8, mod := 8, sub := 1 }
    let s := putPhys (st fib [(4, 0x5000), (6, 0x40001)] []) 0x5000 (blockOf s14 0x100)
    GoesWith s [(i, [])] ∧ qsendBad 0x40001 0 true false = false ∧ consumersLeft 0x40001 0 = [0, 18] ∧
    ((inp s i).offerCopy (rd s i) (inp s i).b).isOk = true ∧
    (((after s i).unit 0).copyQueue.length, ((after s i).queueReg 0 0).places.length) = (1, 2) :=
  ⟨goes_with (by decide +kernel), by decide +kernel⟩

/-- A convened gang of 16 lanes of which this fibre is lane 0, with permutation slot 2 filled. -/
def s17 : State :=
  { (st { fib with conv := some 3 } [(4, 7), (6, 0)] []).modUnit 0 fun u => { u with perms := [(2, { width := 16, owner := 1, image := 0 })] } with
    convened := [(3, { core := 0, crew := 1, level := 0, width := 16, members := [(0, 0)] })] }

/-- CrossLaneResults: every cross-lane instruction on one member of a convened gang. -/
theorem witness_lanes : GoesWith s17
    [(.perm { w0 with a := 8, b := 4, mod := 2, sub := 2 }, [8]), (.perm { w0 with a := 8, b := 4, mod := 3, sub := 2 }, [8, 9]),
     (.shfl (w 0 2 0), [8]), (.shfl (w 0 3 3), [8, 9]), (.bcast (w 0 2 0), [8]), (.reduce (wb 2 0), [8]), (.reduce (wb 13 2), [8]),
     (.scan (wb 3 5), [8, 9]), (.vote (wb 2 0), [8]), (.vote (wb 2 2), [8])] ∧
    s17.crewBroken (fibOf s17) = false ∧ s17.convened.find 3 = some { core := 0, crew := 1, level := 0, width := 16, members := [(0, 0)] } :=
  ⟨goes_with (by decide +kernel), by decide +kernel, by decide +kernel⟩

/-- NetworkAndTrees: 64 lanes under an image of ones, and a sum and a prefix over 4 lanes that wrap. -/
theorem witness_network :
    networkLane 64 (2 ^ 300 - 1) 63 < 64 ∧ treeOf (combineOp 0 0 0) (fun i => 100 + i) 0 2 = (150, 0) ∧
    prefixFrom (combineOp 0 0 0) (fun i => 100 + i) 2 none 0 3 = (47, 0) := by decide +kernel

/-- Descriptors in g4 to g7 (rows of 64 bytes at 0 and at 0x4000), K = 32 in g8, a tile with rows of 512 bytes in g10, and
SEED 1. -/
def s18 : State :=
  st { fib with fsr := 0x0000000100000000 } [(5, 4), (6, 0x4000), (7, 4), (8, 32), (11, 32)] []

/-- A gang of 64 lanes whose lane 0 gives B of an MMA from registers 32 to 47. -/
def s18r : State :=
  { st { fib with conv := some 3 } [(4, 32), (5, 0x20000000), (6, 0x4000), (7, 4), (8, 32)] [] with
    convened := [(3, { core := 0, crew := 1, level := 0, width := 64, members := [(0, 0)] })] }

/-- An MMA in FP16 on context 0, with every quarter. -/
def mma1 : FormW := { w0 with b := 4, c := 6, d := 8, mod := 12, sub := 15 }

/-- MatrixCommandsAreAccepted: MMA with both operands in the pitch and with one in registers, MZERO, MDRAIN and MACC. -/
theorem witness_matrix :
    let a : DWord := 0x400000000
    let b : DWord := 0x400004000
    GoesWith s18 [(.mma mma1, []), (.mzero (qi 0 0x3C), []), (.mzero (qi 0 0x3F), []), (.mdrain { w0 with a := 4, b := 10, mod := 0x3D, sub := 15 }, []),
      (.macc { w0 with b := 10, mod := 13, sub := 1 }, [])] ∧
    GoesWith s18r [(.mma mma1, [])] ∧
    ((inp s18 (.mma mma1)).mmaDescs (rd s18 (.mma mma1)) mma1 = (some a, some b) ∧ s18.mmaBad 0 1 12 a b 32 = none ∧
      (Desc.ofWord a).kind ≠ 2 ∧ (inp s18 (.mma mma1)).fromRegisters mma1 = false) ∧
    (let t := turn s18r (.mma mma1)
     (inp s18r (.mma mma1)).fromRegisters mma1 = true ∧ ((inp s18r (.mma mma1)).tileRegs mma1 false).isSome = true ∧
      (t.before s18r (.mma mma1)).sourceStop 0 (fibOf s18r) (t.own s18r)
        ((upto 32 16).map fun c => { code := BitVec.ofNat 8 c, t := false, l := false, slot := .src false }) = none) ∧
    s18.drainBad 0 1 13 15 (.ofWord 0x2000000000) false = none ∧ s18.drainBad 0 1 13 1 (.ofWord 0x2000000000) true = none ∧
    s18.contextPriv 0 0 = false ∧ s18.contextPriv 3 0 = false ∧ (s18.context 0 3).queue.length < 16 ∧
    (s18.context 0 3).poison = false ∧ fib.counter 2 < 255 :=
  ⟨goes_with (by decide +kernel), goes_with (by decide +kernel), by decide +kernel⟩

/-- A matrix command of the test fibre for context 3. -/
def cmdOf (cmd : MtxCommand) : EngineOp :=
  { core := 0, fibre := 0, vf := 1, cls := 2, issued := 0, pages := [], job := .mtx 3 cmd, writes := [], release := none,
    hostWrites := [] }

/-- An accumulator context with an element at each end and a command at the head of its queue. -/
def s19 (cmd : MtxCommand) : State :=
  { s1 with acc := [(3, { AccContext.reset with elems := [(0, .fin 5), (16383, .fin 7)], queue := [9] })]
            engine := [(9, cmdOf cmd)] }

/-- MatrixCommandsExecute: MZERO of the first quarter clears element 0 and keeps the last one. -/
theorem witness_matrix_run :
    let s := s19 (.zero 1)
    let t := after s (.mtxCommandComplete 0 3)
    (s.context 0 3).queue = [9] ∧ s.engine.find 9 = some (cmdOf (.zero 1)) ∧
    (t.context 0 3).queue = [] ∧ (t.context 0 3).elems.get 0 (.fin 0) = .fin 0 ∧
    (t.context 0 3).elems.get 16383 (.fin 0) = .fin 7 := by decide +kernel

/-- The clerk of core 0 issues, with these registers. -/
def stClerk (g : List (Nat × Word)) : State :=
  let f : Fibre := { Fibre.clerk 0 with state := .issuing, pc := fetchPc, fbSeg := 0x604000 }
  { st fib [] [] with
    fibres := [(4095, f)]
    gangs := [(1, { gang1 with tenant := 0, launch := 0, members := [(0, 4095)] })]
    segs := [(segKey 0 0x604000, { Segment.empty with words := g.map fun p => (p.1, held p.2), resident := some 0 })]
    code := [(codeKey 0 1, code1)] }

/-- The turn of the clerk. -/
def turnC (s : State) (i : Instr) : Turn :=
  { gang := s.gangs.get 1 gang1, lane := 0, index := 4095, fibre := s.fibres.get 4095 fib, form := i.form.getD (formQ (q2 0 0) .none .none) }

/-- The clerk goes on with these instructions, with these destinations free. -/
def ClerkGoes (s : State) (l : List (Instr × List Nat)) : Prop :=
  ∀ p ∈ l, Goes s p.1 (turnC s p.1) ∧ Free s p.1 (turnC s p.1) p.2

theorem clerk_goes {s : State} {l : List (Instr × List Nat)}
    (h : l.all (fun p => readyB s p.1 (turnC s p.1) && runsOnB (turnC s p.1) p.1 && freeB s p.1 (turnC s p.1) p.2) = true) :
    ClerkGoes s l := by
  intro p hp
  have h' := List.all_eq_true.mp h p hp
  simp only [Bool.and_eq_true] at h'
  exact ⟨⟨ready_of h'.1.1, .inl (runs_of h'.1.2)⟩, free_of h'.2⟩

/-- SystemRegistersAndMarks and ClerkInstructions: the clerk's own, and those of a fibre. -/
theorem witness_system :
    let swr := fun (off : BitVec 24) => (Instr.swr { wi0 with b := 4, imm := off }, ([] : List Nat))
    ClerkGoes (stClerk [(4, 5)]) [(.srd { wi0 with a := 8, b := 0xD8, imm := 0x100 }, [8, 9]), swr 0x100, swr 0x120, swr 0x140,
      swr 0x148, swr 0x138, swr 0x158, swr 0x1E00, (.kill { w0 with a := 8, b := 4, c := 6 }, [8]), (.sret { w0 with b := 4, c := 6, d := 8 }, []),
      (.codex { w0 with a := 8, b := 6 }, [8, 9])] ∧
    GoesWith s1 [(.tmark { wi0 with a := 4, b := 6, imm := 255 }, []), (.trd { wi0 with a := 8, b := 10, imm := 0xA00002 }, [8, 9]),
      (.ifence (q2 0 0), []), (.kill { w0 with a := 8, b := 6, c := 6, sub := 1 }, [8])] ∧
    trdRange 5 2 = true ∧ (stClerk [(4, 5)]).coh.translations = [] ∧ ((stClerk [(4, 5)]).unit 0).xlinvBegun = false ∧
    (stClerk [(4, 5)]).holders 0 0 true = [] ∧ mgmtFields 0x1E00 ≠ [] ∧ (stClerk [(4, 5)]).suspendedBy 0 5 = none ∧
    isClerk 4095 = true :=
  ⟨clerk_goes (by decide +kernel), goes_with (by decide +kernel), by decide +kernel⟩

/-! ### Witnesses: effects and events -/

/-- An effect of a tag at the fibre's PC. -/
def effOf (tag : Nat) : Effect := { tag := tag, payload := 0x55, addr := 0, info := 0, pc := fetchPc, result := 0xFF, wide := false }

/-- A fibre in the second segment that performs an effect; a handler for the tags 0x40 to 0x4F stands in its caller's frame. -/
def stEff (tag hchain : Nat) : State :=
  let f : Fibre := { fib with state := .performing, effect := some (effOf tag), fbSeg := 0x604400, hchain := hchain }
  { st f [] [] with
    segs := [(segKey 1 0x604000, { Segment.empty with words := [(18, held 16), (19, held 0x1001), (20, held 0x4F0040), (21, held 0x100000)],
                                                      resident := some 0 }),
             (segKey 1 0x604400, { link6 with savedFbw := 0 })]
    gangs := [] }

/-- The record of that handler. -/
def recE : HandlerRecord := { prev := 0, handler := 0x100100000010, tagLo := 0x40, tagHi := 0x4F, fbw := 0, gslide := 16 }

/-- EffectsAreTaken, a handler: the continuation is captured in slot 0 and the handler entered with its handle in g0 and g1. -/
theorem witness_effect_handled :
    let s := stEff 0x4F 0x604060
    let f := fibOf s
    (f.onlyStopped = true ∧ s.findHandler 0 f (effOf 0x4F) = .record 0x604060 recE ∧
      (s.seg (segKey 1 (frameSeg 0x604060))).resident = some 0 ∧ s.freeK 1 = some 0 ∧ s.fibreSegs f = [0x604400, 0x604000] ∧
      s.listedEntry 1 recE.handler = true) ∧
    (let t := after s (.performEffect 0 0)
     (fibOf t).state = .stalled ∧ (fibOf t).fbSeg = 0x604000 ∧ (fibOf t).pc.off = 16 ∧
      (t.kobjs.find (kKey 1 0)).map KObject.tag = some 0x4F ∧
      (List.range 4).map (fun k => (t.cell (.frame (segKey 1 0x604000) k)).val) = [0x600000, 0x10000, 0x55, 0]) := by
  decide +kernel

/-- EffectsAreTaken, without a handler: YIELD, a tag for the clerk, and a tag that kills the crew; a link that is no record's
address; and no room in the mailbox. -/
theorem witness_effect_unhandled :
    ((stEff 1 0x604060).findHandler 0 (fibOf (stEff 1 0x604060)) (effOf 1) = .none ∧
      (fibOf (after (stEff 1 0x604060) (.performEffect 0 0))).state = .stalled) ∧
    ((stEff 0x50 0x604060).findHandler 0 (fibOf (stEff 0x50 0x604060)) (effOf 0x50) = .none ∧
      (fibOf (after (stEff 0x50 0x604060) (.performEffect 0 0))).state = .suspended) ∧
    ((stEff 12 0).findHandler 0 (fibOf (stEff 12 0)) (effOf 12) = .none ∧ (stEff 12 0).mailboxRoom 0 = true ∧
      (after (stEff 12 0) (.performEffect 0 0)).fibres = []) ∧
    ((stEff 0x40 0x604041).findHandler 0 (fibOf (stEff 0x40 0x604041)) (effOf 0x40) = .bad 0x604041 ∧
      (((after (stEff 0x40 0x604041) (.performEffect 0 0)).unit 0).mailbox.map fun p => (p.1.tag, p.1.addr)) = [(12, 0x604041)]) := by
  decide +kernel

/-- A fibre whose search meets records at the words from 16 on of its caller's frame: an end that never comes where the record
names itself, and a segment that is away. -/
def stChain (prev : Word) (home : Option Nat) : State :=
  let s := stEff 0x50 0x604060
  { s with segs := [(segKey 1 0x604000,
      { Segment.empty with words := [(16, held prev), (18, held 16), (19, held 0x1001), (20, held 0x4F0040)], resident := home }),
    (segKey 1 0x604400, { link6 with savedFbw := 0 })] }

/-- The clerk of core 0 performs an effect, with this head of its chain. -/
def stClerkEff (tag hchain : Nat) : State :=
  { st fib [] [] with
    fibres := [(4095, { Fibre.clerk 0 with state := .performing, effect := some (effOf tag), hchain := hchain })], gangs := [] }

/-- The same state with the mailbox of core 0 full. -/
def fullBox (s : State) : State := s.modUnit 0 fun u => { u with mailbox := List.replicate 32 (k1.record, true) }

/-- EffectsAreTaken: a record's segment that is away, a search without an end, a clerk's effect and its YIELD along a chain that is
bad, and what waits for a mailbox slot. -/
theorem witness_effect_rest :
    (let s := stChain 0 none
     s.findHandler 0 (fibOf s) (effOf 0x50) = .away 0x604060 ∧ (s.heapRoom 0 false).isSome = true ∧
      (let t := after s (.performEffect 0 0)
       (t.seg (segKey 1 0x604000)).resident = some 0 ∧
        (fibOf t).effect = some { effOf 0x50 with cursor := some 0x604060 })) ∧
    (let s := stChain 0x604060 (some 0)
     s.findHandler 0 (fibOf s) (effOf 0x50) = .endless ∧ (fibOf (after s (.performEffect 0 0))).state = .performing) ∧
    (((after (stClerkEff 14 0) (.performEffect 0 4095)).unit 0).stopped = true ∧
      (stClerkEff 1 5).findHandler 0 ((stClerkEff 1 5).fibres.get 4095 fib) (effOf 1) = .bad 5 ∧
      ((after (stClerkEff 1 5) (.performEffect 0 4095)).unit 0).stopped = true ∧
      (after (stClerkEff 1 5) (.performEffect 0 4095)).mgmtF 0xE000 47 32 = 12) ∧
    (let s := fullBox (stEff 12 0)
     s.mailboxRoom 0 = false ∧ ((fibOf (after s (.performEffect 0 0))).notice.map EffectRecord.tag) = some 12) ∧
    (let s := fullBox (stEff 0x50 0)
     s.mailboxRoom 0 = false ∧ (fibOf (after s (.performEffect 0 0))).state = .performing) := by
  decide +kernel

/-- A stall of one fibre. -/
def stall1 (off : Word) (m : Filed) : Stall :=
  { key := { tenant := 1, launch := 1, pc := { fetchPc with off := off } }, members := [m], demoted := false, spins := 0, assigned := 0 }

/-- A fibre that is filed alone. -/
def filed1 (age : Nat) : Filed := { lanes := [(0, 0)], held := false, age := age, order := 0 }

/-- The test fibre filed in a stall, and no gang. -/
def stCore : State :=
  let s := st { fib with state := .stalled } [] []
  { s with gangs := [], cores := [(0, { s.unit 0 with stalls := [stall1 0 (filed1 9)] })] }

/-- CoreEventsTakeEffect: the draw at the last gang width, a PAUSE that ends, and a COLD fibre with its segment at hand. -/
theorem witness_core_issue :
    (stCore.freeRange 0 1 (stCore.widthOf 1) = some 0 ∧ stCore.clerkReady 0 = none ∧ stCore.coreF 0 0x148 0 0 = 0 ∧
      stCore.issuesFor 0 1 = true ∧ (fibOf stCore).replays = [] ∧ stCore.plat.thermal < 3 ∧
      (let t := after stCore (.issueOpportunity 0 1)
       (fibOf t).state = .issuing ∧ t.gangs.map (fun p => (p.2.port, p.2.members)) = [(1, [(0, 0)])])) ∧
    (stCore.heldBack 0 (filed1 9) = false ∧
      (fibOf (after { stCore with fibres := [(0, { fibOf stCore with pause := some 0 })] } (.pauseRelease 0 0))).pause = none) ∧
    (let s := { stCore with fibres := [(0, { fib with state := .cold none })],
                            cores := [(0, { CoreUnit.reset with reloads := [0] })] }
     (s.seg (segKey 1 0x604000)).resident = some 0 ∧ (fibOf (after s (.segmentReload 0))).state = .stalled) ∧
    (let s := { stCore with fibres := [(0, { fib with state := .cold none })], segs := [(segKey 1 0x604000, Segment.empty)],
                            cores := [(0, { CoreUnit.reset with reloads := [0] })] }
     ((s.seg (segKey 1 0x604000)).resident = none ∧ (s.heapRoom 0 true).isSome = true) ∧
      ((after s (.segmentReload 0)).seg (segKey 1 0x604000)).resident = some 0) := by decide +kernel

/-- 64 stalls in use and one fibre in the overflow, of this age. -/
def stFull (age : Nat) : State :=
  { stCore with cores := [(0, { CoreUnit.reset with
      stalls := (List.range 64).map fun k => stall1 (BitVec.ofNat 32 (4 * k + 4)) { filed1 0 with lanes := [(0, k + 1)], order := k }
      overflow := [((stall1 0 (filed1 age)).key, filed1 age)] })] }

/-- CoreEventsTakeEffect: an old fibre of the overflow takes a stall, at the stall age and at the overdue age. -/
theorem witness_core_overflow :
    let s := stFull (max ((stFull 0).stallAge 0) ((stFull 0).overdueAge 0))
    64 ≤ (s.unit 0).busyStalls.length ∧ (s.releasable 0 false).isSome = true ∧ (s.releasable 0 true).isSome = true ∧
    ((after s (.stallAgeRelease 0)).unit 0).overflow.length = 1 ∧
    (((after s (.overdueClaim 0)).unit 0).stalls.any fun x => decide (x.members = [filed1 (max ((stFull 0).stallAge 0) ((stFull 0).overdueAge 0))])) = true := by
  decide +kernel

/-- A crew that is to be killed, with a deadline of 5. -/
def stKill (gtc : Nat) : State :=
  { st fib [] [] with gtc := gtc, sched := { s1.sched with crews := [(1, { crew1 [] with killCause := some 3, deadline := some 5 })] } }

/-- CoreEventsTakeEffect: the deadline of a crew at and before its time, a result on its way, and a fibre that waits for room in
the mailbox. -/
theorem witness_core_rest :
    ((after (stKill 5) (.killDeadline 1)).fibres = [] ∧ (after (stKill 4) (.killDeadline 1)).fibres.length = 1) ∧
    (let s := { s1 with landings := [(3, { fibre := 0, writes := [(.frame (segKey 1 0x604000) 8, 77)] })] }
     reg (after s (.landingWrite 3)) 8 = 77 ∧ (after s (.landingWrite 3)).landings = [] ∧ gang1.leaving = none) ∧
    ((stEff 0x50 0).mailboxRoom 0 = true ∧ ((stEff 0x50 0).unit 0).notices = [] ∧
      (fibOf (after (stEff 0x50 0) (.mailboxDeferredPost 0))).state = .suspended) := by decide +kernel

/-- A queue of tenant 1 that is enabled, halted or not, whose head record is ready to be judged. -/
def stQueue (halted : Nat) : State :=
  ((st fib [] []).setQueueF 1 0 8 15 15 1).setQueueF 1 0 0x28 24 24 halted |>.modQueue 1 0 fun u => { u with head := some rec1, dependMet := true }

/-- A crew that has not started, and one that has run since 0 under a limit of 1 µs. -/
def stCrew (k : Crew) (runlim gtc : Nat) : State :=
  let s := st fib [] []
  { s with gtc := gtc, fibres := [(0, { fib with state := .created })],
           sched := { s.sched with crews := [(1, k)], launches := [(1, { launch1 with record := { rec1 with runlim := runlim } })] } }

/-- SchedulerEventsTakeEffect: the queue registers through the ACTIVE port and the other one. -/
theorem witness_queue_registers :
    (stQueue 0).plat.recovery = false ∧ (stQueue 0).activePort = .a ∧ HostPort.b ≠ .a ∧
    (after (stQueue 0) (.doorbell .b 1 0 5)).mgmtF 0x7018 15 0 = 1 ∧
    s1.coh.doorbells = [] ∧ s1.hostWaits = false ∧
    (let w : HomeWrite := { id := 3, core := none, vf := 1, since := 0, data := [(0x5004, 7)], host := true }
     let s : State := { s1 with coh := { s1.coh with homes := [(0x5000, { HomeLine.reset with exp := 9, waiting := [w] })] } }
     s.hostWaits = true ∧ (after s (.doorbell .a 1 0 5)).coh.doorbells = [(1, 0, 5)]) ∧
    (after s1 (.doorbell .a 1 0 5)).queueF 1 0 0x10 15 0 = 5 ∧
    (after (stQueue 1) (.qheadWrite .a 1 0 3)).queueF 1 0 0x18 15 0 = 3 ∧
    (after (stQueue 0) (.qheadWrite .a 1 0 3)).queueF 1 0 0x18 15 0 = 0 ∧
    (stQueue 1).queueF 1 0 0x28 24 24 = 1 ∧
    (after ((stQueue 1).modQueue 1 0 fun u => { u with head := none }) (.qstatHaltClear .a 1 0 0x1000000)).queueF 1 0 0x28 24 24 = 0 ∧
    (stQueue 0).queueF 1 0 8 15 15 = 1 ∧ (after (stQueue 0) (.queueDisable .a 1 0 0)).queueF 1 0 8 15 15 = 0 ∧
    ((after (stQueue 0) (.queueDisable .a 1 0 0)).queue 1 0).head = none := by decide +kernel

/-- SchedulerEventsTakeEffect: a record that is ready, a dependence word that is read again, and a split that changes. -/
theorem witness_scheduler :
    (((stQueue 0).queue 1 0).head = some rec1 ∧ ((stQueue 0).queue 1 0).dependMet = true ∧ rec1.flag 1 = false) ∧
    (let s := { s1 with cores := [(0, { CoreUnit.reset with repartition := some [12, 4, 2, 6] })] }
     12 + 4 + 2 + 6 = 24 ∧ s.coreF 0 0x110 31 24 ≤ 6 ∧ s.heapUsed 0 ≤ 12 * 64 ∧
      (after s (.repartition 0)).coreReg 0 0x110 = 0x0602040C ∧ ((after s (.repartition 0)).unit 0).repartition = none) := by
  decide +kernel

/-- SchedulerEventsTakeEffect: a crew starts, with room for its frames; a limit of 1 µs at 1000 and past it; a crew that is placed
again; and a launch whose one crew has ended. -/
theorem witness_crews :
    (let s := stCrew { crew1 [] with started := none } 0 7
     (match s.rootSegments (s.entryPc 1 rec1) (s.crewFibres 1) with | some (some w) => (w.sched.crews.find 1).isSome | _ => false) = true ∧
      ((after s (.crewStart 1)).sched.crews.find 1).map Crew.started = some (some 7)) ∧
    ((after (stCrew (crew1 []) 1 1001) (.runlimExpiry 1)).sched.crews.find 1).map Crew.killCause = some (some 0x10001) ∧
    after (stCrew (crew1 []) 1 1000) (.runlimExpiry 1) = stCrew (crew1 []) 1 1000 ∧
    (let s := { st fib [] [] with
      sched := { State.reset.sched with crews := [(1, { crew1 [] with ended := true })], launches := [(1, launch1)] } }
     s.relaunchable { crew1 [] with ended := true } = false ∧ launch1.placed = launch1.record.bands ∧
      (after s (.launchComplete 1)).sched.launches = [] ∧ s.sched.lent = []) := by decide +kernel

/-- An account of 7 tokens that has used 5, whose budget of 9 counts from the next boundary on. -/
def stRefill (gtc : Nat) : State :=
  let s := s1.setMgmtF 0x2010 31 0 9
  { s with gtc := gtc, sched := { s.sched with budgets := [(1, 7)], bal := [(1, 2)] } }

/-- SchedulerEventsTakeEffect: a refill at a boundary of TOKEN_PERIOD, and one tick before it. -/
theorem witness_refill :
    let d := s1.mgmtF 0x1F00 25 16 * 1000
    0 < d ∧ (stRefill d).sched.refilledAt = 0 ∧ (stRefill d).sched.lent = [] ∧
    (after (stRefill d) .tokenRefill).bal 1 = 9 ∧ (after (stRefill (d - 1)) .tokenRefill).bal 1 = 2 := by decide +kernel

/-- A line at 0x5000 with a write that waits for EXP 9. -/
def stHome (gtc : Nat) : State :=
  { s1 with gtc := gtc, coh := { s1.coh with homes :=
      [(0x5000, { HomeLine.reset with exp := 9, waiting := [{ id := 3, core := none, vf := 1, since := 0, data := [(0x5004, 7)] }] })] } }

/-- MemoryAndEngineEventsTakeEffect: a home write at EXP and before it. -/
theorem witness_home :
    (((stHome 9).home 0x5000).exp ≤ 9 ∧ (stHome 9).coh.ops = [] ∧ (stHome 9).net.messages = [] ∧ (stHome 9).engine = []) ∧
    (after (stHome 9) (.homeWriteApply 0x5000)).store.phys.read 0x5004 = 7 ∧
    (after (stHome 8) (.homeWriteApply 0x5000)).store.phys.read 0x5004 = 0 := by decide +kernel

/-- An ordering operation that watches a word of host memory. -/
def watch1 : OrdOp :=
  { kind := .waita 0, stage := .watching, agent := 0, fibre := some 0, vf := 1, space := 0, addr := 2 ^ 52 + 0x100, size := 4, scope := 5,
    value := 0, value2 := 0, targets := [], writes := [], lines := [], hostWrites := [], lost := false, result := 0, since := 0 }

/-- The time of the next poll after 0. -/
def pollTime : Nat := s1.mgmtF 0x1F08 39 32 * 1000

/-- The state with that operation at this time. -/
def stPoll (o : OrdOp) (gtc : Nat) : State := { s1 with gtc := gtc, coh := { s1.coh with ops := [(4, o)] } }

/-- MemoryAndEngineEventsTakeEffect and SchedulerEventsTakeEffect: a poll of a host word, a read of a dependence word, a cluster that is gated and back, snoops and
host accesses. -/
theorem witness_host :
    (let s := stPoll watch1 pollTime
     s.coh.ops.find 4 = some watch1 ∧ isHostLine (lineOf watch1.addr) = true ∧ 0 < pollTime ∧
      after s (.waitaHostPoll 4) = ((s.setOrd 4 { watch1 with polled := pollTime }).serve 4).tryComplete 4 ∧
      after (stPoll watch1 (pollTime - 1)) (.waitaHostPoll 4) = stPoll watch1 (pollTime - 1)) ∧
    (let o := { watch1 with kind := .depend 1 0 }
     let s := stPoll o pollTime
     after s (.deppollRead 1 0) = ((s.setOrd 4 { o with polled := pollTime }).serve 4).tryComplete 4 ∧
      after (stPoll o (pollTime - 1)) (.deppollRead 1 0) = stPoll o (pollTime - 1)) ∧
    (s1.mayGate 31 = true ∧ 31 ∉ s1.plat.gated ∧ (after s1 (.clusterGate 31)).plat.gated = [31] ∧
      (after (after s1 (.clusterGate 31)) (.clusterUngate 31)).plat.gated = []) ∧
    (after s1 (.hostSnoop .b 0x1000)).plat.answers = [[1, 1, 0x1000]] ∧
    (s1.hostMay 1 0x5000 8 true = true ∧ s1.hostMay 2 0x5000 8 true = false ∧ s1.isSealed 0x5000 = false ∧
      (after s1 (.hostWrite .a false 1 0x5000 [7])).store.phys.read 0x5000 = 7 ∧
      (after s1 (.hostWrite .a false 2 0x5000 [7])).mgmtF 0x7018 31 16 = 1 ∧
      (after { s1 with store := { s1.store with sealedLines := [0x5000] } } (.hostWrite .a false 1 0x503F [7])).mgmtF 0x7018 31 16 = 1) ∧
    ((after s1 (.hostMemoryRead .a 1 0x40000 2)).plat.answers = [[4, 0, 0x40000, 7, 16]] ∧
      (after s1 (.hostMemoryRead .a 2 0x40000 2)).plat.answers = [[2, 0, 0x40000]] ∧
      (after s1 (.hostAtomicRead .b 1 0x40002 false)).plat.answers = [[2, 1, 0x40002]]) ∧
    ((after { s1 with coh := { s1.coh with hostWrites := [{ id := 5, port := .a, core := none, line := 0 }] } }
      (.hostWriteAcknowledgement 5)).coh.hostWrites = []) := by decide +kernel

/-- An engine operation of the test fibre. -/
def opOf (cls : Nat) (job : Job) : EngineOp :=
  { core := 0, fibre := 0, vf := 1, cls := cls, issued := 0, pages := [], job := job, writes := [], release := none, hostWrites := [] }

/-- The state with that operation, counted. -/
def stOp (cls : Nat) (job : Job) : State :=
  { s14 with engine := [(7, opOf cls job)]
             fibres := [(0, { fib with counted := [{ cls := cls, op := 7, num := 0, done := false, stopped := none }] })] }

/-- A copy of 16 bytes of SCRATCH from 0x100 to 0x280. -/
def copy1 : CopyJob :=
  { dst := 0x280, src := 0x100, dspace := 1, sspace := 1, rows := 1, rowLen := 16, dstride := 0, sstride := 0, word := none }

/-- MemoryAndEngineEventsTakeEffect: a copy, a gather of nothing, a write-back, and a CODEX RESERVE and FREE. -/
theorem witness_engine_events :
    (let s := stOp 0 (.copy copy1)
     s.copyFailure (opOf 0 (.copy copy1)) copy1 none 0 1 = none ∧ (s.copyFailure (opOf 0 (.copy copy1)) { copy1 with sspace := 0, src := 0x40000000 } none 0 1).isSome = true ∧
      (after s (.copyComplete 7)).store.pitch.readBytes (scratchKey 0 0x280) 2 = [0x80, 2] ∧
      (fibOf (after s (.copyComplete 7))).counted = []) ∧
    (let j := GsJob.ofBytes false (blockOf s14 0x140)
     ((stOp 1 (.gs j)).gsElements (opOf 1 (.gs j)) j none 0 j.count).2.1 = none ∧ (fibOf (after (stOp 1 (.gs j)) (.gsComplete 7))).counted = []) ∧
    (let s := stOp 4 (.wb { inval := false, lines := [] })
     s.performed [] [] = true ∧ s.hostPending [] = false ∧ (fibOf (after s (.wbComplete 7))).counted = []) ∧
    (let s := stOp 5 (.codex 0 0 0 0 0 5 none none [] [])
     (opOf 5 (.codex 0 0 0 0 0 5 none none [] [])).codexReq.isSome = true ∧ s.entryFree 5 9 = true ∧
      (match ((after s (.codexReserve 7 9)).engine.get 7 (opOf 0 (.copy copy1))).job with
        | .codex _ _ _ _ _ _ h status _ _ => (h, status) | _ => (none, none)) = (some (9 * 4096 + 1), some 0)) ∧
    (let s := stOp 5 (.codex 4 0x1001 0 0 0 1 none none [] [])
     (s.namedEntry 1 0x1001).isSome = true ∧ s.codeBusy 1 0x1001 = true ∧ s.namedEntry 1 0x1002 = none ∧
      ({ s with fibres := [], gangs := [], segs := [], kobjs := [], sched := State.reset.sched } : State).codeBusy 1 0x1001 = false) := by decide +kernel

/-- A packet of a type from device 2 to function 1. -/
def pkt (type : Nat) : Packet :=
  { type := type, ver := 1, k := 1, m := 0, msgId := 0, stripe := 0, index := 0, flen := 1, round := 0, epoch := 0, op := 0, msgLen := 64,
    immv := 0, rkey := 0, dcore := 0, dvf := 1, dstDev := 0, srcDev := 2, srcVf := 3, roff := 0, atomWide := false, aop := 0,
    data := List.replicate 64 0 }

/-- A posted message of one stripe. -/
def net1 (state : NetState) (sent : List Nat) (probed : Option Nat) : NetJob :=
  { op := 0, io := 0, vf := 1, request := 0, space := 0, laddr := 0x5000, len := 64, immv := 0, roff := 0, rkey := 0, aop := 0, aarg := 0,
    aarg2 := 0, counter := none, ddev := 2, dvf := 3, dcore := 0, k := 1, m := 0, frag := 64, stripes := 1, msgId := 0, epoch := 0,
    state := state, rounds := 0, sent := sent, acked := [], progress := 0, probed := probed, kslot := none, replied := false }

/-- The state with that operation at this time. -/
def stNet (j : NetJob) (gtc : Nat) : State := { stOp 3 (.net j) with gtc := gtc }

/-- A message at its receiver, with an incomplete stripe that came at 0, or ended at 0. -/
def stRx (ended : Option Nat) (gtc : Nat) : State :=
  let t : RxStripe :=
    { data := [], parity := [], arrived := 0, round := 0, reserve := 64, complete := false, abandoned := false, writes := [], acked := false }
  let m : RxMessage :=
    { io := 0, first := pkt 0, key := none, slot := 0, stripes := [(0, t)], image := [], kslot := none, atom := none, aborted := false,
      refused := false, ended := ended, writes := [], counted := true }
  { s1 with gtc := gtc, net := { s1.net with messages := [(7, m)] } }

/-- NetworkEventsTakeEffect: packets of each type, a bad header, an unsupported packet, and a stripe that is sent, or has no route. -/
theorem witness_network_packets :
    (∀ n < 8, packetBad (pkt n) = false) ∧ packetBad (pkt 8) = true ∧ packetBad { pkt 0 with index := 1 } = true ∧
    (after s1 (.dataFragmentReceive 0 (pkt 8))).mgmtF (netOff 0 0x068) 31 16 = 1 ∧ (pkt 4).dvf ∉ s1.net.resets ∧
    ((after s1 (.unsupportedPacket 1 5)).net.wire.map fun p => (p.port, p.dev, p.type)) = [(6, 5, 18)] ∧
    ((stOp 3 (.net (net1 .waiting [] none))).performed [] [] = true ∧
      (stOp 3 (.net (net1 .waiting [] none))).noRoute (net1 .waiting [] none) = true ∧
      (stOp 3 (.net (net1 .waiting [] none))).sourceRefused (opOf 3 (.net (net1 .waiting [] none))) (net1 .waiting [] none) 0 = false) := by
  decide +kernel

/-- PacketHeadersHoldTheirFields: a header with fields at the ends of their widths, and its first two words as the table of R333
places them. -/
theorem witness_header :
    let p : Packet := { pkt 1 with k := 31, m := 7, msgId := 0x123456789ABC, stripe := 0x01020304, index := 31, flen := 64, round := 9,
                                   epoch := 0xA5, op := 3, dcore := 255, dvf := 127, srcVf := 0x80, atomWide := true, aop := 7 }
    (packetBytes p).take 16 = [0xBC, 0x9A, 0x78, 0x56, 0x34, 0x12, 0xFF, 0x11, 3, 0xA5, 9, 0xFC, 4, 3, 2, 1] ∧
    packetOf 0 (packetBytes p) = p := by decide +kernel

/-- NetworkEventsTakeEffect: times of the sender and of the receiver, each at its bound and one before it. -/
theorem witness_network_times :
    (let s := stNet (net1 .inFlight [0] none) ((stNet (net1 .inFlight [0] none) 0).ntimeout 0)
     (match ((after s (.ntimeoutExpiry 7)).engine.get 7 (opOf 0 (.copy copy1))).job with | .net j => j.probed | _ => none) = some s.gtc) ∧
    (let w := (stNet (net1 .inFlight [0] (some 0)) 0).stripeWait 0
     (match ((after (stNet (net1 .inFlight [0] (some 0)) w) (.probeWaitExpiry 7)).engine.get 7 (opOf 0 (.copy copy1))).job with
      | .net j => decide (j.state = .lost) | _ => false) = true ∧ 0 < w ∧
      (match ((after (stNet (net1 .inFlight [0] (some 0)) (w - 1)) (.probeWaitExpiry 7)).engine.get 7 (opOf 0 (.copy copy1))).job with
      | .net j => decide (j.state = .inFlight) | _ => false) = true) ∧
    (let w := s1.stripeWait 0
     ((after (stRx none w) (.stripeWaitExpiry 7 0)).net.messages.find 7).bind (fun m => (m.stripes.find 0).map RxStripe.round) = some 1 ∧
      ((after (stRx none (w - 1)) (.stripeWaitExpiry 7 0)).net.messages.find 7).bind (fun m => (m.stripes.find 0).map RxStripe.round) = some 0) ∧
    ((after (stRx (some 0) (s1.ntimeout 0)) (.messageRecordExpiry 7)).net.messages = []) ∧
    ((stRx none 0).stripeHolders 0 = [1] ∧ (stRx none 0).stripeHolders 1 = []) := by decide +kernel

/-- A die link with a stripe in reassembly. -/
def stLink (rounds : Nat) (gtc : Nat) : State :=
  { s1 with gtc := gtc, net := { s1.net with
      links := [(1, { DieLink.reset with stripes := [(4, { flits := [], k := 2, m := 1, rounds := rounds, arrived := 0 })] })] } }

/-- A die link with one group in service, the last. -/
def stGroup : State := { s1 with net := { s1.net with links := [(1, { DieLink.reset with lost := [0, 1, 2] })] } }

/-- NetworkEventsTakeEffect: a flit that completes its stripe, a stripe that is asked for again and one that has been asked for 15
times, and a group that fails. -/
theorem witness_links :
    (let flit : Flit := { stripe := 0, index := 0, group := 3, k := 1, m := 0, data := List.replicate 64 5 }
     let l := stGroup.link 0 1
     flit.group ∈ l.groups ∧ l.codeOf 0 = (1, 0) ∧ l.next = 0 ∧ l.stripes = [] ∧ l.cargo = [] ∧
      ((after stGroup (.dieLinkFlitReceive 0 1 flit)).link 0 1).delivered = [List.replicate 64 5] ∧
      ((after s1 (.dieLinkFlitReceive 0 1 flit)).link 0 1).delivered = [] ∧ (s1.link 0 1).codeOf 0 = (3, 1)) ∧
    (((stLink 14 64).link 0 1).stripes.length = 1 ∧ ((after (stLink 14 64) (.dieLinkRetryExpiry 0 1 2)).link 0 1).requests = [(4, [0, 1])] ∧
      ((after (stLink 15 64) (.dieLinkRetryExpiry 0 1 2)).link 0 1).lost = [2] ∧
      ((after (stLink 15 64) (.dieLinkRetryExpiry 0 1 2)).link 1 0).lost = [2]) ∧
    ((after s1 (.dieLinkGroupFailure 0 1 3)).link 0 1).lost = [3] ∧ ((after s1 (.dieLinkGroupFailure 0 1 3)).link 1 0).lost = [3] ∧
    (let s := stOp 5 (.codex 0 0 0 0 0 1 (some 9) (some 0) [.frame (segKey 1 0x604000) 8] [(0, 5)])
     (s.engine.find 7).isSome = true ∧ s.inRun (0, 5) = false) := by decide +kernel

/-- RegisterAndTelemetryEventsTakeEffect: the other port, the bitterns, and the core's registers. -/
theorem witness_registers :
    ((after s1 (.hsnap .b 1 0 1)).mgmtF 0x7018 15 0 = 1) ∧
    (let s := s1.setMgmt 0x6010 0x81
     s.btOwner 0 .slot 7 = some 1 ∧ s.btOwner 0 .slot 8 = none ∧ ((after s (.fctlEnable .a 1 0 0 1)).bittern 0).reg (fctlOff 0) ∈ [1, 2]) ∧
    (let s := (s1.setMgmt 0x6000 0x81).modBittern 0 fun b => { b with live := [(5, 9)] }
     s.btOwner 0 .histogram 0 = some 1 ∧ iclrKind 0 = some .histogram ∧ 0 < kindCount .histogram ∧
      ((after s (.hsnap .a 1 0 1)).bittern 0).snap.get 5 0 = 9 ∧ ((after s (.hsnap .a 1 0 1)).bittern 0).live.get 5 0 = 0) ∧
    (let s : State := { s1.setMgmtF 0x6208 10 0 5 with gtc := 3999, bitterns := [(0, { Bittern.reset with used := [(1, 50)], period := 1 })] }
     ((after s .bitternPeriod).bittern 0).used.get 1 0 = 40 ∧ ((after s .bitternPeriod).bittern 0).period = 3) ∧
    (let s := s1.modUnit 0 fun u => { u with mailbox := [(k1.record, true)], head := 31 }
     ((after s (.mboxPop 0)).unit 0).mailbox = [] ∧ ((after s (.mboxPop 0)).unit 0).head = 0) ∧
    (after s1 (.haltedWrite 0 0xFFFFFFFFFFFFFFFF)).coreF 0 0x148 0 0 = 1 ∧
    (s1.holders 1 5 false = [] ∧ bits ((after s1 (.xlinv 1 0x5000)).readMgmt 0x8018) 63 63 = 0) := by decide +kernel

/-- Host failover is enabled, with epoch 0, at this time. -/
def stLease (gtc : Nat) : State := { s1 with gtc := gtc } |>.setMgmtF 0x7000 0 0 1

/-- RegisterAndTelemetryEventsTakeEffect: partitions, the host lease, PTP time, and MSI-X. -/
theorem witness_host_registers :
    (let s := s1.setMgmtF 0x1E00 31 0 1
     (s.setMgmtF 0x1E20 31 0 2).partitionsClash = false ∧ (s.setMgmtF 0x1E20 31 0 3).partitionsClash = true ∧
      ({ s with sched := State.reset.sched } : State).sched.crews = []) ∧
    (let d := s1.mgmtF 0x7000 47 32 * 1000
     (stLease d).plat.renewed + (stLease d).mgmtF 0x7000 47 32 * 1000 ≤ d ∧
      (after (stLease d) .hostLeaseExpiry).activePort = .b ∧ (after (stLease d) .hostLeaseExpiry).mgmtF 0x7000 15 8 = 1 ∧
      (after (stLease 9) (.hlRenew .a 0)).plat.renewed = 9 ∧
      (let s := (stLease d).modPlat fun p => { p with linkUp := [.a] }
       (after s .hostLeaseExpiry).mgmtF 0x7018 32 32 = 1 ∧
        (after (after s .hostLeaseExpiry) (.hlClaim .b 1)).activePort = .b)) ∧
    ((after s1 (.ptpOfsWrite 7)).ptp = BitVec.ofNat 64 s1.gtc + 7 ∧ (after s1 (.ptpTrimWrite 0x7FFFFFFF)).ptpTrim = 4294967) ∧
    (after s1 (.hostPortLinkChange .b false)).plat.linkUp = [.a] ∧
    (let s := s1.modPlat fun p => { p with linkUp := [.a] }
     (after s (.hostPortLinkChange .b true)).plat.linkUp = [.a, .b] ∧
      (after s (.hostPortLinkChange .b true)).coh.inc.get (5 * 512 + 1) 0 = 1) ∧
    (s1.tdisp 1 = .unlocked ∧ (after s1 (.msixVectorUnmask 1 255)).vectorMasked 1 255 = false) := by decide +kernel

/-- PlatformEventsTakeEffect: the controllers and the heartbeats. -/
theorem witness_controllers :
    (let s := s1.modPlat fun p => { p with beatSeen := [(0, (0, s1.mgmtF 0x7200 23 16 - 2)), (1, (0, s1.mgmtF 0x7200 23 16 - 1))] }
     s.coreF 0 0x140 63 0 = 0 ∧ s.coreF 1 0x140 63 0 = 0 ∧ 2 ≤ s1.mgmtF 0x7200 23 16 ∧
      (s.readBeat 0).plat.beatSeen.find 0 = some (0, s1.mgmtF 0x7200 23 16 - 1)) ∧
    (let d := s1.mgmtF 0x7200 15 0 * 1000
     0 < d ∧ (after { s1 with gtc := d } (.mcBeat 1)).plat.beats.get 1 0 = 1 ∧
      (after { s1 with gtc := d - 1 } (.mcBeat 1)).plat.beats.get 1 0 = 0 ∧ s1.plat.checkedAt = 0 ∧
      (after { s1 with gtc := d } .heartbeatCheck).plat.checkedAt = d ∧
      (after { s1 with gtc := d - 1 } .heartbeatCheck).plat.checkedAt = 0) ∧
    ((after (s1.modPlat fun p => { p with beatSeen := [(256, (0, 9))] }) .mcTakeover).plat.activeController = 1 ∧ s1.mgmtF 0x7200 23 16 ≤ 9) := by
  decide +kernel

/-- PlatformEventsTakeEffect: the interface's states, keys inside a session, a step of throttling, and a device in recovery. -/
theorem witness_platform :
    ((after s1 (.lockInterfaceRequest 1)).tdisp 1 = .locked ∧ (after s1 (.startInterfaceRequest 1)).tdisp 1 = .unlocked ∧
      (after (after s1 (.lockInterfaceRequest 1)) (.startInterfaceRequest 1)).tdisp 1 = .run ∧
      (after (after s1 (.lockInterfaceRequest 1)) (.ideIntegrityFailure 1)).tdisp 1 = .error) ∧
    ((after s1 (.thermalStepChange 0 3 0)).plat.thermal = 3) ∧
    ((after s1 (.ideKm 1 5)).plat.keys = [] ∧ (after (after s1 (.spdmRequest .a .openSession)) (.ideKm 1 5)).plat.keys = [(1, 5)]) ∧
    (let s := s1.modPlat fun p => { p with recovery := true }
     s1.plat.recovery = false ∧ (after s (.lockInterfaceRequest 1)).tdisp 1 = .unlocked ∧
      (after s (.spdmRequest .a .openSession)).plat.session = none) := by decide +kernel

/-! ### Witnesses of the clauses that further rules ask for -/

/-- A clean line with a copy in core 0. -/
def leased (line : Nat) (s : State) : State :=
  { s with coh := { s.coh with l1 := [(cacheKey 0 line, { L1Line.none .shared with copy := some (List.replicate 64 0), expiry := some 90 })] } }

/-- A state in which q0 of core 0 holds 5 and then 6, which a neighbour sent, and core 0 the copy of a line. -/
def s20 : State :=
  (leased 0x6000 s1).modUnit 0 fun u =>
    { u with queues := [(0, { owner := some 1, places :=
      [{ place := 0, word := some 5, neighbour := false }, { place := 1, word := some 6, neighbour := true }] })] }

/-- An operand that reads q1. -/
def fromQ1 (t : Bool) : Operand := { code := 0xC1, t := t, l := false, slot := .src false }

/-- SourcesReadTheirRegisters: two words of q0, the second of which a neighbour sent; and a queue without a word. -/
theorem witness_queue_sources :
    (let i := Instr.iaddW { w0 with a := 8, b := 0xC0, c := 0xC0 }
     Ready s20 i (turn s20 i) ∧ s20.coh.l1.Pairwise (fun p q => p.1 < q.1) ∧ (inp s20 i).b = 5 ∧ (inp s20 i).c = 6 ∧
      ((rd s20 i).queueReg 0 0).places = [] ∧ ((rd s20 i).l1 0 0x6000).bind L1Line.copy = none) ∧
    ∀ t, (∀ r ∈ readRefs [fromQ1 t], s20.srcState 0 fib r.2 = .ready) ∧ queuesOf (readRefs [fromQ1 t]) = [1] ∧
      readCodes (fromQ1 t) = [0xC0 + 1] ∧ ((s20.queueReg 0 1).places.head?.bind QPlace.word) = none :=
  ⟨⟨ready_of (by decide +kernel), by decide +kernel⟩, by decide +kernel⟩


/-- The test state, with these words at the PC of its fibre and these poisoned lines. -/
def stBytes (b : List Byte) (bad : List Nat) (off : Word) : State :=
  let s := putPhys (st { fib with pc := { fetchPc with off := off } } [] []) fetchText b
  { s with store := { s.store with poisoned := bad } }

/-- What the mailbox of core 0 holds after a step: tags and PCs. -/
def told (s : State) : List (Nat × DWord) :=
  match step s with
  | .next t => (t.unit 0).mailbox.map fun p => (p.1.tag, p.1.pc)
  | _ => []

/-- StepRunsTheDecodedInstruction: a fetch that finds no instruction: a reserved length, a PC beyond the text, a handle of no
object, and a poisoned line. -/
theorem witness_fetch_fails :
    (let s := stBytes [3] [] 0
     s.mayIssue gang1 = true ∧ s.nextGang = some 1 ∧ s.agenda = [] ∧ s.sched.retired = false ∧
      (decode (s.store.phys.readBytes fetchText 12)).toOption = none ∧ told s = [(12, 0x100100000000)]) ∧
    told (stBytes [] [] 4096) = [(12, 0x100100001000)] ∧
    ({ stBytes [] [] 0 with code := [] } : State).codeOf 1 fetchHandle = none ∧
    told { stBytes [] [] 0 with code := [] } = [(12, 0x100100000000)] ∧
    told (stBytes [9, 0x90, 1, 2, 5] [fetchText] 0) = [(18, 0x100100000000)] := by decide +kernel

/-- SpecialFunctionResults: an operand of each format, and values at which each clause of R280's exact cases applies. -/
theorem witness_special :
    decodeVal 13 0x3FC00000 false = .fin false 0xC00000 (-23) false ∧ decodeVal 12 0xBF80 false = .fin true 1920 (-10) false ∧
    decodeVal 11 0x3C00 true = .fin false 128 (-14) false ∧
    frcp (.fin true 4 0 false) = (.fin true (2 ^ 160) (-162) false, 0) ∧ fexp2 (.fin true 3 0 false) = (.fin false 1 (-3) false, 0) ∧
    flog2 (.fin false 1 (-5) false) = (.fin true 5 0 false, 0) ∧ fsinpi (.fin true 3 (-1) false) = (.fin false 1 0 false, 0) ∧
    fcospi (.fin true 3 0 false) = (.fin true 1 0 false, 0) ∧ frsqrt (.fin true 4 0 false) = (.nan, flagNV) := by decide +kernel

/-- An atomic operation of the test fibre that has not been applied. -/
def atom1 : OrdOp :=
  { kind := .atom 0, stage := .served, agent := 0, fibre := some 0, vf := 1, space := 0, addr := 0x5000, size := 4, scope := 0,
    value := 0, value2 := 0, targets := [], writes := [], lines := [], hostWrites := [], lost := false, result := 0, since := 0 }

/-- FibresLeaveTheirGang: a BAR while an atomic operation of the fibre is under way. -/
theorem witness_bar_waits :
    let s : State := { s1 with coh := { s1.coh with ops := [(4, atom1)] } }
    GoesWith s [(.bar (q2 0 0), [])] ∧ s.crewBroken fib = false ∧ s.atomUnderWay 0 = some 4 :=
  ⟨goes_with (by decide +kernel), by decide +kernel⟩

/-- LoadsReadTheirSpaces, StoresIntoMemory, SynchronisationOnThePitch: what holds an access of M0 back. -/
theorem witness_m0_holds :
    let d : Deferred := { addr := 0x9000, data := 0, pcOff := 0, kind := 0, size := 2, reg := 0, m0 := true }
    ({ fib with pending := [d] } : Fibre).pendingM0 = true ∧ fib.pendingM0 = false ∧
    (let s : State := { s8 with fibres := [(0, { fib with fsm := true })], coh := { s8.coh with ops := [(4, atom1)] } }
     s.inM0 0 (fibOf s) = true ∧ s.atomUnderWay 0 = some 4) := by decide +kernel

/-- StoresIntoMemory: a line whose dirty bytes a release of the core has ordered, and one whose bytes none has. -/
theorem witness_restamp :
    let l : L1Line := { L1Line.none .shared with dirty := [(4, 7)], stamp := 1 }
    let tag : Tag := { agent := 0, inc := 0, seq := 1, dead := false }
    let s : State := { s8.modUnit 0 (fun u => { u with rseq := 2 }) with
      coh := { s8.coh with l1 := [(cacheKey 0 0x5000, l)], homes := [(0x9000, { HomeLine.reset with tagState := .tagged, tag := some tag })] } }
    GoesWith s [(.stX { w0 with b := 4, d := 7, mod := 0, sub := 2 } 0, [])] ∧ s.releaseCovers 0 1 = true ∧
    (s.beforeRestamp 0 0x5000).l1 0 0x5000 = none ∧ (s.beforeRestamp 0 0x5000).store.phys.read 0x5004 = 7 ∧
    s8.releaseCovers 0 1 = false :=
  ⟨goes_with (by decide +kernel), by decide +kernel⟩

/-- ReturnsCloseTheirWindow, the ILLEGAL clause: no slide, fewer words below FB than the slide, a slide that is not the link's, and a
return pointer that lies outside the text. -/
theorem witness_return_illegal :
    (∀ p ∈ [(s5, 0), (s5, 3), (s6 (some 0), 1)],
      let i := Instr.ret (qi 0 p.2)
      GoesWith p.1 [(i, [])] ∧
        ((after p.1 i).unit 0).mailbox.map (fun q => q.1.tag) = [12]) ∧
    (let s := { s5 with segs := [(segKey 1 0x604000, { Segment.empty with words := [(14, held 4096), (15, held 0x1001)], resident := some 0 })] }
     let i := Instr.ret (qi 0 2)
     GoesWith s [(i, [])] ∧ s.validReturn 1 (pair (s.segWord 1 0x604000 14) (s.segWord 1 0x604000 15)) = false) := by
  refine ⟨fun p hp => ⟨goes_with ?_, ?_⟩, goes_with (by decide +kernel), by decide +kernel⟩ <;>
  revert p <;> decide +kernel

/-- The state whose line at 0x5000 has a tag of a dead incarnation of core 9. -/
def s21 : State :=
  { s8 with coh := { s8.coh with homes := [(0x5000, { HomeLine.reset with
      tagState := .tagged, tag := some { agent := 9, inc := 0, seq := 5, dead := true } })] } }

/-- An ordering instruction of scope .clu on the word of d4, with a result in g8 or without one. -/
def clu (a : BitVec 8) (sub : BitVec 5) : FormW := { w0 with a := a, b := 4, c := 7, mod := 16, sub := sub }

/-- ACQ of scope .clu into g8 and p3. -/
def acqP3 : Instr := .acq { w0 with a := 8, b := 4, mod := 16, sub := 14 }

/-- SynchronisationOnLines: ACQREL, an atomic of scope .clu and ATOMN, WAITA met and unmet, and ACQ into p3 on a dead tag. -/
theorem witness_line_release :
    GoesWith s8 [(.acqrel (clu 8 2), [8]), (.atom (clu 8 2), [8]), (.atomn (clu 0 2), []), (.waita (clu 0 1), []), (.waita (clu 0 0), [])] ∧
    GoesWith s21 [(acqP3, [8])] ∧
    isOk (s8.syncPlace 0 fib (.acqrel 0) 0x5000) 0x5000 = true ∧ isOk (s8.syncPlace 0 fib (.atomn 0) 0x5000) 0x5000 = true ∧
    isOk (s8.syncPlace 0 fib (.waita 1) 0x5000) 0x5000 = true ∧ isOk (s21.syncPlace 0 fib (.acq 3) 0x5000) 0x5000 = true ∧
    s8.releaseBefore 0x5000 s8.nextId true = false ∧ s21.releaseBefore 0x5000 s21.nextId true = false ∧
    s8.coreWrites 0 = [] ∧ waitCond 1 0 0x1234 = true ∧ waitCond 0 0 0x1234 = false ∧
    (rd s8 (.waita (clu 0 0))).hasHandler fib 2 = false ∧ (s21.bittern 0).tap = [] ∧
    (let t := after s21 acqP3
     (fibOf t).preds.getLsbD 3 = true ∧ (t.bittern (dieOfLine 0x5000)).tap.map (fun e => e.type) = [5]) ∧
    (after s8 (.waita (clu 0 0))).coh.ops.map (fun p => p.2.stage) = [.watching] := by
  refine ⟨goes_with (by decide +kernel), goes_with (by decide +kernel), ?_⟩
  decide +kernel

/-- MatrixCommandsExecute: the hypotheses with each command at the head of the queue, MDRAIN in a rounding mode of its own; the
report of MSTAT, which clears the sticky bits; and sums of a row that are finite, that overflow and that are ∞ × 0. -/
theorem witness_matrix_commands :
    (∀ cmd ∈ [MtxCommand.mma 12 15 0x400000000 0x400004000 32 [] [], .acc 13 1 true 0x2000000000, .drain 13 15 0 1 true 0x2000000000,
        .drain 10 15 0 1 false 0x200000000, .stat true false [.frame (segKey 1 0x604000) 8]],
      let s := s19 cmd
      (s.context 0 3).queue = [9] ∧ (s.context 0 3).elems.Pairwise (fun p q => p.1 < q.1) ∧
      (∀ p ∈ (s.context 0 3).elems, p.1 < 16384) ∧ (s.engine.find 9).map EngineOp.job = some (.mtx 3 cmd) ∧
      (s.engine.find 9).map EngineOp.units = some [] ∧ storageOk s = true) ∧
    tileShapeBad 13 (.ofWord 0x2000000000) = false ∧ (Desc.ofWord 0x2000000000).kind = 0 ∧
    (let s := s19 (.stat true true [.frame (segKey 1 0x604000) 8])
     let s := s.modContext 0 3 fun c => { c with sticky := 0x50 }
     let t := after s (.mtxCommandComplete 0 3)
     t.landings.map (fun p => p.2.writes) = [[(.frame (segKey 1 0x604000) 8, 0x150)]] ∧ (t.context 0 3).sticky = 0) ∧
    ((rowSum [.fin 3] [.fin 5]).1 = .fin 15 ∧ (rowSum [.nan] [.fin 5]).2.2 = false) := by decide +kernel

/-- MemoryAndEngineEventsTakeEffect: an INV whose lines are written back, and a CPYW that ends. -/
theorem witness_inv_cpyw :
    (let s := leased 0x6000 (stOp 4 (.wb { inval := true, lines := [0x6000] }))
     s.performed [] [] = true ∧ s.hostPending [] = false ∧ (s.l1 0 0x6000).isSome = true ∧ s.coh.l1.Pairwise (fun p q => p.1 < q.1) ∧
      (after s (.wbComplete 7)).l1 0 0x6000 = none ∧ (fibOf (after s (.wbComplete 7))).counted = []) ∧
    (let j := { copy1 with word := some (0x5000, 0x1234, 2) }
     let o := { opOf 0 (.copy j) with pages := [(5, 0x5000)] }
     let s : State := { stOp 0 (.copy j) with engine := [(7, o)] }
     s.copyFailure o j none 0 1 = none ∧ pageAddress o.pages 0x5000 = some 0x5000 ∧
      s.storeBad 0 1 0x5000 0x5000 false = none ∧ s.arrives 1 1 0x5000 true = true ∧ s.portInactive 0x5000 = false ∧
      (s.objectAt 1 0x5000).1 = .shared ∧ s.watchers 0x5000 = [] ∧ s.releaseBefore 0x5000 s.nextId true = false ∧
      (let t := after s (.copyComplete 7)
       (t.home 0x5000).tagState = .tagged ∧ (t.unit 0).rseq = (s.unit 0).rseq + 1 ∧
        ((t.l1 0 0x5000).map fun l => (l.retained, (List.range 2).map fun k => l.dirty.find k)) = some (true, [some 0x34, some 0x12]))) := by
  decide +kernel


/-- EffectsAreTaken: the log of a machine check, the first and a later one. -/
theorem witness_machine_check :
    (let s := stClerkEff 14 0
     let u := s.machineCheck 0 (effOf 14)
     s.mgmtF 0xE000 63 63 = 0 ∧ u.mgmtF 0xE000 63 63 = 1 ∧ u.mgmtF 0xE000 47 32 = 14 ∧ u.mgmtF 0xE000 15 0 = 1 ∧
      u.mgmt 0xE008 = fetchPc.pointer.toNat ∧ (u.unit 0).stopped = true ∧ s.tdisp 0 ≠ .error ∧
      s.vectorMasked 0 (s.mgmtF 0x7028 7 0) = true ∧ u.vectorPending 0 (s.mgmtF 0x7028 7 0) = true ∧
      (let w := u.machineCheck 0 (effOf 13)
       w.mgmtF 0xE000 47 32 = 14 ∧ w.mgmtF 0xE000 15 0 = 2)) := by decide +kernel

/-- A fibre in the frame that installed its handler, with the callee's window 16 words above: no link names the call. -/
def stSplit : State :=
  let s := stEff 0x4F 0x604060
  let f := fibOf s
  { s with fibres := [(0, { f with fbSeg := 0x604000, fbWord := 40 })]
           segs := [(segKey 1 0x604000, { Segment.empty with resident := some 0, words :=
             [(18, held 16), (19, held 0x1001), (20, held 0x4F0040), (21, held 0x200000), (30, held 8), (31, held 0x1001), (44, held 77)] })] }

/-- EffectsAreTaken: the segment split, and a HANDLER that is no listed entry. -/
theorem witness_split :
    (let s := stSplit
     (fibOf s).onlyStopped = true ∧ (s.findHandler 0 (fibOf s) (effOf 0x4F) = .record 0x604060 { recE with gslide := 32 }) ∧
      s.fibreSegs (fibOf s) = [0x604000] ∧ s.freeSegFor 0 1 = some 0x604400 ∧ s.heapUsed 0 < s.heapSize 0 ∧
      s.landings = [] ∧
      (let t := after s (.performEffect 0 0)
       (fibOf t).state = .stalled ∧ (t.seg (segKey 1 0x604400)).slide = 32 ∧
        (t.cell (.frame (segKey 1 0x604400) 12)).val = 77)) ∧
    (let s := { stEff 0x4F 0x604060 with code := [(codeKey 1 1, { code1 with entries := [0] })] }
     s.listedEntry 1 recE.handler = false ∧
      (fibOf (after s (.performEffect 0 0))).effect.map Effect.tag = some 12) := by decide +kernel

/-- NetworkEventsTakeEffect: products and inverses of R332, and a fragment that comes back from the other and one parity. -/
theorem witness_cauchy :
    gfMul 0x80 2 = 0x1D ∧ gfMul 0x53 1 = 0x53 ∧ gfMul (cauchy 3 5) (16 + Nat.xor 3 5) = 1 ∧
    (let data : List (List Byte) := [[1, 2], [0x80, 0xFF]]
     rebuild [(1, [0x80, 0xFF])] [(0, parityOf data 0 2)] [0] 2 = [(0, [1, 2])]) := by decide +kernel

/-- A stripe of which nothing has come. -/
def stripe0 : RxStripe :=
  { data := [], parity := [], arrived := 0, round := 0, reserve := 64, complete := false, abandoned := false, writes := [], acked := false }

/-- A PUT message of stripes of two fragments into the buffer at 0x5000, or a SEND into a slot there. -/
def msg1 (op : Nat) : RxMessage :=
  { io := 0, first := { pkt 0 with k := 2, m := 1, op := op, msgLen := 100, roff := 16 },
    key := some { base := 0x5000, len := 4096, counter := 0, flags := 0, gen := 1, ci := 0, peerDev := 2, peerVf := 3 },
    slot := 0x5000, stripes := [(0, stripe0)], image := [], kslot := none, atom := none, aborted := false, refused := false,
    ended := none, writes := [], counted := false }

/-- The state with the PUT message. -/
def stMsg (m : RxMessage) : State := { s1 with net := { s1.net with messages := [(7, m)] } }

/-- NetworkEventsTakeEffect: where the bytes of a PUT and of a SEND stand, the header of a slot, a first fragment, the parity that
completes the stripe, and its acknowledgement. -/
theorem witness_placement :
    (stMsg (msg1 0)).agentAddress 1 4 0x5000 true = some 0x5000 ∧ (stMsg (msg1 0)).inBacking 1 0x5000 = false ∧
    ((s1.placeData (msg1 0) 0 0 [9]).map fun r => (r.2.1, r.2.2.store.phys.read 0x5010)) = some ([(0x5000, 1)], 9) ∧
    ((s1.placeData (msg1 1) 0 0 [9]).map fun r => r.2.2.store.phys.read 0x5020) = some 9 ∧
    (let p : Packet := { pkt 0 with op := 1, msgLen := 0x01020304, immv := 5, srcDev := 0x0607, srcVf := 8 }
     slotHeader p 9 = [4, 3, 2, 1, 5, 0, 0, 0, 7, 6, 8, 0, 9] ++ List.replicate 19 0 ∧
      (s1.beginMessage p (msg1 1)).isSome = true) ∧
    (let p : Packet := { pkt 0 with k := 2, m := 1 }
     (stMsg (msg1 0)).engineOf 1 = some 0 ∧ epochOlder 0 ((stMsg (msg1 0)).epochOf 0 1) = false ∧
      ((stMsg (msg1 0)).messageOf p).map Prod.fst = some 7 ∧
      (((((stMsg (msg1 0)).takeFragment 0 p).net.messages.find 7).bind fun m => m.stripes.find 0).map RxStripe.data) = some [0]) ∧
    (let t := { stripe0 with data := [0], parity := [(0, List.replicate 64 7)] }
     ((s1.placedAll (msg1 0) 0 [0]).isSome = true ∧
      (((s1.completeStripe (msg1 0) 0 t).bind fun r => r.1.stripes.find 0).map fun t => (t.complete, t.data)) = some (true, [0, 1]))) ∧
    (let t := { stripe0 with data := [0, 1], complete := true }
     s1.performed t.writes [] = true ∧
      ((((s1.ackStripes 7 { msg1 0 with stripes := [(0, t)] }).net.messages.find 7).bind fun m => m.stripes.find 0).map RxStripe.acked) =
        some true) := by
  decide +kernel

/-- A device at rest, with a dirty line in core 0 and registers that are not at their reset values. -/
def atRest : State :=
  { State.reset with
    fibres := [], gangs := [], gtc := 77
    coh := { State.reset.coh with l1 := [(cacheKey 0 0x6000, { L1Line.none .shared with dirty := [(4, 7)] }), (cacheKey 1 0x6000, .none .shared)] }
    regs := { State.reset.regs with core := [(0x110, 0x0602020E)], mgmt := [(0x2010, 9), (0xD010, 0x600000)] }
    cores := [(0, { CoreUnit.reset with rseq := 9, head := 3 })] }

/-- PlatformEventsTakeEffect: the device at rest, and what a core reset does to the core itself. -/
theorem witness_core_reset :
    (atRest.fibres = [] ∧ atRest.sched.crews = [] ∧ atRest.coh.homes = [] ∧ atRest.plat.flr = [] ∧ atRest.plat.recovery = false) ∧
    (let t := atRest.clearCore 0 false
     t.coreReg 0 0x110 = 0x02000016 ∧ (t.unit 0).rseq = 1 ∧ t.coh.inc.get 1024 0 = 1 ∧ t.l1 0 0x6000 = none ∧
      (t.l1 1 0x6000).isSome = true ∧ t.mgmt 0x2010 = 9 ∧ t.gtc = 77) := by decide +kernel

/-- PlatformEventsTakeEffect: a clerk of partition 1 that runs, and what a partition reset finds. -/
theorem witness_spared :
    let f : Fibre := { Fibre.clerk 0 with state := .stalled }
    let s := { atRest with fibres := [(4095, f)] }.setMgmtF 0x1E20 31 0 1
    s.fibres = [(fibreKey 0 4095, f)] ∧ (s.unit 0).stopped = false ∧ s.partitionOfCluster (clusterOf 0) = some 1 ∧ f.waiting = none ∧
    s.partitionOf 1 ≠ some 1 ∧ (s.clearCore 0 true).fibres.find 4095 = some f ∧ ((s.clearCore 0 true).unit 0).rseq = 1 := by
  decide +kernel

/-- PlatformEventsTakeEffect: step 4 of an FLR, and its end once no fibre of the function is left. -/
theorem witness_flr :
    (let s := (putQ s1).modPlat fun p => { p with flr := [(1, 5)] }
     s.fibresOf 1 ≠ [] ∧ s.code = [(1 * 4096 + 1, code1)] ∧ code1.valid = true ∧
      (let t := s.freeVf 1
       (t.queueReg 0 0).places = [] ∧ t.segs = [] ∧ t.sched.launches = [] ∧ (t.entryAt 1 1).valid = false ∧
        (t.entryAt 1 1).gen = code1.gen + 1)) ∧
    (let s := { atRest with plat := { atRest.plat with flr := [(1, 5)] } }
     s.fibresOf 1 = [] ∧ s.plat.flr.Pairwise (fun p q => p.1 < q.1) ∧ (s.flrFinish 1).plat.answers = [[5, 1]] ∧ (s.flrFinish 1).plat.flr.find 1 = none) := by decide +kernel

/-- The state with a granule of SCRATCH and one of WEIGHT owned by crew 1, a segment of the fibre and a dirty line of its crew. -/
def stSoft : State :=
  { s1 with coh := { s1.coh with l1 := [(cacheKey 0 0x6000, { L1Line.none .shared with dirty := [(4, 7)], crew := some 1 })] } }

/-- PlatformEventsTakeEffect: the outcomes of an uncorrectable error. -/
theorem witness_soft :
    (s1.unit 0).scratch.find 0 = some (1, 1) ∧ (s1.unit 0).scratch.find 1 = none ∧ (s1.unit 0).weight.find 0 = some (1, 1) ∧
    s1.coh.l2.Pairwise (fun p q => p.1 < q.1) ∧ atRest.bitterns.Pairwise (fun p q => p.1 < q.1) ∧
    s1.crewsOn 0 = [(1, crew1 [])] ∧ (s1.segOwner 1 0x604000).map Prod.fst = some 0 ∧
    ((stSoft.l1 0 0x6000).bind L1Line.crew) = some 1 ∧ (crew1 []).ended = false ∧
    ((s1.softKill true 0 1).sched.crews.find 1).map (fun k => (k.killCause, k.ecc)) = some (some 18, true) ∧
    ((stSoft.eccOutcome (.cacheDirty 0 0x6000)).sched.crews.find 1).map Crew.killCause = some (some 18) ∧
    (after s1 (.eccUncorrectable (.home 0x6000))).store.poisoned = [0x6000] := by decide +kernel

/-- SchedulerEventsTakeEffect: a dependence word in a page that a window grants and in one that none does. -/
theorem witness_deppoll :
    let o := { watch1 with kind := .depend 1 0 }
    let s := stPoll o pollTime
    s.targetsOk 1 6 [o.addr] false = true ∧
    (let u := s.setMgmt 0x9080 0
     u.targetsOk 1 6 [o.addr] false = false ∧ (u.coh.ops.first fun _ x => decide (x.kind = .depend 1 0)).isSome = true) := by
  decide +kernel

/-- MemoryAndEngineEventsTakeEffect: a place that is quiet, and one where a write waits at a home. -/
theorem witness_quiet :
    s1.roomAt 0x5000 64 = true ∧ s1.quietAt 0x5000 64 = true ∧ (stHome 0).quietAt 0x5000 64 = false ∧
    isOk (((s1.setMgmt 0x8000 0x40001).setMgmt 0x9000 0xFFC0000000000000 |>.setMgmt 0x9008 0x000FFFFFFFFFF000 |>.imageBytes (opOf 5 (.codex 1 0 0 0 0 1 none none [] [])) 0x5000 4).map Prod.snd) [0, 0, 0, 0] = true := by
  decide +kernel

/-- EveryInstructionAnswers: the one stop of the machine, an instruction that the agenda names as if it were an event; and
StorageStaysCanonical: a step that stores. -/
theorem witness_whole :
    (match step { s1 with agenda := [.event (.nopQ (q2 0 0))] } with | .fault .badAgenda => true | _ => false) = true ∧
    (match step { s1 with agenda := [.hostStore (2 ^ 52) [5]] } with
      | .next t => storageOk s1 && storageOk t && decide (t.store.phys.read (2 ^ 52) = 5) | _ => false) = true ∧
    (Instr.form (.mcBeat 0)).isNone = true := by decide +kernel

end Sys2Proof.Tests
end

/-! O22: bytes are read back, and a memory in canonical form is determined by what it reads (R3, R4). -/
namespace Sys2Proof.Machine

/-- The head of a canonical list is not 0 and lies above the bound, and the rest is canonical above it. -/
theorem Memory.above_cons {lo a : Nat} {v : Byte} {m : Memory} :
    Memory.above lo ((a, v) :: m) = true ↔ lo ≤ a ∧ v ≠ 0 ∧ Memory.above (a + 1) m = true := by
  simp [Memory.above, and_assoc]

/-- The address at the head of a canonical list reads its byte, which is not 0. -/
theorem Memory.read_head_ne_zero {lo a : Nat} {v : Byte} {m : Memory} (w : Memory.above lo ((a, v) :: m) = true) :
    Memory.read ((a, v) :: m) a ≠ 0 := by
  obtain ⟨-, hv, -⟩ := Memory.above_cons.mp w
  rwa [Memory.read_cons, if_pos rfl]

/-- Two canonical lists that read alike have the same address at their heads: the lower of two would read 0 in the other. -/
theorem Memory.head_le {lo a b : Nat} {v u : Byte} {m m' : Memory} (w : Memory.above lo ((a, v) :: m) = true)
    (w' : Memory.above lo ((b, u) :: m') = true) (h : ∀ x, Memory.read ((a, v) :: m) x = Memory.read ((b, u) :: m') x) :
    b ≤ a := by
  by_contra hab
  obtain ⟨-, hu, hm'⟩ := Memory.above_cons.mp w'
  have above_b : Memory.above b ((b, u) :: m') = true := Memory.above_cons.mpr ⟨le_refl b, hu, hm'⟩
  exact Memory.read_head_ne_zero w ((h a).trans (Memory.read_below _ above_b (by omega)))

/-- Memories in canonical form that read alike are the same list. -/
theorem Memory.eq_of_read_above {lo : Nat} (m m' : Memory) (w : m.above lo = true) (w' : m'.above lo = true)
    (h : ∀ x, m.read x = m'.read x) : m = m' := by
  induction m generalizing lo m' with
  | nil =>
    cases m' with
    | nil => rfl
    | cons q m' => exact absurd (h q.1).symm (Memory.read_head_ne_zero w')
  | cons p m ih =>
    cases m' with
    | nil => exact absurd (h p.1) (Memory.read_head_ne_zero w)
    | cons q m' =>
      obtain ⟨a, v⟩ := p
      obtain ⟨b, u⟩ := q
      obtain rfl : a = b := le_antisymm (Memory.head_le w' w fun x => (h x).symm) (Memory.head_le w w' h)
      obtain ⟨-, -, hm⟩ := Memory.above_cons.mp w
      obtain ⟨-, -, hm'⟩ := Memory.above_cons.mp w'
      have value : v = u := by simpa [Memory.read_cons] using h a
      have rest : ∀ x, Memory.read m x = Memory.read m' x := fun x => by
        by_cases hx : a = x
        · rw [← hx, Memory.read_below m hm (Nat.lt_succ_self a), Memory.read_below m' hm' (Nat.lt_succ_self a)]
        · simpa [Memory.read_cons, hx] using h x
      rw [value, ih m' hm hm' rest]

/-- A range whose bytes are known one by one reads as their list. -/
theorem Memory.readBytes_eq (m : Memory) (a : Nat) (b : List Byte) (h : ∀ k < b.length, m.read (a + k) = b.getD k 0) :
    m.readBytes a b.length = b := by
  refine List.ext_getElem (m.length_readBytes a b.length) fun k hk hb => ?_
  rw [← List.getD_eq_getElem _ 0 hk, ← List.getD_eq_getElem _ 0 hb, m.getD_readBytes a b.length k hb, h k hb]

/-- A read after a write of the same bytes. -/
theorem Memory.readBytes_writeBytes (m : Memory) (w : m.wf = true) (a : Nat) (b : List Byte) :
    (m.writeBytes a b).readBytes a b.length = b := by
  refine Memory.readBytes_eq _ a b fun k hk => ?_
  rw [m.read_writeBytes w, if_pos (by omega), Nat.add_sub_cancel_left]

/-- A number that fits is read back from its bytes. -/
theorem ofBytes_toBytes (v n : Nat) (h : v < 256 ^ n) : ofBytes (toBytes v n) = v := by
  induction n generalizing v with
  | zero =>
    rw [pow_zero, Nat.lt_one_iff] at h
    rw [h]
    rfl
  | succ n ih =>
    have high : v / 256 < 256 ^ n := Nat.div_lt_of_lt_mul (by rwa [← pow_succ'])
    rw [toBytes, ofBytes, ih _ high, BitVec.toNat_ofNat]
    exact Nat.mod_add_div v 256

/-- Byte `k` of a number, the least significant first. -/
theorem getD_toBytes (v n k : Nat) (h : k < n) : (toBytes v n).getD k 0 = BitVec.ofNat 8 (v / 256 ^ k) := by
  induction n generalizing v k with
  | zero => omega
  | succ n ih =>
    cases k with
    | zero => simp [toBytes]
    | succ k => rw [toBytes, List.getD_cons_succ, ih _ _ (by omega), Nat.div_div_eq_div_mul, pow_succ']

end Sys2Proof.Machine

namespace Sys2Proof.Safety

open Sys2Proof.Machine

/-- Settles O22: a write keeps the form and is read back byte for byte, and the form leaves one list for each content. -/
theorem bytesReadBack : Obligations.BytesReadBack := by
  refine ⟨fun m a b w => ⟨m.wf_writeBytes a b w, m.readBytes_writeBytes w a b, fun x hx => ?_, ofBytes_toBytes,
    getD_toBytes⟩, rfl, fun m m' w w' h => m.eq_of_read_above m' w w' h⟩
  rw [m.read_writeBytes w, if_neg (by omega)]

end Sys2Proof.Safety

/-! O33 fails: a KRECV whose run mark makes its run end at a safe point. Leaving that point the fibre finds g(LIVE) to g127
full (R42), so the pair that the KRECV has just emptied is full again and its receive goes nowhere, while the statement has the
pair stay empty until a continuation arrives. -/
namespace Sys2Proof.Safety

open Sys2Proof.Machine

/-- A `krecv g8` with the safe-point mark. -/
def safeKrecv : FormQ := { hdr := { pred := 0, rb := 2 }, a := 8, b := 0, lb := false }

/-- The fibre that executes it: LIVE is 0, so that every one of its registers is in the window. -/
def receiver : Fibre := { fetchFibre with live := 0 }

/-- The state in which that fibre issues alone in its gang, on a device that holds no continuation. -/
def receiving : State :=
  { State.reset with
    fibres := [(0, receiver)]
    segs := [(segKey 0 1024, { Segment.empty with resident := some 0 })]
    gangs := [(1, fetchGangOf)]
    cur := 1 }

/-- The turn in which it executes. -/
def receiverTurn : Turn :=
  { gang := fetchGangOf, lane := 0, index := 0, fibre := receiver, form := formQ safeKrecv (.dst true) .none }

theorem ready_receiving : Ready receiving (.krecv safeKrecv) receiverTurn where
  gang := by decide +kernel
  alone := rfl
  index := by decide
  form := rfl
  legal := by decide +kernel
  fibre := by decide +kernel
  issuing := rfl
  owner := by decide +kernel
  inTime := Or.inl (by decide +kernel)
  guard := Or.inl rfl
  sources := by decide +kernel

theorem calm_receiving : Calm receiving receiverTurn 0 where
  kill := rfl
  faults := rfl
  request := rfl
  flags := by decide +kernel
  landings := by decide +kernel
  window c _ hc := by
    have full : ∀ c ∈ List.range 128, (receiving.cell (receiver.gLoc c)).mark = .full := by decide +kernel
    exact full c (List.mem_range.mpr hc)

theorem free_receiving : Free receiving (.krecv safeKrecv) receiverTurn [8, 9] where
  takes := by decide +kernel
  room := by decide +kernel
  frame := by decide +kernel
  crew := by decide +kernel

/-- The model's answer: g8 is full again once the fibre has left its safe point. -/
theorem exec_receiving : ∀ s', exec (.krecv safeKrecv) receiving = .next s' → (s'.cell (receiver.gLoc 8)).mark = .full := by
  have full : (match exec (.krecv safeKrecv) receiving with
      | .next s' => decide ((s'.cell (receiver.gLoc 8)).mark = .full) | _ => true) = true := by decide +kernel
  intro s' he
  rw [he] at full
  exact of_decide_eq_true full

/-- A word of format W with every field zero, for the FSTAT that the statement speaks of beside the KRECV. -/
def zeroFstat : FormW :=
  { hdr := { pred := 0, rb := 0 }, a := 0, b := 0, c := 0, d := 0, lb := false, lc := false, ld := false, tb := false,
    tc := false, td := false, mod := 0, sub := 0 }

/-- Refutes O33: after a KRECV with a safe-point mark into registers of the window, its destination is full, not empty. -/
theorem not_statusAndReceiveResults : ¬ Obligations.StatusAndReceiveResults := by
  unfold Obligations.StatusAndReceiveResults
  intro h
  obtain ⟨-, -, -, -, krecv⟩ := h zeroFstat safeKrecv receiving receiverTurn
  obtain ⟨s', he, same, -⟩ :=
    krecv ⟨ready_receiving, Or.inr calm_receiving⟩ (by decide) (by decide) free_receiving
  have claimed := same.mark (receiver.gLoc 8)
  rw [exec_receiving s' he] at claimed
  exact absurd claimed (by decide +kernel)

end Sys2Proof.Safety

/-! ## What leaves the storage as it is

The state's operations and the helpers of the instructions that store nothing, in the order of the model. -/

namespace Sys2Proof.Machine

/-- A fold whose step leaves the storage leaves it. -/
@[simp] theorem foldl_store {α : Type} {f : State → α → State} (h : ∀ s a, (f s a).store = s.store) (l : List α)
    (s : State) :
    (l.foldl f s).store = s.store := Safety.foldl_keeps State.store f h l s

@[simp] theorem ite_store (c : Prop) [Decidable c] (a b : State) :
    (if c then a else b).store = if c then a.store else b.store := apply_ite ..

/-- The state of an answer that has been taken apart. -/
theorem store_of_snd {β : Type} {p : β × State} {b : β} {s t : State} (h : p.2.store = s.store) (e : p = (b, t)) :
    t.store = s.store := by
  subst e
  exact h

@[simp] theorem State.setMgmtF_store (s : State) (off hi lo x : Nat) :
    (s.setMgmtF off hi lo x).store = s.store := by simp [State.setMgmtF]

@[simp] theorem State.setQueueF_store (s : State) (vf n r hi lo x : Nat) :
    (s.setQueueF vf n r hi lo x).store = s.store := by simp [State.setQueueF]

@[simp] theorem State.setCoreF_store (s : State) (core off hi lo x : Nat) :
    (s.setCoreF core off hi lo x).store = s.store := by simp [State.setCoreF]

@[simp] theorem State.countMgmt_store (s : State) (off hi lo : Nat) :
    (s.countMgmt off hi lo).store = s.store := by simp [State.countMgmt]

@[simp] theorem State.wakeDie_store (s : State) (die : Nat) : (s.wakeDie die).store = s.store := by simp [State.wakeDie]

@[simp] theorem State.raise_store (s : State) (die type tenant src v0 v1 : Nat) :
    (s.raise die type tenant src v0 v1).store = s.store := (Safety.same_raise die type tenant src v0 v1).store

@[simp] theorem State.raiseCore_store (s : State) (core type tenant v0 v1 : Nat) :
    (s.raiseCore core type tenant v0 v1).store = s.store := by simp [State.raiseCore]

@[simp] theorem State.charge_store (s : State) (t : Nat) (n : ℤ) :
    (s.charge t n).store = s.store := (Safety.same_charge t n).store

@[simp] theorem State.setVectorPending_store (s : State) (vf v x : Nat) :
    (s.setVectorPending vf v x).store = s.store := by simp [State.setVectorPending]

@[simp] theorem State.sendVector_store (s : State) (vf v : Nat) (charged : Bool) :
    (s.sendVector vf v charged).store = s.store := by simp [State.sendVector]

@[simp] theorem State.sendPended_store (s : State) (vf v : Nat) :
    (s.sendPended vf v).store = s.store := by simp [State.sendPended]

@[simp] theorem State.raiseVector_store (s : State) (vf v : Nat) :
    (s.raiseVector vf v).store = s.store := by simp [State.raiseVector]

@[simp] theorem State.raiseCheck_store (s : State) : s.raiseCheck.store = s.store := by simp [State.raiseCheck]

@[simp] theorem State.setHome_store (s : State) (line : Nat) (h : HomeLine) :
    (s.setHome line h).store = s.store := by simp [State.setHome]

@[simp] theorem State.setL1_store (s : State) (core line : Nat) (l : L1Line) :
    (s.setL1 core line l).store = s.store := by simp [State.setL1]

@[simp] theorem State.grant_store (s : State) (line e : Nat) : (s.grant line e).store = s.store := by simp [State.grant]

@[simp] theorem State.fillL2_store (s : State) (die vf line : Nat) : (s.fillL2 die vf line).1.store = s.store := by
  simp only [State.fillL2]
  (repeat' split) <;> simp

@[simp] theorem State.readL2_store (s : State) (die vf line : Nat) : (s.readL2 die vf line).1.store = s.store := by
  simp only [State.readL2]
  (repeat' split) <;> simp

@[simp] theorem State.readFill_store (s : State) (core vf line : Nat) (kind : ObjState) (owner : Nat) :
    (s.readFill core vf line kind owner).1.store = s.store := by
  simp only [State.readFill]
  (repeat' split) <;> simp

@[simp] theorem State.viewLine_store (s : State) (core vf va line : Nat) (kind : ObjState) (owner : Nat) :
    (s.viewLine core vf va line kind owner).1.store = s.store := by
  simp only [State.viewLine]
  (repeat' split) <;> simp

@[simp] theorem State.newIncarnation_store (s : State) (agent : Nat) :
    (s.newIncarnation agent).store = s.store := by simp [State.newIncarnation]

@[simp] theorem State.setOrd_store (s : State) (id : Nat) (o : OrdOp) :
    (s.setOrd id o).store = s.store := by simp [State.setOrd]

@[simp] theorem State.dataLost_store (s : State) (line vf : Nat) (t : Tag) :
    (s.dataLost line vf t).store = s.store := by simp [State.dataLost]

@[simp] theorem State.tagRelease_store (s : State) (core vf : Nat) (crew : Option Nat) (addr size value : Nat) :
    (s.tagRelease core vf crew addr size value).store = s.store := by simp [State.tagRelease]

@[simp] theorem State.holdAt_store (s : State) (line id vf : Nat) :
    (s.holdAt line id vf).store = s.store := by simp [State.holdAt]

@[simp] theorem State.served_store (s : State) (id : Nat) (o : OrdOp) (value : Nat) (lost : Bool) :
    (s.served id o value lost).store = s.store := by simp [State.served]

@[simp] theorem State.watchWord_store (s : State) (id : Nat) (o : OrdOp) (cond value : Nat) :
    (s.watchWord id o cond value).store = s.store := by simp [State.watchWord]

@[simp] theorem State.exchange_store (s : State) (id : Nat) (o : OrdOp) (op old : Nat) (lost : Bool) :
    (s.exchange id o op old lost).store = s.store := by simp [State.exchange]

@[simp] theorem State.landFlight_store (s : State) (line : Nat) (core : Option Nat) :
    (s.landFlight line core).store = s.store := by
  simp only [State.landFlight]
  (repeat' split) <;> simp

@[simp] theorem State.dropLeases_store (s : State) (core : Nat) :
    (s.dropLeases core).store = s.store := (Safety.same_dropLeases core).store

@[simp] theorem State.setCell_store (s : State) (l : Loc) (c : RegCell) :
    (s.setCell l c).store = s.store := (Safety.apart_setCell l c).store

@[simp] theorem State.writeCell_store (s : State) (l : Loc) (v : Word) :
    (s.writeCell l v).store = s.store := by simp [State.writeCell]

@[simp] theorem State.markCell_store (s : State) (l : Loc) (m : Mark) :
    (s.markCell l m).store = s.store := by simp [State.markCell]

@[simp] theorem State.readCell_store (s : State) (l : Loc) :
    (s.readCell l).2.store = s.store := (Safety.same_readCell l).store

@[simp] theorem State.evictSeg_store (s : State) (core key : Nat) : (s.evictSeg core key).store = s.store := by
  unfold State.evictSeg
  split <;> simp

@[simp] theorem State.touch_store (s : State) (key : Nat) : (s.touch key).store = s.store := rfl

theorem State.heapRoom_store (s : State) {core : Nat} {reload : Bool} {t : State} (e : s.heapRoom core reload = some t)
    :
    t.store = s.store := by
  unfold State.heapRoom at e
  split at e
  · cases e
    rfl
  · obtain ⟨k, -, rfl⟩ := Option.map_eq_some_iff.mp e
    simp

theorem State.bringIn_store (s : State) {core key : Nat} {t : State} (e : s.bringIn core key = some t) :
    t.store = s.store := by
  unfold State.bringIn at e
  split at e
  · cases e
    simp
  · obtain ⟨u, hu, rfl⟩ := Option.map_eq_some_iff.mp e
    simp [s.heapRoom_store hu]

@[simp] theorem State.newSeg_store (s : State) (core tenant addr : Nat) (g : Segment) :
    (s.newSeg core tenant addr g).store = s.store := by simp [State.newSeg]

@[simp] theorem State.freeSegs_store (s : State) (tenant : Nat) (addrs : List Nat) :
    (s.freeSegs tenant addrs).store = s.store := by simp [State.freeSegs]

@[simp] theorem State.retarget_store (s : State) (move : Loc → Loc) :
    (s.retarget move).store = s.store := by simp [State.retarget]

@[simp] theorem State.file_store (s : State) (key : Nat) : (s.file key).store = s.store := (Safety.same_file key).store

@[simp] theorem State.fileHeld_store (s : State) (core : Nat) (members : List (Nat × Nat)) :
    (s.fileHeld core members).store = s.store := (Safety.same_fileHeld core members).store

@[simp] theorem State.wake_store (s : State) (core : Nat) :
    (s.wake core).store = s.store := (Safety.same_wake core).store

@[simp] theorem State.wakeCrew_store (s : State) (key : Nat) (crew : Option Nat) :
    (s.wakeCrew key crew).store = s.store := (Safety.same_wakeCrew key crew).store

@[simp] theorem State.touchTop_store (s : State) (key : Nat) :
    (s.touchTop key).store = s.store := (Safety.same_touchTop key).1.store

@[simp] theorem State.leaveGang_store (s : State) (key : Nat) :
    (s.leaveGang key).store = s.store := by simp [State.leaveGang]

@[simp] theorem State.park_store (s : State) (key : Nat) (why : Park) :
    (s.park key why).store = s.store := by simp [State.park]

@[simp] theorem State.askReload_store (s : State) (key : Nat) :
    (s.askReload key).store = s.store := (Safety.same_askReload key).store

@[simp] theorem State.unpark_store (s : State) (key : Nat) :
    (s.unpark key).store = s.store := (Safety.same_unpark key).store

@[simp] theorem State.step__store (s : State) (key n : Nat) : (s.step_ key n).store = s.store := by simp [State.step_]

@[simp] theorem State.recheck_store (s : State) (core : Nat) :
    (s.recheck core).store = s.store := (Safety.same_recheck core).store

@[simp] theorem State.beginPerform_store (s : State) (key : Nat) (e : Effect) :
    (s.beginPerform key e).store = s.store := by simp [State.beginPerform]

@[simp] theorem State.orphan_store (s : State) (locs : List Loc) : (s.orphan locs).store = s.store := by
  unfold State.orphan
  refine (foldl_store (fun s p => ?_) _ _).trans (foldl_store (fun s l => ?_) _ _)
  · (repeat' split) <;> simp
  · split <;> simp

@[simp] theorem State.leaveBarrier_store (s : State) (l : Tbl Fibre) :
    (s.leaveBarrier l).store = s.store := by simp [State.leaveBarrier]

@[simp] theorem State.gather_store (s : State) (keys : List Nat) :
    (s.gather keys).2.store = s.store := by simp [State.gather]

@[simp] theorem State.checkBar_store (s : State) (crew : Nat) : (s.checkBar crew).store = s.store := by
  simp only [State.checkBar]
  split
  · split
    · next e => exact store_of_snd (s.gather_store _) e
    · next e => rw [State.leaveBarrier_store, store_of_snd (s.gather_store _) e]
  · rfl

@[simp] theorem State.checkConvene_store (s : State) (key level : Nat) :
    (s.checkConvene key level).store = s.store := by
  simp only [State.checkConvene]
  split
  · rfl
  split
  · split
    · next e => exact store_of_snd (s.gather_store _) e
    · next e _ _ => split <;> simp [store_of_snd (s.gather_store _) e]
    · next e _ => exact store_of_snd (s.gather_store _) e
  · rfl

@[simp] theorem State.checkCross_store (s : State) (conv : Nat) : (s.checkCross conv).store = s.store := by
  simp only [State.checkCross]
  split
  · rfl
  split
  · split
    · next e => exact store_of_snd (s.gather_store _) e
    · next e => simp [store_of_snd (s.gather_store _) e]
  · rfl

@[simp] theorem State.checkBand_store (s : State) (launch band k : Nat) :
    (s.checkBand launch band k).store = s.store := by
  simp only [State.checkBand]
  split
  · split
    · next e => exact store_of_snd (s.gather_store _) e
    · next e => simp [store_of_snd (s.gather_store _) e]
  · rfl

@[simp] theorem State.checkBarriers_store (s : State) (crew : Nat) : (s.checkBarriers crew).store = s.store := by
  simp only [State.checkBarriers]
  split
  all_goals
    simp only [foldl_store, State.checkBand_store, State.checkCross_store, implies_true]
    refine (foldl_store (fun s p => ?_) _ _).trans (s.checkBar_store crew)
    split <;> simp

@[simp] theorem State.leaveConvened_store (s : State) (key : Nat) : (s.leaveConvened key).store = s.store := by
  simp only [State.leaveConvened]
  (repeat' split) <;> simp

@[simp] theorem State.breakCrew_store (s : State) (crew : Nat) : (s.breakCrew crew).store = s.store := by
  simp only [State.breakCrew]
  split
  · refine (foldl_store (fun s b => by simp) _ _).trans ?_
    refine (foldl_store (fun s p => ?_) _ _).trans (s.modCrew_store _ _)
    split <;> simp
  · refine (foldl_store (fun s p => ?_) _ _).trans (s.modCrew_store _ _)
    split <;> simp

@[simp] theorem State.tenantGone_store (s : State) (core tenant : Nat) :
    (s.tenantGone core tenant).store = s.store := by simp [State.tenantGone]

@[simp] theorem State.endCrew_store (s : State) (id : Nat) : (s.endCrew id).store = s.store := by
  unfold State.endCrew
  split <;> simp

@[simp] theorem State.freeDescriptor_store (s : State) (key : Nat) : (s.freeDescriptor key).store = s.store := by
  simp only [State.freeDescriptor]
  (repeat' split) <;> simp

@[simp] theorem State.withdraw_store (s : State) (key : Nat) :
    (s.withdraw key).store = s.store := by simp [State.withdraw]

@[simp] theorem State.afterKill_store (s : State) (crew : Nat) : (s.afterKill crew).store = s.store := by
  unfold State.afterKill
  split <;> simp

@[simp] theorem State.leaveNotice_store (s : State) (key : Nat) (f : Fibre) :
    (s.leaveNotice key f).store = s.store := by
  unfold State.leaveNotice
  split <;> simp

@[simp] theorem State.killNow_store (s : State) (key : Nat) : (s.killNow key).store = s.store := by
  simp only [State.killNow]
  (repeat' split) <;> simp

@[simp] theorem State.killFibre_store (s : State) (key : Nat) : (s.killFibre key).store = s.store := by
  unfold State.killFibre
  split <;> simp

@[simp] theorem State.killOne_store (s : State) (key : Nat) : (s.killOne key).store = s.store := by simp [State.killOne]

@[simp] theorem State.killCrew_store (s : State) (id cause : Nat) : (s.killCrew id cause).store = s.store := by
  unfold State.killCrew
  split <;> simp

@[simp] theorem State.readGlobalLine_store (s : State) (core vf va pa n : Nat) :
    (s.readGlobalLine core vf va pa n).1.store = s.store := by simp [State.readGlobalLine]

theorem State.loadGlobal_store (s : State) {core vf va n : Nat} {r : State × List Byte}
    (e : s.loadGlobal core vf va n = .ok r) : r.1.store = s.store := by
  unfold State.loadGlobal at e
  (repeat' split at e) <;> cases e <;> simp

@[simp] theorem State.watchPitch_store (s : State) (key n : Nat) : (s.watchPitch key n).store = s.store := by
  unfold State.watchPitch
  exact foldl_store (fun s p => by split <;> simp) _ _

@[simp] theorem State.frameBytes_store (s : State) (f : Fibre) (a n : Nat) :
    (s.frameBytes f a n).1.store = s.store := by
  unfold State.frameBytes
  exact List.foldlRecOn (motive := fun r : State × List Byte => r.1.store = s.store) _ _ rfl fun r hr l _ => by simp
    [hr]

@[simp] theorem State.writeFrame_store (s : State) (f : Fibre) (a : Nat) (data : List Byte) :
    (s.writeFrame f a data).store = s.store := by simp [State.writeFrame]

theorem State.loadSpace_store (s : State) {key : Nat} {f : Fibre} {space a n : Nat} {r : State × List Byte}
    (e : s.loadSpace key f space a n = .ok r) : r.1.store = s.store := by
  unfold State.loadSpace at e
  split at e
  · exact s.loadGlobal_store e
  · dsimp only at e
    split at e <;> cases e
    rfl
  · dsimp only at e
    split at e <;> cases e
    rfl
  · (repeat' split at e) <;> cases e
    simp
  · dsimp only at e
    (repeat' split at e) <;> cases e
    rfl
  · cases e

@[simp] theorem State.readByteAt_store (s : State) (core vf va pa : Nat) :
    (s.readByteAt core vf va pa).1.store = s.store := by simp [State.readByteAt]

theorem State.engineRead_store (s : State) {core vf : Nat} {pages : List (Nat × Nat)} {space a : Nat} {r : State × Byte}
    (e : s.engineRead core vf pages space a = .ok r) : r.1.store = s.store := by
  unfold State.engineRead at e
  (repeat' split at e) <;> cases e <;> simp

theorem State.engineReadBytes_store (s : State) {core vf : Nat} {pages : List (Nat × Nat)} {space a n : Nat}
    {r : State × List Byte} (e : s.engineReadBytes core vf pages space a n = .ok r) : r.1.store = s.store := by
  induction n generalizing s a r with
  | zero =>
    cases e
    rfl
  | succ n ih =>
    unfold State.engineReadBytes at e
    split at e
    · cases e
    next q hq =>
    split at e
    · cases e
    next u hu =>
    cases e
    exact (ih q.1 hu).trans (s.engineRead_store hq)

@[simp] theorem State.pushQueue_store (s : State) (core tenant q : Nat) (word : Option Word) (neighbour : Bool) :
    (s.pushQueue core tenant q word neighbour).store = s.store := by simp [State.pushQueue]

@[simp] theorem State.setPred_store (s : State) (key i : Nat) (v : Bool) :
    (s.setPred key i v).store = s.store := by simp [State.setPred]

@[simp] theorem State.writeCode_store (s : State) (key code : Nat) (v : Word) :
    (s.writeCode key code v).store = s.store := by
  unfold State.writeCode
  split <;> simp

@[simp] theorem State.writePair_store (s : State) (key code : Nat) (wide : Bool) (v : DWord) :
    (s.writePair key code wide v).store = s.store := by simp [State.writePair]

@[simp] theorem State.post_store (s : State) (core : Nat) (r : EffectRecord) (notice : Bool) :
    (s.post core r notice).store = s.store := by simp [State.post]

@[simp] theorem State.postNotice_store (s : State) (core : Nat) (r : EffectRecord) :
    (s.postNotice core r).store = s.store := by simp [State.postNotice]

@[simp] theorem State.postWaiting_store (s : State) (core n : Nat) : (s.postWaiting core n).store = s.store := by
  induction n generalizing s with
  | zero => rfl
  | succ n ih =>
    unfold State.postWaiting
    (repeat' split) <;> simp [ih]

@[simp] theorem State.machineCheck_store (s : State) (core : Nat) (e : Effect) :
    (s.machineCheck core e).store = s.store := by
  unfold State.machineCheck
  rw [State.raiseCheck_store, State.modUnit_store]
  split <;> rfl

@[simp] theorem State.settleRecords_store (s : State) (seg : Nat) :
    (s.settleRecords seg).store = s.store := by simp [State.settleRecords]

@[simp] theorem State.splitSeg_store (s : State) (key : Nat) (f : Fibre) (seg w g bottom : Nat) (records : List Nat) :
    (s.splitSeg key f seg w g bottom records).store = s.store := by
  simp only [State.splitSeg, State.modFibre_store]
  rw [foldl_store fun s a => by simp, foldl_store fun s a => by split <;> simp]
  simp

@[simp] theorem State.capture_store (s : State) (key slot : Nat) (e : Effect) (bottom : Nat) :
    (s.capture key slot e bottom).2.store = s.store := by
  unfold State.capture
  split <;> simp

@[simp] theorem State.effectEvent_store (s : State) (key tenant tag how : Nat) :
    (s.effectEvent key tenant tag how).store = s.store := by simp [State.effectEvent]

@[simp] theorem State.loadFsm_store (s : State) (key : Nat) : (s.loadFsm key).store = s.store := by simp [State.loadFsm]

@[simp] theorem State.enterHandler_store (s : State) (key : Nat) (e : Effect) (h : DWord) (seg w prev : Nat)
    (handler : DWord) :
    (s.enterHandler key e h seg w prev handler).store = s.store := by
  simp only [State.enterHandler]
  (repeat' split) <;> simp

@[simp] theorem State.performFound_store (s : State) (key : Nat) (f : Fibre) (e : Effect) (a : Nat) (r : HandlerRecord)
    :
    (s.performFound key f e a r).store = s.store := by
  simp only [State.performFound]
  split
  · rfl
  split
  · rfl
  next t ht =>
  rw [← s.bringIn_store ht]
  split
  · split <;> simp
  split
  · simp
  split
  · rfl
  next u hu =>
  obtain ⟨hu, -⟩ := Option.filter_eq_some_iff.mp hu
  split
  · split <;> simp
  · simp [t.heapRoom_store hu]

@[simp] theorem State.performKill_store (s : State) (key : Nat) (f : Fibre) (e : Effect) :
    (s.performKill key f e).store = s.store := by
  simp only [State.performKill]
  (repeat' split) <;> simp

@[simp] theorem State.performClerk_store (s : State) (key : Nat) (f : Fibre) (e : Effect) :
    (s.performClerk key f e).store = s.store := by
  simp only [State.performClerk]
  (repeat' split) <;> simp

@[simp] theorem State.performUnmatched_store (s : State) (key : Nat) (f : Fibre) (e : Effect) :
    (s.performUnmatched key f e).store = s.store := by
  unfold State.performUnmatched
  split <;> simp

@[simp] theorem State.clerkCheck_store (s : State) (key : Nat) (e : Effect) :
    (s.clerkCheck key e).store = s.store := by simp [State.clerkCheck]

@[simp] theorem State.reloadRecord_store (s : State) (key : Nat) (f : Fibre) (e : Effect) (a : Nat) :
    (s.reloadRecord key f e a).store = s.store := by
  simp only [State.reloadRecord, State.modFibre_store]
  cases h : s.bringIn (coreOf key) (segKey f.tenant (frameSeg a)) with
  | none => rfl
  | some t => exact s.bringIn_store h

@[simp] theorem State.tryPerform_store (s : State) (key : Nat) : (s.tryPerform key).store = s.store := by
  simp only [State.tryPerform]
  (repeat' split) <;> simp

@[simp] theorem State.perform_store (s : State) (key : Nat) (e : Effect) :
    (s.perform key e).store = s.store := by simp [State.perform]

@[simp] theorem State.poison_store (s : State) (key : Nat) (f : Fibre) (reg : Nat) (wide : Bool) :
    (s.poison key f reg wide).store = s.store := by simp [State.poison]

@[simp] theorem State.writeLocs_store (s : State) (key : Nat) (locs : List Loc) (v : DWord) :
    (s.writeLocs key locs v).store = s.store := by simp [State.writeLocs]

@[simp] theorem State.relink_store (s : State) (f : Fibre) (k : KObject) (ret : DWord) :
    (s.relink f k ret).store = s.store := by
  simp only [State.relink]
  (repeat' split) <;> simp

@[simp] theorem State.performArith_store (s : State) (key : Nat) (f : Fibre) (fl : Flags) (pc : Pc) :
    (s.performArith key f fl pc).store = s.store := by simp [State.performArith]

@[simp] theorem State.unpop_store (s : State) (core : Nat) (taken : Taken) : (s.unpop core taken).store = s.store := by
  unfold State.unpop
  exact (foldl_store (fun s l => by simp) _ _).trans (foldl_store (fun s t => by simp) _ _)

@[simp] theorem State.popDrops_store (s : State) (core : Nat) (taken : List (Nat × QPlace)) :
    (s.popDrops core taken).store = s.store := (Safety.same_popDrops core taken).store

@[simp] theorem State.readLane_store (s : State) (key lane : Nat) (f : Fibre) (own next : Pc) (form : Form) :
    (s.readLane key lane f own next form).2.2.store = s.store := (Safety.same_readLane key lane f own next form).store

@[simp] theorem State.noteWrite_store (s : State) (x : LaneIn) (code : Nat) :
    (s.noteWrite x code).store = s.store := by simp [State.noteWrite]

@[simp] theorem State.reserve_store (s : State) (x : LaneIn) (code : Nat) : (s.reserve x code).2.store = s.store := by
  simp only [State.reserve]
  (repeat' split) <;> simp

@[simp] theorem State.reserveAll_store (s : State) (x : LaneIn) (codes : List Nat) :
    (s.reserveAll x codes).2.store = s.store := by
  induction codes generalizing s with
  | nil => rfl
  | cons c rest ih => simp [State.reserveAll, ih]

@[simp] theorem State.land_store (s : State) (key : Nat) (writes : List (Loc × Word)) :
    (s.land key writes).store = s.store := by simp [State.land]

@[simp] theorem State.writeLong_store (s : State) (x : LaneIn) (o : List (Nat × Word)) :
    (s.writeLong x o).store = s.store := by simp [State.writeLong]

@[simp] theorem State.writeNow_store (s : State) (x : LaneIn) (shared : List Loc) (code : Nat) (v : Word) :
    (s.writeNow x shared code v).store = s.store := by simp [State.writeNow]

@[simp] theorem State.writeOuts_store (s : State) (x : LaneIn) (shared : List Loc) (long : Bool)
    (o : List (Nat × Word)) :
    (s.writeOuts x shared long o).store = s.store := by simp [State.writeOuts]

theorem State.readOne_store (s : State) {form : Form} {parcels core : Nat} {m : Nat × Nat} {r : ReadLane × State}
    (e : s.readOne form parcels core m = some r) : r.2.store = s.store := by
  simp only [State.readOne] at e
  (repeat' split at e) <;> cases e <;> simp

@[simp] theorem State.readLanes_store (s : State) (form : Form) (parcels core : Nat) (l : List (Nat × Nat)) :
    (s.readLanes form parcels core l).2.store = s.store := by
  induction l generalizing s with
  | nil => rfl
  | cons m rest ih =>
    unfold State.readLanes
    split
    · exact ih s
    · next r t e => exact (ih t).trans (s.readOne_store e)

@[simp] theorem State.maskedKill_store (s : State) (key : Nat) : (s.maskedKill key).store = s.store := by
  unfold State.maskedKill
  split <;> simp

@[simp] theorem State.allPerform_store (s : State) (core : Nat) (members : List (Nat × Nat)) (e : Pc → Effect) :
    (s.allPerform core members e).store = s.store := by
  unfold State.allPerform
  refine foldl_store (fun s m => ?_) _ _
  dsimp only
  (repeat' split) <;> simp

@[simp] theorem State.chargeStep_store (s : State) (g : Gang) (n : Nat) :
    (s.chargeStep g n).store = s.store := (Safety.same_chargeStep g n).store

@[simp] theorem State.chargeEnd_store (s : State) (g : Gang) (n : Nat) :
    (s.chargeEnd g n).store = s.store := (Safety.same_chargeEnd g n).store

@[simp] theorem State.liveFull_store (s : State) (key : Nat) : (s.liveFull key).store = s.store := by
  unfold State.liveFull
  split <;> simp

@[simp] theorem State.writeLanding_store (s : State) (fibre : Option Nat) (w : Loc × Word) :
    (s.writeLanding fibre w).store = s.store := by
  simp only [State.writeLanding]
  (repeat' split) <;> simp

@[simp] theorem State.deliverLanding_store (s : State) (id : Nat) : (s.deliverLanding id).store = s.store := by
  unfold State.deliverLanding
  split <;> simp

@[simp] theorem State.flushLandings_store (s : State) (keys : List Nat) :
    (s.flushLandings keys).store = s.store := by simp [State.flushLandings]

@[simp] theorem State.leaveTwin_store (s : State) (key : Nat) :
    (s.leaveTwin key).store = s.store := (Safety.same_leaveTwin key).store

@[simp] theorem State.changeOver_store (s : State) (key : Nat) :
    (s.changeOver key).store = s.store := (Safety.same_changeOver key).store

@[simp] theorem State.countSpin_store (s : State) (g : Gang) (spun : Bool) :
    (s.countSpin g spun).store = s.store := (Safety.same_countSpin g spun).1.store

@[simp] theorem State.endRuns_store (s before : State) : (s.endRuns before).store = s.store := by simp [State.endRuns]

@[simp] theorem State.fileGang_store (s : State) (gid : Nat) (g : Gang) (whole : Bool) :
    (s.fileGang gid g whole).store = s.store := (Safety.same_fileGang gid g whole).store

@[simp] theorem State.settleGang_store (s : State) (gid rb : Nat) (safe back : Bool) :
    (s.settleGang gid rb safe back).store = s.store := by
  simp only [State.settleGang]
  (repeat' split) <;> simp

@[simp] theorem State.settleLeaving_store (s : State) : s.settleLeaving.store = s.store := by
  unfold State.settleLeaving
  refine foldl_store (fun s p => ?_) _ _
  (repeat' split) <;> simp

@[simp] theorem State.popsSeen_store (s : State) (core : Nat) (rs : List ReadLane) :
    (s.popsSeen core rs).store = s.store := by simp [State.popsSeen]

@[simp] theorem State.pickOne_store (s : State) (l : List Nat) : (s.pickOne l).2.store = s.store := by
  induction l generalizing s with
  | nil => rfl
  | cons c rest ih =>
    cases rest with
    | nil => rfl
    | cons d rest =>
      unfold State.pickOne
      dsimp only
      split <;> simp [ih]

@[simp] theorem State.modQueue_store (s : State) (vf q : Nat) (g : QueueUnit → QueueUnit) :
    (s.modQueue vf q g).store = s.store := by simp [State.modQueue]

@[simp] theorem State.refuse_store (s : State) (vf q code : Nat) :
    (s.refuse vf q code).store = s.store := by simp [State.refuse]

@[simp] theorem State.checkReady_store (s : State) (vf q : Nat) : (s.checkReady vf q).store = s.store := by
  simp only [State.checkReady]
  (repeat' split) <;> simp

@[simp] theorem State.takeContexts_store (s : State) (core tenant : Nat) (r : LaunchRecord) :
    (s.takeContexts core tenant r).store = s.store := by simp [State.takeContexts]

@[simp] theorem State.createFibres_store (s : State) (core vf launch crew first : Nat) (r : LaunchRecord) (pc : Pc) :
    (s.createFibres core vf launch crew first r pc).store = s.store := by
  unfold State.createFibres
  exact foldl_store (fun s p => s.setFibre_store _ _) _ _

theorem State.placeCrew_store (s : State) {vf launch band core first relaunches : Nat} {r : LaunchRecord} {t : State}
    (e : s.placeCrew vf launch band core first relaunches r = some t) : t.store = s.store := by
  unfold State.placeCrew at e
  dsimp only at e
  split at e
  · cases e
  split at e
  · cases e
  · cases e
    rw [State.createFibres_store]
    simp

theorem State.placeCrews_store (s : State) {vf launch band cluster i : Nat} {r : LaunchRecord} {n : Nat} {t : State}
    (e : s.placeCrews vf launch band cluster i r n = some t) : t.store = s.store := by
  induction n generalizing s i with
  | zero =>
    cases e
    rfl
  | succ n ih =>
    unfold State.placeCrews at e
    dsimp only at e
    split at e
    · cases e
    next u hu =>
    obtain ⟨core, -, hc⟩ := List.exists_of_findSome?_eq_some hu
    exact (ih u e).trans (s.placeCrew_store hc)

theorem State.placeBand_store (s : State) {vf launch band : Nat} {r : LaunchRecord} {t : State}
    (e : s.placeBand vf launch band r = some t) : t.store = s.store := by
  obtain ⟨c, -, hc⟩ := List.exists_of_findSome?_eq_some e
  exact s.placeCrews_store hc

@[simp] theorem State.countLate_store (s : State) (launch : Nat) : (s.countLate launch).store = s.store := by
  unfold State.countLate
  split <;> simp

@[simp] theorem State.lend_store (s : State) (t u : Nat) : (s.lend t u).store = s.store := by simp [State.lend]

@[simp] theorem State.borrow_store (s : State) (part : Option Nat) (t : Nat) :
    (s.borrow part t).store = s.store := by simp [State.borrow]

@[simp] theorem State.drrNext_store (s : State) (l : List Candidate) (n : Nat) : (s.drrNext l n).2.store = s.store := by
  induction n generalizing s with
  | zero => rfl
  | succ n ih =>
    unfold State.drrNext
    dsimp only
    (repeat' split) <;> simp [ih]

@[simp] theorem State.selectQueue_store (s : State) (part : Option Nat) (l : List Candidate) :
    (s.selectQueue part l).2.store = s.store := by
  simp only [State.selectQueue]
  (repeat' split) <;> simp

@[simp] theorem State.clearDeficits_store (s : State) : s.clearDeficits.store = s.store := by simp [State.clearDeficits]

@[simp] theorem State.acquired_store (s : State) (core scope : Nat) (k : OrdKind) :
    (s.acquired core scope k).store = s.store := by simp [State.acquired]

@[simp] theorem State.clearL2_store (s : State) (lines : List Nat) :
    (s.clearL2 lines).store = s.store := by simp [State.clearL2]

@[simp] theorem State.enterObject_store (s : State) (o : CohObject) : (s.enterObject o).2.store = s.store := by
  unfold State.enterObject
  split
  · next e => split <;> simp [store_of_snd (s.pickOne_store _) e]
  · next e => exact store_of_snd (s.pickOne_store _) e

@[simp] theorem State.setObject_store (s : State) (index gen : Nat) (kind : ObjState) (owner : Nat) :
    (s.setObject index gen kind owner).store = s.store := by simp [State.setObject]

@[simp] theorem State.closeObject_store (s : State) (index gen : Nat) :
    (s.closeObject index gen).store = s.store := by simp [State.closeObject]

@[simp] theorem State.answer_store (s : State) (l : List Nat) : (s.answer l).store = s.store := by simp [State.answer]

@[simp] theorem State.writeLost_store (s : State) (o : OrdOp) (key : Nat) : (s.writeLost o key).store = s.store := by
  unfold State.writeLost
  split <;> simp

@[simp] theorem State.flushed_store (s : State) (o : OrdOp) (key : Nat) : (s.flushed o key).store = s.store := by
  simp only [State.flushed]
  (repeat' split) <;> simp

@[simp] theorem State.deliverOp_store (s : State) (id : Nat) (o : OrdOp) (v : DWord) :
    (s.deliverOp id o v).store = s.store := by
  simp only [State.deliverOp]
  (repeat' split) <;> simp

@[simp] theorem LaneIn.deferLoad_store (x : LaneIn) (s : State) (d : Deferred) (codes : List Nat) :
    (x.deferLoad s d codes).store = s.store := by
  unfold LaneIn.deferLoad
  simp

@[simp] theorem State.settleOp_store (s : State) (key op : Nat) (stopped : Option Stopped) :
    (s.settleOp key op stopped).store = s.store := by
  unfold State.settleOp
  split <;> simp

@[simp] theorem State.freeTranslations_store (s : State) (id : Nat) :
    (s.freeTranslations id).store = s.store := by simp [State.freeTranslations]

@[simp] theorem State.dropEngine_store (s : State) (id : Nat) (o : EngineOp) :
    (s.dropEngine id o).store = s.store := by simp [State.dropEngine]

@[simp] theorem State.endEngine_store (s : State) (id : Nat) : (s.endEngine id).store = s.store := by
  unfold State.endEngine
  split <;> simp

@[simp] theorem State.stopEngine_store (s : State) (id : Nat) (st : Stopped) :
    (s.stopEngine id st).store = s.store := by
  unfold State.stopEngine
  split <;> simp

@[simp] theorem State.startEngine_store (s : State) (key vf cls : Nat) (pages : List (Nat × Nat)) (job : Job)
    (writes : List (Nat × Nat)) (hostWrites : List Nat) :
    (s.startEngine key vf cls pages job writes hostWrites).2.store = s.store := by simp [State.startEngine]

@[simp] theorem State.pin_store (s : State) (id : Nat) (gs : List (Nat × Bool × Nat)) :
    (s.pin id gs).store = s.store := by simp [State.pin]

@[simp] theorem State.copyDone_store (s : State) (id : Nat) (o : EngineOp) (j : CopyJob) :
    (s.copyDone id o j).store = s.store := by simp [State.copyDone]

theorem State.engineNumber_store (s : State) {o : EngineOp} {space a n : Nat} {h : Option Nat} {r : State × Nat}
    (e : s.engineNumber o space a n h = .ok r) : r.1.store = s.store := by
  unfold State.engineNumber at e
  split at e
  · cases e
  split at e
  · next hb =>
    cases e
    exact s.engineReadBytes_store hb
  · cases e

theorem State.gsIndex_store (s : State) {o : EngineOp} {j : GsJob} {h : Option Nat} {i : Nat} {r : State × Option Nat}
    (e : s.gsIndex o j h i = .ok r) : r.1.store = s.store := by
  have masked {t : State} {m : Nat} (e : (if j.mask = 0 then .ok (s, 1) else
      (s.engineNumber o j.ispace (j.mask + i / 8) 1 h).map fun r => (r.1, r.2 / 2 ^ (i % 8) % 2)) = .ok (t, m)) :
      t.store = s.store := by
    split at e
    · cases e
      rfl
    · cases hm : s.engineNumber o j.ispace (j.mask + i / 8) 1 h with
      | error b => simp [hm, Except.map] at e
      | ok p =>
        rw [hm] at e
        cases e
        exact s.engineNumber_store hm
  unfold State.gsIndex at e
  split at e
  · cases e
  · next hm =>
    cases e
    exact masked hm
  · next t _ _ hm =>
    cases hi : t.engineNumber o j.ispace (j.idx + 4 * i) 4 h with
    | error b => simp [hi, Except.map] at e
    | ok p =>
      rw [hi] at e
      cases e
      exact (t.engineNumber_store hi).trans (masked hm)

@[simp] theorem State.runWb_store (s : State) (id : Nat) (o : EngineOp) (j : WbJob) :
    (s.runWb id o j).store = s.store := by
  simp only [State.runWb]
  split
  · rw [State.endEngine_store]
    split
    · exact foldl_store (fun s line => by split <;> simp) _ _
    · rfl
  · rfl

@[simp] theorem State.sendWords_store (s : State) (core tenant q : Nat) (v : DWord) (wide neighbour : Bool) :
    (s.sendWords core tenant q v wide neighbour).store = s.store := by simp [State.sendWords]

@[simp] theorem State.accept_store (s : State) (core tenant q i : Nat) (v : DWord) (wide : Bool) :
    (s.accept core tenant q i v wide).store = s.store := by
  unfold State.accept
  split <;> simp

@[simp] theorem State.offerAll_store (s : State) (key tenant q : Nat) (v : DWord) (wide : Bool) (l : List Nat) :
    (s.offerAll key tenant q v wide l).2.store = s.store := by
  induction l generalizing s with
  | nil => rfl
  | cons i rest ih => simp only
    [State.offerAll, apply_ite Prod.snd, apply_ite State.store, ih, State.modFibre_store, State.accept_store, ite_self]

@[simp] theorem State.setFsm_store (s : State) (key vf : Nat) (handle : Word) :
    (s.setFsm key vf handle).store = s.store := by simp [State.setFsm]

@[simp] theorem State.hopInto_store (s : State) (key : Nat) (f : Fibre) (seg slide : Nat) (rp : DWord) :
    (s.hopInto key f seg slide rp).store = s.store := by simp [State.hopInto]

@[simp] theorem State.writeReturn_store (s : State) (key slide : Nat) (rp : DWord) :
    (s.writeReturn key slide rp).store = s.store := by simp [State.writeReturn]

@[simp] theorem State.hopBack_store (s : State) (key : Nat) (f : Fibre) (g : Segment) :
    (s.hopBack key f g).store = s.store := by simp [State.hopBack]

@[simp] theorem State.coldAt_store (s : State) (key : Nat) (pc : Pc) :
    (s.coldAt key pc).store = s.store := by simp [State.coldAt]

@[simp] theorem State.markReform_store (s : State) (key : Nat) :
    (s.markReform key).store = s.store := by simp [State.markReform]

@[simp] theorem State.retire_store (s : State) (key : Nat) (freeFrames : Bool) :
    (s.retire key freeFrames).store = s.store := by
  simp only [State.retire]
  (repeat' split) <;> simp

theorem State.spawnFibre_store (s : State) {key : Nat} {f : Fibre} {ptr : DWord} {v w : Word} {r : Nat × State}
    (e : s.spawnFibre key f ptr v w = some r) : r.2.store = s.store := by
  unfold State.spawnFibre at e
  dsimp only at e
  rw [Option.ite_none_left_eq_some] at e
  obtain ⟨-, e⟩ := e
  split at e
  · next u _ hu =>
    split at e
    · cases e
    · cases e
      simp [s.heapRoom_store hu]
  · cases e

@[simp] theorem State.dropK_store (s : State) (vf slot : Nat) (k : KObject) : (s.dropK vf slot k).store = s.store := by
  simp only [State.dropK]
  (repeat' split) <;> simp

@[simp] theorem LaneIn.modify_store (x : LaneIn) (s : State) (g : Fibre → Fibre) :
    (x.modify s g).store = s.store := by simp [LaneIn.modify]

@[simp] theorem State.modContext_store (s : State) (core ctx : Nat) (g : AccContext → AccContext) :
    (s.modContext core ctx g).store = s.store := by simp [State.modContext]

@[simp] theorem State.runMzero_store (s : State) (core ctx mask : Nat) :
    (s.runMzero core ctx mask).store = s.store := by simp [State.runMzero]

@[simp] theorem State.runStat_store (s : State) (key core ctx : Nat) (clear busy : Bool) (targets : List Loc) :
    (s.runStat key core ctx clear busy targets).store = s.store := by simp [State.runStat]

@[simp] theorem State.endCommand_store (s : State) (core ctx id : Nat) :
    (s.endCommand core ctx id).store = s.store := by simp [State.endCommand]

@[simp] theorem State.commandDone_store (s : State) (core ctx : Nat) (o : EngineOp) (a : MtxCommand) :
    (s.commandDone core ctx o a).store = s.store := by
  unfold State.commandDone
  split <;> simp

@[simp] theorem State.takeFeed_store (s : State) (core tenant : Nat) (second : Bool) :
    (s.takeFeed core tenant second).store = s.store := by simp [State.takeFeed]

@[simp] theorem State.takeFeeds_store (s : State) (core tenant : Nat) (f : FormW) :
    (s.takeFeeds core tenant f).store = s.store := by simp [State.takeFeeds]

@[simp] theorem State.accept__store (s : State) (key vf core ctx : Nat) (cmd : MtxCommand) :
    (s.accept_ key vf core ctx cmd).2.store = s.store := by simp [State.accept_]

@[simp] theorem State.countAll_store (s : State) (id first : Nat) (keys : List Nat) :
    (s.countAll id first keys).store = s.store := by simp [State.countAll]

@[simp] theorem State.mboxPop_store (s : State) (core : Nat) :
    (s.mboxPop core).store = s.store := by simp [State.mboxPop]

@[simp] theorem State.invalidate_store (s : State) (waiter vf page : Nat) (all : Bool) :
    (s.invalidate waiter vf page all).store = s.store := by simp [State.invalidate]

@[simp] theorem State.writeXlinvC_store (s : State) (core v : Nat) :
    (s.writeXlinvC core v).store = s.store := by simp [State.writeXlinvC]

@[simp] theorem State.writeCore_store (s : State) (core off v : Nat) :
    (s.writeCore core off v).store = s.store := by simp [State.writeCore]

@[simp] theorem State.mboxTimeout_store (s : State) (core : Nat) : (s.mboxTimeout core).store = s.store := by
  simp only [State.mboxTimeout]
  (repeat' split) <;> simp

@[simp] theorem State.replyRelease_store (s : State) (key : Nat) (f : Fibre) (h : DWord) :
    (s.replyRelease key f h).store = s.store := by
  unfold State.replyRelease
  split <;> simp

@[simp] theorem State.killByOrder_store (s : State) (crew deadline : Nat) :
    (s.killByOrder crew deadline).store = s.store := by simp [State.killByOrder]

@[simp] theorem State.deadlineKill_store (s : State) (crew : Nat) : (s.deadlineKill crew).store = s.store := by
  simp only [State.deadlineKill]
  (repeat' split) <;> simp

@[simp] theorem State.forgetLines_store (s : State) (lines : List Nat) :
    (s.forgetLines lines).store = s.store := by simp [State.forgetLines]

@[simp] theorem State.setEntry_store (s : State) (vf i : Nat) (e : CodeEntry) :
    (s.setEntry vf i e).store = s.store := by simp [State.setEntry]

@[simp] theorem State.codexDone_store (s : State) (id status : Nat) (handle : Option Nat) (runs : List (Nat × Nat)) :
    (s.codexDone id status handle runs).store = s.store := by
  simp only [State.codexDone]
  (repeat' split) <;> simp

theorem State.imageBytes_store (s : State) {o : EngineOp} {src len : Nat} {r : State × List Byte}
    (e : s.imageBytes o src len = .ok r) : r.1.store = s.store := by
  unfold State.imageBytes at e
  split at e
  · cases e
  split at e
  · cases e
  split at e
  · next hb =>
    cases e
    exact s.engineReadBytes_store hb
  · cases e

@[simp] theorem State.codexUnread_store (s : State) (id : Nat) (o : EngineOp) (a : Option Nat) :
    (s.codexUnread id o a).store = s.store := by
  simp only [State.codexUnread]
  (repeat' split) <;> simp

@[simp] theorem State.codexReserve_store (s : State) (id index : Nat) (r : CodexReq) :
    (s.codexReserve id index r).store = s.store := by simp [State.codexReserve]

@[simp] theorem State.writeOwner_store (s : State) (off v : Nat) :
    (s.writeOwner off v).store = s.store := by simp [State.writeOwner]

@[simp] theorem State.btFlr_store (s : State) (vf : Nat) : (s.btFlr vf).store = s.store := by
  unfold State.btFlr
  exact foldl_store (fun s die => s.modBittern_store _ _) _ _

@[simp] theorem State.writeFctl_store (s : State) (vf die slot v : Nat) :
    (s.writeFctl vf die slot v).store = s.store := by simp [State.writeFctl]

@[simp] theorem State.writeHsnap_store (s : State) (vf die v : Nat) :
    (s.writeHsnap vf die v).store = s.store := by simp [State.writeHsnap]

@[simp] theorem State.writeIclr_store (s : State) (vf die v : Nat) : (s.writeIclr vf die v).store = s.store := by
  unfold State.writeIclr
  split <;> simp

@[simp] theorem State.writeWindow_store (s : State) (vf die off v : Nat) :
    (s.writeWindow vf die off v).store = s.store := by simp [State.writeWindow]

@[simp] theorem State.raiseSluice_store (s : State) (io type vf v0 v1 : Nat) :
    (s.raiseSluice io type vf v0 v1).store = s.store := by simp [State.raiseSluice]

@[simp] theorem State.setLink_store (s : State) (src dst : Nat) (l : DieLink) :
    (s.setLink src dst l).store = s.store := by simp [State.setLink]

@[simp] theorem State.sendFlits_store (s : State) (src dst stripe : Nat) (indices : List Nat) :
    (s.sendFlits src dst stripe indices).store = s.store := by
  simp only [State.sendFlits]
  (repeat' split) <;> simp

@[simp] theorem State.sendLink_store (s : State) (src dst : Nat) (p : Packet) (port : Option (Nat × Nat)) :
    (s.sendLink src dst p port).store = s.store := by simp [State.sendLink]

@[simp] theorem State.onWire_store (s : State) (p : Packet) (port entropy : Nat) :
    (s.onWire p port entropy).store = s.store := by simp [State.onWire]

@[simp] theorem State.sendPort_store (s : State) (io : Nat) (p : Packet) (e : Nat × Nat) :
    (s.sendPort io p e).store = s.store := by simp [State.sendPort]

@[simp] theorem State.sendHere_store (s : State) (io : Nat) (p : Packet) :
    (s.sendHere io p).store = s.store := by simp [State.sendHere]

@[simp] theorem State.sendPacket_store (s : State) (io vf : Nat) (p : Packet) (e : Nat) :
    (s.sendPacket io vf p e).store = s.store := by
  simp only [State.sendPacket]
  (repeat' split) <;> simp

@[simp] theorem State.answerTo_store (s : State) (io : Nat) (p : Packet) (type stripe : Nat) (immv : Word)
    (round : Nat) (data : List Byte) :
    (s.answerTo io p type stripe immv round data).store = s.store := by simp [State.answerTo]

@[simp] theorem State.refuseHere_store (s : State) (io : Nat) (p : Packet) : (s.refuseHere io p).store = s.store := by
  simp only [State.refuseHere]
  (repeat' split) <;> simp

@[simp] theorem State.indicateReset_store (s : State) (io vf dev peer : Nat) (p : Packet) :
    (s.indicateReset io vf dev peer p).store = s.store := by simp [State.indicateReset]

@[simp] theorem State.newMessage_store (s : State) (vf : Nat) :
    (s.newMessage vf).2.store = s.store := by simp [State.newMessage]

@[simp] theorem State.netJob_store (s : State) (vf space request len : Nat) (q : NetRequest) (kslot : Option Nat) :
    (s.netJob vf space request len q kslot).2.store = s.store := by simp [State.netJob]

@[simp] theorem State.releasePages_store (s : State) (id : Nat) :
    (s.releasePages id).store = s.store := by simp [State.releasePages]

@[simp] theorem State.pruneNet_store (s : State) (key : Nat) :
    (s.pruneNet key).store = s.store := by simp [State.pruneNet]

@[simp] theorem State.settleK_store (s : State) (j : NetJob) (done : Bool) : (s.settleK j done).store = s.store := by
  simp only [State.settleK]
  (repeat' split) <;> simp

@[simp] theorem State.netEnd_store (s : State) (id : Nat) (o : EngineOp) (j : NetJob) (st : NetState)
    (stop : Option Stopped) :
    (s.netEnd id o j st stop).store = s.store := by simp [State.netEnd]

@[simp] theorem State.netLoss_store (s : State) (id : Nat) (o : EngineOp) (j : NetJob) (st : NetState) :
    (s.netLoss id o j st).store = s.store := by simp [State.netLoss]

@[simp] theorem State.sendFragments_store (s : State) (o : EngineOp) (j : NetJob) (stripe round : Nat)
    (indices : List Nat) :
    (s.sendFragments o j stripe round indices).store = s.store := by simp [State.sendFragments]

@[simp] theorem State.sendStripe_store (s : State) (id stripe : Nat) : (s.sendStripe id stripe).store = s.store := by
  simp only [State.sendStripe]
  (repeat' split) <;> simp

@[simp] theorem State.loseMessage_store (s : State) (id : Nat) (o : EngineOp) (j : NetJob) :
    (s.loseMessage id o j).store = s.store := by simp [State.loseMessage]

@[simp] theorem State.takeRequest_store (s : State) (p : Packet) : (s.takeRequest p).store = s.store := by
  simp only [State.takeRequest]
  (repeat' split) <;> simp

@[simp] theorem State.takeNack_store (s : State) (p : Packet) : (s.takeNack p).store = s.store := by
  simp only [State.takeNack]
  (repeat' split) <;> simp

@[simp] theorem State.syncSluice_store (s : State) (io : Nat) :
    (s.syncSluice io).store = s.store := by simp [State.syncSluice]

@[simp] theorem State.setMessage_store (s : State) (id : Nat) (m : RxMessage) :
    (s.setMessage id m).store = s.store := by simp [State.setMessage]

@[simp] theorem State.refuseMessage_store (s : State) (id : Nat) (m : RxMessage) (p : Packet) :
    (s.refuseMessage id m p).store = s.store := by simp [State.refuseMessage]

@[simp] theorem State.ackStripe_store (s : State) (m : RxMessage) (stripe : Nat) :
    (s.ackStripe m stripe).store = s.store := by simp [State.ackStripe]

@[simp] theorem State.movePrevs_store (s : State) (vf : Nat) (moves : List (Nat × Nat)) (a n : Nat) :
    (s.movePrevs vf moves a n).store = s.store := by
  induction n generalizing s a with
  | zero => rfl
  | succ n ih =>
    unfold State.movePrevs
    split <;> simp [ih]

@[simp] theorem State.serveInbox_store (s : State) (core n : Nat) : (s.serveInbox core n).store = s.store := by
  induction n generalizing s with
  | zero => rfl
  | succ n ih =>
    unfold State.serveInbox
    dsimp only
    (repeat' split) <;> simp [ih]

@[simp] theorem State.deliverK_store (s : State) (core vf : Nat) (h : DWord) :
    (s.deliverK core vf h).store = s.store := by simp [State.deliverK]

@[simp] theorem State.placeK_store (s : State) (id : Nat) (m : RxMessage) : (s.placeK id m).store = s.store := by
  simp only [State.placeK]
  (repeat' split) <;> simp

@[simp] theorem State.ackStripes_store (s : State) (id : Nat) (m : RxMessage) :
    (s.ackStripes id m).store = s.store := by simp [State.ackStripes]

@[simp] theorem State.lateFragment_store (s : State) (io : Nat) (p : Packet) (m : Option RxMessage) :
    (s.lateFragment io p m).store = s.store := by
  simp only [State.lateFragment]
  (repeat' split) <;> simp

@[simp] theorem State.takeProbe_store (s : State) (p : Packet) : (s.takeProbe p).store = s.store := by
  unfold State.takeProbe
  split <;> simp

@[simp] theorem State.takeAbort_store (s : State) (p : Packet) : (s.takeAbort p).store = s.store := by
  unfold State.takeAbort
  split <;> simp

@[simp] theorem State.askAgain_store (s : State) (id stripe : Nat) : (s.askAgain id stripe).store = s.store := by
  simp only [State.askAgain]
  (repeat' split) <;> simp

@[simp] theorem State.netCancel_store (s : State) (id : Nat) (o : EngineOp) (j : NetJob) :
    (s.netCancel id o j).store = s.store := by
  simp only [State.netCancel]
  (repeat' split) <;> simp

@[simp] theorem State.netReset_store (s : State) (vf : Nat) :
    (s.netReset vf).store = s.store := by simp [State.netReset]

@[simp] theorem State.handOver_store (s : State) (src dst stripe : Nat) :
    (s.handOver src dst stripe).store = s.store := by
  simp only [State.handOver]
  (repeat' split) <;> simp

@[simp] theorem State.deliverLink_store (s : State) (src dst n : Nat) : (s.deliverLink src dst n).store = s.store := by
  induction n generalizing s with
  | zero => rfl
  | succ n ih =>
    unfold State.deliverLink
    dsimp only
    (repeat' split) <;> simp [ih]

@[simp] theorem State.loseGroup_store (s : State) (a b group : Nat) :
    (s.loseGroup a b group).store = s.store := by simp [State.loseGroup]

@[simp] theorem State.askFlits_store (s : State) (src dst stripe : Nat) (t : LinkStripe) :
    (s.askFlits src dst stripe t).store = s.store := by simp [State.askFlits]

@[simp] theorem State.chooseTenant_store (s : State) (core : Nat) (c : List Nat) :
    (s.chooseTenant core c).2.store = s.store := by
  unfold State.chooseTenant
  dsimp only
  split
  all_goals
    rw [ite_store, foldl_store fun s t => s.modUnit_store _ _, ite_self]

@[simp] theorem State.drawRank_store (s : State) (core port : Nat) : (s.drawRank core port).2.store = s.store := by
  simp only [State.drawRank]
  split
  · rfl
  have chosen (b : Bool) (c : List Nat) : (if b then (none, s) else s.chooseTenant core c).2.store = s.store := by
    split
    · rfl
    · simp
  split
  · next e => exact store_of_snd (chosen _ _) e
  · next e => exact store_of_snd (chosen _ _) e

@[simp] theorem State.ageAll_store (s : State) (core : Nat) : (s.ageAll core).store = s.store := by simp [State.ageAll]

@[simp] theorem State.releaseStall_store (s : State) (core age : Nat) : (s.releaseStall core age).store = s.store := by
  simp only [State.releaseStall]
  (repeat' split) <;> simp

@[simp] theorem State.settleOverflow_store (s : State) (core : Nat) :
    (s.settleOverflow core).store = s.store := by simp [State.settleOverflow]

@[simp] theorem State.meet_store (s : State) (key : Nat) (w : Park) : (s.meet key w).store = s.store := by
  simp only [State.meet]
  (repeat' split) <;> simp

@[simp] theorem State.dropHead_store (s : State) (vf q : Nat) :
    (s.dropHead vf q).store = s.store := by simp [State.dropHead]

@[simp] theorem State.writeQhead_store (s : State) (vf q v : Nat) :
    (s.writeQhead vf q v).store = s.store := by simp [State.writeQhead]

@[simp] theorem State.shrinkHeap_store (s : State) (core size n : Nat) :
    (s.shrinkHeap core size n).store = s.store := by
  induction n generalizing s with
  | zero => rfl
  | succ n ih =>
    unfold State.shrinkHeap
    (repeat' split) <;> simp [ih]

theorem State.rootSegment_store (s : State) {key : Nat} {f : Fibre} {pc : Pc} {t : State}
    (e : s.rootSegment key f pc = some (some t)) : t.store = s.store := by
  unfold State.rootSegment at e
  split at e
  · cases e
  split at e
  · cases e
  · next hu =>
    cases e
    simp [s.heapRoom_store hu]

theorem State.rootSegments_store (s : State) {pc : Pc} {l : List (Nat × Fibre)} {t : State}
    (e : s.rootSegments pc l = some (some t)) : t.store = s.store := by
  induction l generalizing s with
  | nil =>
    cases e
    rfl
  | cons p rest ih =>
    unfold State.rootSegments at e
    split at e
    · cases e
    · cases e
    · next u hu => exact (ih u e).trans (s.rootSegment_store hu)

@[simp] theorem State.startCrew_store (s : State) (crew : Nat) : (s.startCrew crew).store = s.store := by
  simp only [State.startCrew]
  split
  · rfl
  split
  · rfl
  split
  · rfl
  split
  · simp
  split
  · simp
  · rfl
  · next e => simp [s.rootSegments_store e]

@[simp] theorem State.repayLenders_store (s : State) (t : Nat) (l : List Nat) (left : Nat) :
    (s.repayLenders t l left).store = s.store := by
  induction l generalizing s left with
  | nil => rfl
  | cons u rest ih =>
    unfold State.repayLenders
    dsimp only
    split <;> simp [ih]

@[simp] theorem State.refill_store (s : State) (t : Nat) : (s.refill t).store = s.store := by simp [State.refill]

@[simp] theorem State.sendPending_store (s : State) (vf : Nat) :
    (s.sendPending vf).store = s.store := by simp [State.sendPending]

@[simp] theorem State.takeBudgets_store (s : State) : s.takeBudgets.store = s.store := by simp [State.takeBudgets]

@[simp] theorem State.answerSnoop_store (s : State) (port : HostPort) (line since : Nat) :
    (s.answerSnoop port line since).store = s.store := by simp [State.answerSnoop]

@[simp] theorem State.killVf_store (s : State) (vf : Nat) : (s.killVf vf).store = s.store := by simp [State.killVf]

@[simp] theorem State.tdispError_store (s : State) (vf : Nat) :
    (s.tdispError vf).store = s.store := by simp [State.tdispError]

@[simp] theorem State.releaseVector_store (s : State) (vf v : Nat) :
    (s.releaseVector vf v).store = s.store := by simp [State.releaseVector]

@[simp] theorem State.writeMsix_store (s : State) (vf off v : Nat) :
    (s.writeMsix vf off v).store = s.store := by simp [State.writeMsix]

@[simp] theorem State.renew_store (s : State) (port : HostPort) (v : Nat) :
    (s.renew port v).store = s.store := by simp [State.renew]

@[simp] theorem State.linkChange_store (s : State) (port : HostPort) (up : Bool) :
    (s.linkChange port up).store = s.store := by simp [State.linkChange]

@[simp] theorem State.writePtpOfs_store (s : State) (v : Nat) :
    (s.writePtpOfs v).store = s.store := by simp [State.writePtpOfs]

@[simp] theorem State.writePtpTrim_store (s : State) (v : Nat) :
    (s.writePtpTrim v).store = s.store := by simp [State.writePtpTrim]

@[simp] theorem State.writeXlinv_store (s : State) (vf v : Nat) :
    (s.writeXlinv vf v).store = s.store := by simp [State.writeXlinv]

@[simp] theorem State.writeBacking_store (s : State) (off v : Nat) :
    (s.writeBacking off v).store = s.store := by simp [State.writeBacking]

@[simp] theorem State.writeHlCtl_store (s : State) (v : Nat) :
    (s.writeHlCtl v).store = s.store := by simp [State.writeHlCtl]

@[simp] theorem State.writeMchkLog_store (s : State) (off v : Nat) :
    (s.writeMchkLog off v).store = s.store := by simp [State.writeMchkLog]

@[simp] theorem State.freeCores_store (s : State) (vf : Nat) :
    (s.freeCores vf).store = s.store := by simp [State.freeCores]

@[simp] theorem State.freeQueues_store (s : State) (vf : Nat) :
    (s.freeQueues vf).store = s.store := by simp [State.freeQueues]

@[simp] theorem State.returnFlr_store (s : State) (vf : Nat) : (s.returnFlr vf).store = s.store := by
  unfold State.returnFlr
  refine (State.btFlr_store _ _).trans (foldl_store (fun s io => ?_) _ _)
  exact (State.setMgmt_store _ _ _).trans (State.setMgmt_store _ _ _)

@[simp] theorem State.dropHeads_store (s : State) (vf : Nat) :
    (s.dropHeads vf).store = s.store := by simp [State.dropHeads]

@[simp] theorem State.deadTag_store (s : State) (core line : Nat) : (s.deadTag core line).store = s.store := by
  simp only [State.deadTag]
  (repeat' split) <;> simp

@[simp] theorem State.killCore_store (s : State) (core : Nat) (spared : Bool) :
    (s.killCore core spared).store = s.store := by simp [State.killCore]

@[simp] theorem State.startClerk_store (s : State) (core : Nat) :
    (s.startClerk core).store = s.store := by simp [State.startClerk]

@[simp] theorem State.returnQueues_store (s : State) : s.returnQueues.store = s.store := by simp [State.returnQueues]

@[simp] theorem State.watchBeat_store (s : State) : s.watchBeat.store = s.store := by simp [State.watchBeat]

@[simp] theorem State.beat_store (s : State) (controller : Nat) : (s.beat controller).store = s.store := by
  simp only [State.beat]
  (repeat' split) <;> simp

@[simp] theorem State.eccEvent_store (s : State) (type : Nat) (l : EccLocation) :
    (s.eccEvent type l).store = s.store := by simp [State.eccEvent]

@[simp] theorem State.softNotice_store (s : State) (core tenant info : Nat) (p : Option (Nat × Fibre)) :
    (s.softNotice core tenant info p).store = s.store := by simp [State.softNotice]

@[simp] theorem State.softKill_store (s : State) (relaunch : Bool) (info crew : Nat) :
    (s.softKill relaunch info crew).store = s.store := by
  unfold State.softKill
  split <;> simp

@[simp] theorem State.eccCache_store (s : State) (core line : Nat) : (s.eccCache core line).store = s.store := by
  simp only [State.eccCache]
  (repeat' split) <;> simp

@[simp] theorem State.fetchFails_store (s : State) (gid : Nat) : (s.fetchFails gid).store = s.store := by
  unfold State.fetchFails
  split <;> simp

end Sys2Proof.Machine

/-! ## What stores keeps the canonical form

The operations that do store, lowest first: each writes by the model's own writes to a memory, which keep its canonical form
(`Memory.wf_writeBytes`, `Memory.wf_writeCells`), or by operations before it. An outcome of a lane is canonical where the state
that it carries is; the runs over lanes (`State.runLanes`, `State.runCross`) keep the form where their bodies do. -/

namespace Sys2Proof.Machine

theorem Memory.above_filter (p : Nat × Byte → Bool) {m : Memory} {lo : Nat} (w : m.above lo = true) :
    Memory.above lo (m.filter p) = true := by
  induction m generalizing lo with
  | nil => rfl
  | cons c m ih =>
    obtain ⟨hlo, hv, hm⟩ := Memory.above_cons.mp w
    rw [List.filter_cons]
    split
    · exact Memory.above_cons.mpr ⟨hlo, hv, ih hm⟩
    · exact Memory.above_mono _ (by omega) (ih hm)

/-- Some bytes of a memory in canonical form are in canonical form. -/
theorem Memory.wf_filter (p : Nat × Byte → Bool) {m : Memory} (w : m.wf = true) : Memory.wf (m.filter p) = true :=
  Memory.above_filter p w

/-- The storage is in canonical form. -/
def Store.Canonical (m : Store) : Prop := m.phys.wf = true ∧ m.pitch.wf = true

theorem Store.Canonical.phys {m : Store} (h : m.Canonical) : m.phys.wf = true := h.1

theorem Store.Canonical.pitch {m : Store} (h : m.Canonical) : m.pitch.wf = true := h.2

@[simp] theorem Store.canonical_mk (p q : Memory) (a b : List Nat) :
    Store.Canonical ⟨p, q, a, b⟩ ↔ p.wf = true ∧ q.wf = true := Iff.rfl

@[simp] theorem Store.canonical_ite (c : Prop) [Decidable c] (a b : Store) :
    (if c then a else b).Canonical ↔ if c then a.Canonical else b.Canonical := by
  split <;> rfl

/-- A fold whose step keeps the canonical form keeps it. -/
@[simp] theorem foldl_canonical {α : Type} {f : State → α → State} {s : State} (hs : s.store.Canonical)
    (h : ∀ s a, s.store.Canonical → (f s a).store.Canonical) (l : List α) : (l.foldl f s).store.Canonical := by
  induction l generalizing s with
  | nil => exact hs
  | cons a l ih => exact ih (h s a hs)

/-- The same of a fold that gathers answers beside the state. -/
theorem foldl_snd_canonical {α β : Type} {f : β × State → α → β × State} {p : β × State} (hp : p.2.store.Canonical)
    (h : ∀ p a, p.2.store.Canonical → (f p a).2.store.Canonical) (l : List α) : (l.foldl f p).2.store.Canonical := by
  induction l generalizing p with
  | nil => exact hp
  | cons a l ih => exact ih (h p a hp)

/-- The state of an answer that has been taken apart. -/
theorem canonical_of_snd {β : Type} {p : β × State} {b : β} {t : State} (h : p.2.store.Canonical) (e : p = (b, t)) :
    t.store.Canonical := by
  subst e
  exact h

theorem canonical_of_store {s t : State} (e : t.store = s.store) (hs : s.store.Canonical) : t.store.Canonical :=
  e ▸ hs

/-- The states that the outcome of a lane carries have their storage in canonical form. -/
@[simp] def LaneRes.Canonical : LaneRes → Prop
  | .outsIn s _ | .next s | .jump s _ _ | .effectIn s _ | .waitIn s _ | .parkIn s _ | .stop s => s.store.Canonical
  | .checked _ r => LaneRes.Canonical r
  | .outs _ _ _ _ | .effect _ | .park _ => True

/-- What stops a lane, where something does, carries only such states. -/
def StopsCanonical (o : Option LaneRes) : Prop := ∀ r, o = some r → r.Canonical

@[simp] theorem stopsCanonical_none : StopsCanonical none := fun _ e => by cases e

@[simp] theorem stopsCanonical_some (r : LaneRes) : StopsCanonical (some r) ↔ r.Canonical :=
  ⟨fun h => h r rfl, fun h _ e => by cases e; exact h⟩

theorem StopsCanonical.or {a b : Option LaneRes} (ha : StopsCanonical a) (hb : StopsCanonical b) :
    StopsCanonical (a.or b) := by
  cases a with
  | none => exact hb
  | some r => exact ha

@[simp] theorem stopsCanonical_ite (c : Prop) [Decidable c] (a b : Option LaneRes) :
    StopsCanonical (if c then a else b) ↔ if c then StopsCanonical a else StopsCanonical b := by
  split <;> rfl

@[simp] theorem laneRes_canonical_ite (c : Prop) [Decidable c] (a b : LaneRes) :
    (if c then a else b).Canonical ↔ if c then a.Canonical else b.Canonical := by
  split <;> rfl

theorem State.accepted_canonical {s : State} (hs : s.store.Canonical) {g : State → State}
    (h : (g s).store.Canonical) : (s.accepted g).store.Canonical := by
  unfold State.accepted
  split
  · exact hs
  · exact h

@[simp] theorem State.applyAtomic_canonical {s : State} (hs : s.store.Canonical) (id : Nat) (o : OrdOp) :
    (s.applyAtomic id o).store.Canonical := by
  simp only [State.applyAtomic]
  (repeat' split) <;> simp [hs, hs.phys, hs.pitch, Memory.wf_writeBytes]

@[simp] theorem State.queueAtomic_canonical {s : State} (hs : s.store.Canonical) (id : Nat) (o : OrdOp) :
    (s.queueAtomic id o).store.Canonical := by simp [State.queueAtomic, hs]

@[simp] theorem State.serve_canonical {s : State} (hs : s.store.Canonical) (id : Nat) :
    (s.serve id).store.Canonical := by
  simp only [State.serve]
  (repeat' split) <;> simp [hs]

@[simp] theorem State.evaluate_canonical {s : State} (hs : s.store.Canonical) (line : Nat) :
    (s.evaluate line).store.Canonical := by
  have watched : ((s.watchers line).foldl State.serve s).store.Canonical :=
    foldl_canonical hs (fun s id hs => State.serve_canonical hs id) _
  unfold State.evaluate
  extract_lets t
  split
  · exact watched
  · exact foldl_canonical watched (fun s id hs => State.serve_canonical hs id) _

@[simp] theorem State.deliver_canonical {s : State} (hs : s.store.Canonical) (line : Nat) :
    (s.deliver line).store.Canonical := by
  unfold State.deliver
  extract_lets h v0 s₁ s₂
  have h₂ : s₂.store.Canonical := by
    simp only [s₂, s₁]
    split <;> simp [hs]
  exact State.evaluate_canonical (foldl_canonical h₂ (fun s id hs => State.serve_canonical hs id) _) line

@[simp] theorem State.settle_canonical {s : State} (hs : s.store.Canonical) (line id : Nat) :
    (s.settle line id).store.Canonical := by simp +contextual [State.settle, hs]

@[simp] theorem State.applyFirst_canonical {s : State} (hs : s.store.Canonical) (line : Nat) (w : HomeWrite) :
    (s.applyFirst line w).store.Canonical := by
  unfold State.applyFirst
  extract_lets s₁ s₂
  have h₁ : s₁.store.Canonical := by
    simp only [s₁]
    split
    · exact hs
    · simp [hs.phys, hs.pitch, Memory.wf_writeCells]
  have h₂ : s₂.store.Canonical := by
    simp only [s₂]
    (repeat' split) <;> simp [h₁]
  split <;> simp [h₂]

@[simp] theorem State.applyWrites_canonical {s : State} (hs : s.store.Canonical) (line n : Nat) :
    (s.applyWrites line n).store.Canonical := by
  induction n generalizing s with
  | zero => exact hs
  | succ n ih =>
    unfold State.applyWrites
    dsimp only
    split
    · exact hs
    split
    · exact hs
    refine ih (State.settle_canonical (State.evaluate_canonical ?_ line) line _)
    split
    all_goals
      simp only [State.landFlight_store, State.raise_store]
      refine State.applyFirst_canonical ?_ line _
      simpa using hs

@[simp] theorem State.applyHome_canonical {s : State} (hs : s.store.Canonical) (line : Nat) :
    (s.applyHome line).store.Canonical := by simp [State.applyHome, hs]

@[simp] theorem State.sendHomeAs_canonical {s : State} (hs : s.store.Canonical) (w : HomeWrite) (line : Nat) :
    (s.sendHomeAs w line).2.store.Canonical := by
  simp only [State.sendHomeAs]
  (repeat' split) <;> simp [hs]

@[simp] theorem State.sendHome_canonical {s : State} (hs : s.store.Canonical) (core : Option Nat) (vf line : Nat)
    (data : List (Nat × Byte)) :
    (s.sendHome core vf line data).2.store.Canonical := by simp [State.sendHome, hs]

@[simp] theorem State.writeBack_canonical {s : State} (hs : s.store.Canonical) (core vf line : Nat) :
    (s.writeBack core vf line).2.store.Canonical := by
  simp only [State.writeBack]
  (repeat' split) <;> simp [hs]

@[simp] theorem State.writeBackAll_canonical {s : State} (hs : s.store.Canonical) (core vf : Nat) (lines : List Nat) :
    (s.writeBackAll core vf lines).2.store.Canonical := by
  unfold State.writeBackAll
  refine foldl_snd_canonical (p := ([], s)) hs (fun a line h => ?_) lines
  exact State.writeBack_canonical h core vf line

@[simp] theorem State.recall_canonical {s : State} (hs : s.store.Canonical) (core line : Nat) :
    (s.recall core line).store.Canonical := by
  simp only [State.recall]
  (repeat' split) <;> simp [hs]

@[simp] theorem State.releaseRetained_canonical {s : State} (hs : s.store.Canonical) (core vf line : Nat) :
    (s.releaseRetained core vf line).2.store.Canonical := by
  simp only [State.releaseRetained]
  (repeat' split) <;> simp [hs]

@[simp] theorem State.evictLine_canonical {s : State} (hs : s.store.Canonical) (core line : Nat) :
    (s.evictLine core line).store.Canonical := by
  simp only [State.evictLine]
  (repeat' split) <;> simp [hs]

@[simp] theorem State.fenceWrites_canonical {s : State} (hs : s.store.Canonical) (core vf : Nat) :
    (s.fenceWrites core vf).2.store.Canonical :=
  State.writeBackAll_canonical
    (foldl_canonical hs (fun _ line h => State.releaseRetained_canonical h core vf line) _) core vf _

@[simp] theorem State.beforeRestamp_canonical {s : State} (hs : s.store.Canonical) (core line : Nat) :
    (s.beforeRestamp core line).store.Canonical := by
  unfold State.beforeRestamp
  split <;> simp [hs]

@[simp] theorem State.storeLine_canonical {s : State} (hs : s.store.Canonical) (core : Nat) (crew : Option Nat)
    (vf pa : Nat) (kind : ObjState) (data : List Byte) :
    (s.storeLine core crew vf pa kind data).store.Canonical := by simp [State.storeLine, hs]

@[simp] theorem State.agedStamps_canonical {s : State} (hs : s.store.Canonical) (core vf : Nat) :
    (s.agedStamps core vf).store.Canonical := by simp [State.agedStamps, hs]

@[simp] theorem State.setBackingByte_canonical {s : State} (hs : s.store.Canonical) (tenant addr : Nat) (v : Byte) :
    (s.setBackingByte tenant addr v).store.Canonical := by
  simp only [State.setBackingByte]
  (repeat' split) <;> simp [hs, hs.phys, hs.pitch, Memory.wf_writeBytes]

theorem State.storeGlobal_canonical {s : State} (hs : s.store.Canonical) {core : Nat} {crew : Option Nat} {clerk : Bool}
    {vf va : Nat} {data : List Byte} {t : State} (e : s.storeGlobal core crew clerk vf va data = .ok t) :
    t.store.Canonical := by
  unfold State.storeGlobal at e
  (repeat' split at e) <;> cases e
  · exact foldl_canonical hs (fun _ p h => State.setBackingByte_canonical h vf p.1 p.2) _
  · simp [hs]

@[simp] theorem State.writePitch_canonical {s : State} (hs : s.store.Canonical) (key : Nat) (data : List Byte) :
    (s.writePitch key data).store.Canonical := by simp [State.writePitch, hs.phys, hs.pitch, Memory.wf_writeBytes]

@[simp] theorem State.applyPitch_canonical {s : State} (hs : s.store.Canonical) (key : Nat) (data : List Byte) :
    (s.applyPitch key data).store.Canonical := by simp [State.applyPitch, hs]

theorem State.storeSpace_canonical {s : State} (hs : s.store.Canonical) {key : Nat} {f : Fibre} {space a : Nat}
    {data : List Byte} {t : State} (e : s.storeSpace key f space a data = .ok t) : t.store.Canonical := by
  simp only [State.storeSpace] at e
  split at e
  · cases g : s.storeGlobal (coreOf key) f.crew (isClerk key) f.tenant a data with
    | error b =>
      rw [g] at e
      cases e
    | ok u =>
      rw [g] at e
      cases e
      simp [State.storeGlobal_canonical hs g]
  all_goals (repeat' split at e) <;> cases e <;> simp [hs]

theorem State.engineWrite_canonical {s : State} (hs : s.store.Canonical) {core vf : Nat} {pages : List (Nat × Nat)}
    {space a : Nat} {v : Byte} {t : State} (e : s.engineWrite core vf pages space a v = .ok t) :
    t.store.Canonical := by
  simp only [State.engineWrite] at e
  (repeat' split at e) <;> cases e <;> simp [hs]

@[simp] theorem State.replay_canonical {s : State} (hs : s.store.Canonical) (key : Nat) (d : Deferred) :
    (s.replay key d).store.Canonical := by
  have written : ∀ (t : State) (v : DWord), t.store.Canonical →
      (if d.locs.isEmpty then t.writePair key d.reg (decide (d.size = 3)) v
        else t.writeLocs key d.locs v).store.Canonical := by
    intro t v h
    simp [h]
  unfold State.replay
  split
  · exact hs
  · dsimp only
    split
    · simp [hs]
    split
    · exact written _ _ hs
    split
    · split
      · simp [hs]
      · split
        · next e => simp [State.storeGlobal_canonical hs e]
        all_goals simp [hs]
    · split
      · next e => exact written _ _ (canonical_of_store (s.loadGlobal_store e) hs)
      · simp [hs]
      · simp [hs]
      · split <;> simp [hs]

@[simp] theorem State.runReplays_canonical {s : State} (hs : s.store.Canonical) (key : Nat) (l : List Deferred) :
    (s.runReplays key l).store.Canonical := by
  induction l generalizing s with
  | nil => exact hs
  | cons d rest ih =>
    unfold State.runReplays
    split
    · simp [hs]
    · exact ih (State.replay_canonical hs key d)

@[simp] theorem State.catchUp_canonical {s : State} (hs : s.store.Canonical) (key : Nat) :
    (s.catchUp key).store.Canonical := by
  unfold State.catchUp
  split
  · exact hs
  · split
    · exact hs
    · extract_lets s₁
      have h₁ : s₁.store.Canonical := State.runReplays_canonical (s := s.setFibre key _) hs key _
      (repeat' split) <;> simp [h₁]

@[simp] theorem State.continueK_canonical {s : State} (hs : s.store.Canonical) (key slot : Nat) (k : KObject)
    (value : DWord)
    (wide linked : Bool) (ret : DWord) : (s.continueK key slot k value wide linked ret).store.Canonical := by
  unfold State.continueK
  split
  · exact hs
  · extract_lets t flags s₁ freed s₂ pc s₃ v empty result s₄ s₅
    have h₁ : s₁.store.Canonical := by
      simp only [s₁]
      split <;> simp [hs]
    have h₄ : s₄.store.Canonical := State.runReplays_canonical (s := s₃) h₁ key _
    have h₅ : s₅.store.Canonical := by simpa [s₅] using h₄
    (repeat' split) <;> simp [h₅]

@[simp] theorem State.resume_canonical {s : State} (hs : s.store.Canonical) (key : Nat) (h value : DWord) (wide : Bool)
    (own next : Pc) :
    (s.resume key h value wide own next).store.Canonical := by
  simp only [State.resume]
  (repeat' split) <;> simp [hs]

@[simp] theorem LaneIn.illegal_canonical (x : LaneIn) : (x.illegal).Canonical := by simp [LaneIn.illegal]

@[simp] theorem LaneIn.priv_canonical (x : LaneIn) (addr : DWord) : (x.priv addr).Canonical := by simp [LaneIn.priv]

@[simp] theorem State.sourceStop_canonical (s : State) (key : Nat) (f : Fibre) (own : Pc) (ops : List Operand) :
    StopsCanonical (s.sourceStop key f own ops) := by
  unfold State.sourceStop
  extract_lets refs short code empty
  split
  · simp
  split
  · simp
  split
  · simp
  split
  · simp
  · cases short <;> simp

@[simp] theorem State.destStop_canonical (s : State) (x : LaneIn) (codes : List Nat) :
    StopsCanonical (s.destStop x codes) := by
  simp only [State.destStop]
  (repeat' split) <;> simp

@[simp] theorem State.queueStop_canonical (s : State) (core : Nat) (codes : List Nat) :
    StopsCanonical (s.queueStop core codes) := by
  unfold State.queueStop
  split <;> simp

@[simp] theorem State.safePoint_canonical {s : State} (hs : s.store.Canonical) (key : Nat) (own : Pc) :
    (s.safePoint key own).store.Canonical := by
  simp only [State.safePoint]
  (repeat' split) <;> simp [hs]

@[simp] theorem State.afterLanes_canonical {s : State} (hs : s.store.Canonical) (i : Instr) (form : Form) (g0 : Gang)
    (rs : List ReadLane) (back : Bool) :
    (s.afterLanes i form g0 rs back).store.Canonical := by simp +contextual [State.afterLanes, hs]

@[simp] theorem State.allFail_canonical {s : State} (hs : s.store.Canonical) (i : Instr) (form : Form) (g : Gang)
    (e : Pc → Effect) :
    (s.allFail i form g e).store.Canonical := by simp [State.allFail, hs]

/-! ### The lanes of an instruction -/

/-- The meaning of an instruction on a lane, whose outcomes keep the canonical form. -/
def KeepsCanonical (body : LaneIn → State → LaneRes) : Prop :=
  ∀ (x : LaneIn) {s : State}, s.store.Canonical → (body x s).Canonical

/-- A lane of the reading pass that is stopped carries only states in canonical form. -/
def LaneRead.Canonical : LaneRead → Prop
  | .stopped r => r.Canonical
  | _ => True

@[simp] theorem LaneRead.canonical_stopped (r : LaneRes) : (LaneRead.stopped r).Canonical ↔ r.Canonical := Iff.rfl

theorem State.readOne_canonical (s : State) {form : Form} {parcels core : Nat} {m : Nat × Nat} {r : ReadLane × State}
    (e : s.readOne form parcels core m = some r) : r.1.read.Canonical := by
  unfold State.readOne at e
  dsimp only at e
  split at e
  · cases e
  split at e
  · cases e
    trivial
  split at e
  · next stopped =>
    cases e
    exact s.sourceStop_canonical _ _ _ _ _ stopped
  · cases e
    trivial

theorem State.readLanes_canonical (s : State) (form : Form) (parcels core : Nat) (l : List (Nat × Nat)) :
    ∀ r ∈ (s.readLanes form parcels core l).1, r.read.Canonical := by
  induction l generalizing s with
  | nil => simp [State.readLanes]
  | cons m l ih =>
    unfold State.readLanes
    split
    · exact ih s
    · next e =>
      intro r hr
      rcases List.mem_cons.mp hr with rfl | hr
      · exact s.readOne_canonical e
      · exact ih _ r hr

@[simp] theorem Lanes.effect_store (a : Lanes) (key : Nat) (taken : Taken) (e : Effect) :
    (a.effect key taken e).s.store = a.s.store := by simp [Lanes.effect]

@[simp] theorem Lanes.park_store (a : Lanes) (key : Nat) (taken : Taken) (w : Park) :
    (a.park key taken w).s.store = a.s.store := by simp [Lanes.park]

@[simp] theorem Lanes.commit_store (a : Lanes) (x : LaneIn) (long : Bool) (o : List (Nat × Word)) (flags : Flags)
    (seed : Option Word) : (a.commit x long o flags seed).s.store = a.s.store := by simp [Lanes.commit]

/-- A lane whose results are checked first either stops, which leaves the storage, or goes on. -/
theorem Lanes.stopped_canonical {a b : Lanes} (ha : a.s.store.Canonical) (hb : b.s.store.Canonical) (key : Nat)
    (taken : Taken) (o : Option LaneRes) :
    (match o with
      | some (.effect e) => a.effect key taken e
      | some (.park w) => a.park key taken w
      | _ => b).s.store.Canonical := by
  split <;> simp [ha, hb]

theorem Lanes.finish_canonical (pre : State) (x : LaneIn) (taken : Taken) {res : LaneRes} {a : Lanes}
    (ha : a.s.store.Canonical) (h : res.Canonical) : (Lanes.finish pre x taken res a).s.store.Canonical := by
  induction res with
  | outs long o flags seed => exact Lanes.stopped_canonical ha (by simpa using ha) _ _ _
  | outsIn s o => exact Lanes.stopped_canonical ha (by simpa using h) _ _ _
  | checked codes r ih => exact Lanes.stopped_canonical ha (ih h) _ _ _
  | effect e => simpa [Lanes.finish] using ha
  | park w => simpa [Lanes.finish] using ha
  | _ => simpa [Lanes.finish] using h

theorem Lanes.lane_canonical {body : LaneIn → State → LaneRes} (hb : KeepsCanonical body) (pre : State) {a : Lanes}
    (ha : a.s.store.Canonical) {r : ReadLane} (hr : r.read.Canonical) :
    (Lanes.lane body pre a r).s.store.Canonical := by
  unfold Lanes.lane
  split
  · exact ha
  split
  · exact ha
  split
  · simpa using ha
  · next e =>
    rw [e] at hr
    exact Lanes.finish_canonical pre _ _ ha hr
  · split
    · exact Lanes.finish_canonical pre _ _ ha trivial
    · exact Lanes.finish_canonical pre _ _ ha (hb _ ha)

theorem State.runLanes_canonical {s : State} (hs : s.store.Canonical) (i : Instr) (form : Form) (g : Gang)
    {body : LaneIn → State → LaneRes} (hb : KeepsCanonical body) : (s.runLanes i form g body).store.Canonical := by
  unfold State.runLanes
  split
  · simp [hs]
  · extract_lets pre r a
    have read : r.2.store.Canonical := by simpa [r, pre] using hs
    have ran : a.s.store.Canonical :=
      List.foldlRecOn (motive := fun a : Lanes => a.s.store.Canonical) _ _ read fun a ha l hl =>
        Lanes.lane_canonical hb pre ha (State.readLanes_canonical _ _ _ _ _ l hl)
    exact State.afterLanes_canonical ran i form g r.1 a.back

@[simp] theorem State.agentWrite_canonical {s : State} (hs : s.store.Canonical) (vf va : Nat) (data : List Byte) :
    (s.agentWrite vf va data).2.store.Canonical := by
  simp only [State.agentWrite]
  (repeat' split) <;> simp [hs]

@[simp] theorem State.watchDepend_canonical {s : State} (hs : s.store.Canonical) (vf q : Nat) (r : LaunchRecord) :
    (s.watchDepend vf q r).store.Canonical := by
  unfold State.watchDepend
  split <;> simp [hs]

@[simp] theorem State.checkHead_canonical {s : State} (hs : s.store.Canonical) (vf q : Nat) :
    (s.checkHead vf q).store.Canonical := by
  unfold State.checkHead
  extract_lets at_
  split
  · exact hs
  split
  · exact hs
  split
  · simp [hs]
  · extract_lets r
    split
    · next u e =>
      have picked : u.store.Canonical := canonical_of_store (store_of_snd (s.pickOne_store _) e) hs
      split
      · simp [picked]
      · extract_lets s₁
        split
        · exact State.watchDepend_canonical (s := s₁) picked vf q r
        · exact picked
    · next e => simpa using canonical_of_store (store_of_snd (s.pickOne_store _) e) hs

@[simp] theorem State.consume_canonical {s : State} (hs : s.store.Canonical) (vf q : Nat) :
    (s.consume vf q).store.Canonical := by simp [State.consume, hs]

theorem State.placeNext_canonical {s : State} (hs : s.store.Canonical) {vf q : Nat} {t : State}
    (e : s.placeNext vf q = some t) : t.store.Canonical := by
  unfold State.placeNext at e
  split at e
  · cases e
  split at e
  · cases e
  extract_lets id l s₀ s₁ at e
  have h₁ : s₁.store.Canonical := by
    simp only [s₁, s₀]
    split <;> simp [hs]
  split at e
  · cases e
  split at e
  · cases e
  next placed =>
  cases e
  have h₂ := canonical_of_store (s₁.placeBand_store placed) h₁
  split
  · refine State.consume_canonical ?_ vf q
    split <;> simp [h₂]
  · split <;> simp [h₂]

@[simp] theorem State.arbitrateIn_canonical {s : State} (hs : s.store.Canonical) (part : Option Nat) (n : Nat) :
    (s.arbitrateIn part n).store.Canonical := by
  induction n generalizing s with
  | zero => exact hs
  | succ n ih =>
    unfold State.arbitrateIn
    split
    · exact hs
    split
    · next selected =>
      have chosen := canonical_of_store (store_of_snd (s.selectQueue_store _ _) selected) hs
      split
      · next placed => exact ih (State.placeNext_canonical chosen placed)
      · exact chosen
    · next selected => exact canonical_of_store (store_of_snd (s.selectQueue_store _ _) selected) hs

@[simp] theorem State.arbitrate_canonical {s : State} (hs : s.store.Canonical) :
    (s.arbitrate).store.Canonical := by simp +contextual [State.arbitrate, hs]

@[simp] theorem State.arbitrateRetired_canonical {s : State} (hs : s.store.Canonical) :
    s.arbitrateRetired.store.Canonical := State.arbitrate_canonical hs

@[simp] theorem State.schedule_canonical {s : State} (hs : s.store.Canonical) (vf q : Nat) :
    (s.schedule vf q).store.Canonical := by simp [State.schedule, hs]

@[simp] theorem State.ring_canonical {s : State} (hs : s.store.Canonical) (vf q value : Nat) :
    (s.ring vf q value).store.Canonical := by simp [State.ring, hs]

@[simp] theorem LaneIn.bad_canonical (x : LaneIn) (s : State) (addr size : Nat) (store : Bool) (a : Bad) :
    (x.bad s addr size store a).Canonical := by
  simp only [LaneIn.bad]
  (repeat' split) <;> simp

@[simp] theorem State.applyLocal_canonical {s : State} (hs : s.store.Canonical) (o : OrdOp) :
    (s.applyLocal o).2.store.Canonical := by
  simp only [State.applyLocal]
  (repeat' split) <;> simp +contextual [hs]

@[simp] theorem State.clearCopies_canonical {s : State} (hs : s.store.Canonical) (vf : Nat) (lines : List Nat) :
    (s.clearCopies vf lines).2.store.Canonical := by
  unfold State.clearCopies
  refine foldl_snd_canonical hs (fun a p h => ?_) _
  extract_lets core line r t
  have hr : r.2.store.Canonical := by
    simp only [r]
    split <;> simp [h]
  simp only [t]
  split <;> simp [hr]

@[simp] theorem State.leaveState_canonical {s : State} (hs : s.store.Canonical) (o : CohObject) (lines : List Nat) :
    (s.leaveState o lines).2.store.Canonical := by
  unfold State.leaveState
  split <;> simp [hs]

@[simp] theorem State.leaveNow_canonical {s : State} (hs : s.store.Canonical) (index : Nat) :
    (s.leaveNow index).store.Canonical := by
  unfold State.leaveNow
  split <;> simp [hs]

@[simp] theorem State.endLaunch_canonical {s : State} (hs : s.store.Canonical) (launch : Nat) :
    (s.endLaunch launch).store.Canonical := by
  unfold State.endLaunch
  split <;> simp [hs]

@[simp] theorem State.writeDone_canonical {s : State} (hs : s.store.Canonical) (l : Launch) :
    (s.writeDone l).2.store.Canonical := by
  unfold State.writeDone
  split <;> simp [hs]

@[simp] theorem State.arrive_canonical {s : State} (hs : s.store.Canonical) (id : Nat) (o : OrdOp) :
    (s.arrive id o).store.Canonical := by
  simp only [State.arrive]
  (repeat' split) <;> simp [hs]

@[simp] theorem State.finishOp_canonical {s : State} (hs : s.store.Canonical) (id : Nat) (o : OrdOp) :
    (s.finishOp id o).2.store.Canonical := by
  simp only [State.finishOp]
  (repeat' split) <;> simp [hs]

@[simp] theorem State.arriveOp_canonical {s : State} (hs : s.store.Canonical) (id : Nat) :
    (s.arriveOp id).store.Canonical := by
  unfold State.arriveOp
  split <;> simp [hs]

@[simp] theorem State.tryComplete_canonical {s : State} (hs : s.store.Canonical) (id : Nat) :
    (s.tryComplete id).store.Canonical := by
  unfold State.tryComplete
  extract_lets s₁
  have h₁ : s₁.store.Canonical := State.arriveOp_canonical hs id
  split
  · exact h₁
  split
  · exact h₁
  split
  · next e => simpa using canonical_of_snd (State.finishOp_canonical h₁ id _) e
  · next e =>
    have h₂ := canonical_of_snd (State.finishOp_canonical h₁ id _) e
    split
    · exact h₂
    split
    · exact h₂
    split
    · next e => simpa using canonical_of_snd (State.finishOp_canonical h₂ id _) e
    · next e => exact canonical_of_snd (State.finishOp_canonical h₂ id _) e

/-- An operation that stays in flight. -/
theorem LaneIn.inFlight_canonical {s : State} (hs : s.store.Canonical) (x : LaneIn) (id : Nat) (codes : List Nat)
    (waits : Bool) (o : OrdOp) :
    (let r := s.reserveAll x codes
     let s := r.2.setOrd id { o with targets := r.1 }
     if waits then
      let s := if o.kind.isWait then s else s.modFibre x.key fun f => { f with pc := x.next }
      LaneRes.checked codes (.parkIn s (.address id))
     else .checked codes (.next s)).Canonical := by
  dsimp only
  split
  · split <;> simp [hs]
  · simp [hs]

@[simp] theorem LaneIn.begin__canonical {s : State} (hs : s.store.Canonical) (x : LaneIn) (id : Nat) (codes : List Nat)
    (waits : Bool) : (x.begin_ s id codes waits).Canonical := by
  unfold LaneIn.begin_
  extract_lets s₁ inFlight
  have flying : ∀ (t : State) (o : OrdOp), t.store.Canonical → (inFlight t o).Canonical :=
    fun t o h => LaneIn.inFlight_canonical h x id codes waits o
  have h₁ : s₁.store.Canonical := State.arriveOp_canonical hs id
  split
  · exact h₁
  split
  · simpa using h₁
  split
  · exact flying _ _ h₁
  split
  · next e => simpa using canonical_of_snd (State.finishOp_canonical h₁ id _) e
  · next e =>
    have h₂ := canonical_of_snd (State.finishOp_canonical h₁ id _) e
    split
    · exact h₂
    split
    · exact flying _ _ h₂
    split
    · next e => simpa using canonical_of_snd (State.finishOp_canonical h₂ id _) e
    · next e => exact flying _ _ (canonical_of_snd (State.finishOp_canonical h₂ id _) e)

@[simp] theorem State.fencePart_canonical {s : State} (hs : s.store.Canonical) (core vf scope : Nat) (o : OrdOp) :
    (s.fencePart core vf scope o).2.store.Canonical := by
  unfold State.fencePart
  split <;> simp [hs]

@[simp] theorem LaneIn.syncLocal_canonical {s : State} (hs : s.store.Canonical) (x : LaneIn) (k : OrdKind)
    (space addr size scope : Nat) (v v2 : DWord) (codes : List Nat) :
    (x.syncLocal s k space addr size scope v v2 codes).Canonical := by
  unfold LaneIn.syncLocal
  extract_lets id s₁ o
  have h₁ : s₁.store.Canonical := hs
  split <;> refine LaneIn.begin__canonical ?_ x id codes true
  · simpa using h₁
  · simpa using h₁
  · simpa using State.fencePart_canonical h₁ _ _ _ _

@[simp] theorem LaneIn.syncLine_canonical {s : State} (hs : s.store.Canonical) (x : LaneIn) (k : OrdKind)
    (va pa size scope : Nat) (v v2 : DWord) (codes : List Nat) :
    (x.syncLine s k va pa size scope v v2 codes).Canonical := by
  unfold LaneIn.syncLine
  extract_lets core vf n line obj free id t o waits read fence op held w t₁ t₂
  have ht : t.store.Canonical := hs
  have begun :
    (x.begin_ (((((t.agedStamps core vf).setOrd id o).serve id).evaluate line).wakeCrew x.key x.f.crew) id codes
      true).Canonical := by
    refine LaneIn.begin__canonical ?_ x id codes true
    simp only [State.wakeCrew_store]
    refine State.evaluate_canonical (State.serve_canonical ?_ id) line
    simp [ht]
  have fenced : fence.2.store.Canonical := State.fencePart_canonical ht core vf scope o
  have cleaned : w.2.store.Canonical := by
    simp only [w]
    split <;> simp [fenced]
  have dropped : t₁.store.Canonical := by
    simp only [t₁]
    split <;> simp [cleaned]
  split
  · split
    · simp [read, hs]
    · simp [ht]
  · simp [ht]
  · split
    · simp [hs]
    · split
      · simp [fenced]
      · exact begun
  · split
    · simp [fenced]
    · exact begun
  · simp [t₂, dropped]

@[simp] theorem LaneIn.ownAtoms_canonical (x : LaneIn) (s : State) : StopsCanonical (x.ownAtoms s) := by
  unfold LaneIn.ownAtoms
  cases s.atomUnderWay x.key <;> simp

@[simp] theorem LaneIn.awaitTables_canonical {s : State} (hs : s.store.Canonical) (x : LaneIn) (vas : List Nat) :
    StopsCanonical (x.awaitTables s vas) := by
  unfold LaneIn.awaitTables
  cases vas.findSome? (s.tableHeld x.f.tenant) with
  | none => simp
  | some line =>
    simp only [Option.map_some, stopsCanonical_some, LaneRes.Canonical]
    refine State.serve_canonical ?_ _
    simpa using hs

@[simp] theorem LaneIn.sync_canonical {s : State} (hs : s.store.Canonical) (x : LaneIn) (k : OrdKind)
    (space size scope : Nat)
    (v v2 : DWord) (codes : List Nat) : (x.sync s k space size scope v v2 codes).Canonical := by
  unfold LaneIn.sync
  extract_lets a n core
  have waits : StopsCanonical ((if k.delivers scope then x.ownAtoms s else none).or
      (if space = 0 then x.awaitTables s [a] else none)) :=
    StopsCanonical.or (by simp) (by simp [hs])
  split
  · simp
  split
  · simp
  split
  · next e => exact waits _ e
  · (repeat' split) <;> simp [hs]

@[simp] theorem LaneIn.doorbell_canonical {s : State} (hs : s.store.Canonical) (x : LaneIn) (queue value : Nat) :
    (x.doorbell s queue value).Canonical := by
  unfold LaneIn.doorbell
  split
  · simp
  split
  · next e => exact x.ownAtoms_canonical s _ e
  · extract_lets id t o r
    have fenced : r.2.store.Canonical := State.fencePart_canonical (s := t) hs _ _ _ o
    simp [fenced]

@[simp] theorem LaneIn.orderM0_canonical (x : LaneIn) (s : State) (space : Nat) :
    StopsCanonical (x.orderM0 s space) := by simp [LaneIn.orderM0]

@[simp] theorem LaneIn.load_canonical {s : State} (hs : s.store.Canonical) (x : LaneIn) (reg : BitVec 8)
    (space size : Nat)
    (signed : Bool) : (x.load s reg space size signed).Canonical := by
  unfold LaneIn.load
  extract_lets a n codes d
  have waits : StopsCanonical ((x.orderM0 s space).or (if space = 0 then x.awaitTables s [a] else none)) :=
    StopsCanonical.or (by simp) (by simp [hs])
  split
  · simp
  split
  · simp
  split
  · next e => exact waits _ e
  · simp
  · split
    · next e => simpa using canonical_of_store (s.loadSpace_store e) hs
    · split <;> simp [hs]
    · simp

@[simp] theorem LaneIn.store_canonical {s : State} (hs : s.store.Canonical) (x : LaneIn) (space size : Nat) (v : DWord)
    :
    (x.store s space size v).Canonical := by
  unfold LaneIn.store
  extract_lets a n d
  have awaited : StopsCanonical (if space = 0 then x.awaitTables s [a] else none) := by simp [hs]
  split
  · simp
  split
  · next e => exact x.orderM0_canonical s space _ e
  split
  · simp [hs]
  split
  · next e => exact awaited _ e
  · simp
  · simp [hs]
  · simp [hs]
  · split
    · next e => exact State.storeSpace_canonical hs e
    · split <;> simp [hs]
    · simp

@[simp] theorem LaneIn.engineStop_canonical (x : LaneIn) (s : State) (cls : Nat) (release : Bool) :
    StopsCanonical (x.engineStop s cls release) := by
  unfold LaneIn.engineStop
  (repeat' split) <;> simp

theorem LaneIn.engineRange_stops {s : State} (hs : s.store.Canonical) (x : LaneIn) {space a n : Nat} {write : Bool}
    {r : LaneRes} (e : x.engineRange s space a n write = .error r) : r.Canonical := by
  unfold LaneIn.engineRange at e
  split at e
  · split at e
    · next awaited =>
      cases e
      exact x.awaitTables_canonical hs _ _ awaited
    · cases e
    · cases e
      simp
  · split at e <;> cases e
    simp

theorem LaneIn.engineRanges_stops {s : State} (hs : s.store.Canonical) (x : LaneIn) {l : List (Nat × Nat × Nat × Bool)}
    {r : LaneRes} (e : x.engineRanges s l = .error r) : r.Canonical := by
  induction l with
  | nil => cases e
  | cons p l ih =>
    unfold LaneIn.engineRanges at e
    split at e
    · next stopped =>
      cases e
      exact x.engineRange_stops hs stopped
    · split at e
      · cases e
      · next stopped =>
        cases e
        exact ih stopped

@[simp] theorem State.healLines_canonical {s : State} (hs : s.store.Canonical) (pages : List (Nat × Nat))
    (space base n : Nat) :
    (s.healLines pages space base n).store.Canonical := by simp [State.healLines, hs, hs.phys, hs.pitch]

@[simp] theorem State.moveBytes_canonical {s : State} (hs : s.store.Canonical) (o : EngineOp)
    (dspace dst sspace src n : Nat) : (s.moveBytes o dspace dst sspace src n).store.Canonical := by
  unfold State.moveBytes
  extract_lets s₁
  have h₁ : s₁.store.Canonical := State.healLines_canonical hs o.pages dspace dst n
  split
  · exact h₁
  · next e =>
    refine foldl_canonical (canonical_of_store (s₁.engineReadBytes_store e) h₁) (fun s p h => ?_) _
    split
    · next e => exact State.engineWrite_canonical h e
    · exact h

@[simp] theorem State.copyRows_canonical {s : State} (hs : s.store.Canonical) (o : EngineOp) (j : CopyJob)
    (e : Option CopyFailure) (r n : Nat) : (s.copyRows o j e r n).2.store.Canonical := by
  induction n generalizing s r with
  | zero => exact hs
  | succ n ih =>
    unfold State.copyRows
    extract_lets p len s₁ q
    have h₁ : s₁.store.Canonical := State.moveBytes_canonical hs _ _ _ _ _ _
    split
    · exact h₁
    · exact ih h₁ _

theorem State.startRelease_canonical {s : State} (hs : s.store.Canonical) {o : EngineOp} {addr scope : Nat} {v : DWord}
    {r : Nat × State} (e : s.startRelease o addr scope v = some r) : r.2.store.Canonical := by
  unfold State.startRelease at e
  split at e
  · cases e
  split at e
  · cases e
  extract_lets obj free id t rel fence at e
  split at e
  · cases e
    simp [hs]
  split at e
  · cases e
    have fenced : fence.2.store.Canonical := State.fencePart_canonical (s := t) hs _ _ _ rel
    simp [fenced]
  · cases e
    refine State.tryComplete_canonical (State.evaluate_canonical (State.serve_canonical ?_ _) _) _
    simpa using State.agedStamps_canonical (s := t) hs o.core o.vf

@[simp] theorem State.runCopy_canonical {s : State} (hs : s.store.Canonical) (id : Nat) (o : EngineOp) (j : CopyJob)
    (h : Option Nat) : (s.runCopy id o j h).store.Canonical := by
  unfold State.runCopy
  split
  · extract_lets s₁
    split <;> simp [s₁, hs]
  · extract_lets e r
    have copied : r.2.store.Canonical := State.copyRows_canonical hs o j e 0 j.rows
    split
    · simp [copied]
    · simp [copied]
    · split
      · simp [copied]
      · next e =>
        have released := State.startRelease_canonical copied e
        split <;> simp [released]

@[simp] theorem LaneIn.issueCopy_canonical {s : State} (hs : s.store.Canonical) (x : LaneIn) (j : CopyJob) :
    (x.issueCopy s j).Canonical := by
  unfold LaneIn.issueCopy
  extract_lets word
  split
  · next e => exact x.engineRanges_stops hs e
  · simp [hs]

theorem LaneIn.readBlock_canonical {s : State} (hs : s.store.Canonical) (x : LaneIn) {space a : Nat}
    {r : State × List Byte} (e : x.readBlock s space a = .ok r) : r.1.store.Canonical := by
  unfold LaneIn.readBlock at e
  split at e
  · cases e
  split at e
  · cases e
  split at e
  · cases e
  · next loaded =>
    cases e
    split at loaded
    · cases g : s.engineRange (coreOf x.key) x.f.tenant 1 a 64 true with
      | none =>
        rw [g] at loaded
        exact canonical_of_store (s.loadSpace_store loaded) hs
      | some b =>
        rw [g] at loaded
        cases loaded
    · exact canonical_of_store (s.loadSpace_store loaded) hs

theorem LaneIn.readBlock_stops {s : State} (hs : s.store.Canonical) (x : LaneIn) {space a : Nat} {r : LaneRes}
    (e : x.readBlock s space a = .error r) : r.Canonical := by
  have awaited : StopsCanonical (if space = 0 then x.awaitTables s [a] else none) := by simp [hs]
  unfold LaneIn.readBlock at e
  split at e
  · cases e
    simp
  split at e
  · next stopped =>
    cases e
    exact awaited _ stopped
  split at e <;> cases e
  simp

@[simp] theorem LaneIn.copyBlock_canonical {s : State} (hs : s.store.Canonical) (x : LaneIn) (space a : Nat)
    (scope : Option Nat) : (x.copyBlock s space a scope).Canonical := by
  unfold LaneIn.copyBlock
  split
  · next e => exact x.engineStop_canonical s 0 true _ e
  split
  · next e => exact x.readBlock_stops hs e
  · next e =>
    have read := x.readBlock_canonical hs e
    simp [read]

@[simp] theorem State.gsElements_canonical {s : State} (hs : s.store.Canonical) (o : EngineOp) (j : GsJob)
    (h : Option Nat)
    (i n : Nat) : (s.gsElements o j h i n).2.2.store.Canonical := by
  induction n generalizing s i with
  | zero => exact hs
  | succ n ih =>
    unfold State.gsElements
    split
    · exact hs
    · next e => exact ih (canonical_of_store (s.gsIndex_store e) hs) _
    · next e =>
      have indexed := canonical_of_store (s.gsIndex_store e) hs
      extract_lets p size o'
      split
      · exact indexed
      · exact ih (State.moveBytes_canonical indexed _ _ _ _ _ _) _

@[simp] theorem State.runGs_canonical {s : State} (hs : s.store.Canonical) (id : Nat) (o : EngineOp) (j : GsJob)
    (h : Option Nat) : (s.runGs id o j h).store.Canonical := by
  simp only [State.runGs]
  split <;> simp [hs]

@[simp] theorem LaneIn.issueGs_canonical {s : State} (hs : s.store.Canonical) (x : LaneIn) (scatter : Bool)
    (space a : Nat) :
    (x.issueGs s scatter space a).Canonical := by
  unfold LaneIn.issueGs
  split
  · next e => exact x.engineStop_canonical s 1 true _ e
  split
  · next e => exact x.readBlock_stops hs e
  · next e =>
    have read := x.readBlock_canonical hs e
    dsimp only
    split
    · simp
    split
    · next e => exact x.engineRanges_stops read e
    · simpa using read

@[simp] theorem State.flushLines_canonical {s : State} (hs : s.store.Canonical) (core vf : Nat) (lines : List Nat) :
    (s.flushLines core vf lines).2.store.Canonical := by
  unfold State.flushLines
  refine foldl_canonical hs (fun s line h => ?_) lines
  extract_lets held
  split <;> simp [h]

@[simp] theorem LaneIn.issueWb_canonical {s : State} (hs : s.store.Canonical) (x : LaneIn) (inval : Bool) (scope : Nat)
    :
    (x.issueWb s inval scope).Canonical := by
  unfold LaneIn.issueWb
  split
  · next e => exact x.engineStop_canonical s 4 false _ e
  · simp [hs]

theorem LaneIn.offerCopy_canonical {s : State} (hs : s.store.Canonical) (x : LaneIn) {v : DWord} {t : State}
    (e : x.offerCopy s v = .ok t) : t.store.Canonical := by
  simp only [LaneIn.offerCopy] at e
  split at e
  · cases e
  split at e
  · next copied =>
    cases e
    have issued := x.copyBlock_canonical hs 0 v.toNat none
    rw [copied] at issued
    simpa using issued
  · cases e

/-- An outcome made to carry the state that it stands in. -/
@[simp] theorem LaneRes.on_canonical {s : State} (hs : s.store.Canonical) {r : LaneRes} (h : r.Canonical) :
    (r.on s).Canonical := by
  cases r <;> simp_all [LaneRes.on]

theorem LaneIn.offerCopy_stops {s : State} (hs : s.store.Canonical) (x : LaneIn) {v : DWord} {r : LaneRes}
    (e : x.offerCopy s v = .error r) : r.Canonical := by
  simp only [LaneIn.offerCopy] at e
  split at e
  · cases e
    simpa using hs
  split at e
  · cases e
  · cases e
    exact LaneRes.on_canonical hs (x.copyBlock_canonical hs 0 v.toNat none)

@[simp] theorem LaneIn.branch_canonical {s : State} (hs : s.store.Canonical) (x : LaneIn) (k : ℤ) :
    (x.branch s k).Canonical := by simp [LaneIn.branch, hs]

@[simp] theorem LaneIn.callTo_canonical {s : State} (hs : s.store.Canonical) (x : LaneIn) (slide : Nat) (target : Pc) :
    (x.callTo s slide target).Canonical := by
  unfold LaneIn.callTo
  dsimp only
  split
  · simp [hs]
  split
  · simp [hs]
  · next e =>
    have roomy := canonical_of_store (s.heapRoom_store e) hs
    (repeat' split) <;> simp [roomy]

@[simp] theorem LaneIn.request_canonical {s : State} (hs : s.store.Canonical) (x : LaneIn) (tag : Nat)
    (payload : DWord) (result : Nat) (wide : Bool) :
    (x.request s tag payload result wide).Canonical := by simp [LaneIn.request, hs]

@[simp] theorem LaneIn.rounded_canonical (x : LaneIn) (code : BitVec 8) (wide : Bool) (mode : Nat) (r : FpOut) :
    (x.rounded code wide mode r).Canonical := by simp [LaneIn.rounded]

@[simp] theorem dotRes_canonical (f : FormW) (x : LaneIn) (fb fc n w : Nat) : (dotRes f x fb fc n w).Canonical := by
  unfold dotRes
  split <;> simp

@[simp] theorem opFstat_canonical {s : State} (hs : s.store.Canonical) (f : FormW) (x : LaneIn) :
    (opFstat f x s).Canonical := by
  unfold opFstat
  split <;> simp [hs]

/-- A cross-lane instruction whose outcomes keep the canonical form. -/
structure CrossOp.Canonical (op : CrossOp) : Prop where
  alone : KeepsCanonical op.alone
  check : ∀ {s}, s.store.Canonical → ∀ rs x, StopsCanonical (op.check s rs x)
  result : ∀ {s}, s.store.Canonical → ∀ pre v i x, (op.result pre s v i x).Canonical

theorem State.crossStop_canonical {s : State} (hs : s.store.Canonical) {op : CrossOp} (ho : op.Canonical)
    (rs : List ReadLane) (f : Fibre) {r : ReadLane} (hr : r.read.Canonical) :
    StopsCanonical (s.crossStop op rs f r) := by
  unfold State.crossStop
  split
  · next e =>
    rw [e] at hr
    simpa using hr
  · (repeat' split) <;> simp [hs]
  · split
    · simp
    split
    · simp
    · exact (ho.check hs rs _).or ((s.destStop_canonical _ _).or (s.queueStop_canonical _ _))

theorem State.crossLane_canonical {pre : State} (hp : pre.store.Canonical) {op : CrossOp} (ho : op.Canonical)
    (rs : List ReadLane) {a : Lanes} (ha : a.s.store.Canonical) {r : ReadLane} (hr : r.read.Canonical) :
    (State.crossLane pre op rs a r).s.store.Canonical := by
  unfold State.crossLane
  split
  · split
    · exact ha
    split
    · exact Lanes.lane_canonical ho.alone pre ha hr
    split
    · simpa using ha
    · next e => exact Lanes.finish_canonical pre _ _ ha (State.crossStop_canonical hp ho rs _ hr _ e)
    · dsimp only
      split
      · exact ha
      · split
        · rw [Lanes.effect_store]
          refine foldl_canonical ha (fun s k h => ?_) _
          (repeat' split) <;> simp [h]
        · split
          · simpa using ha
          split
          · exact Lanes.finish_canonical pre _ _ ha (ho.result ha _ _ _ _)
          · simpa using ha
  · exact ha

theorem State.runCross_canonical {s : State} (hs : s.store.Canonical) (i : Instr) (form : Form) (g : Gang)
    {op : CrossOp}
    (ho : op.Canonical) : (s.runCross i form g op).store.Canonical := by
  unfold State.runCross
  split
  · simp [hs]
  · extract_lets pre r now a ids
    have charged : now.store.Canonical := by simpa [now, pre] using hs
    have read : r.2.store.Canonical := by simpa [r, pre] using hs
    have ran : a.s.store.Canonical :=
      List.foldlRecOn (motive := fun a : Lanes => a.s.store.Canonical) _ _ read fun a ha l hl =>
        State.crossLane_canonical charged ho r.1 ha (State.readLanes_canonical _ _ _ _ _ l hl)
    refine State.afterLanes_canonical (foldl_canonical ran (fun s id h => ?_) ids) i form g r.1 a.back
    simpa using h

@[simp] theorem permCheck_canonical (slot : Nat) (s : State) (x : LaneIn) : StopsCanonical (permCheck slot s x) := by
  unfold permCheck
  split <;> simp

@[simp] theorem noCheck_canonical (x : State) (n : LaneIn) : StopsCanonical (noCheck x n) := by simp [noCheck]

@[simp] theorem voteCheck_canonical (f : FormW) (s : State) (x : LaneIn) : StopsCanonical (voteCheck f s x) := by
  unfold voteCheck
  split <;> simp

@[simp] theorem State.drainAll_canonical {s : State} (hs : s.store.Canonical) (core fmt mode : Nat) (d : Desc)
    (elems : Tbl Acc)
    (seed : Word) (fl : Flags) (l : List (Nat × Nat)) :
    (s.drainAll core fmt mode d elems seed fl l).1.store.Canonical := by
  induction l generalizing s seed fl with
  | nil => exact hs
  | cons p l ih =>
    unfold State.drainAll
    refine ih ?_ _ _
    split <;> simp [hs]

@[simp] theorem State.runDrain_canonical {s : State} (hs : s.store.Canonical) (core ctx fmt mask mode seed : Nat)
    (clear : Bool) (dst : DWord) :
    (s.runDrain core ctx fmt mask mode seed clear dst).store.Canonical := by simp [State.runDrain, hs]

@[simp] theorem State.seeUnits_canonical {s : State} (hs : s.store.Canonical) (units : Tbl (List Byte)) :
    (s.seeUnits units).store.Canonical := by
  unfold State.seeUnits
  refine foldl_canonical hs (fun s p h => ?_) units
  exact ⟨h.phys, Memory.wf_writeBytes _ _ _ h.pitch⟩

@[simp] theorem State.keepUnits_canonical {s : State} (hs : s.store.Canonical) (old : State) (units : Tbl (List Byte)) :
    (s.keepUnits old units).store.Canonical := by simp [State.keepUnits, hs]

@[simp] theorem State.runCommand_canonical {s : State} (hs : s.store.Canonical) (core ctx : Nat) (o : EngineOp)
    (cmd : MtxCommand) :
    (s.runCommand core ctx o cmd).store.Canonical := by
  unfold State.runCommand
  split <;> simp [hs]

@[simp] theorem State.unitNow_canonical {s : State} (hs : s.store.Canonical) (id place : Nat) :
    (s.unitNow id place).store.Canonical := by
  simp only [State.unitNow]
  (repeat' split) <;> simp [hs]

@[simp] theorem LaneIn.faultFirst_canonical (x : LaneIn) : StopsCanonical x.faultFirst := by
  simp [LaneIn.faultFirst]

@[simp] theorem LaneIn.mtxStop_canonical (x : LaneIn) (s : State) (ctx : Nat) (release poisonable : Bool) :
    StopsCanonical (x.mtxStop s ctx release poisonable) := by
  unfold LaneIn.mtxStop
  extract_lets c
  split
  · simp
  split
  · next e => simpa using x.engineStop_canonical s 2 release _ e
  · split <;> simp

@[simp] theorem LaneIn.badTile_canonical (x : LaneIn) (b : Bad) : (x.badTile b).Canonical := by
  unfold LaneIn.badTile
  split <;> simp

@[simp] theorem LaneIn.feedIllegal_canonical {s : State} (hs : s.store.Canonical) (x : LaneIn) (second : Bool) :
    (x.feedIllegal s second).Canonical := by simp [LaneIn.feedIllegal, hs]

@[simp] theorem LaneIn.feedStop_canonical {s : State} (hs : s.store.Canonical) (x : LaneIn) (f : FormW) :
    StopsCanonical (x.feedStop s f) := by
  unfold LaneIn.feedStop
  split
  · next e => simpa using x.faultFirst_canonical _ e
  all_goals simp [hs]

@[simp] theorem LaneIn.issueMma_canonical {s : State} (hs : s.store.Canonical) (x : LaneIn) (f : FormW)
    (rowsA rowsB : List (Nat × List Word × List Word)) : (x.issueMma s f rowsA rowsB).Canonical := by
  unfold LaneIn.issueMma
  extract_lets core fmt ctx
  split
  · next e => exact x.feedStop_canonical hs f _ e
  · split
    · simp
    split
    · next e => exact x.mtxStop_canonical s ctx true true _ e
    · simp [hs]
  · exact hs

@[simp] theorem mmaCheck_canonical (f : FormW) (s : State) (rs : List ReadLane) (x : LaneIn) :
    StopsCanonical (mmaCheck f s rs x) := by
  unfold mmaCheck
  split
  · next e => simpa using x.faultFirst_canonical _ e
  · simp
  · dsimp only
    (repeat' split) <;> simp

@[simp] theorem mmaMember_canonical {s : State} (hs : s.store.Canonical) (f : FormW) (pre : State) (v : CrossIn)
    (lane : Nat)
    (x : LaneIn) : (mmaMember f pre s v lane x).Canonical := by
  have issued : ∀ rowsA rowsB, (x.issueMma s f rowsA rowsB).Canonical := x.issueMma_canonical hs f
  unfold mmaMember
  split
  · exact hs
  · extract_lets ctx room id
    split
    · split <;> simp [hs]
    split
    · split
      · simp
      split
      · next e =>
        have accepted := issued (memberRows s v (x.tileRegs f false)) (memberRows s v (x.tileRegs f true))
        rw [e] at accepted
        split
        · simpa using accepted
        · exact accepted
      · exact issued _ _
    · (repeat' split) <;> simp [hs]

@[simp] theorem LaneIn.mmaAlone_canonical {s : State} (hs : s.store.Canonical) (x : LaneIn) (f : FormW) :
    (x.mmaAlone f s).Canonical := by
  unfold LaneIn.mmaAlone
  split
  · cases e : x.faultFirst with
    | none => simp
    | some r => simpa using x.faultFirst_canonical r e
  · simp [hs]

@[simp] theorem State.swrXlinv_canonical {s : State} (hs : s.store.Canonical) (core v : Nat) :
    (s.swrXlinv core v).Canonical := by simp [State.swrXlinv, hs]

@[simp] theorem State.replyResume_canonical {s : State} (hs : s.store.Canonical) (core key : Nat) (f : Fibre)
    (h v : DWord) (wide : Bool) :
    (s.replyResume core key f h v wide).store.Canonical := by
  simp only [State.replyResume]
  (repeat' split) <;> simp [hs]

@[simp] theorem State.reply_canonical {s : State} (hs : s.store.Canonical) (core key : Nat) (f : Fibre) (h : DWord)
    (code : Nat) (v : DWord) (wide : Bool) :
    (s.reply core key f h code v wide).store.Canonical := by
  simp only [State.reply]
  (repeat' split) <;> simp [hs]

@[simp] theorem State.putSealed_canonical {s : State} (hs : s.store.Canonical) (place : Nat) (data : List Byte) :
    (s.putSealed place data).store.Canonical := by simp [State.putSealed, hs.phys, hs.pitch, Memory.wf_writeBytes]

@[simp] theorem State.sealLines_canonical {s : State} (hs : s.store.Canonical) (lines : List Nat) :
    (s.sealLines lines).store.Canonical := by simp [State.sealLines, hs.phys, hs.pitch]

@[simp] theorem State.unseal_canonical {s : State} (hs : s.store.Canonical) (lines : List Nat) :
    (s.unseal lines).store.Canonical := by simp [State.unseal, hs.phys, hs.pitch]

@[simp] theorem State.unsealTwin_canonical {s : State} (hs : s.store.Canonical) (e : CodeEntry) (busy : Bool) :
    (s.unsealTwin e busy).store.Canonical := by simp [State.unsealTwin, hs]

@[simp] theorem State.retireTwins_canonical {s : State} (hs : s.store.Canonical) (vf i : Nat) :
    (s.retireTwins vf i).store.Canonical := by simp [State.retireTwins, hs]

@[simp] theorem State.codexSeal_canonical {s : State} (hs : s.store.Canonical) (id place : Nat) (o : EngineOp)
    (r : CodexReq) :
    (s.codexSeal id place o r).store.Canonical := by
  unfold State.codexSeal
  split
  · simp [hs]
  split
  · simp [hs]
  split
  · simp [hs]
  · next e =>
    have read := canonical_of_store (s.imageBytes_store e) hs
    dsimp only
    split
    · simp [read]
    split
    · exact read
    · simp only [State.codexDone_store, State.setEntry_store]
      exact State.sealLines_canonical (State.putSealed_canonical (State.putSealed_canonical read _ _) _ _) _

@[simp] theorem State.codexPatch_canonical {s : State} (hs : s.store.Canonical) (id : Nat) (o : EngineOp)
    (r : CodexReq) :
    (s.codexPatch id o r).store.Canonical := by
  unfold State.codexPatch
  split
  · simp [hs]
  split
  · simp [hs]
  split
  · simp [hs]
  · next e =>
    have read := canonical_of_store (s.imageBytes_store e) hs
    dsimp only
    split
    · simp [read]
    · simp only [State.codexDone_store, State.setEntry_store]
      exact State.unsealTwin_canonical (State.putSealed_canonical read _ _) _ _

@[simp] theorem State.codexSwap_canonical {s : State} (hs : s.store.Canonical) (id place : Nat) (o : EngineOp)
    (r : CodexReq) :
    (s.codexSwap id place o r).store.Canonical := by
  unfold State.codexSwap
  split
  · simp [hs]
  split
  · simp [hs]
  dsimp only
  split
  · simp [hs]
  split
  · simp [hs]
  · next e =>
    have read := canonical_of_store (s.imageBytes_store e) hs
    split
    · simp [read]
    split
    · exact read
    · simp only [State.codexDone_store, State.setEntry_store]
      refine State.sealLines_canonical (State.putSealed_canonical (State.putSealed_canonical ?_ _ _) _ _) _
      exact State.putSealed_canonical (State.unsealTwin_canonical read _ _) _ _

@[simp] theorem State.codexFree_canonical {s : State} (hs : s.store.Canonical) (id : Nat) (r : CodexReq) :
    (s.codexFree id r).store.Canonical := by
  unfold State.codexFree
  split <;> simp [hs]

@[simp] theorem State.codexComplete_canonical {s : State} (hs : s.store.Canonical) (id : Nat) :
    (s.codexComplete id).store.Canonical := by
  simp only [State.codexComplete]
  (repeat' split) <;> simp [hs]

theorem State.fromPort_canonical {s : State} (hs : s.store.Canonical) (port : HostPort) {g : State → State}
    (h : (g s).store.Canonical) : (s.fromPort port g).store.Canonical := by
  unfold State.fromPort
  (repeat' split) <;> simp [hs, h]

@[simp] theorem State.triggerWord_canonical {s : State} (hs : s.store.Canonical) (die t vf : Nat) :
    (s.triggerWord die t vf).store.Canonical := by
  simp only [State.triggerWord]
  (repeat' split) <;> simp [hs]

@[simp] theorem State.fireTrigger_canonical {s : State} (hs : s.store.Canonical) (die t vf : Nat) :
    (s.fireTrigger die t vf).store.Canonical := by simp [State.fireTrigger, hs]

@[simp] theorem State.filterItem_canonical {s : State} (hs : s.store.Canonical) (r : FilterRun) (op item a y inc : Nat)
    :
    (s.filterItem r op item a y inc).2.store.Canonical := by
  simp only [State.filterItem]
  (repeat' split) <;> simp [hs]

@[simp] theorem State.filterFrom_canonical {s : State} (hs : s.store.Canonical) (r : FilterRun) (pc : Nat)
    (regs : List Nat)
    (n : Nat) : (s.filterFrom r pc regs n).store.Canonical := by
  induction n generalizing s pc regs with
  | zero => exact hs
  | succ n ih =>
    unfold State.filterFrom
    split
    · exact hs
    extract_lets w t op d a b imm set v v' y x
    have ht : t.store.Canonical := hs
    have item : x.2.store.Canonical := State.filterItem_canonical ht _ _ _ _ _ _
    (repeat' split) <;> solve_by_elim

@[simp] theorem State.offerFilter_canonical {s : State} (hs : s.store.Canonical) (die n : Nat) (e : Event) :
    (s.offerFilter die n e).store.Canonical := by
  unfold State.offerFilter
  split
  · exact hs
  · extract_lets t
    have ht : t.store.Canonical := hs
    split
    · exact State.filterFrom_canonical ht _ _ _ _
    · exact ht

@[simp] theorem State.takeEvent_canonical {s : State} (hs : s.store.Canonical) (die : Nat) :
    (s.takeEvent die).store.Canonical := by
  unfold State.takeEvent
  split
  · exact hs
  · exact foldl_canonical (s := s.modBittern die _) hs (fun s n h => State.offerFilter_canonical h die n _) _

@[simp] theorem State.startCount_canonical {s : State} (hs : s.store.Canonical) (id : Nat) (o : EngineOp) (j : NetJob)
    (va : Nat) :
    (s.startCount id o j va).store.Canonical := by
  simp only [State.startCount]
  (repeat' split) <;> simp [hs]

@[simp] theorem State.finishNet_canonical {s : State} (hs : s.store.Canonical) (id : Nat) :
    (s.finishNet id).store.Canonical := by
  simp only [State.finishNet]
  (repeat' split) <;> simp [hs]

@[simp] theorem State.takeAck_canonical {s : State} (hs : s.store.Canonical) (p : Packet) :
    (s.takeAck p).store.Canonical := by
  unfold State.takeAck
  split <;> simp [hs]

@[simp] theorem State.takeReply_canonical {s : State} (hs : s.store.Canonical) (p : Packet) :
    (s.takeReply p).store.Canonical := by
  unfold State.takeReply
  split
  · exact hs
  split
  · exact hs
  split
  · simp [hs]
  split
  · simp [hs]
  · extract_lets cells w
    have written : w.2.store.Canonical := by
      refine foldl_snd_canonical (p := ([], s)) hs (fun a line h => ?_) _
      exact State.sendHome_canonical h none _ line _
    refine State.finishNet_canonical ?_ _
    exact written

@[simp] theorem LaneIn.startNet_canonical {s : State} (hs : s.store.Canonical) (x : LaneIn) (lines : List Nat)
    (pages : List (Nat × Nat)) (j : NetJob) :
    (x.startNet s lines pages j).Canonical := by simp [LaneIn.startNet, hs]

@[simp] theorem LaneIn.sendK_canonical {s : State} (hs : s.store.Canonical) (x : LaneIn) (space request : Nat)
    (q : NetRequest) (pages : List (Nat × Nat)) (lines : List Nat) :
    (x.sendK s space request q pages lines).Canonical := by
  simp only [LaneIn.sendK]
  (repeat' split) <;> simp [hs]

@[simp] theorem LaneIn.post_canonical {s : State} (hs : s.store.Canonical) (x : LaneIn) (space a : Nat) (q : NetRequest)
    (lines : List Nat) : (x.post s space a q lines).Canonical := by
  unfold LaneIn.post
  split
  · simp [hs]
  split
  · simp [hs]
  · split
    · next e => exact LaneRes.on_canonical hs (x.engineRanges_stops hs e)
    · split <;> simp [hs]

theorem State.netWrite_canonical {s : State} (hs : s.store.Canonical) {vf va : Nat} {data : List Byte}
    {w : List (Nat × Nat) × State} (e : s.netWrite vf va data = some w) : w.2.store.Canonical := by
  unfold State.netWrite at e
  refine List.foldlRecOn (motive := fun a => ∀ w, a = some w → w.2.store.Canonical) _ _ ?_ (fun a ih line _ => ?_) w e
  · rintro _ ⟨⟩
    exact hs
  · intro w e
    dsimp only at e
    split at e
    · cases e
    split at e
    · cases e
    split at e <;> cases e
    refine State.sendHome_canonical ?_ none vf _ _
    exact ih _ rfl

theorem State.beginMessage_canonical {s : State} (hs : s.store.Canonical) {p : Packet} {m : RxMessage}
    {r : RxMessage × State} (e : s.beginMessage p m = some r) : r.2.store.Canonical := by
  unfold State.beginMessage at e
  split at e
  · obtain ⟨w, hw, rfl⟩ := Option.map_eq_some_iff.mp e
    exact State.netWrite_canonical hs hw
  · cases e
    exact hs

theorem State.placeData_canonical {s : State} (hs : s.store.Canonical) {m : RxMessage} {stripe d : Nat}
    {data : List Byte}
    {r : RxMessage × List (Nat × Nat) × State} (e : s.placeData m stripe d data = some r) : r.2.2.store.Canonical := by
  unfold State.placeData at e
  dsimp only at e
  split at e
  · obtain ⟨w, hw, rfl⟩ := Option.map_eq_some_iff.mp e
    exact State.netWrite_canonical hs hw
  · cases e
    exact hs

theorem State.placeAll_canonical {s : State} (hs : s.store.Canonical) {m : RxMessage} {stripe : Nat}
    {l : List (Nat × List Byte)} {r : RxMessage × List (Nat × Nat) × State} (e : s.placeAll m stripe l = some r) :
    r.2.2.store.Canonical := by
  induction l generalizing s m r with
  | nil =>
    cases e
    exact hs
  | cons p l ih =>
    unfold State.placeAll at e
    split at e
    · cases e
    · next placed =>
      obtain ⟨q, hq, rfl⟩ := Option.map_eq_some_iff.mp e
      refine ih (s := _) (r := q) ?_ hq
      exact State.placeData_canonical hs placed

theorem State.completeStripe_canonical {s : State} (hs : s.store.Canonical) {m : RxMessage} {stripe : Nat}
    {t : RxStripe}
    {r : RxMessage × State} (e : s.completeStripe m stripe t = some r) : r.2.store.Canonical := by
  unfold State.completeStripe at e
  dsimp only at e
  split at e
  · cases e
    exact hs
  split at e
  · cases e
    exact hs
  split at e
  · cases e
  · next rebuilt =>
    cases e
    obtain ⟨data, -, placed⟩ := Option.bind_eq_some_iff.mp rebuilt
    simpa using State.placeAll_canonical hs placed

@[simp] theorem State.startAtom_canonical {s : State} (hs : s.store.Canonical) (id : Nat) (m : RxMessage)
    (e : KeyEntry) :
    (s.startAtom id m e).store.Canonical := by
  unfold State.startAtom
  split <;> simp [hs]

@[simp] theorem State.progressAtom_canonical {s : State} (hs : s.store.Canonical) (id : Nat) (m : RxMessage) :
    (s.progressAtom id m).store.Canonical := by
  unfold State.progressAtom
  split
  · split <;> simp [hs]
  · split
    · exact hs
    split
    · exact hs
    split
    · next e => simpa using canonical_of_snd (State.finishOp_canonical hs _ _) e
    · next e => exact canonical_of_snd (State.finishOp_canonical hs _ _) e
  · exact hs

@[simp] theorem State.countEnd_canonical {s : State} (hs : s.store.Canonical) (id : Nat) (m : RxMessage) :
    (s.countEnd id m).store.Canonical := by
  unfold State.countEnd
  split
  · exact hs
  extract_lets t count
  have ht : t.store.Canonical := by simpa [t] using hs
  split
  · exact ht
  split
  · exact ht
  split
  · next e =>
    obtain ⟨b, -, written⟩ := Option.bind_eq_some_iff.mp e
    exact State.netWrite_canonical ht written
  · simpa using ht

@[simp] theorem State.endMessage_canonical {s : State} (hs : s.store.Canonical) (id : Nat) (m : RxMessage) :
    (s.endMessage id m).store.Canonical := by
  have marked : ∀ w, (if m.aborted ∧ m.first.op = 1 then s.netWrite m.first.dvf (m.slot + 11) [1] else none) = some w →
      w.2.store.Canonical := by
    intro w e
    split at e
    · exact State.netWrite_canonical hs e
    · cases e
  unfold State.endMessage
  dsimp only
  split
  · exact hs
  split
  · next e => simpa using marked _ e
  · simp [hs]

theorem State.onMessage_canonical {s : State} (hs : s.store.Canonical) (id : Nat) {g : State → Nat → RxMessage → State}
    (h : ∀ m, (g s id m).store.Canonical) : (s.onMessage id g).store.Canonical := by
  unfold State.onMessage
  split
  · exact h _
  · exact hs

@[simp] theorem State.progressMessage_canonical {s : State} (hs : s.store.Canonical) (id : Nat) :
    (s.progressMessage id).store.Canonical := by
  have running : ∀ {s : State} (g : State → Nat → RxMessage → State), s.store.Canonical →
      (∀ m, (g s id m).store.Canonical) →
      (s.onMessage id fun s id m => if m.ended.isSome then s else g s id m).store.Canonical := by
    intro s g hs h
    refine State.onMessage_canonical hs id fun m => ?_
    split
    · exact hs
    · exact h m
  unfold State.progressMessage
  extract_lets open_ s₁ s₂ s₃ s₄
  have h₁ : s₁.store.Canonical := running _ hs fun m => by split <;> simp [hs]
  have h₂ : s₂.store.Canonical := running _ h₁ fun m => by split <;> simp [h₁]
  have h₃ : s₃.store.Canonical := running _ h₂ fun m => by simp [h₂]
  have h₄ : s₄.store.Canonical := State.onMessage_canonical h₃ id fun m => State.endMessage_canonical h₃ id m
  refine State.onMessage_canonical h₄ id fun m => ?_
  split <;> simp [h₄]

@[simp] theorem State.netProgress_canonical {s : State} (hs : s.store.Canonical) : s.netProgress.store.Canonical := by
  unfold State.netProgress
  extract_lets s₁ s₂
  have h₁ : s₁.store.Canonical := foldl_canonical hs (fun s id h => State.progressMessage_canonical h id) _
  have h₂ : s₂.store.Canonical := foldl_canonical h₁ (fun s id h => State.finishNet_canonical h id) _
  simpa using h₂

@[simp] theorem State.takeInto_canonical {s : State} (hs : s.store.Canonical) (id : Nat) (m : RxMessage) (t : RxStripe)
    (p : Packet) : (s.takeInto id m t p).store.Canonical := by
  unfold State.takeInto
  extract_lets t data r
  have taken : ∀ q, r = some q → q.2.store.Canonical := by
    intro q e
    simp only [r] at e
    split at e
    · split at e
      · cases e
      · next placed => exact State.completeStripe_canonical (State.placeData_canonical hs placed) e
    · exact State.completeStripe_canonical hs e
  clear_value r
  split
  · exact State.netProgress_canonical (by simpa using taken _ rfl)
  · exact State.netProgress_canonical (by simpa using hs)

@[simp] theorem State.admitStripe_canonical {s : State} (hs : s.store.Canonical) (io id : Nat) (m : RxMessage)
    (begun : Bool)
    (p : Packet) : (s.admitStripe io id m begun p).store.Canonical := by
  unfold State.admitStripe
  split
  · simp [hs]
  split
  · simp [hs]
  · next e =>
    split at e
    · cases e
      exact State.takeInto_canonical hs _ _ _ _
    · exact State.takeInto_canonical (State.beginMessage_canonical hs e) _ _ _ _

@[simp] theorem State.takeKnown_canonical {s : State} (hs : s.store.Canonical) (io id : Nat) (m : RxMessage)
    (p : Packet) :
    (s.takeKnown io id m p).store.Canonical := by
  unfold State.takeKnown
  split <;> simp [hs]

@[simp] theorem State.takeFragment_canonical {s : State} (hs : s.store.Canonical) (arrivedAt : Nat) (p : Packet) :
    (s.takeFragment arrivedAt p).store.Canonical := by
  unfold State.takeFragment
  split
  · simp [hs]
  split
  · simp [hs]
  split
  · simp [hs]
  split
  · simp [hs]
  split
  · simp [hs]
  · extract_lets id t
    have ht : t.store.Canonical := hs
    split <;> simp [ht]

theorem State.toEngine_canonical {s : State} (hs : s.store.Canonical) (io : Nat) (p : Packet) {g : State → State}
    (h : (g s).store.Canonical) : (s.toEngine io p g).store.Canonical := by
  unfold State.toEngine
  extract_lets dst
  split
  · exact h
  · simp [hs]

theorem State.packetIn_canonical {s : State} (hs : s.store.Canonical) (io : Nat) (p : Packet) (type : Nat)
    {g : State → State} (h : (g s).store.Canonical) : (s.packetIn io p type g).store.Canonical := by
  unfold State.packetIn
  split
  · simp [hs]
  split
  · exact hs
  · exact State.netProgress_canonical (State.toEngine_canonical hs io p h)

@[simp] theorem State.peerCounter_canonical {s : State} (hs : s.store.Canonical) (vf dev : Nat) (e : KeyEntry) :
    (s.peerCounter vf dev e).store.Canonical := by
  unfold State.peerCounter
  extract_lets t
  have ht : t.store.Canonical := by
    simp only [t]
    split
    · next e =>
      obtain ⟨b, -, written⟩ := Option.bind_eq_some_iff.mp e
      exact State.netWrite_canonical hs written
    · exact hs
  split
  · exact ht
  · refine foldl_canonical ht (fun s p h => ?_) _
    exact foldl_canonical (s := s.modCoh _) h (fun s w h => by simpa using h) _

@[simp] theorem State.peerReset_canonical {s : State} (hs : s.store.Canonical) (dev peer epoch : Nat) :
    (s.peerReset dev peer epoch).store.Canonical := by
  unfold State.peerReset
  extract_lets t hit u
  have ended : u.store.Canonical := foldl_canonical (s := t) hs (fun s h hs => by simpa using hs) _
  refine foldl_canonical ended (fun s vf h => ?_) _
  exact foldl_canonical h (fun s e h => State.peerCounter_canonical h vf dev e) _

@[simp] theorem State.startGang_canonical {s : State} (hs : s.store.Canonical) (core port base w : Nat)
    (key : StallKey) (lanes : List (Nat × Nat)) :
    (s.startGang core port base w key lanes).store.Canonical := by simp +contextual [State.startGang, hs]

@[simp] theorem State.opportunity_canonical {s : State} (hs : s.store.Canonical) (core port : Nat) :
    (s.opportunity core port).store.Canonical := by
  unfold State.opportunity
  split
  · simp [hs]
  split
  · exact hs
  · extract_lets overdue
    split
    · next e => exact canonical_of_store (store_of_snd (s.drawRank_store _ _) e) hs
    · next e =>
      have drawn := canonical_of_store (store_of_snd (s.drawRank_store _ _) e) hs
      split
      · exact drawn
      · extract_lets lanes t u v
        have started : u.store.Canonical := State.startGang_canonical (by simpa [t] using drawn) _ _ _ _ _ _
        have counted : v.store.Canonical := by
          simp only [v]
          split <;> simp [started]
        split <;> simp [counted]

@[simp] theorem State.writeQcfg_canonical {s : State} (hs : s.store.Canonical) (vf q v : Nat) :
    (s.writeQcfg vf q v).store.Canonical := by
  unfold State.writeQcfg
  extract_lets old new new' t
  have ht : t.store.Canonical := hs
  (repeat' split) <;> simp [ht]

@[simp] theorem State.writeQstat_canonical {s : State} (hs : s.store.Canonical) (vf q v : Nat) :
    (s.writeQstat vf q v).store.Canonical := by
  unfold State.writeQstat
  extract_lets old t
  have ht : t.store.Canonical := hs
  split <;> simp [ht]

@[simp] theorem State.hostRing_canonical {s : State} (hs : s.store.Canonical) (vf queue value : Nat) :
    (s.hostRing vf queue value).store.Canonical := by simp [State.hostRing, hs]

@[simp] theorem State.ringWaiting_canonical {s : State} (hs : s.store.Canonical) : s.ringWaiting.store.Canonical := by
  unfold State.ringWaiting
  split
  · exact hs
  · exact foldl_canonical (s := s.modCoh _) hs (fun s d h => State.ring_canonical h _ _ _) _

@[simp] theorem State.writeQueue_canonical {s : State} (hs : s.store.Canonical) (vf off v : Nat) :
    (s.writeQueue vf off v).store.Canonical := by
  unfold State.writeQueue
  split <;> simp [hs]

@[simp] theorem State.pollWord_canonical {s : State} (hs : s.store.Canonical) (id : Nat) (o : OrdOp) :
    (s.pollWord id o).store.Canonical := by simp [State.pollWord, hs]

@[simp] theorem State.repartition_canonical {s : State} (hs : s.store.Canonical) (core : Nat) :
    (s.repartition core).store.Canonical := by
  simp only [State.repartition]
  (repeat' split) <;> simp +contextual [hs]

@[simp] theorem State.refillAll_canonical {s : State} (hs : s.store.Canonical) :
    (s.refillAll).store.Canonical := by simp [State.refillAll, hs]

@[simp] theorem State.hostStore_canonical {s : State} (hs : s.store.Canonical) (pa : Nat) (data : List Byte) :
    (s.hostStore pa data).store.Canonical := by simp +contextual [State.hostStore, hs]

@[simp] theorem State.hostLineWrite_canonical {s : State} (hs : s.store.Canonical) (port : HostPort) (cxlMem : Bool)
    (vf line : Nat) (cells : List (Nat × Byte)) :
    (s.hostLineWrite port cxlMem vf line cells).store.Canonical := by simp [State.hostLineWrite, hs]

@[simp] theorem State.writeBar0_canonical {s : State} (hs : s.store.Canonical) (vf off v : Nat) :
    (s.writeBar0 vf off v).store.Canonical := by simp [State.writeBar0, hs]

@[simp] theorem State.dropHostWrites_canonical {s : State} (hs : s.store.Canonical) (old : HostPort) :
    (s.dropHostWrites old).store.Canonical := by simp +contextual [State.dropHostWrites, hs]

@[simp] theorem State.failover_canonical {s : State} (hs : s.store.Canonical) : s.failover.store.Canonical := by
  unfold State.failover
  dsimp only
  simp only [State.modPlat_store, State.setMgmtF_store]
  exact State.dropHostWrites_canonical (s := s.modCoh _) hs _

@[simp] theorem State.claim_canonical {s : State} (hs : s.store.Canonical) (port : HostPort) (v : Nat) :
    (s.claim port v).store.Canonical := by simp [State.claim, hs]

@[simp] theorem State.writeHpart_canonical {s : State} (hs : s.store.Canonical) (off v : Nat) :
    (s.writeHpart off v).store.Canonical := by
  unfold State.writeHpart
  extract_lets old new t moves
  have ht : t.store.Canonical := hs
  split
  · simp [hs]
  · exact State.arbitrate_canonical ht

@[simp] theorem State.writePlain_canonical {s : State} (hs : s.store.Canonical) (off v : Nat) :
    (s.writePlain off v).store.Canonical := by
  unfold State.writePlain
  extract_lets t
  have ht : t.store.Canonical := hs
  split
  · exact State.arbitrate_canonical ht
  · exact ht

@[simp] theorem State.writeMgmt_canonical {s : State} (hs : s.store.Canonical) (off v : Nat) :
    (s.writeMgmt off v).store.Canonical := by simp [State.writeMgmt, hs]

@[simp] theorem State.freeObjects_canonical {s : State} (hs : s.store.Canonical) (vf : Nat) :
    (s.freeObjects vf).store.Canonical := by simp +contextual [State.freeObjects, hs]

@[simp] theorem State.freeCode_canonical {s : State} (hs : s.store.Canonical) (vf : Nat) :
    (s.freeCode vf).store.Canonical := by simp +contextual [State.freeCode, hs]

@[simp] theorem State.freeVf_canonical {s : State} (hs : s.store.Canonical) (vf : Nat) :
    (s.freeVf vf).store.Canonical := by simp [State.freeVf, hs]

@[simp] theorem State.flrFinish_canonical {s : State} (hs : s.store.Canonical) (vf : Nat) :
    (s.flrFinish vf).store.Canonical := by
  unfold State.flrFinish
  split
  · exact hs
  · have freed : ((s.freeVf vf).returnFlr vf).store.Canonical := by
      rw [State.returnFlr_store]
      exact State.freeVf_canonical hs vf
    extract_lets t u v
    have kept : v.store = t.store := by rw [State.modPlat_store, State.modNet_store]
    rw [State.answer_store, kept]
    exact freed

@[simp] theorem State.beginFlr_canonical {s : State} (hs : s.store.Canonical) (vf : Nat) :
    (s.beginFlr vf).store.Canonical := by simp [State.beginFlr, hs]

@[simp] theorem State.graceKill_canonical {s : State} (hs : s.store.Canonical) (vf : Nat) :
    (s.graceKill vf).store.Canonical := by
  simp only [State.graceKill]
  (repeat' split) <;> simp [hs]

@[simp] theorem State.endRecall_canonical {s : State} (hs : s.store.Canonical) (line : Nat) :
    (s.endRecall line).store.Canonical := by
  unfold State.endRecall
  extract_lets h t
  have ht : t.store.Canonical := by simpa [t] using hs
  split
  · exact State.evaluate_canonical (foldl_canonical ht (fun s id hs => State.serve_canonical hs id) _) line
  · exact State.evaluate_canonical hs line

@[simp] theorem State.discardCore_canonical {s : State} (hs : s.store.Canonical) (core : Nat) :
    (s.discardCore core).store.Canonical := by simp +contextual [State.discardCore, hs]

@[simp] theorem State.clearCore_canonical {s : State} (hs : s.store.Canonical) (core : Nat) (spared : Bool) :
    (s.clearCore core spared).store.Canonical := by simp [State.clearCore, hs]

@[simp] theorem State.absorbFlrs_canonical {s : State} (hs : s.store.Canonical) :
    (s.absorbFlrs).store.Canonical := by simp +contextual [State.absorbFlrs, hs]

@[simp] theorem State.resetCore_canonical {s : State} (hs : s.store.Canonical) (core : Nat) :
    (s.resetCore core).store.Canonical := by simp [State.resetCore, hs]

@[simp] theorem State.writeBackHome_canonical {s : State} (hs : s.store.Canonical) (die : Nat) :
    (s.writeBackHome die).store.Canonical := by
  unfold State.writeBackHome
  refine foldl_canonical hs (fun s line h => ?_) _
  dsimp only
  split
  · exact h
  · exact h

@[simp] theorem State.resetDie_canonical {s : State} (hs : s.store.Canonical) (die : Nat) :
    (s.resetDie die).store.Canonical := by
  unfold State.resetDie
  extract_lets t u v
  have cleared : t.store.Canonical := by
    simp only [t, State.returnQueues_store]
    exact foldl_canonical hs (fun s core h => State.clearCore_canonical h core false) _
  have written : u.store.Canonical := by
    simp only [u]
    split <;> simp [cleared]
  exact State.absorbFlrs_canonical (s := { v with bitterns := v.bitterns.del die }) written

@[simp] theorem State.resetPartition_canonical {s : State} (hs : s.store.Canonical) (n : Nat) :
    (s.resetPartition n).store.Canonical := by
  unfold State.resetPartition
  extract_lets vfs cores t u
  have begun : t.store.Canonical := foldl_canonical hs (fun s vf h => State.beginFlr_canonical h vf) _
  have cleared : u.store.Canonical :=
    foldl_canonical begun (fun s core h => State.clearCore_canonical h core _) _
  refine State.absorbFlrs_canonical ?_
  split <;> simp [cleared]

theorem State.withRegs_store (s : State) (r : Registers) : ({ s with regs := r } : State).store = s.store := rfl

@[simp] theorem State.resetWarm_canonical {s : State} (hs : s.store.Canonical) : s.resetWarm.store.Canonical := by
  have reset : ((List.range 10).foldl State.resetDie s).store.Canonical :=
    foldl_canonical hs (fun s die h => State.resetDie_canonical h die) _
  unfold State.resetWarm
  rw [State.modPlat_store, State.modSched_store, State.withRegs_store]
  split
  · rw [State.newIncarnation_store]
    exact reset
  · exact reset

@[simp] theorem State.resetCold_canonical {s : State} (hs : s.store.Canonical) (image : List Byte) :
    (s.resetCold image).store.Canonical := by
  have hosts := Memory.wf_filter (fun c => decide (targetOf c.1 ≠ 0)) hs.phys
  unfold State.resetCold
  dsimp only
  split
  · exact ⟨hosts, rfl⟩
  · exact ⟨hosts, rfl⟩

@[simp] theorem State.readBeat_canonical {s : State} (hs : s.store.Canonical) (core : Nat) :
    (s.readBeat core).store.Canonical := by
  unfold State.readBeat
  split <;> simp [hs]

@[simp] theorem State.checkBeats_canonical {s : State} (hs : s.store.Canonical) : s.checkBeats.store.Canonical := by
  unfold State.checkBeats
  split
  · exact hs
  · exact foldl_canonical (s := s.modPlat _) hs (fun s core h => State.readBeat_canonical h core) _

@[simp] theorem State.eccOutcome_canonical {s : State} (hs : s.store.Canonical) (a : EccLocation) :
    (s.eccOutcome a).store.Canonical := by
  simp only [State.eccOutcome]
  (repeat' split) <;> simp [hs, hs.phys, hs.pitch]

@[simp] theorem State.resetAt_canonical {s : State} (hs : s.store.Canonical) (a : ResetLevel) :
    (s.resetAt a).store.Canonical := by
  unfold State.resetAt
  split <;> simp [hs]

end Sys2Proof.Machine

/-! ## Every instruction, event and step keeps the canonical form -/

namespace Sys2Proof.Machine

/-- The next state of an answer has its storage in canonical form. -/
def AnswerCanonical : Host.Outcome State Fault Refusal → Prop
  | .next s => s.store.Canonical
  | _ => True

@[simp] theorem answerCanonical_next (s : State) : AnswerCanonical (.next s) ↔ s.store.Canonical := Iff.rfl

theorem State.lanes_canonical {s : State} (hs : s.store.Canonical) (i : Instr) (priv : Nat → Bool)
    {body : LaneIn → State → LaneRes} (hb : KeepsCanonical body) : AnswerCanonical (s.lanes i priv body) := by
  unfold State.lanes
  split
  · split
    · simp [hs]
    split
    · simp [hs]
    · exact State.runLanes_canonical hs _ _ _ hb
  · exact hs

theorem State.plain_canonical {s : State} (hs : s.store.Canonical) (i : Instr) {body : LaneIn → State → LaneRes}
    (hb : KeepsCanonical body) : AnswerCanonical (s.plain i body) := State.lanes_canonical hs i _ hb

theorem State.cross_canonical {s : State} (hs : s.store.Canonical) (i : Instr) (priv : Nat → Bool) {op : CrossOp}
    (ho : op.Canonical) : AnswerCanonical (s.cross i priv op) := by
  unfold State.cross
  split
  · split
    · simp [hs]
    split
    · simp [hs]
    · exact State.runCross_canonical hs _ _ _ ho
  · exact hs

theorem crossOp_canonical (a : BitVec 8) (wide : Bool) {check : State → LaneIn → Option LaneRes}
    (h : ∀ s x, StopsCanonical (check s x)) (result : State → CrossIn → Nat → LaneIn → IntRes) :
    (crossOp a wide check result).Canonical where
  alone _ _ _ := trivial
  check _ _ x := h _ x
  result _ _ _ _ _ := trivial

theorem execFence_canonical {s : State} (hs : s.store.Canonical) (f : FormQI) : AnswerCanonical (execFence f s) := by
  refine State.plain_canonical hs _ fun x s hs => ?_
  dsimp only
  split
  · simp
  split
  · exact hs
  split
  · next e => exact x.ownAtoms_canonical s _ e
  · have fenced := State.fencePart_canonical (s := s.fresh.2) hs
    split <;> simp [hs, fenced]

theorem execObjopen_canonical {s : State} (hs : s.store.Canonical) (f : FormW) : AnswerCanonical (execObjopen f s) := by
  refine State.plain_canonical hs _ fun x s hs => ?_
  dsimp only
  split
  · simp
  split
  · next e => exact x.awaitTables_canonical hs _ _ e
  split
  · simp
  · next t b e =>
    have loaded : t.store.Canonical := canonical_of_store (s.loadGlobal_store e) hs
    split
    · next u picked =>
      have chosen : u.store.Canonical := canonical_of_snd ((State.pickOne_store _ _).symm ▸ loaded) picked
      have cleared := State.clearCopies_canonical (s := u.fresh.2) chosen
      simp [cleared]
    · next picked => exact canonical_of_snd ((State.pickOne_store _ _).symm ▸ loaded) picked

theorem execObjclose_canonical {s : State} (hs : s.store.Canonical) (f : FormQ) :
    AnswerCanonical (execObjclose f s) := by
  refine State.plain_canonical hs _ fun x s hs => ?_
  have left := State.leaveState_canonical (s := s.fresh.2) hs
  dsimp only
  split <;> simp [left]

theorem execObjset_canonical {s : State} (hs : s.store.Canonical) (f : FormW) : AnswerCanonical (execObjset f s) := by
  refine State.plain_canonical hs _ fun x s hs => ?_
  dsimp only
  split
  · simp
  split
  · simp
  · refine x.begin__canonical ?_ _ _ _
    rw [State.setOrd_store]
    split
    · exact State.leaveState_canonical (s := s.fresh.2) hs _ _
    · exact State.clearCopies_canonical (s := s.fresh.2) hs _ _

theorem execStW_canonical {s : State} (hs : s.store.Canonical) (f : FormW) : AnswerCanonical (execStW f s) := by
  refine State.lanes_canonical hs _ _ fun x s hs => ?_
  simp [hs]

theorem execStX_canonical {s : State} (hs : s.store.Canonical) (f : FormW) (lit : Word) :
    AnswerCanonical (execStX f lit s) := by
  refine State.lanes_canonical hs _ _ fun x s hs => ?_
  simp [hs]

theorem execStq_canonical {s : State} (hs : s.store.Canonical) (f : FormW) : AnswerCanonical (execStq f s) := by
  refine State.lanes_canonical hs _ _ fun x s hs => ?_
  simp [hs]

theorem execPref_canonical {s : State} (hs : s.store.Canonical) (f : FormW) : AnswerCanonical (execPref f s) := by
  refine State.plain_canonical hs _ fun x s hs => ?_
  dsimp only
  split <;> simp [hs]

theorem execDlease_canonical {s : State} (hs : s.store.Canonical) (f : FormW) : AnswerCanonical (execDlease f s) := by
  refine State.plain_canonical hs _ fun x s hs => foldl_canonical hs (fun s line hs => ?_) _
  split
  · split <;> simp [hs]
  · exact hs

theorem execQsend_canonical {s : State} (hs : s.store.Canonical) (f : FormW) : AnswerCanonical (execQsend f s) := by
  refine State.plain_canonical hs _ fun x s hs => ?_
  extract_lets core mask q wide clu left foreign id t part r
  have written : part.2.store.Canonical := by
    have renewed : t.store.Canonical := hs
    simp only [part]
    split <;> simp [hs, renewed]
  have offered : r.2.store.Canonical := by simp [r, written]
  split
  · simp
  split
  · simp
  split
  · next e => exact x.ownAtoms_canonical s _ e
  split
  · simp [written]
  split
  · next e =>
    split at e
    · exact x.offerCopy_stops offered e
    · cases e
  · next t e =>
    have sent : t.store.Canonical := by
      split at e
      · exact x.offerCopy_canonical offered e
      · cases e
        exact offered
    split <;> simp [sent]

theorem execMbar_canonical {s : State} (hs : s.store.Canonical) (f : FormQI) : AnswerCanonical (execMbar f s) := by
  refine State.plain_canonical hs _ fun x s hs => ?_
  extract_lets k id t r t' t''
  have written : t''.store.Canonical := by
    have renewed : t.store.Canonical := hs
    simp only [t'', t', r, State.park_store]
    split <;> simp [renewed]
  split
  · simp
  split
  · simp
  split
  · next e => exact x.ownAtoms_canonical s _ e
  · split <;> simp [written]

theorem execCalli_canonical {s : State} (hs : s.store.Canonical) (f : FormW) : AnswerCanonical (execCalli f s) := by
  refine State.plain_canonical hs _ fun x s hs => ?_
  split
  · simp
  · have called := x.callTo_canonical hs (slideOf f.sub) (s.enterPtr x.f.tenant x.b)
    split
    · next e =>
      rw [e] at called
      simpa using called
    · exact called

theorem execRet_canonical {s : State} (hs : s.store.Canonical) (f : FormQI) : AnswerCanonical (execRet f s) := by
  refine State.plain_canonical hs _ fun x s hs => ?_
  dsimp only
  split <;> simp [hs]

theorem execConvene_canonical {s : State} (hs : s.store.Canonical) (f : FormQI) :
    AnswerCanonical (execConvene f s) := by
  refine State.plain_canonical hs _ fun x s hs => ?_
  dsimp only
  (repeat' split) <;> simp [hs]

theorem execDisband_canonical {s : State} (hs : s.store.Canonical) (f : FormQ) : AnswerCanonical (execDisband f s) := by
  refine State.plain_canonical hs _ fun x s hs => ?_
  split <;> simp [hs]

theorem execBar_canonical {s : State} (hs : s.store.Canonical) (f : FormQ) : AnswerCanonical (execBar f s) := by
  refine State.plain_canonical hs _ fun x s hs => ?_
  split
  · simp
  split
  · simp
  split
  · next e => exact x.ownAtoms_canonical s _ e
  · simp [hs]

theorem execExit_canonical {s : State} (hs : s.store.Canonical) (f : FormQ) : AnswerCanonical (execExit f s) := by
  refine State.plain_canonical hs _ fun x s hs => ?_
  (repeat' split) <;> simp [hs]

theorem execSpawn_canonical {s : State} (hs : s.store.Canonical) (f : FormW) : AnswerCanonical (execSpawn f s) := by
  refine State.plain_canonical hs _ fun x s hs => ?_
  split
  · simp
  split
  · next e => exact x.ownAtoms_canonical s _ e
  split
  · next e => exact canonical_of_store (s.spawnFibre_store e) hs
  · simp

theorem execPerform_canonical {s : State} (hs : s.store.Canonical) (f : FormWI) :
    AnswerCanonical (execPerform f s) := by
  refine State.lanes_canonical hs _ _ fun x s hs => ?_
  simp [hs]

theorem execPerformv_canonical {s : State} (hs : s.store.Canonical) (f : FormWI) :
    AnswerCanonical (execPerformv f s) := by
  refine State.lanes_canonical hs _ _ fun x s hs => ?_
  simp [hs]

theorem execDrop_canonical {s : State} (hs : s.store.Canonical) (f : FormQ) : AnswerCanonical (execDrop f s) := by
  refine State.plain_canonical hs _ fun x s hs => ?_
  split <;> simp [hs]

theorem execKinfo_canonical {s : State} (hs : s.store.Canonical) (f : FormW) : AnswerCanonical (execKinfo f s) := by
  refine State.plain_canonical hs _ fun x s hs => ?_
  dsimp only
  split <;> simp

theorem execPset_canonical {s : State} (hs : s.store.Canonical) (f : FormW) : AnswerCanonical (execPset f s) := by
  refine State.plain_canonical hs _ fun x s hs => ?_
  dsimp only
  split
  · simp
  split
  · simp
  · simp
  · next e => exact canonical_of_store (s.loadSpace_store e) hs

theorem execPerm_canonical {s : State} (hs : s.store.Canonical) (f : FormW) : AnswerCanonical (execPerm f s) :=
  State.cross_canonical hs _ _ (crossOp_canonical _ _ (permCheck_canonical _) _)

theorem execShfl_canonical {s : State} (hs : s.store.Canonical) (f : FormW) : AnswerCanonical (execShfl f s) :=
  State.cross_canonical hs _ _ (crossOp_canonical _ _ noCheck_canonical _)

theorem execBcast_canonical {s : State} (hs : s.store.Canonical) (f : FormW) : AnswerCanonical (execBcast f s) :=
  State.cross_canonical hs _ _ (crossOp_canonical _ _ noCheck_canonical _)

theorem execReduce_canonical {s : State} (hs : s.store.Canonical) (f : FormW) : AnswerCanonical (execReduce f s) :=
  State.cross_canonical hs _ _ (crossOp_canonical _ _ noCheck_canonical _)

theorem execScan_canonical {s : State} (hs : s.store.Canonical) (f : FormW) : AnswerCanonical (execScan f s) :=
  State.cross_canonical hs _ _ (crossOp_canonical _ _ noCheck_canonical _)

theorem execVote_canonical {s : State} (hs : s.store.Canonical) (f : FormW) : AnswerCanonical (execVote f s) :=
  State.cross_canonical hs _ _ (crossOp_canonical _ _ (voteCheck_canonical _) _)

theorem execMtxCommandComplete_canonical {s : State} (hs : s.store.Canonical) (core ctx : Nat) :
    AnswerCanonical (execMtxCommandComplete core ctx s) := by
  simp only [execMtxCommandComplete]
  (repeat' split) <;> simp [hs]

theorem execMma_canonical {s : State} (hs : s.store.Canonical) (f : FormW) : AnswerCanonical (execMma f s) :=
  State.cross_canonical hs _ _
    ⟨fun x _ hs => x.mmaAlone_canonical hs f, fun _ rs x => mmaCheck_canonical f _ rs x,
      fun hs pre v i x => mmaMember_canonical hs f pre v i x⟩

theorem execMzero_canonical {s : State} (hs : s.store.Canonical) (f : FormQI) : AnswerCanonical (execMzero f s) := by
  refine State.lanes_canonical hs _ _ fun x s hs => ?_
  split
  · next e => exact x.mtxStop_canonical s _ _ _ _ e
  · simp [hs]

theorem execMdrain_canonical {s : State} (hs : s.store.Canonical) (f : FormW) : AnswerCanonical (execMdrain f s) := by
  refine State.lanes_canonical hs _ _ fun x s hs => ?_
  dsimp only
  split
  · simp
  split
  · next e => exact x.mtxStop_canonical s _ _ _ _ e
  · split <;> simp [hs]

theorem execMacc_canonical {s : State} (hs : s.store.Canonical) (f : FormW) : AnswerCanonical (execMacc f s) := by
  refine State.lanes_canonical hs _ _ fun x s hs => ?_
  dsimp only
  split
  · next e => exact x.faultFirst_canonical _ e
  · simp
  · split
    · next e => exact x.mtxStop_canonical s _ _ _ _ e
    · simp [hs]

theorem execMstat_canonical {s : State} (hs : s.store.Canonical) (f : FormQI) : AnswerCanonical (execMstat f s) := by
  refine State.lanes_canonical hs _ _ fun x s hs => ?_
  simp [hs]

theorem execHalt_canonical {s : State} (hs : s.store.Canonical) (f : FormQ) : AnswerCanonical (execHalt f s) := by
  refine State.lanes_canonical hs _ _ fun x s hs => ?_
  simp [hs]

theorem execMboxPop_canonical {s : State} (hs : s.store.Canonical) (core : Nat) :
    AnswerCanonical (execMboxPop core s) := by
  simp [execMboxPop, hs]

theorem execMboxWaitTimeout_canonical {s : State} (hs : s.store.Canonical) (core : Nat) :
    AnswerCanonical (execMboxWaitTimeout core s) := by
  simp [execMboxWaitTimeout, hs]

theorem execHaltedWrite_canonical {s : State} (hs : s.store.Canonical) (core : Nat) (value : BitVec 64) :
    AnswerCanonical (execHaltedWrite core value s) := by
  refine State.accepted_canonical hs ?_
  simp [hs]

theorem execXlinvC_canonical {s : State} (hs : s.store.Canonical) (core : Nat) (value : BitVec 64) :
    AnswerCanonical (execXlinvC core value s) := by
  simp [execXlinvC, hs]

theorem execSret_canonical {s : State} (hs : s.store.Canonical) (f : FormW) : AnswerCanonical (execSret f s) := by
  refine State.lanes_canonical hs _ _ fun x s hs => ?_
  have fenced := State.fencePart_canonical (s := s.fresh.2) hs
  dsimp only
  split
  · simp
  split
  · simp
  split
  · simp [fenced]
  · split <;> simp [fenced]

theorem execKill_canonical {s : State} (hs : s.store.Canonical) (f : FormW) : AnswerCanonical (execKill f s) := by
  refine State.plain_canonical hs _ fun x s hs => ?_
  dsimp only
  (repeat' split) <;> simp [hs]

theorem execKillDeadline_canonical {s : State} (hs : s.store.Canonical) (crew : Nat) :
    AnswerCanonical (execKillDeadline crew s) := by
  simp [execKillDeadline, hs]

theorem State.onCodex_canonical {s : State} (hs : s.store.Canonical) (id op : Nat) {g : EngineOp → CodexReq → State}
    (h : ∀ o r, (g o r).store.Canonical) : AnswerCanonical (s.onCodex id op g) := by
  unfold State.onCodex
  split
  · exact hs
  split
  · rw [answerCanonical_next]
    split
    · exact h _ _
    · exact hs
  · exact hs

theorem execCodexReserve_canonical {s : State} (hs : s.store.Canonical) (op index : Nat) :
    AnswerCanonical (execCodexReserve op index s) :=
  State.onCodex_canonical hs _ _ fun _ r => by simp [hs]

theorem execCodexSeal_canonical {s : State} (hs : s.store.Canonical) (op place : Nat) :
    AnswerCanonical (execCodexSeal op place s) :=
  State.onCodex_canonical hs _ _ fun o r => State.codexSeal_canonical hs op place o r

theorem execCodexPatch_canonical {s : State} (hs : s.store.Canonical) (op : Nat) :
    AnswerCanonical (execCodexPatch op s) :=
  State.onCodex_canonical hs _ _ fun o r => State.codexPatch_canonical hs op o r

theorem execCodexSwap_canonical {s : State} (hs : s.store.Canonical) (op place : Nat) :
    AnswerCanonical (execCodexSwap op place s) :=
  State.onCodex_canonical hs _ _ fun o r => State.codexSwap_canonical hs op place o r

theorem execCodexFree_canonical {s : State} (hs : s.store.Canonical) (op : Nat) :
    AnswerCanonical (execCodexFree op s) :=
  State.onCodex_canonical hs _ _ fun _ r => State.codexFree_canonical hs op r

theorem execCodexCompletion_canonical {s : State} (hs : s.store.Canonical) (op : Nat) :
    AnswerCanonical (execCodexCompletion op s) := by
  simp [execCodexCompletion, hs]

theorem execCodex_canonical {s : State} (hs : s.store.Canonical) (f : FormW) : AnswerCanonical (execCodex f s) := by
  refine State.lanes_canonical hs _ _ fun x s hs => ?_
  dsimp only
  split
  · next e => exact x.readBlock_stops hs e
  · next e =>
    have read := x.readBlock_canonical hs e
    split <;> simp [read]

theorem execFilterRun_canonical {s : State} (hs : s.store.Canonical) (die : Nat) :
    AnswerCanonical (execFilterRun die s) := by
  simp [execFilterRun, hs]

theorem execBitternPeriod_canonical {s : State} (hs : s.store.Canonical) : AnswerCanonical (execBitternPeriod s) := by
  simp [execBitternPeriod, hs]

theorem execFctlEnable_canonical {s : State} (hs : s.store.Canonical) (port : HostPort) (vf die slot : Nat)
    (value : BitVec 64) : AnswerCanonical (execFctlEnable port vf die slot value s) :=
  State.fromPort_canonical hs port (by simpa using hs)

theorem execHsnap_canonical {s : State} (hs : s.store.Canonical) (port : HostPort) (vf die : Nat) (value : BitVec 64) :
    AnswerCanonical (execHsnap port vf die value s) := State.fromPort_canonical hs port (by simpa using hs)

theorem execIclr_canonical {s : State} (hs : s.store.Canonical) (port : HostPort) (vf die : Nat) (value : BitVec 64) :
    AnswerCanonical (execIclr port vf die value s) := State.fromPort_canonical hs port (by simpa using hs)

theorem execBtOwnerWrite_canonical {s : State} (hs : s.store.Canonical) (offset : Nat) (value : BitVec 64) :
    AnswerCanonical (execBtOwnerWrite offset value s) := by
  refine State.accepted_canonical hs ?_
  simp [hs]

theorem execTrd_canonical {s : State} (hs : s.store.Canonical) (f : FormWI) : AnswerCanonical (execTrd f s) := by
  refine State.plain_canonical hs _ fun x s hs => ?_
  dsimp only
  (repeat' split) <;> simp

theorem execCpy_canonical {s : State} (hs : s.store.Canonical) (f : FormW) : AnswerCanonical (execCpy f s) := by
  refine State.plain_canonical hs _ fun x s hs => ?_
  dsimp only
  split
  · next e => exact x.engineStop_canonical s _ _ _ e
  · simp [hs]

theorem execWaitc_canonical {s : State} (hs : s.store.Canonical) (f : FormWI) : AnswerCanonical (execWaitc f s) := by
  refine State.plain_canonical hs _ fun x s hs => ?_
  dsimp only
  (repeat' split) <;> simp [hs]

theorem execCopyComplete_canonical {s : State} (hs : s.store.Canonical) (op : Nat) :
    AnswerCanonical (execCopyComplete op s) := by
  simp only [execCopyComplete]
  (repeat' split) <;> simp [hs]

theorem execGsComplete_canonical {s : State} (hs : s.store.Canonical) (op : Nat) :
    AnswerCanonical (execGsComplete op s) := by
  simp only [execGsComplete]
  (repeat' split) <;> simp [hs]

theorem execWbComplete_canonical {s : State} (hs : s.store.Canonical) (op : Nat) :
    AnswerCanonical (execWbComplete op s) := by
  simp only [execWbComplete]
  (repeat' split) <;> simp [hs]

theorem execEngineStop_canonical {s : State} (hs : s.store.Canonical) (op : Nat) (hostError : Option Nat) :
    AnswerCanonical (execEngineStop op hostError s) := by
  simp only [execEngineStop]
  (repeat' split) <;> simp [hs]

theorem execStripeSend_canonical {s : State} (hs : s.store.Canonical) (op stripe : Nat) :
    AnswerCanonical (execStripeSend op stripe s) := by
  simp [execStripeSend, hs]

theorem execStripeResend_canonical {s : State} (hs : s.store.Canonical) (op stripe : Nat) :
    AnswerCanonical (execStripeResend op stripe s) := by
  simp [execStripeResend, hs]

theorem execNtimeoutExpiry_canonical {s : State} (hs : s.store.Canonical) (op : Nat) :
    AnswerCanonical (execNtimeoutExpiry op s) := by
  simp only [execNtimeoutExpiry]
  (repeat' split) <;> simp [hs]

theorem execProbeWaitExpiry_canonical {s : State} (hs : s.store.Canonical) (op : Nat) :
    AnswerCanonical (execProbeWaitExpiry op s) := by
  simp only [execProbeWaitExpiry]
  (repeat' split) <;> simp [hs]

theorem execKsend_canonical {s : State} (hs : s.store.Canonical) (f : FormW) : AnswerCanonical (execKsend f s) := by
  refine State.plain_canonical hs _ fun x s hs => ?_
  dsimp only
  split
  · next e => exact x.engineStop_canonical s _ _ _ e
  · split <;> simp [hs]

theorem execNpost_canonical {s : State} (hs : s.store.Canonical) (f : FormW) : AnswerCanonical (execNpost f s) := by
  refine State.plain_canonical hs _ fun x s hs => ?_
  dsimp only
  split
  · next e => exact x.engineStop_canonical s _ _ _ e
  have flushed := fun lines => State.flushLines_canonical hs (coreOf x.key) x.f.tenant lines
  split
  · simp [flushed]
  split
  · next e => exact LaneRes.on_canonical (flushed _) (x.readBlock_stops (flushed _) e)
  · next e =>
    have read := x.readBlock_canonical (flushed _) e
    simp [read]

theorem execDataFragmentReceive_canonical {s : State} (hs : s.store.Canonical) (io : Nat) (packet : Packet) :
    AnswerCanonical (execDataFragmentReceive io packet s) :=
  State.packetIn_canonical hs io packet 0 (State.takeFragment_canonical hs io packet)

theorem execParityFragmentReceive_canonical {s : State} (hs : s.store.Canonical) (io : Nat) (packet : Packet) :
    AnswerCanonical (execParityFragmentReceive io packet s) :=
  State.packetIn_canonical hs io packet 1 (State.takeFragment_canonical hs io packet)

theorem execStripeAckReceive_canonical {s : State} (hs : s.store.Canonical) (io : Nat) (packet : Packet) :
    AnswerCanonical (execStripeAckReceive io packet s) :=
  State.packetIn_canonical hs io packet 2 (State.takeAck_canonical hs packet)

theorem execRetransmitRequestReceive_canonical {s : State} (hs : s.store.Canonical) (io : Nat) (packet : Packet) :
    AnswerCanonical (execRetransmitRequestReceive io packet s) :=
  State.packetIn_canonical hs io packet 3 (canonical_of_store (State.takeRequest_store _ packet) hs)

theorem execProbeReceive_canonical {s : State} (hs : s.store.Canonical) (io : Nat) (packet : Packet) :
    AnswerCanonical (execProbeReceive io packet s) := by
  refine State.packetIn_canonical hs io packet 4 ?_
  split
  · exact canonical_of_store (State.indicateReset_store _ _ _ _ _ _) hs
  · exact canonical_of_store (State.takeProbe_store _ _) hs

theorem execAbortReceive_canonical {s : State} (hs : s.store.Canonical) (io : Nat) (packet : Packet) :
    AnswerCanonical (execAbortReceive io packet s) :=
  State.packetIn_canonical hs io packet 5 (canonical_of_store (State.takeAbort_store _ packet) hs)

theorem execTargetResetIndication_canonical {s : State} (hs : s.store.Canonical) (io : Nat) (packet : Packet) :
    AnswerCanonical (execTargetResetIndication io packet s) :=
  State.packetIn_canonical hs io packet 6 (State.peerReset_canonical hs _ _ _)

theorem execAtomicReplyReceive_canonical {s : State} (hs : s.store.Canonical) (io : Nat) (packet : Packet) :
    AnswerCanonical (execAtomicReplyReceive io packet s) :=
  State.packetIn_canonical hs io packet 7 (State.takeReply_canonical hs packet)

theorem execPdsNackReceive_canonical {s : State} (hs : s.store.Canonical) (io : Nat) (packet : Packet) :
    AnswerCanonical (execPdsNackReceive io packet s) := by
  unfold execPdsNackReceive
  split
  · exact State.toEngine_canonical hs io packet (canonical_of_store (State.takeNack_store _ packet) hs)
  · exact hs

theorem execUnsupportedPacket_canonical {s : State} (hs : s.store.Canonical) (io source : Nat) :
    AnswerCanonical (execUnsupportedPacket io source s) := by
  simp [execUnsupportedPacket, hs]

theorem execStripeWaitExpiry_canonical {s : State} (hs : s.store.Canonical) (message stripe : Nat) :
    AnswerCanonical (execStripeWaitExpiry message stripe s) := by
  simp [execStripeWaitExpiry, hs]

theorem execMessageRecordExpiry_canonical {s : State} (hs : s.store.Canonical) (message : Nat) :
    AnswerCanonical (execMessageRecordExpiry message s) := by
  simp only [execMessageRecordExpiry, answerCanonical_next]
  (repeat' split) <;> simp [hs]

theorem execSluiceOcc_canonical {s : State} (hs : s.store.Canonical) : AnswerCanonical (execSluiceOcc s) := by
  simp [execSluiceOcc, hs]

theorem execDieLinkFlitReceive_canonical {s : State} (hs : s.store.Canonical) (src dst : Nat) (flit : Flit) :
    AnswerCanonical (execDieLinkFlitReceive src dst flit s) := by
  simp only [execDieLinkFlitReceive]
  (repeat' split) <;> simp [hs]

theorem execDieLinkRetryExpiry_canonical {s : State} (hs : s.store.Canonical) (src dst group : Nat) :
    AnswerCanonical (execDieLinkRetryExpiry src dst group s) := by
  simp [execDieLinkRetryExpiry, hs]

theorem execDieLinkGroupFailure_canonical {s : State} (hs : s.store.Canonical) (src dst group : Nat) :
    AnswerCanonical (execDieLinkGroupFailure src dst group s) := by
  simp [execDieLinkGroupFailure, hs]

theorem execOrderingComplete_canonical {s : State} (hs : s.store.Canonical) (id : Nat) :
    AnswerCanonical (execOrderingComplete id s) := by
  simp [execOrderingComplete, hs]

theorem receivePacket_canonical {s : State} (hs : s.store.Canonical) (io : Nat) (p : Packet) :
    AnswerCanonical (receivePacket io p s) := by
  unfold receivePacket
  split
  · exact execDataFragmentReceive_canonical hs io p
  · exact execParityFragmentReceive_canonical hs io p
  · exact execStripeAckReceive_canonical hs io p
  · exact execRetransmitRequestReceive_canonical hs io p
  · exact execProbeReceive_canonical hs io p
  · exact execAbortReceive_canonical hs io p
  · exact execTargetResetIndication_canonical hs io p
  · exact execAtomicReplyReceive_canonical hs io p
  · exact execPdsNackReceive_canonical hs io p

theorem execStallAgeRelease_canonical {s : State} (hs : s.store.Canonical) (core : Nat) :
    AnswerCanonical (execStallAgeRelease core s) := by
  simp [execStallAgeRelease, hs]

theorem execOverdueClaim_canonical {s : State} (hs : s.store.Canonical) (core : Nat) :
    AnswerCanonical (execOverdueClaim core s) := by
  simp [execOverdueClaim, hs]

theorem execIssueOpportunity_canonical {s : State} (hs : s.store.Canonical) (core port : Nat) :
    AnswerCanonical (execIssueOpportunity core port s) := by
  simp [execIssueOpportunity, hs]

theorem execPauseRelease_canonical {s : State} (hs : s.store.Canonical) (core fibre : Nat) :
    AnswerCanonical (execPauseRelease core fibre s) := by
  simp only [execPauseRelease, answerCanonical_next]
  (repeat' split) <;> simp [hs]

theorem execSegmentReload_canonical {s : State} (hs : s.store.Canonical) (core : Nat) :
    AnswerCanonical (execSegmentReload core s) := by
  simp only [execSegmentReload, answerCanonical_next]
  split
  · exact hs
  split
  · exact hs
  split
  · exact hs
  · next t e =>
    have roomy : t.store.Canonical := by
      split at e
      · cases e
        exact hs
      · exact canonical_of_store (s.heapRoom_store e) hs
    (repeat' split) <;> simp [roomy]

theorem execLandingWrite_canonical {s : State} (hs : s.store.Canonical) (id : Nat) :
    AnswerCanonical (execLandingWrite id s) := by
  simp [execLandingWrite, hs]

theorem execPerformEffect_canonical {s : State} (hs : s.store.Canonical) (core fibre : Nat) :
    AnswerCanonical (execPerformEffect core fibre s) := by
  simp [execPerformEffect, hs]

theorem execMailboxDeferredPost_canonical {s : State} (hs : s.store.Canonical) (core : Nat) :
    AnswerCanonical (execMailboxDeferredPost core s) := by
  simp [execMailboxDeferredPost, hs]

theorem execDoorbell_canonical {s : State} (hs : s.store.Canonical) (port : HostPort) (vf queue : Nat)
    (value : BitVec 64) : AnswerCanonical (execDoorbell port vf queue value s) :=
  State.fromPort_canonical hs port (by simp [hs])

theorem execQheadWrite_canonical {s : State} (hs : s.store.Canonical) (port : HostPort) (vf queue : Nat)
    (value : BitVec 64) : AnswerCanonical (execQheadWrite port vf queue value s) :=
  State.fromPort_canonical hs port (by simpa using hs)

theorem execQstatHaltClear_canonical {s : State} (hs : s.store.Canonical) (port : HostPort) (vf queue : Nat)
    (value : BitVec 64) : AnswerCanonical (execQstatHaltClear port vf queue value s) :=
  State.fromPort_canonical hs port (by simp [hs])

theorem execQueueDisable_canonical {s : State} (hs : s.store.Canonical) (port : HostPort) (vf queue : Nat)
    (value : BitVec 64) : AnswerCanonical (execQueueDisable port vf queue value s) :=
  State.fromPort_canonical hs port (by simp [hs])

theorem execLaunchReady_canonical {s : State} (hs : s.store.Canonical) (vf queue : Nat) :
    AnswerCanonical (execLaunchReady vf queue s) := by
  simp [execLaunchReady, hs]

theorem execDeppollRead_canonical {s : State} (hs : s.store.Canonical) (vf queue : Nat) :
    AnswerCanonical (execDeppollRead vf queue s) := by
  unfold execDeppollRead
  split <;> simp [hs]

theorem execRepartition_canonical {s : State} (hs : s.store.Canonical) (core : Nat) :
    AnswerCanonical (execRepartition core s) := by
  simp [execRepartition, hs]

theorem execCrewStart_canonical {s : State} (hs : s.store.Canonical) (crew : Nat) :
    AnswerCanonical (execCrewStart crew s) := by
  simp [execCrewStart, hs]

theorem execRunlimExpiry_canonical {s : State} (hs : s.store.Canonical) (crew : Nat) :
    AnswerCanonical (execRunlimExpiry crew s) := by
  simp only [execRunlimExpiry, answerCanonical_next]
  (repeat' split) <;> simp [hs]

theorem execLaunchComplete_canonical {s : State} (hs : s.store.Canonical) (launch : Nat) :
    AnswerCanonical (execLaunchComplete launch s) := by
  unfold execLaunchComplete
  rw [answerCanonical_next]
  split
  · exact hs
  extract_lets mine killed s₁ w s₂ hosts id op
  split
  · exact hs
  · have marked : s₁.store.Canonical := hs
    have written : w.2.store.Canonical := by
      simp only [w]
      refine foldl_snd_canonical marked (fun a core ha => ?_) _
      exact State.fenceWrites_canonical ha core _
    refine State.tryComplete_canonical (canonical_of_store (State.setOrd_store _ _ _) ?_) _
    exact written

theorem execCrewRelaunch_canonical {s : State} (hs : s.store.Canonical) (crew : Nat) :
    AnswerCanonical (execCrewRelaunch crew s) := by
  simp only [execCrewRelaunch, answerCanonical_next]
  split
  · exact hs
  split
  · exact hs
  split
  · exact hs
  · next k _ _ l _ _ =>
    cases e : (s.modSched fun c => { c with crews := c.crews.del crew }).placeCrew l.vf k.launch k.band k.core
        k.firstWid.toNat (k.relaunches + 1) l.record with
    | none => exact hs
    | some t => exact canonical_of_store (State.placeCrew_store _ e) hs

theorem execTokenRefill_canonical {s : State} (hs : s.store.Canonical) : AnswerCanonical (execTokenRefill s) := by
  simp [execTokenRefill, hs]

theorem execHomeWriteApply_canonical {s : State} (hs : s.store.Canonical) (line : Nat) :
    AnswerCanonical (execHomeWriteApply line s) :=
  State.netProgress_canonical (State.ringWaiting_canonical (State.applyHome_canonical hs _))

theorem execWaitaHostPoll_canonical {s : State} (hs : s.store.Canonical) (id : Nat) :
    AnswerCanonical (execWaitaHostPoll id s) := by
  simp only [execWaitaHostPoll, answerCanonical_next]
  (repeat' split) <;> simp [hs]

theorem execRecallLine_canonical {s : State} (hs : s.store.Canonical) (core line : Nat) :
    AnswerCanonical (execRecallLine core line s) := by
  simp only [execRecallLine, answerCanonical_next]
  (repeat' split) <;> simp [hs]

theorem execClusterGate_canonical {s : State} (hs : s.store.Canonical) (cluster : Nat) :
    AnswerCanonical (execClusterGate cluster s) := by
  simp only [execClusterGate, answerCanonical_next]
  split
  · exact hs
  · refine canonical_of_store (State.modPlat_store _ _) ?_
    exact foldl_canonical hs (fun s core hs =>
      foldl_canonical hs (fun s line hs => State.evictLine_canonical hs core line) _) _

theorem execClusterUngate_canonical {s : State} (hs : s.store.Canonical) (cluster : Nat) :
    AnswerCanonical (execClusterUngate cluster s) := by
  simp [execClusterUngate, hs]

theorem execHostSnoop_canonical {s : State} (hs : s.store.Canonical) (port : HostPort) (line : Nat) :
    AnswerCanonical (execHostSnoop port line s) := by
  simp [execHostSnoop, hs]

theorem execHostSnoopAnswer_canonical {s : State} (hs : s.store.Canonical) (port : HostPort) (line : Nat) :
    AnswerCanonical (execHostSnoopAnswer port line s) := by
  simp only [execHostSnoopAnswer, answerCanonical_next]
  (repeat' split) <;> simp [hs]

theorem execHostWriteAcknowledgement_canonical {s : State} (hs : s.store.Canonical) (id : Nat) :
    AnswerCanonical (execHostWriteAcknowledgement id s) := by
  simp [execHostWriteAcknowledgement, hs]

theorem execHostAtomicRead_canonical {s : State} (hs : s.store.Canonical) (port : HostPort) (vf addr : Nat)
    (wide : Bool) : AnswerCanonical (execHostAtomicRead port vf addr wide s) := by
  simp [execHostAtomicRead, hs]

theorem execHostWrite_canonical {s : State} (hs : s.store.Canonical) (port : HostPort) (cxlMem : Bool) (vf addr : Nat)
    (data : List Byte) : AnswerCanonical (execHostWrite port cxlMem vf addr data s) := by
  simp only [execHostWrite, answerCanonical_next]
  split
  · simp [hs]
  · refine State.netProgress_canonical (State.ringWaiting_canonical ?_)
    exact foldl_canonical hs (fun s line hs => State.hostLineWrite_canonical hs port cxlMem vf line _) _

theorem execHostMemoryRead_canonical {s : State} (hs : s.store.Canonical) (port : HostPort) (vf addr len : Nat) :
    AnswerCanonical (execHostMemoryRead port vf addr len s) := by
  simp [execHostMemoryRead, hs]

theorem execMsixVectorUnmask_canonical {s : State} (hs : s.store.Canonical) (vf vector : Nat) :
    AnswerCanonical (execMsixVectorUnmask vf vector s) := by
  refine State.accepted_canonical hs ?_
  simp [hs]

theorem execHlRenew_canonical {s : State} (hs : s.store.Canonical) (port : HostPort) (value : BitVec 64) :
    AnswerCanonical (execHlRenew port value s) := by
  refine State.accepted_canonical hs ?_
  simp [hs]

theorem execHlClaim_canonical {s : State} (hs : s.store.Canonical) (port : HostPort) (value : BitVec 64) :
    AnswerCanonical (execHlClaim port value s) := by
  refine State.accepted_canonical hs ?_
  simp [hs]

theorem execHostLeaseExpiry_canonical {s : State} (hs : s.store.Canonical) :
    AnswerCanonical (execHostLeaseExpiry s) := by
  simp [execHostLeaseExpiry, hs]

theorem execHostPortLinkChange_canonical {s : State} (hs : s.store.Canonical) (port : HostPort) (up : Bool) :
    AnswerCanonical (execHostPortLinkChange port up s) := by
  simp [execHostPortLinkChange, hs]

theorem execPtpOfsWrite_canonical {s : State} (hs : s.store.Canonical) (value : BitVec 64) :
    AnswerCanonical (execPtpOfsWrite value s) := by
  refine State.accepted_canonical hs ?_
  simp [hs]

theorem execPtpTrimWrite_canonical {s : State} (hs : s.store.Canonical) (value : BitVec 64) :
    AnswerCanonical (execPtpTrimWrite value s) := by
  refine State.accepted_canonical hs ?_
  simp [hs]

theorem execPtpEventTimestamp_canonical {s : State} (hs : s.store.Canonical) (ethPort message : Nat) :
    AnswerCanonical (execPtpEventTimestamp ethPort message s) := by
  simp [execPtpEventTimestamp, hs]

theorem execHpartWrite_canonical {s : State} (hs : s.store.Canonical) (offset : Nat) (value : BitVec 64) :
    AnswerCanonical (execHpartWrite offset value s) := by
  refine State.accepted_canonical hs ?_
  simp [hs]

theorem execXlinv_canonical {s : State} (hs : s.store.Canonical) (vf : Nat) (value : BitVec 64) :
    AnswerCanonical (execXlinv vf value s) := by
  refine State.accepted_canonical hs ?_
  simp [hs]

theorem execRegisterWrite_canonical {s : State} (hs : s.store.Canonical) (space : RegSpace) (offset : Nat)
    (value : BitVec 64) : AnswerCanonical (execRegisterWrite space offset value s) := by
  cases space with
  | mgmt port =>
    simp only [execRegisterWrite, answerCanonical_next]
    split
    · exact State.accepted_canonical hs (by simpa using hs)
    split
    · exact State.accepted_canonical hs (State.claim_canonical hs port _)
    · exact State.fromPort_canonical hs port (State.writeMgmt_canonical hs offset _)
  | bar0 port vf => exact State.fromPort_canonical hs port (State.writeBar0_canonical hs vf offset _)
  | core core => exact State.accepted_canonical hs (by simpa using hs)

theorem execTdispFrozenWrite_canonical {s : State} (hs : s.store.Canonical) (port : HostPort) (vf offset : Nat)
    (value : BitVec 64) : AnswerCanonical (execTdispFrozenWrite port vf offset value s) := by
  refine State.fromPort_canonical hs port ?_
  (repeat' split) <;> simp [hs]

theorem execIdeIntegrityFailure_canonical {s : State} (hs : s.store.Canonical) (vf : Nat) :
    AnswerCanonical (execIdeIntegrityFailure vf s) := by
  simp [execIdeIntegrityFailure, hs]

theorem execVfFlr_canonical {s : State} (hs : s.store.Canonical) (vf : Nat) : AnswerCanonical (execVfFlr vf s) := by
  refine State.accepted_canonical hs ?_
  simp [hs]

theorem execResetGraceExpiry_canonical {s : State} (hs : s.store.Canonical) (vf : Nat) :
    AnswerCanonical (execResetGraceExpiry vf s) := by
  simp [execResetGraceExpiry, hs]

theorem execCoreReset_canonical {s : State} (hs : s.store.Canonical) (core : Nat) :
    AnswerCanonical (execCoreReset core s) := by
  refine State.accepted_canonical hs ?_
  simp [hs]

theorem execDieReset_canonical {s : State} (hs : s.store.Canonical) (die : Nat) :
    AnswerCanonical (execDieReset die s) := by
  refine State.accepted_canonical hs ?_
  simp [hs]

theorem execPartitionReset_canonical {s : State} (hs : s.store.Canonical) (n : Nat) :
    AnswerCanonical (execPartitionReset n s) := by
  refine State.accepted_canonical hs ?_
  simp [hs]

theorem execPackageWarmReset_canonical {s : State} (hs : s.store.Canonical) :
    AnswerCanonical (execPackageWarmReset s) := by
  refine State.accepted_canonical hs ?_
  simp [hs]

theorem execColdReset_canonical {s : State} (hs : s.store.Canonical) (image : List Byte) :
    AnswerCanonical (execColdReset image s) := by
  simp [execColdReset, hs]

theorem execHeartbeatCheck_canonical {s : State} (hs : s.store.Canonical) : AnswerCanonical (execHeartbeatCheck s) := by
  refine State.accepted_canonical hs ?_
  simp [hs]

theorem execMcBeat_canonical {s : State} (hs : s.store.Canonical) (controller : Nat) :
    AnswerCanonical (execMcBeat controller s) := by
  refine State.accepted_canonical hs ?_
  simp [hs]

theorem execMcTakeover_canonical {s : State} (hs : s.store.Canonical) : AnswerCanonical (execMcTakeover s) := by
  simp [execMcTakeover, hs]

theorem execEccUncorrectable_canonical {s : State} (hs : s.store.Canonical) (location : EccLocation) :
    AnswerCanonical (execEccUncorrectable location s) := by
  simp [execEccUncorrectable, hs]

theorem execEccCorrected_canonical {s : State} (hs : s.store.Canonical) (location : EccLocation) :
    AnswerCanonical (execEccCorrected location s) := by
  simp [execEccCorrected, hs]

theorem execMctpStatusRead_canonical {s : State} (hs : s.store.Canonical) (via : MctpPath) (offset : Nat) :
    AnswerCanonical (execMctpStatusRead via offset s) := by
  simp [execMctpStatusRead, hs]

theorem execMctpResetOrder_canonical {s : State} (hs : s.store.Canonical) (via : MctpPath) (level : ResetLevel) :
    AnswerCanonical (execMctpResetOrder via level s) := by
  simp [execMctpResetOrder, hs]

theorem execMctpFirmwareLoad_canonical {s : State} (hs : s.store.Canonical) (image : List Byte) :
    AnswerCanonical (execMctpFirmwareLoad image s) := by
  simp [execMctpFirmwareLoad, hs]

theorem execSpdmRequest_canonical {s : State} (hs : s.store.Canonical) (port : HostPort) (request : SpdmRequest) :
    AnswerCanonical (execSpdmRequest port request s) := by
  refine State.accepted_canonical hs ?_
  split <;> simp [hs]

theorem execIdeKm_canonical {s : State} (hs : s.store.Canonical) (vf : Nat) (key : BitVec 256) :
    AnswerCanonical (execIdeKm vf key s) := by
  refine State.accepted_canonical hs ?_
  simp [hs]

theorem execLockInterfaceRequest_canonical {s : State} (hs : s.store.Canonical) (vf : Nat) :
    AnswerCanonical (execLockInterfaceRequest vf s) := by
  refine State.accepted_canonical hs ?_
  simp [hs]

theorem execStartInterfaceRequest_canonical {s : State} (hs : s.store.Canonical) (vf : Nat) :
    AnswerCanonical (execStartInterfaceRequest vf s) := by
  refine State.accepted_canonical hs ?_
  simp [hs]

theorem execStopInterfaceRequest_canonical {s : State} (hs : s.store.Canonical) (vf : Nat) :
    AnswerCanonical (execStopInterfaceRequest vf s) := by
  refine State.accepted_canonical hs ?_
  dsimp only
  split
  · exact hs
  · exact State.flrFinish_canonical (State.beginFlr_canonical (s := s.modPlat _) hs vf) vf

theorem execThermalStepChange_canonical {s : State} (hs : s.store.Canonical) (sensor step : Nat) (temperature : Word) :
    AnswerCanonical (execThermalStepChange sensor step temperature s) := by
  simp [execThermalStepChange, hs]

/-- Every instruction keeps the canonical form. -/
theorem exec_canonical {s : State} (hs : s.store.Canonical) (i : Instr) : AnswerCanonical (exec i s) := by
  cases i with
  | iaddQ _ | iaddW _ | iaddX _ _ | isubQ _ | isubW _ | isubX _ _ | imulQ _ | imulW _ | imulX _ _ | imulhQ _
  | imulhW _ | imulhX _ _ | idivQ _ | idivW _ | idivX _ _ | iremQ _ | iremW _ | iremX _ _ | iminQ _ | iminW _
  | iminX _ _ | imaxQ _ | imaxW _ | imaxX _ _ | andQ _ | andW _ | andX _ _ | orQ _ | orW _ | orX _ _ | xorQ _ | xorW _
  | xorX _ _ | andnQ _ | andnW _ | andnX _ _ | imadW _ | imadX _ _ | iabsQ _ | iabsW _ | notQ _ | notW _ | popcQ _
  | popcW _ | clzQ _ | clzW _ | brevQ _ | brevW _ | shlQi _ | shlW _ | shrQi _ | shrW _ | sarQi _ | sarW _ | rotQi _
  | rotW _ | bfxW _ | bfxX _ _ | bfiW _ | bfiX _ _ | prm8W _ | prm8X _ _ | movQ _ | movW _ | moviQi _ | moviWi _
  | moviX _ _ | leaW _ | leaX _ _ | sel _ | hadd2Q _ | hadd2W _ | hmnx2Q _ | hmnx2W _ | cvt _ | cvtpk _ | scalex _
  | faddQ _ | faddW _ | faddX _ _ | fsubQ _ | fsubW _ | fsubX _ _ | fmulQ _ | fmulW _ | fmulX _ _ | fdivQ _ | fdivW _
  | fdivX _ _ | fmaW _ | fmaX _ _ | fminQ _ | fminW _ | fminX _ _ | fmaxQ _ | fmaxW _ | fmaxX _ _ | fmovQ _ | fmovW _
  | frcpQ _ | frcpW _ | frsqQ _ | frsqW _ | fsqrtQ _ | fsqrtW _ | fexp2Q _ | fexp2W _ | flog2Q _ | flog2W _ | fsinQ _
  | fsinW _ | fcosQ _ | fcosW _ | ftanhQ _ | ftanhW _ | frndQ _ | frndW _ | fclassQ _ | fclassW _ | fscaleQ _
  | fscaleW _ | fscaleX _ _ | hfadd2Q _ | hfadd2W _ | hfmul2Q _ | hfmul2W _ | hfma2 _ | icmpW _ | icmpX _ _ | fcmpW _
  | fcmpX _ _ | plog _ | pnot _ | p2g _ | g2p _ =>
    exact State.plain_canonical hs _ fun _ _ _ => trivial
  | atom _ | atomn _ | acq _ | rel _ | acqrel _ | waita _ | ldW _ | ldX _ _ | ldq _ | qstat _ | nopQ _ | nopW _
  | nopX _ _ | braQb _ | braWi _ | call _ | jmpi _ | reform _ | pause _ | safe _ | hinst _ | hpop _ | yield _ | trap _
  | resume _ | hmaxd2 _ | qpack _ | qunpk _ | dot4f8 _ | dot8f4 _ | fstat _ | srd _ | swr _ | ifence _ | tmark _
  | cpy2d _ | cpyw _ | gath _ | scat _ | wb _ | inv _ | cntrd _ | npoll _ | krecv _ =>
    refine State.plain_canonical hs _ fun x s hs => ?_
    simp [hs]
  | calli f => exact execCalli_canonical hs f
  | ret f => exact execRet_canonical hs f
  | convene f => exact execConvene_canonical hs f
  | disband f => exact execDisband_canonical hs f
  | bar f => exact execBar_canonical hs f
  | exit f => exact execExit_canonical hs f
  | spawn f => exact execSpawn_canonical hs f
  | perform f => exact execPerform_canonical hs f
  | performv f => exact execPerformv_canonical hs f
  | drop f => exact execDrop_canonical hs f
  | ksend f => exact execKsend_canonical hs f
  | kinfo f => exact execKinfo_canonical hs f
  | vote f => exact execVote_canonical hs f
  | stW f => exact execStW_canonical hs f
  | stX f lit => exact execStX_canonical hs f lit
  | stq f => exact execStq_canonical hs f
  | fence f => exact execFence_canonical hs f
  | pref f => exact execPref_canonical hs f
  | dlease f => exact execDlease_canonical hs f
  | objopen f => exact execObjopen_canonical hs f
  | objclose f => exact execObjclose_canonical hs f
  | objset f => exact execObjset_canonical hs f
  | cpy f => exact execCpy_canonical hs f
  | waitc f => exact execWaitc_canonical hs f
  | qsend f => exact execQsend_canonical hs f
  | mbar f => exact execMbar_canonical hs f
  | pset f => exact execPset_canonical hs f
  | perm f => exact execPerm_canonical hs f
  | shfl f => exact execShfl_canonical hs f
  | bcast f => exact execBcast_canonical hs f
  | reduce f => exact execReduce_canonical hs f
  | scan f => exact execScan_canonical hs f
  | mma f => exact execMma_canonical hs f
  | mzero f => exact execMzero_canonical hs f
  | mdrain f => exact execMdrain_canonical hs f
  | macc f => exact execMacc_canonical hs f
  | mstat f => exact execMstat_canonical hs f
  | sret f => exact execSret_canonical hs f
  | codex f => exact execCodex_canonical hs f
  | npost f => exact execNpost_canonical hs f
  | trd f => exact execTrd_canonical hs f
  | halt f => exact execHalt_canonical hs f
  | kill f => exact execKill_canonical hs f
  | issueOpportunity core port => exact execIssueOpportunity_canonical hs core port
  | stallAgeRelease core => exact execStallAgeRelease_canonical hs core
  | overdueClaim core => exact execOverdueClaim_canonical hs core
  | pauseRelease core fibre => exact execPauseRelease_canonical hs core fibre
  | segmentReload core => exact execSegmentReload_canonical hs core
  | killDeadline crew => exact execKillDeadline_canonical hs crew
  | landingWrite id => exact execLandingWrite_canonical hs id
  | performEffect core fibre => exact execPerformEffect_canonical hs core fibre
  | mailboxDeferredPost core => exact execMailboxDeferredPost_canonical hs core
  | doorbell port vf queue value => exact execDoorbell_canonical hs port vf queue value
  | qheadWrite port vf queue value => exact execQheadWrite_canonical hs port vf queue value
  | qstatHaltClear port vf queue value => exact execQstatHaltClear_canonical hs port vf queue value
  | queueDisable port vf queue value => exact execQueueDisable_canonical hs port vf queue value
  | launchReady vf queue => exact execLaunchReady_canonical hs vf queue
  | deppollRead vf queue => exact execDeppollRead_canonical hs vf queue
  | repartition core => exact execRepartition_canonical hs core
  | crewStart crew => exact execCrewStart_canonical hs crew
  | runlimExpiry crew => exact execRunlimExpiry_canonical hs crew
  | launchComplete launch => exact execLaunchComplete_canonical hs launch
  | crewRelaunch crew => exact execCrewRelaunch_canonical hs crew
  | tokenRefill => exact execTokenRefill_canonical hs
  | homeWriteApply line => exact execHomeWriteApply_canonical hs line
  | waitaHostPoll id => exact execWaitaHostPoll_canonical hs id
  | recallLine core line => exact execRecallLine_canonical hs core line
  | orderingComplete id => exact execOrderingComplete_canonical hs id
  | clusterGate cluster => exact execClusterGate_canonical hs cluster
  | hostSnoop port line => exact execHostSnoop_canonical hs port line
  | hostSnoopAnswer port line => exact execHostSnoopAnswer_canonical hs port line
  | hostAtomicRead port vf addr wide => exact execHostAtomicRead_canonical hs port vf addr wide
  | hostWrite port cxlMem vf addr data => exact execHostWrite_canonical hs port cxlMem vf addr data
  | hostMemoryRead port vf addr len => exact execHostMemoryRead_canonical hs port vf addr len
  | copyComplete op => exact execCopyComplete_canonical hs op
  | gsComplete op => exact execGsComplete_canonical hs op
  | mtxCommandComplete core ctx => exact execMtxCommandComplete_canonical hs core ctx
  | wbComplete op => exact execWbComplete_canonical hs op
  | engineStop op hostError => exact execEngineStop_canonical hs op hostError
  | codexReserve op index => exact execCodexReserve_canonical hs op index
  | codexSeal op place => exact execCodexSeal_canonical hs op place
  | codexPatch op => exact execCodexPatch_canonical hs op
  | codexSwap op place => exact execCodexSwap_canonical hs op place
  | codexFree op => exact execCodexFree_canonical hs op
  | codexCompletion op => exact execCodexCompletion_canonical hs op
  | dataFragmentReceive io packet => exact execDataFragmentReceive_canonical hs io packet
  | parityFragmentReceive io packet => exact execParityFragmentReceive_canonical hs io packet
  | stripeAckReceive io packet => exact execStripeAckReceive_canonical hs io packet
  | retransmitRequestReceive io packet => exact execRetransmitRequestReceive_canonical hs io packet
  | probeReceive io packet => exact execProbeReceive_canonical hs io packet
  | abortReceive io packet => exact execAbortReceive_canonical hs io packet
  | targetResetIndication io packet => exact execTargetResetIndication_canonical hs io packet
  | atomicReplyReceive io packet => exact execAtomicReplyReceive_canonical hs io packet
  | pdsNackReceive io packet => exact execPdsNackReceive_canonical hs io packet
  | stripeResend op stripe => exact execStripeResend_canonical hs op stripe
  | unsupportedPacket io source => exact execUnsupportedPacket_canonical hs io source
  | stripeWaitExpiry message stripe => exact execStripeWaitExpiry_canonical hs message stripe
  | ntimeoutExpiry op => exact execNtimeoutExpiry_canonical hs op
  | probeWaitExpiry op => exact execProbeWaitExpiry_canonical hs op
  | messageRecordExpiry message => exact execMessageRecordExpiry_canonical hs message
  | dieLinkFlitReceive src dst flit => exact execDieLinkFlitReceive_canonical hs src dst flit
  | dieLinkRetryExpiry src dst group => exact execDieLinkRetryExpiry_canonical hs src dst group
  | dieLinkGroupFailure src dst group => exact execDieLinkGroupFailure_canonical hs src dst group
  | filterRun die => exact execFilterRun_canonical hs die
  | bitternPeriod => exact execBitternPeriod_canonical hs
  | sluiceOcc => exact execSluiceOcc_canonical hs
  | fctlEnable port vf die slot value => exact execFctlEnable_canonical hs port vf die slot value
  | hsnap port vf die value => exact execHsnap_canonical hs port vf die value
  | iclr port vf die value => exact execIclr_canonical hs port vf die value
  | btOwnerWrite offset value => exact execBtOwnerWrite_canonical hs offset value
  | mboxPop core => exact execMboxPop_canonical hs core
  | mboxWaitTimeout core => exact execMboxWaitTimeout_canonical hs core
  | haltedWrite core value => exact execHaltedWrite_canonical hs core value
  | xlinvC core value => exact execXlinvC_canonical hs core value
  | xlinv vf value => exact execXlinv_canonical hs vf value
  | hpartWrite offset value => exact execHpartWrite_canonical hs offset value
  | registerWrite space offset value => exact execRegisterWrite_canonical hs space offset value
  | hlRenew port value => exact execHlRenew_canonical hs port value
  | hlClaim port value => exact execHlClaim_canonical hs port value
  | hostLeaseExpiry => exact execHostLeaseExpiry_canonical hs
  | ptpOfsWrite value => exact execPtpOfsWrite_canonical hs value
  | ptpTrimWrite value => exact execPtpTrimWrite_canonical hs value
  | ptpEventTimestamp ethPort message => exact execPtpEventTimestamp_canonical hs ethPort message
  | heartbeatCheck => exact execHeartbeatCheck_canonical hs
  | mcBeat controller => exact execMcBeat_canonical hs controller
  | mcTakeover => exact execMcTakeover_canonical hs
  | coreReset core => exact execCoreReset_canonical hs core
  | dieReset die => exact execDieReset_canonical hs die
  | partitionReset partition => exact execPartitionReset_canonical hs partition
  | packageWarmReset => exact execPackageWarmReset_canonical hs
  | coldReset image => exact execColdReset_canonical hs image
  | vfFlr vf => exact execVfFlr_canonical hs vf
  | resetGraceExpiry vf => exact execResetGraceExpiry_canonical hs vf
  | mctpStatusRead via offset => exact execMctpStatusRead_canonical hs via offset
  | mctpResetOrder via level => exact execMctpResetOrder_canonical hs via level
  | mctpFirmwareLoad image => exact execMctpFirmwareLoad_canonical hs image
  | spdmRequest port request => exact execSpdmRequest_canonical hs port request
  | ideKm vf key => exact execIdeKm_canonical hs vf key
  | lockInterfaceRequest vf => exact execLockInterfaceRequest_canonical hs vf
  | startInterfaceRequest vf => exact execStartInterfaceRequest_canonical hs vf
  | stopInterfaceRequest vf => exact execStopInterfaceRequest_canonical hs vf
  | tdispFrozenWrite port vf offset value => exact execTdispFrozenWrite_canonical hs port vf offset value
  | ideIntegrityFailure vf => exact execIdeIntegrityFailure_canonical hs vf
  | eccUncorrectable location => exact execEccUncorrectable_canonical hs location
  | eccCorrected location => exact execEccCorrected_canonical hs location
  | thermalStepChange sensor step temperature => exact execThermalStepChange_canonical hs sensor step temperature
  | hostPortLinkChange port up => exact execHostPortLinkChange_canonical hs port up
  | stripeSend op stripe => exact execStripeSend_canonical hs op stripe
  | hostWriteAcknowledgement id => exact execHostWriteAcknowledgement_canonical hs id
  | msixVectorUnmask vf vector => exact execMsixVectorUnmask_canonical hs vf vector
  | clusterUngate cluster => exact execClusterUngate_canonical hs cluster

theorem issueGang_canonical {s : State} (hs : s.store.Canonical) (gid : Nat) : AnswerCanonical (issueGang gid s) := by
  unfold issueGang
  split
  · exact hs
  split
  · exact hs
  split
  · exact exec_canonical (s := { s with cur := gid }) hs _
  · exact canonical_of_store (State.fetchFails_store _ gid) hs

theorem act_canonical {s : State} (hs : s.store.Canonical) (a : Act) : AnswerCanonical (act a s) := by
  cases a with
  | event i =>
    simp only [act]
    split
    · trivial
    · exact exec_canonical hs i
  | packet io p => exact receivePacket_canonical hs io p
  | flit src dst flit => exact execDieLinkFlitReceive_canonical hs src dst flit
  | hostStore pa data => exact State.hostStore_canonical hs pa data
  | tick n => exact hs
  | issue gid => exact issueGang_canonical hs gid
  | evict core line => exact State.evictLine_canonical hs core line
  | unit op place => exact State.unitNow_canonical hs op place

theorem idle_canonical {s : State} (hs : s.store.Canonical) : AnswerCanonical (idle s) := by
  unfold idle
  split
  · exact issueGang_canonical hs _
  split
  · exact exec_canonical hs _
  · exact hs

/-- Every step keeps the canonical form. -/
theorem step_canonical {s : State} (hs : s.store.Canonical) : AnswerCanonical (step s) := by
  unfold step
  split
  · exact State.arbitrateRetired_canonical hs
  split
  · next a rest _ => exact act_canonical (s := { s with agenda := rest }) hs a
  · exact idle_canonical hs

end Sys2Proof.Machine

namespace Sys2Proof.Safety
open Sys2Proof.Machine

/-- The model's test of the canonical form decides it. -/
theorem storageOk_iff (s : State) : storageOk s = true ↔ s.store.Canonical := Bool.and_eq_true _ _ ▸ Iff.rfl

/-- Settles O59: the answer of every step carries storage in canonical form (`step_canonical`). Each act stores through
  the
model's own writes, which keep the form, or not at all. -/
theorem storageStaysCanonical : Obligations.StorageStaysCanonical := by
  unfold Obligations.StorageStaysCanonical
  intro s s' hs e
  have kept := step_canonical ((storageOk_iff s).mp hs)
  rw [e] at kept
  exact (storageOk_iff s').mpr kept

end Sys2Proof.Safety

/-! ## Sources

How the operands of one lane are read: each code in turn, a q register giving its next word. -/

namespace Sys2Proof.Machine

/-- The q register that a code names. -/
def queueOfCode (c : Nat) : List Nat := if isQueue c then [c - 0xC0] else []

theorem queuesOf_readRefs_cons (o : Operand) (ops : List Operand) :
    queuesOf (readRefs (o :: ops)) = (readCodes o).flatMap queueOfCode ++ queuesOf (readRefs ops) := by
  have one : ∀ l : List Nat, queuesOf (l.map fun c => (o, c)) = l.flatMap queueOfCode := by
    intro l
    induction l with
    | nil => rfl
    | cons c l ih =>
      simp only [queuesOf, List.map_cons, List.filter_cons, List.flatMap_cons, queueOfCode] at ih ⊢
      split <;> simp [ih]
  simp only [readRefs, List.flatMap_cons] at one ⊢
  rw [← one]
  simp [queuesOf]

theorem queuesOf_readRefs_append (ops more : List Operand) :
    queuesOf (readRefs (ops ++ more)) = queuesOf (readRefs ops) ++ queuesOf (readRefs more) := by
  simp [queuesOf, readRefs]

theorem isQueue_iff (c : Nat) : isQueue c = true ↔ 0xC0 ≤ c ∧ c < 0xD0 := decide_eq_true_iff

@[simp] theorem isQueue_add {q : Nat} : isQueue (0xC0 + q) = true ↔ q < 16 := by
  rw [isQueue_iff]
  omega

/-- The special sources depend on the clocks and the launches alone. -/
theorem State.special_congr {s s' : State} (h : Safety.Same s s') (key lane : Nat) (f : Fibre) (c : Nat) :
    s'.special key lane f c = s.special key lane f c := by
  have launches : s'.sched.launches = s.sched.launches := (congrArg Scheduler.launches h.sched :)
  have ptp : s'.ptp = s.ptp := by simp only [State.ptp, State.mgmt, h.gtc, h.mgmt, h.ptpAcc]
  simp only [State.special, workField, launches, ptp, h.gtc]

/-- The place of the queue that the n-th read of a lane takes. -/
theorem State.queueWordAt_eq (s : State) (core q n : Nat) :
    s.queueWordAt core q n = (s.queueReg core q).places[n]?.bind QPlace.word := by
  unfold State.queueWordAt
  cases (s.queueReg core q).places[n]? <;> rfl

/-- A q register after a change of the core's. -/
theorem State.queueReg_put (s : State) (core q q' : Nat) (r : QReg) :
    (s.modUnit core fun u => { u with queues := u.queues.put q r }).queueReg core q' =
      if q' = q then r else s.queueReg core q' := by
  simp only [State.queueReg, State.unit_modUnit, if_true, Tbl.get, Tbl.find_put]
  split <;> rfl

end Sys2Proof.Machine

namespace Sys2Proof.Safety
open Sys2Proof.Machine

variable {s : State} {i : Instr} {t : Turn} {key lane core : Nat} {f : Fibre} {r : Reading} {qs : List Nat}

/-- A reading that began in a state and has read so many words of each q register: it has taken that many words of each
in their order, and registers, caches and homes are as they were. -/
structure Gathered (s : State) (core : Nat) (r : Reading) (qs : List Nat) : Prop where
  same : Same s r.s
  cells : ∀ l, r.s.cell l = s.cell l
  coh : r.s.coh = s.coh
  places : ∀ q, (r.s.queueReg core q).places = (s.queueReg core q).places.drop (qs.count q)
  taken : ∀ q p, (q, p) ∈ r.taken ↔ p ∈ (s.queueReg core q).places.take (qs.count q)

/-- What a code gives, after reads of some q registers. -/
structure CodeGives (s : State) (key lane : Nat) (f : Fibre) (qs : List Nat) (c : Nat) (v : Word) : Prop where
  register : ∀ l, f.loc c = some l → (s.cell l).lastUsed = false → v = (s.cell l).val
  queue : ∀ q, c = 0xC0 + q → q < 16 → v = (s.queueWordAt (coreOf key) q (qs.count q)).getD 0
  special : 0xD0 ≤ c → v = s.special key lane f c

/-- Reading a code of a q register. -/
theorem code_queue (g : Gathered s (coreOf key) r qs) {q : Nat} (hq : q < 16) :
    (r.code key lane f (0xC0 + q)).1 = (s.queueWordAt (coreOf key) q (qs.count q)).getD 0 ∧
      Gathered s (coreOf key) (r.code key lane f (0xC0 + q)).2 (qs ++ [q]) := by
  have same := g.same.trans (same_code r key lane f (0xC0 + q))
  have hp := g.places q
  unfold Reading.code State.popQueue at same ⊢
  rw [if_pos (isQueue_add.mpr hq), Nat.add_sub_cancel_left] at same ⊢
  rw [State.queueWordAt_eq]
  cases hr : (r.s.queueReg (coreOf key) q).places with
  | nil =>
    have short : (s.queueReg (coreOf key) q).places.length ≤ qs.count q := List.drop_eq_nil_iff.mp (hp.symm.trans hr)
    rw [List.getElem?_eq_none short]
    refine ⟨rfl, g.same, g.cells, g.coh, fun q' => ?_, fun q' p => ?_⟩
    · by_cases e : q' = q
      · subst e
        rw [g.places, List.drop_of_length_le short, List.drop_of_length_le (by simp; omega)]
      · simp [g.places, Ne.symm e]
    · by_cases e : q' = q
      · subst e
        rw [g.taken, List.take_of_length_le short, List.take_of_length_le (by simp; omega)]
      · simp [g.taken, Ne.symm e]
  | cons p rest =>
    rw [hr] at same hp
    have first : (s.queueReg (coreOf key) q).places[qs.count q]? = some p := by
      rw [← List.head?_drop, ← hp]
      rfl
    have others : rest = (s.queueReg (coreOf key) q).places.drop (qs.count q + 1) := by
      rw [← List.drop_drop, ← hp]
      rfl
    refine ⟨by rw [first]; rfl, same, fun l => (cell_congr rfl rfl l).trans (g.cells l), g.coh, fun q' => ?_,
      fun q' p' => ?_⟩
    · dsimp only
      rw [State.queueReg_put]
      by_cases e : q' = q
      · subst e
        simp [others]
      · simp [g.places, e, Ne.symm e]
    · by_cases e : q' = q
      · subst e
        simp [g.taken, List.take_add_one, first, eq_comm]
      · simp [g.taken, e, Ne.symm e]

/-- Reading a code of no q register. -/
theorem code_plain (g : Gathered s core r qs) {c : Nat} (hc : isQueue c = false) :
    Gathered s core (r.code key lane f c).2 qs ∧
      (∀ l, f.loc c = some l → (s.cell l).lastUsed = false → (r.code key lane f c).1 = (s.cell l).val) ∧
      (f.loc c = none → (r.code key lane f c).1 = s.special key lane f c) := by
  unfold Reading.code State.readCode
  rw [if_neg (by simp [hc])]
  cases hl : f.loc c with
  | none => exact ⟨⟨g.same, g.cells, g.coh, g.places, g.taken⟩, by simp, fun _ => State.special_congr g.same _ _ _ _⟩
  | some l =>
    simp only [State.readCell, g.cells]
    split
    · refine ⟨⟨g.same.trans same_drawBit, fun l => (cell_congr rfl rfl l).trans (g.cells l), g.coh, g.places, g.taken⟩,
        ?_, by simp⟩
      rintro l' e hu
      cases e
      simp_all
    · exact ⟨⟨g.same, g.cells, g.coh, g.places, g.taken⟩, by rintro l' e -; cases e; rfl, by simp⟩

/-- Reading any code. -/
theorem code_gathers (g : Gathered s (coreOf key) r qs) (c : Nat) :
    CodeGives s key lane f qs c (r.code key lane f c).1 ∧
      Gathered s (coreOf key) (r.code key lane f c).2 (qs ++ queueOfCode c) := by
  by_cases hc : isQueue c = true
  · obtain ⟨lo, hi⟩ := (isQueue_iff c).mp hc
    obtain ⟨q, rfl⟩ := Nat.exists_eq_add_of_le lo
    have hq : q < 16 := isQueue_add.mp hc
    obtain ⟨value, after⟩ := code_queue (lane := lane) (f := f) g hq
    refine ⟨⟨?_, ?_, ?_⟩, by simpa [queueOfCode, hq] using after⟩
    · intro l hl
      rw [loc_lt lo] at hl
      cases hl
    · intro q' e _
      obtain rfl : q = q' := by omega
      exact value
    · omega
  · obtain ⟨after, register, special⟩ := code_plain (key := key) (lane := lane) (f := f) g (by simpa using hc)
    refine ⟨⟨register, ?_, fun h => special (loc_lt (by omega))⟩, by simpa [queueOfCode, hc] using after⟩
    rintro q rfl hq
    exact absurd (isQueue_add.mpr hq) hc

/-- What an operand gives, after reads of some q registers: a word, or a pair whose codes are of no q register. -/
structure OperandGives (s : State) (key lane : Nat) (f : Fibre) (qs : List Nat) (o : Operand) (v : DWord) : Prop where
  word : o.slot = .src false ∨ o.slot = .upd false ∨ o.slot = .pop →
    ∃ w, v = w.setWidth 64 ∧ CodeGives s key lane f qs o.code.toNat w
  wide : o.slot = .src true ∨ o.slot = .upd true → o.code ≠ 0xD8 →
    ∃ lo hi, v = pair lo hi ∧ CodeGives s key lane f qs o.code.toNat lo ∧ CodeGives s key lane f qs (o.code.toNat + 1) hi
  zero : o.slot = .src true ∨ o.slot = .upd true → o.code = 0xD8 → v = 0
  absent : o.slot = .none → v = 0

/-- A pair that is well-formed is of no q register, nor is its second word. -/
theorem queueOfCode_pair {c : Nat} (h : pairReadOk c = true) :
    queueOfCode c = [] ∧ queueOfCode (c + 1) = [] := by
  simp only [pairReadOk, Bool.or_eq_true, decide_eq_true_eq] at h
  simp only [queueOfCode, isQueue_iff]
  constructor <;> rw [if_neg (by omega)]

theorem pairReadOk_of_ok {o : Operand} (ok : o.ok = true) (h : o.slot = .src true ∨ o.slot = .upd true) :
    pairReadOk o.code.toNat = true := by
  unfold Operand.ok at ok
  rcases h with h | h <;> rw [h] at ok
  · exact ok
  · simp only [if_true, pairWriteOk] at ok
    simp [pairReadOk, of_decide_eq_true ok]

/-- A run of registers reads no q register. -/
theorem queueOfCode_run {c n k : Nat} (h : k ∈ (upto c n).filter fun k => decide (k < 0x80)) : queueOfCode k = [] := by
  have := List.mem_filter.mp h
  rw [queueOfCode, if_neg]
  rw [isQueue_iff]
  simp at this
  omega

theorem queuesOf_readCodes {o : Operand} (ok : o.ok = true) :
    (readCodes o).flatMap queueOfCode =
      if o.slot = .src false ∨ o.slot = .upd false ∨ o.slot = .pop then queueOfCode o.code.toNat else [] := by
  unfold readCodes
  rcases hs : o.slot with _ | (_ | _) | (_ | _) | (_ | _) | (_ | _) | _ | _ | _ | n | _ | _ <;> simp
  all_goals try (obtain ⟨a, b⟩ := queueOfCode_pair (pairReadOk_of_ok ok (by simp [hs])); split <;> simp [a, b])
  intro k hk lt
  exact queueOfCode_run (List.mem_filter.mpr ⟨hk, by simpa using lt⟩)

/-- Reading an operand. -/
theorem operand_gathers (g : Gathered s (coreOf key) r qs) {o : Operand} (ok : o.ok = true) :
    OperandGives s key lane f qs o (r.operand key lane f o).1 ∧
      Gathered s (coreOf key) (r.operand key lane f o).2 (qs ++ (readCodes o).flatMap queueOfCode) := by
  rw [queuesOf_readCodes ok]
  have one := code_gathers (lane := lane) (f := f) g o.code.toNat
  have two := code_gathers (lane := lane) (f := f) one.2 (o.code.toNat + 1)
  have isZero : o.code.toNat = 0xD8 ↔ o.code = 0xD8 := by
    rw [← BitVec.toNat_inj]
    rfl
  have pairs : o.slot = .src true ∨ o.slot = .upd true →
      OperandGives s key lane f qs o (if o.code.toNat = 0xD8 then (0, r) else
        (pair (r.code key lane f o.code.toNat).1 ((r.code key lane f o.code.toNat).2.code key lane f (o.code.toNat + 1)).1,
          ((r.code key lane f o.code.toNat).2.code key lane f (o.code.toNat + 1)).2)).1 ∧
      Gathered s (coreOf key) (if o.code.toNat = 0xD8 then (0, r) else
        (pair (r.code key lane f o.code.toNat).1 ((r.code key lane f o.code.toNat).2.code key lane f (o.code.toNat + 1)).1,
          ((r.code key lane f o.code.toNat).2.code key lane f (o.code.toNat + 1)).2)).2 qs := by
    intro h
    obtain ⟨e₁, e₂⟩ := queueOfCode_pair (pairReadOk_of_ok ok h)
    rw [e₁, List.append_nil] at one two
    rw [e₂, List.append_nil] at two
    have w : ¬(o.slot = .src false ∨ o.slot = .upd false ∨ o.slot = .pop) := by rcases h with h | h <;> simp [h]
    have n : o.slot ≠ .none := by rcases h with h | h <;> simp [h]
    split
    · next z =>
      exact ⟨⟨fun h => absurd h w, fun _ z' => absurd (isZero.mp z) z', fun _ _ => rfl, fun h => absurd h n⟩, g⟩
    · next z =>
      exact ⟨⟨fun h => absurd h w, fun _ _ => ⟨_, _, rfl, one.1, two.1⟩, fun _ z' => absurd (isZero.mpr z') z,
        fun h => absurd h n⟩, two.2⟩
  unfold Reading.operand
  rcases hs : o.slot with _ | (_ | _) | (_ | _) | (_ | _) | (_ | _) | _ | _ | _ | n | _ | _
  case src.true => simpa using pairs (.inl hs)
  case upd.true => simpa using pairs (.inr hs)
  case src.false | upd.false | pop =>
    rw [if_pos (by simp)]
    exact ⟨⟨fun _ => ⟨_, rfl, one.1⟩, by simp [hs], by simp [hs], by simp [hs]⟩, one.2⟩
  all_goals
    rw [if_neg (by simp), List.append_nil]
    exact ⟨⟨by simp [hs], by simp [hs], by simp [hs], fun _ => rfl⟩, g⟩

/-- Reading runs of registers takes no word of a q register. -/
theorem codes_gathers (g : Gathered s core r qs) (l : List Nat) (h : ∀ c ∈ l, isQueue c = false) :
    Gathered s core (r.codes key lane f l).2 qs := by
  induction l generalizing r with
  | nil => exact g
  | cons c l ih => exact ih (code_plain g (h c (by simp))).1 fun c hc => h c (by simp [hc])

theorem isQueue_runCodes (ops : List Operand) (c : Nat) (h : c ∈ runCodes ops) : isQueue c = false := by
  obtain ⟨o, -, hc⟩ := List.mem_flatMap.mp h
  have run : ∃ n, c ∈ (upto o.code.toNat n).filter fun k => decide (k < 0x80) := by
    split at hc
    · next n hs =>
      rw [readCodes, hs] at hc
      exact ⟨n, hc⟩
    · cases hc
  obtain ⟨n, hn⟩ := run
  have lt : c < 0x80 := of_decide_eq_true (List.mem_filter.mp hn).2
  rw [← Bool.not_eq_true, isQueue_iff]
  omega

/-- Noting last uses leaves the cores and the caches. -/
theorem lastUses_keeps (f : Fibre) (ops : List Operand) (s : State) :
    (s.lastUses f ops).cores = s.cores ∧ (s.lastUses f ops).coh = s.coh := by
  have one : ∀ (s : State) (l : Loc), (s.useCell l).cores = s.cores ∧ (s.useCell l).coh = s.coh := by
    intro s l
    cases l <;> exact ⟨rfl, rfl⟩
  exact ⟨foldl_keeps State.cores _ (fun s l => (one s l).1) _ _, foldl_keeps State.coh _ (fun s l => (one s l).2) _ _⟩

theorem dropLeases_cores (s : State) (core : Nat) : (s.dropLeases core).cores = s.cores := by
  unfold State.dropLeases
  refine foldl_keeps State.cores _ (fun s line => ?_) _ _
  split <;> rfl

theorem popDrops_cores (s : State) (core : Nat) (l : List (Nat × QPlace)) : (s.popDrops core l).cores = s.cores := by
  unfold State.popDrops
  split
  · exact dropLeases_cores s core
  · rfl

/-- Charging cycles leaves registers, cores and caches. -/
theorem chargeStep_keeps (s : State) (g : Gang) (n : Nat) :
    (∀ l, (s.chargeStep g n).cell l = s.cell l) ∧ (s.chargeStep g n).cores = s.cores ∧ (s.chargeStep g n).coh = s.coh := by
  have crew : ∀ (s : State) (c used : Nat) (l : Loc),
      (s.modCrew c fun k => { k with cycles := k.cycles + used }).cell l = s.cell l := by
    intro s c used l
    cases l with
    | shared k i =>
      simp only [State.cell, State.modCrew_sched, Tbl.find_modify]
      by_cases e : k = c
      · subst e
        cases s.sched.crews.find k <;> simp
      · simp [e]
    | frame seg w => rfl
    | queue core q p => rfl
    | pred fibre i => rfl
  unfold State.chargeStep
  split
  · exact ⟨fun _ => rfl, rfl, rfl⟩
  · dsimp only
    split
    · exact ⟨fun l => (crew _ _ _ l).trans (cell_congr rfl rfl l), rfl, rfl⟩
    · exact ⟨fun l => cell_congr rfl rfl l, rfl, rfl⟩

/-- The reading of a lane begins with nothing taken. -/
theorem charged_gathers (s : State) (t : Turn) (core : Nat) : Gathered s core { taken := [], s := t.charged s } [] := by
  obtain ⟨cells, cores, coh⟩ := chargeStep_keeps s t.gang (t.gang.runLen + 1)
  refine ⟨same_chargeStep _ _, cells, coh, fun q => ?_, by simp⟩
  simp only [Turn.charged, State.queueReg, State.unit, cores, List.count_nil, List.drop_zero]

/-! ### The operands of a lane -/

/-- The four operands of an instruction. -/
def Turn.operands (t : Turn) : List Operand := [t.form.a, t.form.b, t.form.c, t.form.d]

/-- The reading of a lane's operands, before their last uses are noted and leases dropped. -/
structure OperandsRead (s : State) (i : Instr) (t : Turn) (r : Reading) : Prop where
  gathered : Gathered s (coreOf t.key) r (queuesOf (readRefs t.operands))
  read : t.read s i = (r.s.lastUses t.fibre t.operands).popDrops (coreOf t.key) r.taken
  a : OperandGives s t.key t.lane t.fibre (queuesOf (readRefs [])) t.form.a (t.x s i).a
  b : OperandGives s t.key t.lane t.fibre (queuesOf (readRefs [t.form.a])) t.form.b (t.x s i).b
  c : t.form.lit = none →
    OperandGives s t.key t.lane t.fibre (queuesOf (readRefs [t.form.a, t.form.b])) t.form.c (t.x s i).c
  d : OperandGives s t.key t.lane t.fibre (queuesOf (readRefs [t.form.a, t.form.b, t.form.c])) t.form.d (t.x s i).d

/-- The operands of a well-formed instruction are well-formed. -/
theorem operands_ok (h : Ready s i t) : ∀ o ∈ t.operands, o.ok = true := by
  have legal := h.legal
  simp only [Instr.wellFormed, h.form, Form.ok, Bool.and_eq_true] at legal
  obtain ⟨⟨⟨⟨-, a⟩, b⟩, c⟩, d⟩ := legal
  simp [Turn.operands, a, b, c, d]

theorem operands_read (h : Ready s i t) : ∃ r, OperandsRead s i t r := by
  have ok := operands_ok h
  have step : ∀ {r : Reading} {ops : List Operand} (o : Operand), o ∈ t.operands →
      Gathered s (coreOf t.key) r (queuesOf (readRefs ops)) →
      OperandGives s t.key t.lane t.fibre (queuesOf (readRefs ops)) o (r.operand t.key t.lane t.fibre o).1 ∧
        Gathered s (coreOf t.key) (r.operand t.key t.lane t.fibre o).2 (queuesOf (readRefs (ops ++ [o]))) := by
    intro r ops o ho g
    have e := queuesOf_readRefs_cons o []
    rw [queuesOf_readRefs_append, e]
    exact operand_gathers g (ok o ho) |>.imp id fun g => by simpa [queuesOf, readRefs] using g
  have a := step (ops := []) t.form.a (by simp [Turn.operands]) (charged_gathers s t _)
  have b := step (ops := [t.form.a]) t.form.b (by simp [Turn.operands]) a.2
  have c := step (ops := [t.form.a, t.form.b]) t.form.c (by simp [Turn.operands]) b.2
  have d := step (ops := [t.form.a, t.form.b, t.form.c]) t.form.d (by simp [Turn.operands]) c.2
  refine ⟨_, codes_gathers d.2 (runCodes t.operands) (isQueue_runCodes _), rfl, a.1, b.1, fun lit => ?_, d.1⟩
  have e : (t.x s i).c = match t.form.lit with | some l => l.setWidth 64 | none => _ := rfl
  rw [e, lit]
  exact c.1

/-- Where nothing stops a lane, each of its reads of a q register finds a word. -/
theorem word_of_sourceStop {ops : List Operand} {own : Pc} (h : s.sourceStop key f own ops = none) {q n : Nat}
    (hq : q < 16) (hn : n < (queuesOf (readRefs ops)).count q) : ∃ w, s.queueWordAt (coreOf key) q n = some w := by
  have none_short : s.queuesShort (coreOf key) (queuesOf (readRefs ops)) = [] := by
    unfold State.sourceStop at h
    dsimp only at h
    split at h
    · cases h
    · split at h
      · cases h
      · split at h
        · cases h
        · split at h
          · cases h
          · simpa [List.head?_eq_none_iff] using h
  have full := List.filter_eq_nil_iff.mp none_short q (List.mem_range.mpr hq)
  simp only [List.any_eq_true, List.mem_range, not_exists, not_and] at full
  exact Option.isSome_iff_exists.mp (by simpa [Option.isSome_iff_ne_none] using full n hn)

/-! ### Special sources -/

/-- What a special source shows, as a number (R27); nothing where the rules leave it open. -/
def Turn.specialNumber (t : Turn) (s : State) (c : Nat) : Option Nat :=
  let f := t.fibre
  let launch := s.sched.launches.find f.launch
  let bound := fun (r : LaunchRecord) (n : Nat) => (r.widths.take n).sum
  let id := f.workId.toNat
  if c = 0xD0 then some 1
  else if c < 0xD8 then some (if f.preds.getLsbD (c - 0xD0) then 1 else 0)
  else if c = 0xD8 then some 0
  else if c = 0xD9 then some t.lane
  else if c = 0xDA then launch.map fun l => 16 * 2 ^ bits l.record.flags.toNat 5 4
  else if c = 0xDB then some t.index
  else if c = 0xDC then some t.gang.core
  else if c = 0xDD then some id
  else if c = 0xDE then some (id / 2 ^ 32)
  else if c < 0xE5 then
    launch.map fun l => id / 2 ^ bound l.record (c - 0xDF) % 2 ^ (l.record.widths.getD (c - 0xDF) 0)
  else if c = 0xE5 then some s.gtc
  else if c = 0xE6 then some (s.gtc / 2 ^ 32)
  else if c = 0xE7 then some s.ptp.toNat
  else if c = 0xE8 then some (s.ptp.toNat / 2 ^ 32)
  else if c = 0xE9 then launch.map fun l => id / 2 ^ bound l.record (bits l.record.flags.toNat 8 6)
  else if c = 0xEA then some f.tenant
  else none

theorem loWord_eq_ofNat (v : DWord) : loWord v = BitVec.ofNat 32 v.toNat := by
  apply BitVec.eq_of_toNat_eq
  simp

theorem hiWord_eq_ofNat (v : DWord) : hiWord v = BitVec.ofNat 32 (v.toNat / 2 ^ 32) := by
  apply BitVec.eq_of_toNat_eq
  simp [Nat.shiftRight_eq_div_pow]

/-- A word of a counter of 64 bits is one of the number that it counts. -/
theorem ofNat_mod_word (n : Nat) : BitVec.ofNat 32 (n % 2 ^ 64) = BitVec.ofNat 32 n ∧
    BitVec.ofNat 32 (n % 2 ^ 64 / 2 ^ 32) = BitVec.ofNat 32 (n / 2 ^ 32) := by
  constructor <;> apply BitVec.eq_of_toNat_eq <;> simp only [BitVec.toNat_ofNat] <;> omega

theorem pair_lo_hi (v : DWord) : pair (loWord v) (hiWord v) = v := by
  apply BitVec.eq_of_toNat_eq
  rw [BitVec.toNat_append, BitVec.extractLsb'_toNat, BitVec.extractLsb'_toNat, ← Nat.shiftLeft_add_eq_or_of_lt (by omega)]
  simp only [Nat.shiftRight_eq_div_pow, Nat.shiftLeft_eq]
  omega

theorem levelBit_eq_sum (r : LaunchRecord) (l : Nat) : levelBit r l = (r.widths.take l).sum := List.sum_eq_foldl.symm

theorem special_of_number (h : Ready s i t) {c n : Nat} (hc : 0xD0 ≤ c) (e : t.specialNumber s c = some n) :
    s.special t.key t.lane t.fibre c = BitVec.ofNat 32 n := by
  have index := indexOf_key h
  have core := coreOf_key h
  have words := ofNat_mod_word s.gtc
  norm_num only at words
  have top : c < 0xEB := by
    by_contra top
    simp only [Turn.specialNumber] at e
    repeat rw [if_neg (by omega)] at e
    cases e
  cases hl : s.sched.launches.find t.fibre.launch <;> interval_cases c <;>
    simp only [Turn.specialNumber, hl, Option.map_none, Option.map_some, reduceIte, Nat.reduceEqDiff, Nat.reduceLT,
      reduceCtorEq, Option.some.injEq] at e <;>
    subst e <;>
    simp [State.special, workField, hl, levelBit_eq_sum, gangWidth, crewLevel, index, core, apply_ite (BitVec.ofNat 32),
      loWord_eq_ofNat, hiWord_eq_ofNat, words]

/-! ### Words delivered by a neighbour -/

theorem find_none_of_lt {α : Type} {l : Tbl α} {k : Nat} (h : ∀ p ∈ l, k < p.1) : l.find k = none := by
  induction l with
  | nil => rfl
  | cons p l ih =>
    have := h p (by simp)
    rw [Tbl.find_cons, if_neg (by omega)]
    exact ih fun p hp => h p (by simp [hp])

/-- Where the keys rise, a key that has been taken away is not there. -/
theorem rising.find_del {α : Type} {l : Tbl α} (h : rising l) (k : Nat) : (l.del k).find k = none := by
  induction l with
  | nil => rfl
  | cons p l ih =>
    obtain ⟨j, w⟩ := p
    obtain ⟨above, tail⟩ := List.pairwise_cons.mp h
    simp only [Tbl.del]
    split
    · next e =>
      subst e
      exact find_none_of_lt above
    · next e => rw [Tbl.find_cons, if_neg e, ih tail]

theorem mem_del {α : Type} {l : Tbl α} {k : Nat} {p : Nat × α} (h : p ∈ l.del k) : p ∈ l := by
  induction l with
  | nil => cases h
  | cons q l ih =>
    simp only [Tbl.del] at h
    split at h
    · exact List.mem_cons_of_mem _ h
    · rcases List.mem_cons.mp h with h | h
      · exact h ▸ List.mem_cons_self ..
      · exact List.mem_cons_of_mem _ (ih h)

theorem rising.del {α : Type} {l : Tbl α} (h : rising l) (k : Nat) : rising (l.del k) := by
  induction l with
  | nil => exact h
  | cons p l ih =>
    obtain ⟨above, tail⟩ := List.pairwise_cons.mp h
    simp only [Tbl.del]
    split
    · exact tail
    · exact List.pairwise_cons.mpr ⟨fun q hq => above q (mem_del hq), ih tail⟩

theorem mem_put {α : Type} {l : Tbl α} {k : Nat} {v : α} {p : Nat × α} (h : p ∈ l.put k v) : p = (k, v) ∨ p ∈ l := by
  induction l with
  | nil => simpa [Tbl.put] using h
  | cons q l ih =>
    simp only [Tbl.put] at h
    split at h
    · simpa using h
    · split at h <;> rcases List.mem_cons.mp h with h | h
      · exact .inl h
      · exact .inr (List.mem_cons_of_mem _ h)
      · exact .inr (h ▸ List.mem_cons_self ..)
      · exact (ih h).imp id (List.mem_cons_of_mem _)

theorem rising.put {α : Type} {l : Tbl α} (h : rising l) (k : Nat) (v : α) : rising (l.put k v) := by
  induction l with
  | nil => simp [Tbl.put, rising]
  | cons p l ih =>
    obtain ⟨j, w⟩ := p
    obtain ⟨above, tail⟩ := List.pairwise_cons.mp h
    simp only [Tbl.put]
    split
    · next lt =>
      refine List.pairwise_cons.mpr ⟨fun q hq => ?_, h⟩
      rcases List.mem_cons.mp hq with rfl | hq
      · exact lt
      · exact Nat.lt_trans lt (above q hq)
    · split
      · next e => exact List.pairwise_cons.mpr ⟨fun q hq => e ▸ above q hq, tail⟩
      · refine List.pairwise_cons.mpr ⟨fun q hq => ?_, ih tail⟩
        rcases mem_put hq with rfl | hq
        · show j < k
          omega
        · exact above q hq

/-- What stands at a key after it has been set, where the keys rise. -/
theorem rising.find_set {α : Type} {l : Tbl α} (h : rising l) (k k' : Nat) (v : Option α) :
    (l.set k v).find k' = if k' = k then v else l.find k' := by
  cases v with
  | some v => exact Tbl.find_put l k k' v
  | none =>
    simp only [Tbl.set]
    split
    · next e => rw [e, h.find_del]
    · next e => exact Tbl.find_del_ne l e

theorem rising.set {α : Type} {l : Tbl α} (h : rising l) (k : Nat) (v : Option α) : rising (l.set k v) := by
  cases v with
  | some v => exact h.put k v
  | none => exact h.del k

theorem cacheKey_inj {c line c' line' : Nat} (h : line < 2 ^ 58) (h' : line' < 2 ^ 58)
    (e : cacheKey c line = cacheKey c' line') : c = c' ∧ line = line' := by
  unfold cacheKey at e
  omega

/-- A line of an L1 after one has been set: there where it holds something. -/
theorem l1_setL1 (h : rising s.coh.l1) (core core' line line' : Nat) (l : L1Line) (hl : line < 2 ^ 58)
    (hl' : line' < 2 ^ 58) :
    (s.setL1 core line l).l1 core' line' =
      if core' = core ∧ line' = line then
        (if l.copy.isNone && l.dirty.isEmpty && l.flight.isEmpty && !l.retained then none else some l)
      else s.l1 core' line' := by
  simp only [State.l1, State.setL1, State.modCoh_coh, h.find_set]
  by_cases e : core' = core ∧ line' = line
  · obtain ⟨rfl, rfl⟩ := e
    cases l.copy.isNone && l.dirty.isEmpty && l.flight.isEmpty && !l.retained <;> simp
  · rw [if_neg e, if_neg fun k => e (cacheKey_inj hl' hl k)]

/-- Drop a core's copy of one line. -/
def dropLease (core : Nat) (s : State) (line : Nat) : State :=
  match s.l1 core line with
  | some l => s.setL1 core line { l with copy := none, expiry := none }
  | none => s

theorem dropLeases_eq (s : State) (core : Nat) : s.dropLeases core =
    (s.l1Lines core fun _ l => decide (l.kind = .shared) && !l.retained && l.copy.isSome).foldl (dropLease core) s := rfl

/-- A line whose copy a neighbour's word would drop. -/
def Leased (l : L1Line) : Prop := l.kind = .shared ∧ l.retained = false ∧ l.copy.isSome = true

/-- Dropping the leases of a core leaves none (R276). -/
theorem dropLeases_l1 (h : rising s.coh.l1) {core line : Nat} (hl : line < 2 ^ 58) {l : L1Line}
    (e : (s.dropLeases core).l1 core line = some l) : ¬Leased l := by
  have drop : ∀ (lines : List Nat) (u : State), rising u.coh.l1 → (∀ k ∈ lines, k < 2 ^ 58) →
      (∀ l, u.l1 core line = some l → Leased l → line ∈ lines) →
      ∀ l, (lines.foldl (dropLease core) u).l1 core line = some l → ¬Leased l := by
    intro lines
    induction lines with
    | nil => exact fun u _ _ here l e leased => absurd (here l e leased) (by simp)
    | cons k lines ih =>
      intro u hu small here
      rw [List.foldl_cons]
      have hk := small k (by simp)
      refine ih _ ?_ (fun k hk => small k (by simp [hk])) ?_
      · unfold dropLease
        split
        · exact hu.set _ _
        · exact hu
      · intro l e leased
        unfold dropLease at e
        cases hf : u.l1 core k with
        | none =>
          rw [hf] at e
          refine (List.mem_cons.mp (here l e leased)).resolve_left ?_
          rintro rfl
          rw [hf] at e
          cases e
        | some l' =>
          rw [hf] at e
          dsimp only at e
          rw [l1_setL1 hu _ _ _ _ _ hk hl] at e
          split at e
          · split at e
            · cases e
            · cases e
              exact absurd leased.2.2 (by simp)
          · next ne => exact (List.mem_cons.mp (here l e leased)).resolve_left fun e => ne ⟨rfl, e⟩
  rw [dropLeases_eq] at e
  refine drop _ _ h ?_ ?_ l e
  · intro k hk
    obtain ⟨p, -, rfl⟩ := List.mem_map.mp hk
    exact Nat.mod_lt _ (by decide)
  · rintro l e ⟨shared, free, copy⟩
    refine List.mem_map.mpr ⟨(cacheKey core line, l), List.mem_filter.mpr ⟨Tbl.mem_of_find e, ?_⟩, ?_⟩
    · have : cacheKey core line / 2 ^ 58 = core := by
        unfold cacheKey
        omega
      simp only [this, shared, free, copy, decide_true, Bool.not_false, Bool.and_self]
    · show cacheKey core line % 2 ^ 58 = line
      unfold cacheKey
      omega

/-! ### Sources -/

variable {o : Operand} {v : DWord}

/-- A source that names registers gives what they hold (R164, R166). -/
theorem OperandGives.register_value (g : OperandGives s key lane f qs o v) {l : Loc} (hl : f.loc o.code.toNat = some l)
    (hu : (s.cell l).lastUsed = false) :
    (o.slot = .src false ∨ o.slot = .upd false → v = ((s.cell l).val).setWidth 64) ∧
      ∀ h, f.loc (o.code.toNat + 1) = some h → (s.cell h).lastUsed = false →
        (o.slot = .src true ∨ o.slot = .upd true → v = pair (s.cell l).val (s.cell h).val) := by
  refine ⟨fun hs => ?_, fun h hh huh hs => ?_⟩
  · obtain ⟨w, rfl, c⟩ := g.word (hs.imp id .inl)
    rw [c.register l hl hu]
  · obtain ⟨lo, hi, rfl, c, c'⟩ := g.wide hs (by
      intro e
      rw [e, loc_lt (by decide)] at hl
      cases hl)
    rw [c.register l hl hu, c'.register h hh huh]

/-- A special source gives its value (R27, R165). -/
theorem OperandGives.special_value (h : Ready s i t) (g : OperandGives s t.key t.lane t.fibre qs o v)
    (hc : 0xD0 ≤ o.code.toNat) :
    (o.slot = .src false → ∀ n, t.specialNumber s o.code.toNat = some n → v = BitVec.ofNat 64 (n % 2 ^ 32)) ∧
      (o.slot = .src true → (o.code = 0xD8 → v = 0) ∧ (o.code = 0xDD → v = t.fibre.workId) ∧
        (o.code = 0xE5 → v = BitVec.ofNat 64 s.gtc) ∧ (o.code = 0xE7 → v = s.ptp)) := by
  refine ⟨fun hs n hn => ?_, fun hs => ⟨g.zero (.inl hs), ?_⟩⟩
  · obtain ⟨w, rfl, c⟩ := g.word (.inl hs)
    rw [c.special hc, special_of_number h hc hn]
    apply BitVec.eq_of_toNat_eq
    simp only [BitVec.toNat_setWidth, BitVec.toNat_ofNat]
  · have both : ∀ (c : BitVec 8) (w : DWord), c ≠ 0xD8 → 0xD0 ≤ c.toNat →
        s.special t.key t.lane t.fibre c.toNat = loWord w → s.special t.key t.lane t.fibre (c.toNat + 1) = hiWord w →
        o.code = c → v = w := by
      rintro c w hz hd lo hi rfl
      obtain ⟨l, k, rfl, cl, ck⟩ := g.wide (.inl hs) hz
      rw [cl.special hd, ck.special (by omega), lo, hi, pair_lo_hi]
    exact ⟨both 0xDD _ (by decide) (by decide) rfl rfl, both 0xE5 _ (by decide) (by decide) rfl rfl,
      both 0xE7 _ (by decide) (by decide) rfl rfl⟩

/-- A source of a q register gives the next of its words (R169, R275). -/
theorem OperandGives.queue_value (h : Ready s i t) {before more : List Operand} (e : t.operands = before ++ o :: more)
    (g : OperandGives s t.key t.lane t.fibre (queuesOf (readRefs before)) o v)
    (hs : o.slot = .src false ∨ o.slot = .upd false ∨ o.slot = .pop) {q : Nat} (hc : o.code.toNat = 0xC0 + q)
    (hq : q < 16) :
    ∃ p w, (s.queueReg t.gang.core q).places[(queuesOf (readRefs before)).count q]? = some p ∧ p.word = some w ∧
      v = w.setWidth 64 := by
  have codes : readCodes o = [0xC0 + q] := by rcases hs with hs | hs | hs <;> simp [readCodes, hs, hc]
  have more_reads : (queuesOf (readRefs before)).count q < (queuesOf (readRefs t.operands)).count q := by
    rw [e, queuesOf_readRefs_append, queuesOf_readRefs_cons, codes]
    simp [queueOfCode, hq]
  obtain ⟨w, hw⟩ := word_of_sourceStop (ops := t.operands) h.sources hq more_reads
  rw [coreOf_key h, State.queueWordAt_eq] at hw
  simp only [Turn.charged, State.queueReg, State.unit, (chargeStep_keeps s _ _).2.1] at hw
  obtain ⟨p, hp, hpw⟩ := Option.bind_eq_some_iff.mp hw
  obtain ⟨w', rfl, c⟩ := g.word hs
  refine ⟨p, w, hp, hpw, ?_⟩
  have value := c.queue q hc hq
  rw [coreOf_key h, State.queueWordAt_eq] at value
  rw [value]
  exact congrArg (fun w : Option Word => (w.getD 0).setWidth 64) hw

/-- What reading takes from q registers, and what it does to the leases of the core (R275, R276). -/
theorem OperandsRead.words_taken {r : Reading} (g : OperandsRead s i t r) (h : Ready s i t) (q : Nat) :
    ((t.read s i).queueReg t.gang.core q).places =
      (s.queueReg t.gang.core q).places.drop ((queuesOf (readRefs t.operands)).count q) := by
  have cores : (t.read s i).cores = r.s.cores := by
    rw [g.read, popDrops_cores]
    exact (lastUses_keeps _ _ _).1
  rw [← coreOf_key h, ← g.gathered.places]
  simp only [State.queueReg, State.unit, cores]

/-- Reading drops the leases of the core where a word taken came from a neighbour, and else leaves the caches. -/
theorem OperandsRead.coh {r : Reading} (g : OperandsRead s i t r) :
    (t.read s i).coh = if r.taken.any (fun p => p.2.neighbour) then (s.dropLeases (coreOf t.key)).coh else s.coh := by
  have coh : (r.s.lastUses t.fibre t.operands).coh = s.coh := (lastUses_keeps _ _ _).2.trans g.gathered.coh
  have same_l1 : ∀ (u w : State) (core : Nat), u.coh = w.coh → (u.dropLeases core).coh = (w.dropLeases core).coh := by
    intro u w core e
    have fold : ∀ (lines : List Nat) (u w : State), u.coh = w.coh →
        (lines.foldl (dropLease core) u).coh = (lines.foldl (dropLease core) w).coh := by
      intro lines
      induction lines with
      | nil => exact fun u w e => e
      | cons k lines ih =>
        intro u w e
        refine ih _ _ ?_
        simp only [dropLease, State.l1, e]
        split
        · simp only [State.setL1, State.modCoh_coh, e]
        · exact e
    rw [dropLeases_eq, dropLeases_eq, State.l1Lines, State.l1Lines, e]
    exact fold _ u w e
  rw [g.read]
  unfold State.popDrops
  split
  · exact same_l1 _ _ _ coh
  · exact coh

/-- The reads of q registers of an instruction that reads one word of one. -/
theorem queueRefs_single {ops : List Operand} {o : Operand} {q : Nat} (one : queuesOf (readRefs ops) = [q]) (ho : o ∈ ops)
    (codes : readCodes o = [0xC0 + q]) : (readRefs ops).filter (fun r => isQueue r.2) = [(o, 0xC0 + q)] ∧ q < 16 := by
  unfold queuesOf at one
  obtain ⟨r, single, hr⟩ := List.map_eq_singleton_iff.mp one
  have mem : r ∈ (readRefs ops).filter fun r => isQueue r.2 := by simp [single]
  obtain ⟨lo, hi⟩ := (isQueue_iff _).mp (List.mem_filter.mp mem).2
  have hq : q < 16 := by omega
  have here : (o, 0xC0 + q) ∈ (readRefs ops).filter fun r => isQueue r.2 :=
    List.mem_filter.mpr ⟨List.mem_flatMap.mpr ⟨o, ho, by simp [codes]⟩, isQueue_add.mpr hq⟩
  rw [single] at here ⊢
  exact ⟨by rw [List.mem_singleton.mp here], hq⟩

/-- The one q register that has no word for its one read. -/
theorem queuesShort_single {q : Nat} (hq : q < 16) (none : s.queueWordAt core q 0 = none) :
    s.queuesShort core [q] = [q] := by
  have short : ∀ q', ((List.range ([q].count q')).any fun n => (s.queueWordAt core q' n).isNone) = decide (q' = q) := by
    intro q'
    by_cases e : q' = q
    · subst e
      simp [none]
    · simp [e, Ne.symm e]
  simp only [State.queuesShort, short]
  interval_cases q <;> rfl

/-- An instruction all of whose registers are there, that reads one q register and finds no word in it, performs EMPTY under
T = 1, and else waits there (R169, R275). -/
theorem sourceStop_queue {ops : List Operand} {o : Operand} {q : Nat} (own : Pc)
    (ready : ∀ r ∈ readRefs ops, s.srcState key f r.2 = .ready) (one : queuesOf (readRefs ops) = [q]) (ho : o ∈ ops)
    (codes : readCodes o = [0xC0 + q]) (none : ((s.queueReg (coreOf key) q).places.head?.bind QPlace.word) = none) :
    s.sourceStop key f own ops =
      some (if o.t then .effect (effectOf own 6 0 (o.code.setWidth 64)) else .park (.register (.queueWord q))) := by
  obtain ⟨single, hq⟩ := queueRefs_single one ho codes
  have short := queuesShort_single (s := s) (core := coreOf key) hq
    (by rw [State.queueWordAt_eq, ← List.head?_eq_getElem?, none])
  have noFault : (readRefs ops).any (fun r => decide (s.srcState key f r.2 = .fault)) = false := by
    rw [List.any_eq_false]
    intro r hr
    simp [ready r hr]
  have noOrphan : (readRefs ops).find? (fun r => decide (s.srcState key f r.2 = .orphan)) = .none := by
    rw [List.find?_eq_none]
    intro r hr
    simp [ready r hr]
  have empty : (readRefs ops).filter (fun r =>
      decide (s.srcState key f r.2 = .waits) || (isQueue r.2 && [q].contains (r.2 - 0xC0))) = [(o, 0xC0 + q)] := by
    rw [← single]
    refine List.filter_congr fun r hr => ?_
    rw [ready r hr]
    by_cases hc : isQueue r.2 = true
    · have : r ∈ (readRefs ops).filter fun r => isQueue r.2 := List.mem_filter.mpr ⟨hr, hc⟩
      rw [single, List.mem_singleton] at this
      simp [this]
    · simp [hc]
  have noLoc : f.loc (0xC0 + q) = .none := loc_lt (by omega)
  have code : BitVec.ofNat 64 o.code.toNat = o.code.setWidth 64 := BitVec.ofNat_toNat ..
  unfold State.sourceStop
  simp only [noFault, noOrphan, one, short, empty, Bool.false_eq_true, if_false]
  cases ht : o.t <;> simp [ht, noLoc, code]

/-- The words that reading takes are those of the q registers that it reads, in their order. -/
theorem OperandsRead.taken {r : Reading} (g : OperandsRead s i t r) (h : Ready s i t) (p : QPlace) :
    (∃ q, (q, p) ∈ r.taken) ↔ ∃ q ∈ queuesOf (readRefs t.operands),
      p ∈ (s.queueReg t.gang.core q).places.take ((queuesOf (readRefs t.operands)).count q) := by
  simp only [g.gathered.taken, coreOf_key h]
  refine exists_congr fun q => ⟨fun hp => ⟨?_, hp⟩, And.right⟩
  by_contra absent
  rw [List.count_eq_zero_of_not_mem absent] at hp
  cases hp

/-- Settles O23: one pass over the operands, code by code, in which each q register gives its words in order. -/
theorem sourcesReadTheirRegisters : Obligations.SourcesReadTheirRegisters := by
  unfold Obligations.SourcesReadTheirRegisters
  refine ⟨?_, fun s key q f own ops o ready one ho codes none => sourceStop_queue own ready one ho codes none⟩
  intro s i t h f core read launch bound id word special absent queue a b c d all
  obtain ⟨r, g⟩ := operands_read h
  have every : ∀ {before : List Operand} {o : Operand} {v : DWord} (more : List Operand), t.operands = before ++ o :: more →
      OperandGives s t.key t.lane t.fibre (queuesOf (readRefs before)) o v → all before o v := by
    intro before o v more e g
    exact ⟨fun l hl hu => g.register_value hl hu, fun hc => g.special_value h hc, g.absent,
      fun hs q hc hq => g.queue_value h e hs hc hq⟩
  refine ⟨same_read s i t, every _ rfl g.a, every _ rfl g.b, every _ rfl g.d, fun hl => every _ rfl (g.c hl), ?_,
    fun q => g.words_taken h q, ?_, ?_⟩
  · intro l hl
    have e : (t.x s i).c = match t.form.lit with | some l => l.setWidth 64 | none => _ := rfl
    rw [e, hl]
  · intro own
    rw [g.coh, if_neg]
    simp only [List.any_eq_true, not_exists, not_and, Bool.not_eq_true]
    exact fun p hp => own p.2 ((g.taken h p.2).mp ⟨p.1, hp⟩)
  · rintro rise ⟨p, hp, neighbour⟩ line l hl e shared
    obtain ⟨q, taken⟩ := (g.taken h p).mpr hp
    have any : r.taken.any (fun p => p.2.neighbour) = true := List.any_eq_true.mpr ⟨_, taken, neighbour⟩
    have kept : (s.dropLeases (coreOf t.key)).l1 (coreOf t.key) line = some l := by
      rw [← e, State.l1, State.l1, g.coh, if_pos any, coreOf_key h]
    have free := dropLeases_l1 rise hl kept
    by_contra other
    rw [not_or, Bool.not_eq_true] at other
    exact free ⟨shared, other.1, Option.isSome_iff_ne_none.mpr other.2⟩

end Sys2Proof.Safety

/-! ## Accesses of one lane

What the reading of operands leaves of the checks that an access of memory makes, and the effect of the storage operations. -/

namespace Sys2Proof.Safety
open Sys2Proof.Machine

variable {s s' : State} {i : Instr} {t : Turn}

/-! ### Checks under bookkeeping -/

theorem Same.coreReg (h : Same s s') (core : Nat) {off : Nat} (lt : off < 2 ^ 24) (ne : off ≠ 0x108) :
    s'.coreReg core off = s.coreReg core off := by
  simp only [State.coreReg, h.coreRegs (core * 2 ^ 24 + off) (by omega)]

theorem Same.coreF (h : Same s s') (core : Nat) {off : Nat} (lt : off < 2 ^ 24) (ne : off ≠ 0x108) (hi lo : Nat) :
    s'.coreF core off hi lo = s.coreF core off hi lo := by
  simp only [State.coreF, h.coreReg core lt ne]

theorem Same.scratchSize (h : Same s s') (core : Nat) : s'.scratchSize core = s.scratchSize core := by
  simp only [State.scratchSize, h.coreF core (by decide : 0x110 < 2 ^ 24) (by decide)]

theorem Same.weightSize (h : Same s s') (core : Nat) : s'.weightSize core = s.weightSize core := by
  simp only [State.weightSize, h.coreF core (by decide : 0x110 < 2 ^ 24) (by decide)]

theorem Same.holdsScratch (h : Same s s') (core granule tenant : Nat) :
    s'.holdsScratch core granule tenant = s.holdsScratch core granule tenant := by
  have e : (s'.unit core).scratch = (s.unit core).scratch := (congrArg CoreUnit.scratch (h.units core) :)
  simp only [State.holdsScratch, e]

theorem Same.holdsWeight (h : Same s s') (core granule tenant : Nat) :
    s'.holdsWeight core granule tenant = s.holdsWeight core granule tenant := by
  have e : (s'.unit core).weight = (s.unit core).weight := (congrArg CoreUnit.weight (h.units core) :)
  simp only [State.holdsWeight, e]

theorem Same.pitchRange (h : Same s s') (core tenant a n : Nat) :
    s'.pitchRange core tenant a n = s.pitchRange core tenant a n := by
  simp only [State.pitchRange, h.scratchSize, h.weightSize, h.holdsScratch, h.holdsWeight]

theorem Same.clusterRange (h : Same s s') (core tenant a n : Nat) :
    s'.clusterRange core tenant a n = s.clusterRange core tenant a n := by
  simp only [State.clusterRange, h.scratchSize, h.holdsScratch]

theorem Same.pitchKey (h : Same s s') (core a : Nat) : s'.pitchKey core a = s.pitchKey core a := by
  simp only [State.pitchKey, h.scratchSize]

theorem Same.constSegment (h : Same s s') (f : Fibre) : s'.constSegment f = s.constSegment f := by
  simp only [State.constSegment, State.codeOf, h.code]

theorem Same.inM0 (h : Same s s') (key : Nat) (f : Fibre) : s'.inM0 key f = s.inM0 key f := by
  simp only [State.inM0, h.coreF (coreOf key) (by decide : 0x120 < 2 ^ 24) (by decide)]

theorem Same.ops (h : Same s s') : s'.coh.ops = s.coh.ops := (congrArg Coherence.ops h.coh :)

/-- An access that need not wait for earlier ones of its fibre does not (R153). -/
theorem orderM0_inOrder (h : Same s s') {x : LaneIn} (key : x.key = t.key) (f : x.f = t.fibre) (space : Nat)
    (inOrder : space < 3 → t.inOrder s) : x.orderM0 s' space = none := by
  unfold LaneIn.orderM0 LaneIn.ownAtoms State.atomUnderWay
  rw [key, f, h.inM0, h.ops]
  split
  · rfl
  · next low =>
    obtain ⟨pending, atoms⟩ := inOrder (by omega)
    split
    · next bad =>
      rw [pending bad.2] at bad
      cases bad.1
    · split
      · next m0 => exact congrArg (Option.map _) (atoms m0)
      · rfl

/-! ### The pitch -/

/-- Watching a word of the pitch changes the operations that watch it, and nothing else. -/
theorem watchPitch_keeps (s : State) (key n : Nat) : ∃ ops, s.watchPitch key n = s.modCoh fun c => { c with ops := ops } := by
  have watch : ∀ (u : State) (id : Nat) (o : OrdOp) (cond value : Nat),
      ∃ ops, u.watchWord id o cond value = u.modCoh fun c => { c with ops := ops } := by
    intro u id o cond value
    unfold State.watchWord
    split <;> exact ⟨_, rfl⟩
  unfold State.watchPitch
  generalize s.coh.ops.select _ = l
  induction l generalizing s with
  | nil => exact ⟨s.coh.ops, rfl⟩
  | cons p l ih =>
    rw [List.foldl_cons]
    split
    · obtain ⟨ops, e⟩ := watch s p.1 p.2 _ (ofBytes (s.store.pitch.readBytes p.2.addr p.2.size))
      rw [e]
      exact ih _
    · exact ih s

end Sys2Proof.Safety

/-! ## Stores into SCRATCH, CLUSTER and FRAME (R20, R22, R250, R252, R253) -/

namespace Sys2Proof.Machine

theorem length_toBytes (v n : Nat) : (toBytes v n).length = n := by
  induction n generalizing v with
  | zero => rfl
  | succ n ih => simp [toBytes, ih]

/-- A byte of a word. -/
def byteOf (v : Word) (j : Nat) : Byte := BitVec.ofNat 8 (v.toNat / 2 ^ (8 * j))

theorem toBytes_word (v : Word) : toBytes v.toNat 4 = [byteOf v 0, byteOf v 1, byteOf v 2, byteOf v 3] := by
  simp [toBytes, byteOf, Nat.div_div_eq_div_mul]

/-- A byte of a word in which one has been replaced. -/
theorem byteOf_setBits (v : Word) (b : Byte) {j k : Nat} (hj : j < 4) (hk : k < 4) :
    byteOf (BitVec.ofNat 32 (setBits v.toNat (j * 8 + 7) (j * 8) b.toNat)) k = if k = j then b else byteOf v k := by
  have hv := v.isLt
  have hb := b.isLt
  apply BitVec.eq_of_toNat_eq
  rw [apply_ite BitVec.toNat]
  interval_cases j <;> interval_cases k <;>
    simp only [byteOf, setBits, bits, BitVec.toNat_ofNat, reduceIte, Nat.reduceEqDiff, Nat.reduceMul, Nat.reduceAdd,
      Nat.reduceSub, Nat.reducePow] <;>
    omega

/-- A byte of a fibre's frame, by its FRAME address (R22). -/
def State.frameByte (s : State) (f : Fibre) (x : Nat) : Byte := byteOf (s.cell (f.gLoc (x / 4))).val (x % 4)

theorem gLoc_inj {f : Fibre} {a b : Nat} (h : f.gLoc a = f.gLoc b) : a = b := by
  simp only [Fibre.gLoc, Loc.frame.injEq, true_and] at h
  omega

/-- Write one byte of a frame word. -/
def State.writeFrameByte (f : Fibre) (s : State) (p : Nat × Byte) : State :=
  let l := f.gLoc (p.1 / 4)
  let v := setBits (s.cell l).val.toNat (p.1 % 4 * 8 + 7) (p.1 % 4 * 8) p.2.toNat
  s.setCell l { s.cell l with val := BitVec.ofNat 32 v, lastUsed := false, mark := .full }

theorem State.writeFrame_eq (s : State) (f : Fibre) (a : Nat) (data : List Byte) :
    s.writeFrame f a data = (cellsAt a data).foldl (State.writeFrameByte f) s := rfl

/-- What writing bytes of a frame does: bytes of those addresses change, and registers of those words. -/
structure FrameWritten (s s' : State) (f : Fibre) (a : Nat) (data : List Byte) : Prop where
  bytes : ∀ x, s'.frameByte f x = if a ≤ x ∧ x < a + data.length then data.getD (x - a) 0 else s.frameByte f x
  others : ∀ l, (∀ x, a ≤ x → x < a + data.length → l ≠ f.gLoc (x / 4)) → s'.cell l = s.cell l
  marks : ∀ l, (s.cell l).mark = .full → (s'.cell l).mark = .full
  segs : ∀ k, (s.segs.find k).isSome → (s'.segs.find k).isSome
  rest : ∃ segs, s' = { s with segs := segs }

theorem writeFrame_written (f : Fibre) (data : List Byte) (a : Nat) (s : State)
    (h : (s.segs.find (segKey f.tenant f.fbSeg)).isSome) : FrameWritten s (s.writeFrame f a data) f a data := by
  rw [State.writeFrame_eq]
  induction data generalizing a s with
  | nil =>
    refine ⟨fun x => ?_, fun _ _ => rfl, fun _ h => h, fun _ h => h, s.segs, rfl⟩
    rw [if_neg (by simp)]
    rfl
  | cons b data ih =>
    let u := State.writeFrameByte f s (a, b)
    have segs : ∀ k, (s.segs.find k).isSome → (u.segs.find k).isSome := by
      intro k hk
      show ((s.segs.modify _ _).find k).isSome
      rw [Tbl.find_modify]
      split
      · next e => simpa [e] using hk
      · exact hk
    have cell : ∀ l, u.cell l = if l = f.gLoc (a / 4) then
        { s.cell (f.gLoc (a / 4)) with
          val := BitVec.ofNat 32 (setBits (s.cell (f.gLoc (a / 4))).val.toNat (a % 4 * 8 + 7) (a % 4 * 8) b.toNat),
          lastUsed := false, mark := .full }
        else s.cell l := fun l =>
      Safety.cell_setCell _ _ _ (by rintro seg w e; cases e; exact h) (by rintro k i e; cases e)
        (by rintro x y z e; cases e) (by rintro x y e; cases e)
    obtain ⟨bytes, others, marks, later, rest⟩ := ih (a + 1) u (segs _ h)
    refine ⟨fun x => ?_, fun l hl => ?_, fun l hl => marks l ?_, fun k hk => later k (segs k hk), ?_⟩
    · have one : u.frameByte f x = if x = a then b else s.frameByte f x := by
        unfold State.frameByte
        rw [cell]
        by_cases word : x / 4 = a / 4
        · rw [word, if_pos rfl, byteOf_setBits _ _ (Nat.mod_lt _ (by decide)) (Nat.mod_lt _ (by decide))]
          split <;> split <;> first | rfl | omega
        · rw [if_neg fun e => word (gLoc_inj e), if_neg fun e => word (by rw [e])]
      show (List.foldl (State.writeFrameByte f) u (cellsAt (a + 1) data)).frameByte f x = _
      rw [bytes, one, List.length_cons]
      by_cases first : x = a
      · subst first
        rw [if_neg (by omega), if_pos rfl, if_pos (by omega), Nat.sub_self, List.getD_cons_zero]
      · by_cases inside : a + 1 ≤ x ∧ x < a + 1 + data.length
        · rw [if_pos inside, if_pos (by omega), show x - a = x - (a + 1) + 1 by omega, List.getD_cons_succ]
        · rw [if_neg inside, if_neg first, if_neg (by omega)]
    · refine (others l fun x hx hx' => hl x (by omega) (by simp; omega)).trans ?_
      rw [cell, if_neg (hl a (le_refl a) (by simp))]
    · rw [cell]
      split
      · rfl
      · exact hl
    · obtain ⟨segs', e⟩ := rest
      exact ⟨segs', e⟩

theorem upto_eq_range' (a n : Nat) : upto a n = List.range' a n := by
  induction n generalizing a with
  | zero => rfl
  | succ n ih => rw [upto, ih, List.range'_succ]

/-- The words that an access of a frame meets, as bytes. -/
theorem frameLocs_bytes (s : State) (f : Fibre) (a n : Nat) :
    (f.frameLocs a n).flatMap (fun l => toBytes (s.cell l).val.toNat 4) =
      (List.range' (a / 4 * 4) (4 * ((a + n - 1) / 4 - a / 4 + 1))).map (s.frameByte f) := by
  unfold Fibre.frameLocs
  rw [List.flatMap_map, upto_eq_range']
  generalize (a + n - 1) / 4 - a / 4 + 1 = m
  generalize a / 4 = w
  induction m generalizing w with
  | zero => rfl
  | succ m ih =>
    have word : toBytes (s.cell (f.gLoc w)).val.toNat 4 = (List.range' (w * 4) 4).map (s.frameByte f) := by
      rw [toBytes_word]
      simp only [List.range', List.map_cons, List.map_nil, State.frameByte, show w * 4 / 4 = w by omega,
        show (w * 4 + 1) / 4 = w by omega, show (w * 4 + 1 + 1) / 4 = w by omega, show (w * 4 + 1 + 1 + 1) / 4 = w by omega,
        show w * 4 % 4 = 0 by omega, show (w * 4 + 1) % 4 = 1 by omega, show (w * 4 + 1 + 1) % 4 = 2 by omega,
        show (w * 4 + 1 + 1 + 1) % 4 = 3 by omega]
    rw [List.range'_succ, List.flatMap_cons, ih, word, ← List.map_append, show 4 * (m + 1) = 4 + 4 * m by omega,
      ← List.range'_append_1, show (w + 1) * 4 = w * 4 + 4 by omega]

/-- The bytes of an access of a frame within the words that it meets. -/
theorem frameLocs_take (s : State) (f : Fibre) {a n : Nat} (hn : 0 < n) :
    (((f.frameLocs a n).flatMap fun l => toBytes (s.cell l).val.toNat 4).drop (a % 4)).take n =
      (List.range' a n).map (s.frameByte f) := by
  rw [frameLocs_bytes, ← List.map_drop, ← List.map_take]
  congr 1
  refine List.ext_getElem (by simp; omega) fun k h₁ h₂ => ?_
  simp only [List.getElem_take, List.getElem_drop, List.getElem_range', Nat.one_mul]
  omega

/-- Another byte of the words that a written range meets. -/
theorem FrameWritten.other_byte {s s' : State} {f : Fibre} {a : Nat} {data : List Byte} (h : FrameWritten s s' f a data)
    (k : Nat) (hk : k < a % 4 ∨ a % 4 + data.length ≤ k) :
    ((f.frameLocs a data.length).flatMap fun l => toBytes (s'.cell l).val.toNat 4)[k]? =
      ((f.frameLocs a data.length).flatMap fun l => toBytes (s.cell l).val.toNat 4)[k]? := by
  rw [frameLocs_bytes, frameLocs_bytes, List.getElem?_map, List.getElem?_map]
  by_cases inside : k < 4 * ((a + data.length - 1) / 4 - a / 4 + 1)
  · rw [List.getElem?_range' inside]
    exact congrArg some ((h.bytes _).trans (if_neg (by omega)))
  · rw [List.getElem?_eq_none (by simpa using inside)]
    rfl

/-- The written bytes, read back. -/
theorem FrameWritten.bytes_back {s s' : State} {f : Fibre} {a : Nat} {data : List Byte} (h : FrameWritten s s' f a data)
    (hn : 0 < data.length) :
    (((f.frameLocs a data.length).flatMap fun l => toBytes (s'.cell l).val.toNat 4).drop (a % 4)).take data.length = data := by
  rw [frameLocs_take s' f hn]
  refine List.ext_getElem (by simp) fun k h₁ h₂ => ?_
  rw [List.getElem_map, List.getElem_range', Nat.one_mul, h.bytes, if_pos (by omega), Nat.add_sub_cancel_left,
    List.getD_eq_getElem _ _ h₂]

/-- A register that no written byte lies in is as it was. -/
theorem FrameWritten.outside {s s' : State} {f : Fibre} {a : Nat} {data : List Byte} (h : FrameWritten s s' f a data)
    {l : Loc} (hl : l ∉ f.frameLocs a data.length) : s'.cell l = s.cell l := by
  refine h.others l fun x lo hi e => hl (List.mem_map.mpr ⟨x / 4, ?_, e.symm⟩)
  rw [upto_eq_range', List.mem_range'_1]
  omega

end Sys2Proof.Machine

namespace Sys2Proof.Safety
open Sys2Proof.Machine

variable {s s' : State} {i : Instr} {t : Turn}

theorem wakeCrew_same (s : State) (key : Nat) (crew : Option Nat) :
    (∀ l, (s.wakeCrew key crew).cell l = s.cell l) ∧ (s.wakeCrew key crew).store = s.store ∧
      (s.wakeCrew key crew).landings = s.landings := by
  unfold State.wakeCrew
  split <;> exact ⟨fun _ => rfl, rfl, rfl⟩

/-- Where a lane's store has changed storage, frame words and the operations that watch, the instruction does that. -/
theorem does_store (h : Goes s i t) {store : Store} {segs : Tbl Segment} {ops : Tbl OrdOp} {u : State}
    (hu : u = { t.read s i with store := store, segs := segs, coh := { (t.read s i).coh with ops := ops } })
    (marks : ∀ l, ((t.read s i).cell l).mark = .full → (u.cell l).mark = .full)
    (he : exec i s = .next (t.after s i (.next (u.wakeCrew t.key t.fibre.crew)))) :
    Does s i t (u.wakeCrew t.key t.fibre.crew) (t.next s i) := by
  obtain ⟨fibres, gangs, cur⟩ := wakeCrew_keeps (s := u) t.key t.fibre.crew
  obtain ⟨cells, -, landings⟩ := wakeCrew_same u t.key t.fibre.crew
  refine does_next h ((read_live h.ready).of_parts ?_ ?_ ?_) (fun c => ?_) he
  · rw [fibres, hu]
  · rw [gangs, hu]
  · rw [cur, hu]
  · have q := read_quiet (i := i) c
    refine q.congr ?_ rfl rfl rfl rfl fun n lo hi => ?_
    · rw [landings, hu]
    · rw [cells]
      exact marks _ (q.window n lo hi)

/-- A lane's store at an aligned address that its space takes (R250, R252). -/
theorem store_ok {x : LaneIn} {u u' : State} {space size : Nat} {v : DWord} (hs : space ≠ 0)
    (order : x.orderM0 u space = none) (aligned : (loWord x.b + loWord x.c).toNat % 2 ^ size = 0)
    (ok : u.storeSpace x.key x.f space (loWord x.b + loWord x.c).toNat (toBytes v.toNat (2 ^ size)) = .ok u') :
    x.store u space size v = .next u' := by
  have addr : memAddr space x.b x.c = (loWord x.b + loWord x.c).toNat := if_neg hs
  unfold LaneIn.store
  simp only [addr, aligned, ne_eq, not_true_eq_false, if_false, order, hs, false_and, ok]

/-- A store into the pitch writes its bytes there and nothing else. -/
theorem store_pitch (h : Goes s i t) (wf : storageOk s = true) (key : Nat) (data : List Byte)
    (he : exec i s = .next (t.after s i (.next (((t.read s i).applyPitch key data).wakeCrew t.key t.fibre.crew)))) :
    ∃ u : State, Does s i t u (t.next s i) ∧ u.store.phys = s.store.phys ∧
      u.store.pitch.readBytes key data.length = data ∧
      (∀ b, b < key ∨ key + data.length ≤ b → u.store.pitch.read b = s.store.pitch.read b) ∧
      ∀ l, (u.cell l).val = (s.cell l).val ∧ (u.cell l).mark = (s.cell l).mark := by
  have same := same_read s i t
  have pitch : s.store.pitch.wf = true := ((storageOk_iff s).mp wf).2
  obtain ⟨ops, watched⟩ := watchPitch_keeps ((t.read s i).writePitch key data) key data.length
  have cell : ∀ l, ((t.read s i).applyPitch key data).cell l = (t.read s i).cell l := fun l => by
    rw [State.applyPitch, watched]
    exact cell_congr rfl rfl l
  have store : ((t.read s i).applyPitch key data).store = { s.store with pitch := s.store.pitch.writeBytes key data } := by
    rw [State.applyPitch, watched, ← same.store]
    rfl
  obtain ⟨cells, stored, -⟩ := wakeCrew_same ((t.read s i).applyPitch key data) t.key t.fibre.crew
  refine ⟨_, does_store (segs := (t.read s i).segs) h watched (fun l hl => by rw [← State.applyPitch, cell]; exact hl) he,
    ?_, ?_, ?_, ?_⟩
  all_goals rw [← State.applyPitch]
  · rw [stored, store]
  · rw [stored, store]
    exact s.store.pitch.readBytes_writeBytes pitch key data
  · intro b hb
    rw [stored, store]
    exact (s.store.pitch.read_writeBytes pitch key data b).trans (if_neg (by omega))
  · intro l
    rw [cells, cell]
    exact ⟨same.value l, same.mark l⟩

/-- Settles O35: a store into the pitch or the frame is one write of the bytes of D. -/
theorem storesWriteTheirSpaces : Obligations.StoresWriteTheirSpaces := by
  unfold Obligations.StoresWriteTheirSpaces
  intro f lit s t wf stores
  suffices main : ∀ i, (exec i s = s.lanes i (fun _ => decide (spaceOf f = 4)) fun x s =>
      x.store s (spaceOf f) (sizeOf_ f) x.d) → stores i by
    refine ⟨fun hq => ⟨main _ ?_, main _ ?_⟩, fun hq => main _ ?_⟩
    · show execStW f s = _
      simp only [execStW, hq]
      rfl
    · show execStX f lit s = _
      simp only [execStX, hq]
      rfl
    · show execStq f s = _
      simp only [execStq, hq]
      rfl
  intro i meaning h aligned inOrder
  set n := 2 ^ fld f.sub 0 2
  set a := (loWord (t.x s i).b + loWord (t.x s i).c).toNat
  set bytes := toBytes (t.x s i).d.toNat n
  have same := same_read s i t
  have positive : 0 < n := Nat.two_pow_pos _
  have length : bytes.length = n := length_toBytes _ _
  have goes : ∀ {u : State}, fld f.mod 0 3 ≠ 0 → fld f.mod 0 3 ≠ 4 →
      (t.read s i).storeSpace t.key t.fibre (fld f.mod 0 3) a bytes = .ok u → exec i s = .next (t.after s i (.next u)) := by
    intro u h0 h4 ok
    rw [meaning, lanes_ready h.ready _ (decide_eq_false h4)]
    exact congrArg (fun r => Host.Outcome.next (t.after s i r))
      (store_ok (x := t.x s i) h0 (orderM0_inOrder same rfl rfl _ inOrder) aligned ok)
  refine ⟨fun hs inside range => ?_, fun hs range => ?_, fun hs inside seg full => ?_⟩
  · have key : (t.read s i).pitchKey (coreOf t.key) a = scratchKey (coreOf t.key) a := by
      rw [same.pitchKey, State.pitchKey, if_pos (by omega)]
    have stored := store_pitch h wf (scratchKey (coreOf t.key) a) bytes (goes (by omega) (by omega) (by
      rw [hs, State.storeSpace]
      simp only [length, same.pitchRange, range, same.scratchSize, key]
      rw [if_neg (by omega)]))
    rwa [length] at stored
  · have stored := store_pitch h wf (scratchKey (clusterPlace (coreOf t.key) a).1 (clusterPlace (coreOf t.key) a).2) bytes
        (goes (by omega) (by omega) (by
      rw [hs, State.storeSpace]
      simp only [length, same.clusterRange, range]))
    rwa [length] at stored
  · have none : (t.fibre.frameLocs a n).find?
        (fun l => decide (((t.read s i).cell l).mark ≠ .full ∧ ((t.read s i).cell l).mark ≠ .orphaned)) = none := by
      rw [List.find?_eq_none]
      intro l hl
      simp [same.mark, full l hl]
    have written := writeFrame_written t.fibre bytes a (t.read s i) (by rw [same.segs]; exact seg)
    obtain ⟨segs, e⟩ := written.rest
    obtain ⟨cells, stored, -⟩ := wakeCrew_same ((t.read s i).writeFrame t.fibre a bytes) t.key t.fibre.crew
    refine ⟨_, does_store (store := (t.read s i).store) (ops := (t.read s i).coh.ops) h e written.marks
      (goes (by omega) (by omega) ?_), ?_⟩
    · rw [hs, State.storeSpace]
      simp only [length, none]
      rw [if_neg (by omega)]
    simp only [cells, stored]
    rw [← length] at positive ⊢
    refine ⟨?_, written.bytes_back positive, fun k hk => ?_, fun l hl => ?_⟩
    · rw [e]
      exact same.store
    · rw [written.other_byte k hk]
      simp only [same.value]
    · rw [written.outside hl]
      exact ⟨same.value l, same.mark l⟩

end Sys2Proof.Safety

/-! ## Results that come later (R168, R171)

What an instruction does whose results land after it: its destinations are reserved, and where its run mark makes the run
end a safe point the landing is delivered there (R43). -/

namespace Sys2Proof.Safety
open Sys2Proof.Machine

variable {s s' a b : State} {i : Instr} {t : Turn} {f : Fibre}

/-! ### States that differ in bookkeeping alone -/

/-- Two states differ in bookkeeping alone, the words of q registers and the lines of L1 included. -/
def Alike (a b : State) : Prop := Same a b ∧ SameQ a b

theorem Apart.symm (h : Apart a b) : Apart b a where
  store := h.store.symm
  kobjs := h.kobjs.symm
  acc := h.acc.symm
  code := h.code.symm
  mgmt := h.mgmt.symm
  bar0 := h.bar0.symm
  landings := h.landings.symm
  gtc := h.gtc.symm
  coreRegs k hk := (h.coreRegs k hk).symm
  units c := (h.units c).symm
  links k := (h.links k).symm
  crewRest k := (h.crewRest k).symm
  sched := h.sched.symm
  coh := h.coh.symm
  engine := h.engine.symm
  net := h.net.symm
  bitterns d := (h.bitterns d).symm
  plat := h.plat.symm
  convened := h.convened.symm
  ptpAcc := h.ptpAcc.symm

theorem Same.symm (h : Same a b) : Same b a :=
  ⟨h.toApart.symm, fun l => (h.value l).symm, fun l => (h.mark l).symm, fun k => (h.fibres k).symm⟩

theorem SameQ.symm (h : SameQ a b) : SameQ b a := ⟨fun c q => (h.places c q).symm, h.l1.symm⟩

theorem Alike.refl (s : State) : Alike s s := ⟨Same.refl s, SameQ.refl s⟩

theorem Alike.trans {c : State} (h : Alike a b) (g : Alike b c) : Alike a c := ⟨h.1.trans g.1, h.2.trans g.2⟩

theorem Alike.symm (h : Alike a b) : Alike b a := ⟨h.1.symm, h.2.symm⟩

/-- The same change, up to bookkeeping, of states that are alike. -/
theorem Alike.congr {a' b' : State} (h : Alike a b) (ha : Alike a a') (hb : Alike b b') : Alike a' b' :=
  (ha.symm.trans h).trans hb

/-! ### Registers -/

/-- A register's place exists. -/
def Placed (s : State) : Loc → Prop
  | .frame seg _ => (s.segs.find seg).isSome
  | .shared crew _ => (s.sched.crews.find crew).isSome
  | _ => False

theorem Apart.placed (h : Apart a b) (l : Loc) : Placed b l ↔ Placed a l := by
  cases l with
  | frame seg w => simp only [Placed, h.segs]
  | shared crew i => simp only [Placed, h.crews]
  | _ => exact Iff.rfl

theorem modify_absent {α : Type} (t : Tbl α) (k : Nat) (g : α → α) (h : t.find k = none) : t.modify k g = t := by
  unfold Tbl.modify
  rw [h]

/-- A register that has no place is not written. -/
theorem setCell_unplaced {l : Loc} (c : RegCell) (h : ¬ Placed s l) : s.setCell l c = s := by
  cases l with
  | frame seg w => exact setCell_frame_none seg w c (by simpa [Placed] using h)
  | shared crew i =>
    have none : s.sched.crews.find crew = none := by simpa [Placed] using h
    show { s with sched := { s.sched with crews := s.sched.crews.modify crew _ } } = s
    rw [modify_absent _ _ _ none]
  | _ => rfl

/-- A cell after the write of one. -/
theorem setCell_cell (s : State) (l l' : Loc) (c : RegCell) [Decidable (Placed s l)] :
    (s.setCell l c).cell l' = if l' = l ∧ Placed s l then c else s.cell l' := by
  by_cases h : Placed s l
  · simp only [h, and_true]
    cases l with
    | frame seg w =>
      exact cell_setCell _ _ _ (by rintro x y e; cases e; exact h) (by rintro x y e; cases e) (by rintro x y z e; cases e)
        (by rintro x y e; cases e)
    | shared crew i =>
      exact cell_setCell _ _ _ (by rintro x y e; cases e) (by rintro x y e; cases e; exact h) (by rintro x y z e; cases e)
        (by rintro x y e; cases e)
    | queue _ _ _ => cases h
    | pred _ _ => cases h
  · rw [setCell_unplaced c h, if_neg fun e => h e.2]

/-- Writing a register leaves fibres, gangs, units and leases. -/
theorem setCell_keeps (s : State) (l : Loc) (c : RegCell) : (s.setCell l c).fibres = s.fibres ∧
    (s.setCell l c).gangs = s.gangs ∧ (s.setCell l c).cur = s.cur ∧ SameQ s (s.setCell l c) := by
  unfold State.setCell
  split <;> exact ⟨rfl, rfl, rfl, SameQ.of_cores rfl rfl⟩

theorem alike_setCell (h : Alike a b) (l : Loc) {c d : RegCell} (hv : d.val = c.val) (hm : d.mark = c.mark) :
    Alike (a.setCell l c) (b.setCell l d) := by
  classical
  obtain ⟨fa, -, -, qa⟩ := setCell_keeps a l c
  obtain ⟨fb, -, -, qb⟩ := setCell_keeps b l d
  have cells : ∀ l', ((b.setCell l d).cell l').val = ((a.setCell l c).cell l').val ∧
      ((b.setCell l d).cell l').mark = ((a.setCell l c).cell l').mark := by
    intro l'
    rw [setCell_cell, setCell_cell, h.1.placed]
    split
    · exact ⟨hv, hm⟩
    · exact ⟨h.1.value l', h.1.mark l'⟩
  refine ⟨⟨((apart_setCell l c).symm.trans h.1.toApart).trans (apart_setCell l d), fun l' => (cells l').1,
    fun l' => (cells l').2, fun k => ?_⟩, ⟨fun x q => ?_, ?_⟩⟩
  · rw [fa, fb]
    exact h.1.fibres k
  · exact ((qb.places x q).trans (h.2.places x q)).trans (qa.places x q).symm
  · exact (qb.l1.trans h.2.l1).trans qa.l1.symm

theorem alike_drawBit (s : State) : Alike s s.drawBit.2 := ⟨same_drawBit, SameQ.of_cores rfl rfl⟩

/-- A written register is a set cell, full, after a free choice or none. -/
theorem writeCell_eq (s : State) (l : Loc) (v : Word) :
    ∃ u c, s.writeCell l v = u.setCell l c ∧ Alike s u ∧ u.fibres = s.fibres ∧ u.gangs = s.gangs ∧ u.cur = s.cur ∧
      c.val = v ∧ c.mark = .full := by
  unfold State.writeCell
  dsimp only
  split
  · exact ⟨s.drawBit.2, _, rfl, alike_drawBit s, rfl, rfl, rfl, rfl, rfl⟩
  · exact ⟨s, _, rfl, Alike.refl s, rfl, rfl, rfl, rfl, rfl⟩

theorem alike_writeCell (h : Alike a b) (l : Loc) (v : Word) : Alike (a.writeCell l v) (b.writeCell l v) := by
  obtain ⟨u, c, e, ua, -, -, -, cv, cm⟩ := writeCell_eq a l v
  obtain ⟨w, d, e', wb, -, -, -, dv, dm⟩ := writeCell_eq b l v
  rw [e, e']
  exact alike_setCell (h.congr ua wb) l (dv.trans cv.symm) (dm.trans cm.symm)

theorem writeCell_keeps (s : State) (l : Loc) (v : Word) : (s.writeCell l v).fibres = s.fibres ∧
    (s.writeCell l v).gangs = s.gangs ∧ (s.writeCell l v).cur = s.cur := by
  obtain ⟨u, c, e, -, uf, ug, uc, -, -⟩ := writeCell_eq s l v
  obtain ⟨f, g, cur, -⟩ := setCell_keeps u l c
  rw [e, f, g, cur]
  exact ⟨uf, ug, uc⟩

/-- A written register is full, and another is what it was. -/
theorem writeCell_mark (s : State) (l l' : Loc) (v : Word) (h : (s.cell l').mark = .full ∨ (l' = l ∧ Placed s l)) :
    ((s.writeCell l v).cell l').mark = .full := by
  classical
  obtain ⟨u, c, e, su, -, -, -, -, cm⟩ := writeCell_eq s l v
  rw [e, setCell_cell]
  split
  · exact cm
  · next ne =>
    rcases h with full | at_l
    · exact (su.1.mark l').trans full
    · exact absurd ⟨at_l.1, (su.1.placed l).mpr at_l.2⟩ ne

/-! ### Landings -/

theorem alike_modFibre (h : Alike a b) (k : Nat) (g : Fibre → Fibre)
    (hg : ∀ x y, context y = context x → context (g y) = context (g x)) : Alike (a.modFibre k g) (b.modFibre k g) := by
  have cells : ∀ (u : State) l, (u.modFibre k g).cell l = u.cell l := fun u l => cell_congr (by simp) (by simp) l
  have queues : ∀ u : State, SameQ u (u.modFibre k g) := fun u => sameQ_modFibre k g
  have apart : ∀ u : State, Apart u (u.modFibre k g) := fun u => apart_modFibre k g
  refine ⟨⟨((apart a).symm.trans h.1.toApart).trans (apart b), fun l => ?_, fun l => ?_, fun j => ?_⟩,
    ((queues a).symm.trans h.2).trans (queues b)⟩
  · rw [cells, cells]
    exact h.1.value l
  · rw [cells, cells]
    exact h.1.mark l
  · rw [State.find_modFibre, State.find_modFibre]
    split
    · have e := h.1.fibres k
      match ha : a.fibres.find k, hb : b.fibres.find k with
      | none, none => rfl
      | some x, some y =>
        rw [ha, hb] at e
        exact congrArg some (hg x y (Option.some.inj e))
      | none, some y => simp [ha, hb] at e
      | some x, none => simp [ha, hb] at e
    · exact h.1.fibres j

/-- A queue place takes its word. -/
def fillPlace (q place : Nat) (v : Word) (u : CoreUnit) : CoreUnit :=
  { u with queues := u.queues.modify q fun r =>
      { r with places := r.places.map fun p => if p.place = place then { p with word := some v } else p } }

theorem places_fillPlace (s : State) (core q place : Nat) (v : Word) (c n : Nat) :
    ((s.modUnit core (fillPlace q place v)).queueReg c n).places =
      if c = core ∧ n = q then
        (s.queueReg c n).places.map fun p => if p.place = place then { p with word := some v } else p
      else (s.queueReg c n).places := by
  unfold State.queueReg
  rw [State.unit_modUnit]
  by_cases hc : c = core
  · subst hc
    simp only [if_true, true_and, fillPlace, Tbl.get, Tbl.find_modify]
    by_cases hn : n = q
    · subst hn
      simp only [if_true]
      cases (s.unit c).queues.find n <;> rfl
    · simp only [hn, if_false]
  · simp only [hc, false_and, if_false]

theorem alike_fillPlace (h : Alike a b) (core q place : Nat) (v : Word) :
    Alike (a.modUnit core (fillPlace q place v)) (b.modUnit core (fillPlace q place v)) := by
  have same : ∀ u : State, Same u (u.modUnit core (fillPlace q place v)) := fun u => same_modUnit core _ fun _ => rfl
  refine ⟨((same a).symm.trans h.1).trans (same b), fun c n => ?_, h.2.l1⟩
  rw [places_fillPlace, places_fillPlace, h.2.places]

theorem alike_wake (s : State) (core : Nat) : Alike s (s.wake core) := ⟨same_wake core, sameQ_wake core⟩

theorem alike_recheck (s : State) (core : Nat) : Alike s (s.recheck core) := ⟨same_recheck core, sameQ_recheck core⟩

theorem alike_wakeCrew (s : State) (key : Nat) (crew : Option Nat) : Alike s (s.wakeCrew key crew) :=
  ⟨same_wakeCrew key crew, sameQ_wakeCrew key crew⟩

theorem alike_touch (s : State) (seg : Nat) : Alike s (s.touch seg) := ⟨same_touch seg, SameQ.of_cores rfl rfl⟩

/-- A predicate that a fibre takes. -/
def setPredOf (n : Nat) (v : Bool) (f : Fibre) : Fibre :=
  { f with preds := if v then f.preds ||| (1#8 <<< n) else f.preds &&& ~~~(1#8 <<< n) }

theorem alike_setPred (h : Alike a b) (key n : Nat) (v : Bool) : Alike (a.setPred key n v) (b.setPred key n v) := by
  refine alike_modFibre h key (setPredOf n v) fun x y e => ?_
  have preds : y.preds = x.preds := (congrArg Fibre.preds e :)
  exact (congrArg (fun f => { f with preds := (setPredOf n v y).preds }) e).trans (by rw [setPredOf, preds])

theorem alike_writeLanding (h : Alike a b) (key : Option Nat) (w : Loc × Word) :
    Alike (a.writeLanding key w) (b.writeLanding key w) := by
  obtain ⟨l, v⟩ := w
  cases l with
  | queue core q place => exact (alike_fillPlace h core q place v).congr (alike_wake _ core) (alike_wake _ core)
  | pred j n => exact alike_setPred h j n _
  | frame seg n => exact (alike_writeCell h (.frame seg n) v).congr (alike_touch _ seg) (alike_touch _ seg)
  | shared crew n =>
    have written := alike_writeCell h (.shared crew n) v
    cases key with
    | none => exact written
    | some key => exact written.congr (alike_wakeCrew _ key (some crew)) (alike_wakeCrew _ key (some crew))

theorem alike_landings (h : Alike a b) (l : Tbl Landing) : Alike { a with landings := l } { b with landings := l } := by
  refine ⟨⟨{ h.1.toApart with landings := rfl, units := h.1.units, bitterns := h.1.bitterns },
    fun k => h.1.value k, fun k => h.1.mark k, h.1.fibres⟩, ⟨h.2.places, h.2.l1⟩⟩

theorem alike_writeLandings (ws : List (Loc × Word)) (key : Option Nat) (h : Alike a b) :
    Alike (ws.foldl (State.writeLanding · key) a) (ws.foldl (State.writeLanding · key) b) := by
  induction ws generalizing a b with
  | nil => exact h
  | cons w ws ih => exact ih (alike_writeLanding h key w)

theorem alike_deliverLanding (h : Alike a b) (id : Nat) : Alike (a.deliverLanding id) (b.deliverLanding id) := by
  unfold State.deliverLanding
  rw [h.1.landings]
  split
  · exact h
  · next l _ =>
    exact (alike_writeLandings l.writes (some l.fibre) (alike_landings h _)).congr (alike_recheck _ _) (alike_recheck _ _)

/-- Delivery, in states that are alike. -/
theorem alike_flushLandings (h : Alike a b) (keys : List Nat) : Alike (a.flushLandings keys) (b.flushLandings keys) := by
  unfold State.flushLandings
  rw [h.1.landings]
  generalize (a.landings.select _).map Prod.fst = ids
  induction ids generalizing a b with
  | nil => exact h
  | cons id ids ih => exact ih (alike_deliverLanding h id)

/-! ### The fibre while its results are delivered -/

/-- A fibre but for its predicates. -/
def unpreds (f : Fibre) : Fibre := { f with preds := 0 }

/-- The fibre executes, and is what it was but for its predicates; no full register has become empty. -/
structure Kept (s s' : State) (t : Turn) (f : Fibre) : Prop where
  live : ∃ f', Live s' t f' ∧ unpreds f' = unpreds f
  full : ∀ l, (s.cell l).mark = .full → (s'.cell l).mark = .full
  placed : ∀ l, Placed s' l ↔ Placed s l

theorem Kept.refl (h : Live s t f) : Kept s s t f := ⟨⟨f, h, rfl⟩, fun _ h => h, fun _ => Iff.rfl⟩

/-- Bookkeeping that leaves the fibre and the gangs. -/
theorem Kept.same (h : Kept a b t f) (l : ∀ g, Live b t g → Live s t g) (e : Same b s) : Kept a s t f := by
  obtain ⟨⟨f', live, rest⟩, full, placed⟩ := h
  exact ⟨⟨f', l f' live, rest⟩, fun l hl => (e.mark l).trans (full l hl), fun l => (e.placed l).trans (placed l)⟩

theorem live_recheck (h : Live s t f) (core : Nat) : Live (s.recheck core) t f := by
  obtain ⟨fibre, gangs, cur⟩ := recheck_live core t.key f h.fibre h.issuing
  exact ⟨fibre, h.issuing, by rw [gangs, cur]; exact h.gang⟩

theorem live_wakeCrew (h : Live s t f) (key : Nat) (crew : Option Nat) : Live (s.wakeCrew key crew) t f := by
  obtain ⟨fibres, gangs, cur⟩ := wakeCrew_keeps (s := s) key crew
  exact h.of_parts (by rw [fibres]) gangs cur

/-- The write of a register and its delivery's touch or wake. -/
theorem kept_writeCell (h : Live s t f) (l : Loc) (v : Word) : Kept s (s.writeCell l v) t f := by
  obtain ⟨fibres, gangs, cur⟩ := writeCell_keeps s l v
  obtain ⟨u, c, e, su, -⟩ := writeCell_eq s l v
  refine ⟨⟨f, h.of_parts (by rw [fibres]) gangs cur, rfl⟩, fun l' hl => writeCell_mark s l l' v (Or.inl hl), fun l' => ?_⟩
  rw [e]
  exact ((apart_setCell l c).placed l').trans (su.1.placed l')

theorem kept_writeLanding (h : Live s t f) (key : Option Nat) (w : Loc × Word) : Kept s (s.writeLanding key w) t f := by
  obtain ⟨l, v⟩ := w
  cases l with
  | queue core q place =>
    refine (Kept.refl h).same (fun g hg => ⟨hg.fibre, hg.issuing, hg.gang⟩) ?_
    exact (same_modUnit core (fillPlace q place v) fun _ => rfl).trans (same_wake core)
  | pred j n =>
    have apart : Apart s (s.setPred j n (decide (v ≠ 0))) := apart_modFibre _ _
    refine ⟨?_, fun l hl => (congrArg RegCell.mark (cell_congr (s := s) (by simp [State.writeLanding, State.setPred])
      (by simp [State.writeLanding, State.setPred]) l)).trans hl, apart.placed⟩
    by_cases own : j = t.key
    · subst own
      exact ⟨setPredOf n (decide (v ≠ 0)) f, h.modFibre (setPredOf n (decide (v ≠ 0))) h.issuing, rfl⟩
    · exact ⟨f, h.of_parts ((State.find_modFibre _ _ _ _).trans (if_neg (Ne.symm own))) (by simp [State.writeLanding, State.setPred])
        (by simp [State.writeLanding, State.setPred]), rfl⟩
  | frame seg n => exact (kept_writeCell h _ v).same (fun g hg => ⟨hg.fibre, hg.issuing, hg.gang⟩) (same_touch seg)
  | shared crew n =>
    cases key with
    | none => exact kept_writeCell h _ v
    | some key => exact (kept_writeCell h _ v).same (fun g hg => live_wakeCrew hg key (some crew)) (same_wakeCrew key (some crew))

/-- A delivered register is full. -/
theorem writeLanding_full (key : Option Nat) (l : Loc) (v : Word) (h : Placed s l) :
    ((s.writeLanding key (l, v)).cell l).mark = .full := by
  have written := writeCell_mark s l l v (Or.inr ⟨rfl, h⟩)
  cases l with
  | queue _ _ _ => cases h
  | pred _ _ => cases h
  | frame seg n => exact ((same_touch seg).mark _).trans written
  | shared crew n =>
    cases key with
    | none => exact written
    | some key => exact ((same_wakeCrew key (some crew)).mark _).trans written

/-- Delivered results, and the fibre, once all have been written. -/
theorem kept_writeLandings (ws : List (Loc × Word)) (key : Option Nat) (h : Live s t f) :
    Kept s (ws.foldl (State.writeLanding · key) s) t f ∧
      ∀ l ∈ ws.map Prod.fst, Placed s l → ((ws.foldl (State.writeLanding · key) s).cell l).mark = .full := by
  induction ws generalizing s f with
  | nil => exact ⟨Kept.refl h, fun l hl => absurd hl (by simp)⟩
  | cons w ws ih =>
    obtain ⟨⟨f', live, rest⟩, full, placed⟩ := kept_writeLanding h key w
    obtain ⟨⟨⟨f'', live', rest'⟩, full', placed'⟩, delivered⟩ := ih live
    refine ⟨⟨⟨f'', live', rest'.trans rest⟩, fun l hl => full' l (full l hl), fun l => (placed' l).trans (placed l)⟩, ?_⟩
    intro l hl hp
    by_cases later : l ∈ ws.map Prod.fst
    · exact delivered l later ((placed l).mpr hp)
    · obtain rfl : l = w.1 := by simpa [later] using hl
      exact full' _ (writeLanding_full key w.1 w.2 hp)

/-! ### A fibre whose one landing is on its way -/

/-- Nothing waits for the fibre's safe point but the results of one instruction, and the registers from LIVE on that are
not full are among those results. -/
structure Sent (s : State) (t : Turn) (f : Fibre) (id : Nat) (l : Landing) : Prop where
  kill : f.killOrdered = false
  faults : f.pending = []
  request : f.request = none
  flags : f.trapping = false
  mine : s.landings.select (fun _ l => [t.key].contains l.fibre) = [(id, l)]
  found : s.landings.find id = some l
  placed : (s.segs.find (segKey f.tenant f.fbSeg)).isSome
  window : ∀ c, f.live ≤ c → c < 128 → (s.cell (f.gLoc c)).mark = .full ∨ f.gLoc c ∈ l.writes.map Prod.fst

theorem Sent.same {id : Nat} {l : Landing} (h : Sent s t f id l) (e : Same s s') : Sent s' t f id l := by
  obtain ⟨kill, faults, request, flags, mine, found, placed, window⟩ := h
  exact ⟨kill, faults, request, flags, by rw [e.landings]; exact mine, by rw [e.landings]; exact found,
    by rw [e.segs]; exact placed, fun c lo hi => by rw [e.mark]; exact window c lo hi⟩

theorem Sent.safePoint {id : Nat} {l : Landing} (h : Sent s t f id l) (live : Live s t f) (own : Pc) :
    s.safePoint t.key own = s := by
  unfold State.safePoint
  rw [live.fibre]
  simp [live.issuing, h.kill, h.faults, h.request, h.flags]

/-- Once its results have been delivered nothing from LIVE on awaits a value. -/
theorem Sent.delivered {id : Nat} {l : Landing} (h : Sent s t f id l) (live : Live s t f) :
    ∃ f', Live (s.flushLandings [t.key]) t f' ∧ f'.killOrdered = false ∧
      (s.flushLandings [t.key]).liveFull t.key = s.flushLandings [t.key] := by
  have e : s.flushLandings [t.key] =
      (l.writes.foldl (State.writeLanding · (some l.fibre)) { s with landings := s.landings.del id }).recheck
        (coreOf l.fibre) := by
    simp only [State.flushLandings, h.mine, List.map_cons, List.map_nil, List.foldl_cons, List.foldl_nil,
      State.deliverLanding, h.found]
  obtain ⟨kept, full⟩ := kept_writeLandings (s := { s with landings := s.landings.del id }) l.writes (some l.fibre)
    (live.of_parts rfl rfl rfl)
  replace kept := kept.same (fun g hg => live_recheck hg (coreOf l.fibre)) (same_recheck (coreOf l.fibre))
  replace full : ∀ l' ∈ l.writes.map Prod.fst, Placed s l' → ((s.flushLandings [t.key]).cell l').mark = .full := by
    intro l' hl hp
    rw [e, (same_recheck _).mark]
    exact full l' hl hp
  rw [← e] at kept
  obtain ⟨⟨f', live', rest⟩, marks, -⟩ := kept
  refine ⟨f', live', (congrArg Fibre.killOrdered rest :).trans h.kill, ?_⟩
  have low : f'.live = f.live := (congrArg Fibre.live rest :)
  have place : f'.gLoc = f.gLoc := (congrArg Fibre.gLoc rest :)
  unfold State.liveFull
  rw [live'.fibre]
  have none : (((upto f'.live (128 - f'.live)).map f'.gLoc).filter
      fun l => decide (((s.flushLandings [t.key]).cell l).mark ≠ .full)) = [] := by
    rw [List.filter_eq_nil_iff, low, place]
    intro l' hl
    obtain ⟨c, hc, rfl⟩ := List.mem_map.mp hl
    obtain ⟨lo, hi⟩ := mem_upto _ _ _ hc
    rcases h.window c lo (by omega) with already | sent
    · simp [marks _ ((congrArg RegCell.mark (cell_congr (s := s) rfl rfl _)).trans already)]
    · simp [full _ sent h.placed]
  simp only [none, List.isEmpty_nil, if_true]

/-- Filing the gang of a fibre whose kill has not been ordered is bookkeeping. -/
theorem fileGang_alike {g : Gang} {gid : Nat} (e : (s.fibres.find t.key).map context = some (context f))
    (kill : f.killOrdered = false) (whole : Bool) : Alike s ([t.key].foldl State.maskedKill (s.fileGang gid g whole)) := by
  have filed := same_fileGang (s := s) gid g whole
  rw [List.foldl_cons, List.foldl_nil, maskedKill_same t.key ((filed.fibres _).trans e) kill]
  exact ⟨filed, sameQ_fileGang gid g whole⟩

/-- Settling the one lane of a gang whose results are on their way delivers them at a safe point (R43), and is bookkeeping
beside. -/
theorem settle_sent {id : Nat} {l : Landing} (h : Live s t f) (hm : t.gang.members = [(t.lane, t.index)])
    (sent : Sent s t f id l) (rb : Nat) (safe back : Bool) :
    Alike (if safe = true then s.flushLandings [t.key] else s) (s.settleGang s.cur rb safe back) := by
  obtain ⟨g, hg, hgm, hgc⟩ := h.gang
  have keys : g.members.map (fun m => fibreKey g.core m.2) = [t.key] := by
    rw [hgm, hm, hgc]
    rfl
  have counted : ∀ (u : State) b, Alike u (u.countSpin g b) := fun u b => same_countSpin g b
  have left : ∀ u : State, Alike u (u.leaveTwin t.key) := fun u => ⟨same_leaveTwin _, sameQ_modFibre _ _⟩
  have changed : ∀ u : State, Alike u (u.changeOver t.key) := fun u => ⟨same_changeOver _, sameQ_modFibre _ _⟩
  unfold State.settleGang
  rw [hg]
  dsimp only
  rw [keys]
  cases safe with
  | false =>
    rw [if_neg Bool.false_ne_true]
    split
    · exact ((counted s false).trans (left _)).trans ⟨same_modGang _ _, SameQ.of_cores (s := State.leaveTwin _ _) rfl rfl⟩
    · simp only [Bool.false_eq_true, if_false, Bool.false_and, List.foldl_cons, List.foldl_nil]
      have before := fun b => (counted s b).trans (left _)
      refine (before _).trans (fileGang_alike (f := f) ?_ sent.kill _)
      rw [(before _).1.fibres, h.fibre]
      rfl
  | true =>
    obtain ⟨f', live', kill', full⟩ := sent.delivered h
    rw [if_pos rfl]
    split
    · next e => simp at e
    · simp only [if_true, Bool.true_and, List.foldl_cons, List.foldl_nil]
      split
      · exact ⟨same_modGang _ _, SameQ.of_cores rfl rfl⟩
      · rw [full]
        have before := fun b => (counted (s.flushLandings [t.key]) b).trans (changed _)
        refine (before _).trans (fileGang_alike (f := f') ?_ kill' _)
        rw [(before _).1.fibres, live'.fibre]
        rfl

/-- After the one lane of an instruction whose results are on their way. -/
theorem afterLanes_sent {id : Nat} {l : Landing} (h : Live s t f) (hm : t.gang.members = [(t.lane, t.index)])
    (sent : t.runsOn i ∨ Sent s t f id l) (plain : endsSafe i = false) (rs : List ReadLane) :
    Alike (if 2 ≤ t.form.hdr.rb.toNat then s.flushLandings [t.key] else s) (s.afterLanes i t.form t.gang rs false) := by
  by_cases runs : t.runsOn i
  · rw [if_neg (by rw [runs.1]; decide)]
    exact afterLanes_same h hm (Or.inl runs) rs false
  replace sent := sent.resolve_left runs
  have ends : (decide (t.form.hdr.rb.toNat ≠ 0) || endsRun i || decide (24 ≤ t.gang.runLen + 1)) = true := by
    by_contra no
    refine runs ⟨BitVec.eq_of_toNat_eq ?_, ?_, ?_⟩ <;> simp at no
    · exact no.1.1
    · exact no.1.2
    · omega
  unfold State.afterLanes
  dsimp only
  generalize hgen : (fun g : Gang => _ : Gang → Gang) = g
  have hg : ∀ x, (g x).members = x.members ∧ (g x).core = x.core := by
    intro x
    rw [← hgen]
    exact ⟨rfl, rfl⟩
  clear hgen
  obtain ⟨h₀, cur₀, seen⟩ := popsSeen_live h t.gang.core rs
  rw [← cur₀, ends]
  generalize s.popsSeen t.gang.core rs = s₀ at h₀ seen ⊢
  have live := live_modGang h₀ s₀.cur g hg
  have live₂ : Live ((s₀.modGang s₀.cur g).chargeEnd t.gang (t.gang.runLen + 1)) t f ∧
      ((s₀.modGang s₀.cur g).chargeEnd t.gang (t.gang.runLen + 1)).cur = s₀.cur := by
    unfold State.chargeEnd
    split
    · exact ⟨live, rfl⟩
    · exact ⟨⟨live.fibre, live.issuing, live.gang⟩, rfl⟩
  have alike₂ : Alike s ((s₀.modGang s₀.cur g).chargeEnd t.gang (t.gang.runLen + 1)) :=
    ⟨(seen.1.trans (same_modGang _ _)).trans (same_chargeEnd _ _),
      (seen.2.trans (SameQ.of_cores (s' := s₀.modGang s₀.cur g) rfl rfl)).trans (sameQ_chargeEnd _ _)⟩
  obtain ⟨live₂, cur₂⟩ := live₂
  generalize (s₀.modGang s₀.cur g).chargeEnd t.gang (t.gang.runLen + 1) = s₂ at live₂ alike₂ cur₂ ⊢
  rw [← cur₂]
  have sent₂ := sent.same alike₂.1
  have point : t.gang.members.foldl (fun s m => s.safePoint (fibreKey t.gang.core m.2)
      (ownOf rs (fibreKey t.gang.core m.2))) s₂ = s₂ := by
    rw [hm]
    exact sent₂.safePoint live₂ _
  have there : (s₂.gangs.find s₂.cur).isNone = false := by
    obtain ⟨g, e, -⟩ := live₂.gang
    rw [e]
    rfl
  simp only [point, ite_self, plain, Bool.or_false, Bool.not_true, Bool.false_eq_true, if_false, there]
  have settled := settle_sent live₂ hm sent₂ t.form.hdr.rb.toNat (decide (2 ≤ t.form.hdr.rb.toNat)) false
  simp only [decide_eq_true_eq] at settled
  refine Alike.trans ?_ settled
  split
  · exact alike_flushLandings alike₂ _
  · exact alike₂

/-! ### Reserving destinations -/

/-- The fibre executes, and the registers that have become empty are among some locations, no more than there are codes. -/
structure Reserved (s s' : State) (t : Turn) (f : Fibre) (codes : List Nat) (locs : List Loc) : Prop where
  live : Live s' t f
  landings : s'.landings = s.landings
  placed : ∀ l, Placed s' l ↔ Placed s l
  short : locs.length ≤ codes.length
  marks : ∀ l, (s.cell l).mark = .full → (s'.cell l).mark = .full ∨ l ∈ locs

theorem Reserved.same (live : Live s' t f) (e : Same s s') {codes : List Nat} {locs : List Loc}
    (short : locs.length ≤ codes.length) : Reserved s s' t f codes locs :=
  ⟨live, e.landings, e.placed, short, fun l hl => Or.inl ((e.mark l).trans hl)⟩

theorem Reserved.trans {codes codes' : List Nat} {locs locs' : List Loc} (h : Reserved s a t f codes locs)
    (g : Reserved a b t f codes' locs') : Reserved s b t f (codes ++ codes') (locs ++ locs') where
  live := g.live
  landings := g.landings.trans h.landings
  placed l := (g.placed l).trans (h.placed l)
  short := by
    have := h.short
    have := g.short
    simp only [List.length_append]
    omega
  marks l hl := by
    rcases h.marks l hl with full | new
    · exact (g.marks l full).imp id fun m => List.mem_append_right locs m
    · exact Or.inr (List.mem_append_left locs' new)

theorem pushQueue_reserved (h : Live s t f) (core tenant q : Nat) :
    Live (s.pushQueue core tenant q none false) t f ∧ Same s (s.pushQueue core tenant q none false) := by
  unfold State.pushQueue
  dsimp only
  generalize hg : (fun u : CoreUnit => _ : CoreUnit → CoreUnit) = g
  have bare : ∀ u, bareUnit (g u) = bareUnit u := by
    intro u
    rw [← hg]
    rfl
  have live : Live ((s.fresh.2.modUnit core g).wake core) t f := ⟨h.fibre, h.issuing, h.gang⟩
  exact ⟨live_recheck live core, ((same_fresh.trans (same_modUnit core g bare)).trans (same_wake core)).trans (same_recheck core)⟩

theorem reserve_reserved (h : Live s t f) (x : LaneIn) (code : Nat) :
    Reserved s (s.reserve x code).2 t f [code] (s.reserve x code).1.toList := by
  unfold State.reserve
  split
  · obtain ⟨live, same⟩ := pushQueue_reserved h (coreOf x.key) x.f.tenant (code - 0xC0)
    exact Reserved.same live same (by simp)
  · split
    · next l _ =>
      classical
      obtain ⟨fibres, gangs, cur, -⟩ := setCell_keeps s l { s.cell l with mark := .empty }
      have apart := apart_setCell (s := s) l { s.cell l with mark := .empty }
      refine ⟨h.of_parts (by rw [State.markCell, fibres]) gangs cur, apart.landings, apart.placed, by simp, fun l' full => ?_⟩
      by_cases e : l' = l
      · exact Or.inr (by simp [e])
      · refine Or.inl ?_
        rw [State.markCell, setCell_cell, if_neg fun c => e c.1]
        exact full
    · split <;> exact Reserved.same h (Same.refl s) (by simp)

theorem reserveAll_reserved (x : LaneIn) (codes : List Nat) (h : Live s t f) :
    Reserved s (s.reserveAll x codes).2 t f codes (s.reserveAll x codes).1 := by
  induction codes generalizing s with
  | nil => exact Reserved.same h (Same.refl s) (by simp [State.reserveAll])
  | cons c codes ih =>
    obtain ⟨live, same, -⟩ := noteWrite_live h x c
    have noted : Reserved s (s.noteWrite x c) t f [] [] := Reserved.same live same (by simp)
    have one := noted.trans (reserve_reserved live x c)
    have all := one.trans (ih one.live)
    have locs : (s.reserveAll x (c :: codes)).1 = ((s.noteWrite x c).reserve x c).1.toList ++
        (((s.noteWrite x c).reserve x c).2.reserveAll x codes).1 := by
      simp only [State.reserveAll]
      cases ((s.noteWrite x c).reserve x c).1 <;> rfl
    rw [locs]
    exact all

/-! ### The law of results that come later -/

/-- The landings of a fibre that has had none, once it has one. -/
theorem select_put {α : Type} (l : Tbl α) (k : Nat) (v : α) (p : α → Bool) (none : ∀ q ∈ l, p q.2 = false) (hv : p v = true) :
    (l.put k v).select (fun _ => p) = [(k, v)] := by
  induction l with
  | nil => simp [Tbl.put, Tbl.select, hv]
  | cons q l ih =>
    obtain ⟨j, w⟩ := q
    have rest : l.filter (fun q => p q.2) = [] := List.filter_eq_nil_iff.mpr fun q hq => by
      simp [none q (List.mem_cons_of_mem _ hq)]
    have head : p w = false := none (j, w) List.mem_cons_self
    unfold Tbl.put Tbl.select
    split
    · simp [hv, head, rest]
    · split
      · simp [hv, rest]
      · rw [List.filter_cons, if_neg (by simp [head])]
        exact ih fun q hq => none q (List.mem_cons_of_mem _ hq)

theorem withFlags_same (f : Fibre) : withFlags f.fsr f.flags = f.fsr := by
  have mask : ∀ n < 64, (0x3F#64).getLsbD n = decide (n < 6) := by decide
  unfold Fibre.flags withFlags
  ext n hn
  rw [BitVec.getElem_or, BitVec.getElem_and, BitVec.getElem_not, ← BitVec.getLsbD_eq_getElem (x := 0x3F#64), mask n hn]
  by_cases low : n < 6 <;> simp [low, BitVec.getLsbD_eq_getElem hn]

/-- Where no flag is raised the fibre moves on, and nothing else of it changes. -/
theorem raise_zero (f : Fibre) (pc : DWord) : f.raise 0 pc = f := by
  unfold Fibre.raise
  simp [withFlags_same]

/-- What is on its way to a fibre for which nothing was, once its results have been sent. -/
theorem writeLong_sent {u : State} {x : LaneIn} (key : x.key = t.key) (o : List (Nat × Word)) (live : Live u t f)
    (q : Quiet u t f) (placed : (u.segs.find (segKey f.tenant f.fbSeg)).isSome) :
    ∃ id l, Sent (u.writeLong x o) t f id l := by
  obtain ⟨-, landings, places, short, marks⟩ := reserveAll_reserved x (o.map Prod.fst) live
  let r := u.reserveAll x (o.map Prod.fst)
  let l : Landing := { fibre := x.key, writes := r.1.zip (o.map Prod.snd) }
  have put : (u.writeLong x o).landings = u.landings.put r.2.nextId l := by
    rw [← landings]
    rfl
  refine ⟨r.2.nextId, l, q.kill, q.faults, q.request, q.flags, ?_, ?_, (places (.frame _ 0)).mpr placed, fun c lo hi => ?_⟩
  · rw [put]
    exact select_put u.landings r.2.nextId l (fun l => [t.key].contains l.fibre) (fun p hp => by simp [q.landings p hp])
      (by simp [l, key])
  · rw [put]
    exact Tbl.find_put_same _ _ _
  · have writes : l.writes.map Prod.fst = r.1 := List.map_fst_zip (by simpa using short)
    rw [writes]
    exact marks _ (q.window c lo hi)

theorem writeLong_live {u : State} (x : LaneIn) (o : List (Nat × Word)) (live : Live u t f) : Live (u.writeLong x o) t f :=
  (reserveAll_reserved x (o.map Prod.fst) live).live.of_parts rfl rfl rfl

/-- The law of results that come later (R168, R171): an instruction whose meaning is a lane's results in a state made from
the one whose operands have been read. -/
theorem sends {u : State} {o : List (Nat × Word)} (h : Goes s i t) (free : Free s i t (o.map Prod.fst))
    (plain : endsSafe i = false) (live : Live u t t.fibre) (quiet : Calm s t 0 → Quiet u t t.fibre)
    (placed : (u.segs.find (segKey t.fibre.tenant t.fibre.fbSeg)).isSome)
    (he : exec i s = .next (t.after s i (.outsIn u o))) : Sends s i t (u.writeLong (t.x s i) o) (t.next s i) := by
  have after : t.after s i (.outsIn u o) =
      ((u.writeLong (t.x s i) o).modFibre t.key fun f => { f with pc := t.next s i }).afterLanes i t.form t.gang
        [t.line s i] false := by
    have fin : Lanes.finish (t.charged s) (t.x s i) (t.reading s i).2.1 (.outsIn u o) (t.start s i) =
        Lanes.commit { t.start s i with s := u } (t.x s i) true o 0 none := by
      unfold Lanes.finish
      dsimp only
      rw [stopAt_none h.ready free]
    have moves : (fun f : Fibre => ({ f with pc := t.next s i, fsr := f.fsr } : Fibre).raise 0 (t.own s).pointer) =
        fun f => { f with pc := t.next s i } := funext fun f => raise_zero _ _
    unfold Turn.after
    rw [fin, ← moves]
    rfl
  refine ⟨_, he, ?_⟩
  rw [after]
  have written := writeLong_live (t.x s i) o live
  have sent : t.runsOn i ∨ ∃ id l, Sent (u.writeLong (t.x s i) o) t t.fibre id l :=
    h.calm.imp id fun c => writeLong_sent rfl o live (quiet c) placed
  generalize u.writeLong (t.x s i) o = w at written sent
  have live' := written.modFibre (fun f => { f with pc := t.next s i }) written.issuing
  have sent' : ∃ id l, t.runsOn i ∨
      Sent (w.modFibre t.key fun f => { f with pc := t.next s i }) t { t.fibre with pc := t.next s i } id l := by
    rcases sent with runs | ⟨id, l, e⟩
    · exact ⟨0, { fibre := 0, writes := [] }, Or.inl runs⟩
    · refine ⟨id, l, Or.inr ⟨e.kill, e.faults, e.request, e.flags, by simpa using e.mine, by simpa using e.found,
        by simpa using e.placed, fun c lo hi => ?_⟩⟩
      rw [cell_congr (s := w) (by simp) (by simp)]
      exact e.window c lo hi
  obtain ⟨id, l, sent'⟩ := sent'
  exact afterLanes_sent live' h.ready.alone sent' plain _

end Sys2Proof.Safety

/-! ## Loads (R20, R22, R88, R250, R251, R253) -/

namespace Sys2Proof.Safety
open Sys2Proof.Machine

variable {s s' a b : State} {i : Instr} {t : Turn}

/-! ### The walk of the tables -/

theorem Same.mgmt_at (h : Same a b) (off : Nat) : b.mgmt off = a.mgmt off := by
  unfold State.mgmt
  rw [h.mgmt]

theorem Same.mgmtF_at (h : Same a b) (off hi lo : Nat) : b.mgmtF off hi lo = a.mgmtF off hi lo := by
  unfold State.mgmtF
  rw [h.mgmt_at]

theorem Same.home (h : Same a b) (line : Nat) : b.home line = a.home line := by
  have homes : b.coh.homes = a.coh.homes := (congrArg Coherence.homes h.coh :)
  unfold State.home
  rw [homes]

theorem Same.targetOk (h : Same a b) (vf cls pa : Nat) (write : Bool) : b.targetOk vf cls pa write = a.targetOk vf cls pa write := by
  have windows : b.windowGrants = a.windowGrants := by
    funext vf cls page write w
    simp only [State.windowGrants, h.mgmt_at]
  have partition : b.partitionOf vf = a.partitionOf vf := by
    simp only [State.partitionOf, h.mgmtF_at]
  have tdisp : b.tdisp vf = a.tdisp vf := by
    simp only [State.tdisp, h.plat]
  simp only [State.targetOk, State.groupOk, windows, partition, tdisp, h.mgmtF_at]

/-- An entry of a table whose line no release stands on is read from memory alone. -/
theorem Same.tableValue (h : Same a b) {pa : Nat} (free : (a.home (lineOf pa)).releaseStands = false) (n : Nat) :
    b.tableValue pa n = a.tableValue pa n := by
  have bytes : b.homeByteNow = a.homeByteNow := by
    funext pa
    simp only [State.homeByteNow, h.home, h.store]
  unfold State.tableValue
  simp only [h.home, free, bytes, State.homeValue, h.store, Bool.false_eq_true, false_and, if_false]

/-- The lines that a walk reads, where no release stands on any. -/
theorem Same.walkLines (h : Same a b) (vf va left : Nat) :
    ∀ table, (∀ line ∈ a.walkLines vf va table left, (a.home line).releaseStands = false) →
      b.walkLines vf va table left = a.walkLines vf va table left := by
  have ok : b.tableOk vf = a.tableOk vf := by
    funext pa
    simp only [State.tableOk, h.targetOk]
  induction left with
  | zero => exact fun _ _ => rfl
  | succ left ih =>
    intro table free
    unfold State.walkLines at free ⊢
    rw [ok]
    split
    · next good =>
      rw [if_pos good] at free
      dsimp only at free ⊢
      rw [h.tableValue (free _ List.mem_cons_self)]
      congr 1
      split
      · rfl
      · next on =>
        exact ih _ fun line hl => free line (List.mem_cons_of_mem _ (by rw [if_neg on]; exact hl))
    · rfl

/-- A walk, where no release stands on any line that it reads. -/
theorem Same.walk (h : Same a b) (vf va left : Nat) :
    ∀ table r w, (∀ line ∈ a.walkLines vf va table left, (a.home line).releaseStands = false) →
      b.walk vf va table r w left = a.walk vf va table r w left := by
  have ok : b.tableOk vf = a.tableOk vf := by
    funext pa
    simp only [State.tableOk, h.targetOk]
  induction left with
  | zero => exact fun _ _ _ _ => rfl
  | succ left ih =>
    intro table r w free
    unfold State.walkLines at free
    unfold State.walk
    rw [ok]
    split
    · next good =>
      rw [if_pos good] at free
      dsimp only at free ⊢
      rw [h.tableValue (free _ List.mem_cons_self)]
      split
      · rfl
      · next valid =>
        split
        · rfl
        · next table' =>
          split
          · refine ih _ _ _ fun line hl => free line (List.mem_cons_of_mem _ ?_)
            rw [if_neg]
            · exact hl
            · rintro (zero | leaf)
              · exact valid (Or.inl zero)
              · exact table' (Or.inr leaf)
          · rfl
    · rfl

theorem not_tableHeld {vf va : Nat} (h : a.tableHeld vf va = none) (low : ¬ 2 ^ 48 ≤ va)
    (valid : ¬ bits (a.mgmt (0x8000 + 0x10 * vf)) 0 0 = 0) :
    ∀ line ∈ a.walkLines vf va (bits (a.mgmt (0x8000 + 0x10 * vf)) 51 12 * 4096) 4, (a.home line).releaseStands = false := by
  unfold State.tableHeld at h
  rw [if_neg (by rintro (x | x); exacts [low x, valid x])] at h
  intro line hl
  simpa using List.find?_eq_none.mp h line hl

theorem Same.tableHeld (h : Same a b) {vf va : Nat} (free : a.tableHeld vf va = none) : b.tableHeld vf va = none := by
  unfold State.tableHeld
  dsimp only
  split
  · rfl
  · next walks =>
    rw [h.mgmt_at] at walks ⊢
    rw [not_or] at walks
    have lines := not_tableHeld free walks.1 walks.2
    rw [h.walkLines vf va 4 _ lines]
    exact List.find?_eq_none.mpr fun line hl => by simp [h.home, lines line hl]

/-- A translation whose walk finds no release on a table. -/
theorem Same.translate (h : Same a b) {vf va : Nat} (free : a.tableHeld vf va = none) (cls : Nat) (write : Bool) :
    b.translate vf cls va write = a.translate vf cls va write := by
  have walk : b.translateWalk vf va write = a.translateWalk vf va write := by
    unfold State.translateWalk
    rw [h.mgmt_at]
    split
    · rfl
    · next low =>
      dsimp only
      split
      · rfl
      · next valid =>
        have lines := not_tableHeld free low valid
        have poisoned : b.isPoisoned = a.isPoisoned := by
          funext line
          simp only [State.isPoisoned, h.store]
        have port : b.portInactive = a.portInactive := by
          have active : b.activePort = a.activePort := by
            unfold State.activePort
            rw [h.mgmtF_at]
          funext pa
          simp only [State.portInactive, active]
        rw [h.walkLines vf va 4 _ lines, h.walk vf va 4 _ _ _ lines, poisoned, port]
  have arrives : b.arrives = a.arrives := by
    funext vf cls pa write
    simp only [State.arrives, h.targetOk]
  unfold State.translate
  rw [walk, arrives]

theorem Same.atomicOn (h : Same a b) {vf va : Nat} (free : a.tableHeld vf va = none) (key : Nat) :
    b.atomicOn key vf va = a.atomicOn key vf va := by
  unfold State.atomicOn
  rw [h.translate free, h.ops]

/-! ### What reading leaves -/

/-- A state that differs in caches, homes, events and free choices alone. -/
def Read (s u : State) : Prop := ∃ c b n, u = { s with coh := c, bitterns := b, free := n }

theorem Read.refl (s : State) : Read s s := ⟨s.coh, s.bitterns, s.free, rfl⟩

theorem Read.trans {u w : State} (h : Read s u) (g : Read u w) : Read s w := by
  obtain ⟨c, b, n, rfl⟩ := h
  obtain ⟨c', b', n', rfl⟩ := g
  exact ⟨c', b', n', rfl⟩

theorem read_raise (s : State) (die type tenant src v0 v1 : Nat) : Read s (s.raise die type tenant src v0 v1) := ⟨_, _, _, rfl⟩

theorem read_grant (s : State) (line e : Nat) : Read s (s.grant line e) := ⟨_, _, _, rfl⟩

theorem read_fillL2 (s : State) (die vf line : Nat) : Read s (s.fillL2 die vf line).1 := by
  unfold State.fillL2
  dsimp only
  split
  · exact ((read_raise _ _ _ _ _ _ _).trans (read_grant _ _ _)).trans ⟨_, _, _, rfl⟩
  · exact read_raise _ _ _ _ _ _ _

theorem read_readL2 (s : State) (die vf line : Nat) : Read s (s.readL2 die vf line).1 := by
  unfold State.readL2
  split
  · split
    · exact Read.refl s
    · exact read_fillL2 s die vf line
  · exact read_fillL2 s die vf line

theorem read_readFill (s : State) (core vf line : Nat) (kind : ObjState) (owner : Nat) :
    Read s (s.readFill core vf line kind owner).1 := by
  unfold State.readFill
  cases kind <;> dsimp only
  case priv => exact Read.refl s
  case shared =>
    split
    · split
      · exact read_grant s _ _
      · exact Read.refl s
    · exact read_readL2 s _ _ _
  all_goals
    split
    · exact Read.refl s
    · exact read_readL2 s _ _ _

theorem read_viewLine (s : State) (core vf va line : Nat) (kind : ObjState) (owner : Nat) :
    Read s (s.viewLine core vf va line kind owner).1 := by
  unfold State.viewLine
  dsimp only
  split
  · exact Read.refl s
  · have filled := (read_raise s (dieOfCore core) 0x0001 vf core (va / 64) 0).trans
      (read_readFill (s.raiseCore core 0x0001 vf (va / 64) 0) core vf line kind owner)
    split
    · exact filled.trans ⟨_, _, _, rfl⟩
    · exact filled

theorem read_loadGlobal {core vf va n : Nat} {r : State × List Byte} (h : s.loadGlobal core vf va n = .ok r) : Read s r.1 := by
  unfold State.loadGlobal at h
  split at h
  case h_4 pa _ =>
    split at h
    · cases h
    · split at h
      · cases h
      · split at h
        · cases h
          exact Read.refl s
        · cases h
          exact read_viewLine s core vf va (lineOf pa) _ _
  all_goals cases h

theorem read_readCell (s : State) (l : Loc) : Read s (s.readCell l).2 := by
  unfold State.readCell
  dsimp only
  split
  · exact ⟨_, _, _, rfl⟩
  · exact Read.refl s

/-- Read a frame word behind the bytes of the words before it. -/
def readWord (r : State × List Byte) (l : Loc) : State × List Byte :=
  ((r.1.readCell l).2, r.2 ++ toBytes (r.1.readCell l).1.toNat 4)

theorem frameBytes_eq (s : State) (f : Fibre) (a n : Nat) :
    s.frameBytes f a n = (((f.frameLocs a n).foldl readWord (s, [])).1,
      ((((f.frameLocs a n).foldl readWord (s, [])).2).drop (a % 4)).take n) := rfl

theorem read_words (ls : List Loc) (r : State × List Byte) : Read r.1 (ls.foldl readWord r).1 := by
  induction ls generalizing r with
  | nil => exact Read.refl _
  | cons l ls ih => exact (read_readCell r.1 l).trans (ih (readWord r l))

/-- Words without a last use give their values, and their reading changes nothing. -/
theorem readWords_settled (ls : List Loc) (s : State) (before : List Byte) (h : ∀ l ∈ ls, (s.cell l).lastUsed = false) :
    ls.foldl readWord (s, before) = (s, before ++ ls.flatMap fun l => toBytes (s.cell l).val.toNat 4) := by
  induction ls generalizing before with
  | nil => simp
  | cons l ls ih =>
    have one : readWord (s, before) l = (s, before ++ toBytes (s.cell l).val.toNat 4) := by
      simp [readWord, State.readCell, h l List.mem_cons_self]
    rw [List.foldl_cons, one, ih _ fun l' hl => h l' (List.mem_cons_of_mem _ hl), List.flatMap_cons, List.append_assoc]

/-! ### Loads -/

theorem outPair_codes (code : BitVec 8) (wide : Bool) (v : DWord) :
    (outPair code.toNat wide v).map Prod.fst = outCodes code wide := by
  unfold outPair outCodes
  cases wide <;> rfl

/-- An aligned load that nothing holds back takes the bytes that its space gives. -/
theorem load_ok {x : LaneIn} {u u' : State} {reg : BitVec 8} {space size : Nat} {signed : Bool} {bytes : List Byte}
    (aligned : memAddr space x.b x.c % 2 ^ size = 0)
    (clear : space = 0 → x.f.overlapsStore (memAddr space x.b x.c) (2 ^ size) = false)
    (order : x.orderM0 u space = none)
    (tables : space = 0 → u.tableHeld x.f.tenant (memAddr space x.b x.c) = none)
    (atoms : space = 0 → u.atomicOn x.key x.f.tenant (memAddr space x.b x.c) = none)
    (ok : u.loadSpace x.key x.f space (memAddr space x.b x.c) (2 ^ size) = .ok (u', bytes)) :
    x.load u reg space size signed =
      .outsIn u' (outPair reg.toNat (decide (size = 3)) (extendLoad (ofBytes bytes) size signed)) := by
  unfold LaneIn.load
  dsimp only
  rw [if_neg (by simp [aligned]), order, Option.none_or]
  by_cases global : space = 0
  · rw [if_neg fun e => by simp [clear global] at e, if_pos global, if_pos global, LaneIn.awaitTables, List.findSome?_cons,
      tables global, atoms global, List.findSome?_nil]
    simp only [Option.map_none, ok]
  · rw [if_neg fun e => global e.1, if_neg global, if_neg global]
    simp only [ok]

/-- An aligned load of GLOBAL memory that does not translate is deferred (R88). -/
theorem load_fault {x : LaneIn} {u : State} {reg : BitVec 8} {size : Nat} {signed : Bool}
    (aligned : memAddr 0 x.b x.c % 2 ^ size = 0) (clear : x.f.overlapsStore (memAddr 0 x.b x.c) (2 ^ size) = false)
    (order : x.orderM0 u 0 = none) (tables : u.tableHeld x.f.tenant (memAddr 0 x.b x.c) = none)
    (fault : u.translate x.f.tenant 0 (memAddr 0 x.b x.c) false = .fault) (room : x.f.pending.length < 4) :
    x.load u reg 0 size signed = .checked (outCodes reg (decide (size = 3))) (.next (x.deferLoad u
      { addr := memAddr 0 x.b x.c, data := 0, pcOff := x.own.off, kind := if signed then 2 else 0, size := size,
        reg := reg.toNat, m0 := u.inM0 x.key x.f } (outCodes reg (decide (size = 3))))) := by
  unfold LaneIn.load
  dsimp only
  have atoms : u.atomicOn x.key x.f.tenant (memAddr 0 x.b x.c) = none := by simp only [State.atomicOn, fault]
  have load : u.loadSpace x.key x.f 0 (memAddr 0 x.b x.c) (2 ^ size) = .error .fault := by
    simp only [State.loadSpace, State.loadGlobal, fault]
  rw [if_neg (by simp [aligned]), if_neg fun e => by simp [clear] at e, order, if_pos rfl, if_pos rfl, atoms]
  simp only [LaneIn.awaitTables, List.findSome?_cons, tables, List.findSome?_nil, Option.map_none, Option.or_none, load]
  rw [if_neg (by omega)]

/-- A load takes its bytes in a state that its reading leaves. -/
theorem loads_land {u : State} {o : List (Nat × Word)} (h : Goes s i t) (free : Free s i t (o.map Prod.fst))
    (plain : endsSafe i = false) (e : Read (t.read s i) u) (he : exec i s = .next (t.after s i (.outsIn u o))) :
    Sends s i t (u.writeLong (t.x s i) o) (t.next s i) := by
  obtain ⟨c, b, n, rfl⟩ := e
  refine sends h free plain ((read_live h.ready).of_parts rfl rfl rfl) (fun calm => ?_) ?_ he
  · have q := read_quiet (i := i) calm
    exact q.congr rfl rfl rfl rfl rfl fun k lo hi => (congrArg RegCell.mark (cell_congr rfl rfl _)).trans (q.window k lo hi)
  · exact ((same_read s i t).segs _).trans free.frame

/-- A fibre that one more access waits for (R88). -/
def deferOn (d : Deferred) (f : Fibre) : Fibre := { f with pending := f.pending ++ [d] }

theorem noteWrites_live {f : Fibre} (x : LaneIn) (codes : List Nat) (h : Live s t f) :
    Live (codes.foldl (fun s c => s.noteWrite x c) s) t f ∧ Alike s (codes.foldl (fun s c => s.noteWrite x c) s) := by
  induction codes generalizing s with
  | nil => exact ⟨h, Alike.refl s⟩
  | cons c codes ih =>
    obtain ⟨live, same, queues⟩ := noteWrite_live h x c
    obtain ⟨live', alike⟩ := ih live
    exact ⟨live', Alike.trans ⟨same, queues⟩ alike⟩

theorem alike_poison (h : Alike a b) (key : Nat) (f : Fibre) (reg : Nat) (wide : Bool) :
    Alike (a.poison key f reg wide) (b.poison key f reg wide) := by
  unfold State.poison
  induction f.regLocs reg wide generalizing a b with
  | nil => exact h
  | cons l ls ih => exact ih (alike_setCell h l (h.1.value l) rfl)

theorem poison_live {f : Fibre} (h : Live s t f) (key : Nat) (g : Fibre) (reg : Nat) (wide : Bool) :
    Live (s.poison key g reg wide) t f := by
  unfold State.poison
  induction g.regLocs reg wide generalizing s with
  | nil => exact h
  | cons l ls ih =>
    obtain ⟨fibres, gangs, cur, -⟩ := setCell_keeps s l { s.cell l with mark := .poisoned key }
    exact ih (h.of_parts (congrArg (Tbl.find · t.key) fibres) gangs cur)

/-- A deferred load poisons its registers and joins the pending accesses of its fibre (R88). -/
theorem deferLoad_alike {f : Fibre} (h : Live s t f) {x : LaneIn} (key : x.key = t.key) (d : Deferred) (codes : List Nat) :
    Alike ((s.poison t.key x.f d.reg (decide (d.size = 3))).modFibre t.key
      (deferOn { d with locs := x.f.regLocs d.reg (decide (d.size = 3)) })) (x.deferLoad s d codes) ∧
      ∃ f', Live (x.deferLoad s d codes) t f' := by
  obtain ⟨live, alike⟩ := noteWrites_live x codes h
  have moved := (poison_live live t.key x.f d.reg (decide (d.size = 3))).modFibre
    (deferOn { d with locs := x.f.regLocs d.reg (decide (d.size = 3)) }) live.issuing
  unfold LaneIn.deferLoad
  rw [key]
  refine ⟨alike_modFibre (alike_poison alike _ _ _ _) t.key _ fun a b e => ?_, _, moved⟩
  show context (deferOn _ (context b)) = context (deferOn _ (context a))
  rw [e]

/-- Where its run goes on, an instruction whose lane changes the state once its destinations have been found free does what
any state like it says. -/
theorem does_checked {u w : State} {codes : List Nat} {f : Fibre} (h : Ready s i t) (runs : t.runsOn i)
    (free : Free s i t codes) (live : Live u t f) (alike : Alike w u)
    (he : exec i s = .next (t.after s i (.checked codes (.next u)))) : Does s i t w (t.next s i) := by
  have after : t.after s i (.checked codes (.next u)) =
      (u.modFibre t.key fun f => { f with pc := t.next s i }).afterLanes i t.form t.gang [t.line s i] false := by
    unfold Turn.after Lanes.finish
    dsimp only
    rw [stopAt_none h free]
    rfl
  have moved : Alike (w.modFibre t.key fun f => { f with pc := t.next s i }) (u.modFibre t.key fun f => { f with pc := t.next s i }) :=
    alike_modFibre alike t.key _ fun x y e => by
      show context { context y with pc := t.next s i } = context { context x with pc := t.next s i }
      rw [e]
  have done := moved.trans (afterLanes_same (live.modFibre (fun f => { f with pc := t.next s i }) live.issuing) h.alone
    (Or.inl runs) [t.line s i] false)
  refine ⟨_, he, ?_⟩
  rw [after]
  exact ⟨done.1, (sameQ_modFibre _ _).trans done.2⟩

/-- Settles O34: each space gives a load its bytes, in a state that differs from the one that has read the operands in caches and
free choices alone, and the law of results that come later says the rest. -/
theorem loadsReadTheirSpaces : Obligations.LoadsReadTheirSpaces := by
  unfold Obligations.LoadsReadTheirSpaces
  intro f lit s t loads
  suffices main : ∀ i, endsSafe i = false → (Goes s i t → exec i s = .next (t.after s i
      ((t.x s i).load (t.read s i) f.a (spaceOf f) (sizeOf_ f) (bit f.sub 2)))) → loads i by
    refine ⟨fun hq => ⟨main _ rfl fun h => ?_, main _ rfl fun h => ?_⟩, fun hq => main _ rfl fun h => ?_⟩
    · exact (plain_ready h.ready _).trans (by simp only [hq, Bool.false_eq_true, if_false])
    · exact (plain_ready h.ready _).trans (by simp only [hq, Bool.false_eq_true, if_false])
    · exact (plain_ready h.ready _).trans (by simp only [hq, if_true])
  intro i plain meaning h free aligned inOrder
  have same := same_read s i t
  have order := orderM0_inOrder same (x := t.x s i) rfl rfl _ inOrder
  have addr : ∀ {space : Nat}, fld f.mod 0 3 = space → memAddr space (t.x s i).b (t.x s i).c =
      if fld f.mod 0 3 = 0 then ((t.x s i).b + (loWord (t.x s i).c).signExtend 64).toNat
      else (loWord (t.x s i).b + loWord (t.x s i).c).toNat := by
    rintro space rfl
    rfl
  set a := if fld f.mod 0 3 = 0 then ((t.x s i).b + (loWord (t.x s i).c).signExtend 64).toNat
    else (loWord (t.x s i).b + loWord (t.x s i).c).toNat
  set n := 2 ^ fld f.sub 0 2
  have codes : ∀ v, (outPair f.a.toNat (decide (fld f.sub 0 2 = 3)) v).map Prod.fst =
      (outPair f.a.toNat (decide (fld f.sub 0 2 = 3)) 0).map Prod.fst := fun v => by rw [outPair_codes, outPair_codes]
  have land : ∀ {u : State} {bytes : List Byte},
      (fld f.mod 0 3 = 0 → t.fibre.overlapsStore a n = false ∧ (t.read s i).tableHeld t.fibre.tenant a = none ∧
        (t.read s i).atomicOn t.key t.fibre.tenant a = none) →
      (t.read s i).loadSpace t.key t.fibre (fld f.mod 0 3) a n = .ok (u, bytes) → Read (t.read s i) u →
      Sends s i t (u.writeLong (t.x s i) (outPair f.a.toNat (decide (fld f.sub 0 2 = 3))
        (extendLoad (ofBytes bytes) (fld f.sub 0 2) (bit f.sub 2)))) (t.next s i) := by
    intro u bytes clear ok reading
    refine loads_land h (by rw [codes]; exact free) plain reading ((meaning h).trans ?_)
    refine congrArg (fun r => Host.Outcome.next (t.after s i r)) (load_ok (x := t.x s i) ?_ ?_ order ?_ ?_ ?_)
    all_goals rw [show spaceOf f = fld f.mod 0 3 from rfl, addr rfl]
    · exact aligned
    · exact fun e => (clear e).1
    · exact fun e => (clear e).2.1
    · exact fun e => (clear e).2.2
    · exact ok
  refine ⟨fun hs clear atoms tables => ⟨fun u b ok => ?_, fun fault room runs => ?_⟩, fun hs range => ?_, fun hs range => ?_,
    fun hs range full => ?_, fun hs range clean => ?_⟩
  · refine land (fun _ => ⟨clear, same.tableHeld tables, (same.atomicOn tables _).trans atoms⟩) ?_ (read_loadGlobal ok)
    rw [hs]
    exact ok
  · have global : memAddr 0 (t.x s i).b (t.x s i).c = a := hs ▸ addr rfl
    obtain ⟨alike, f', live⟩ := deferLoad_alike (read_live h.ready) (x := t.x s i) rfl
      { addr := a, data := 0, pcOff := (t.own s).off, kind := if bit f.sub 2 then 2 else 0, size := fld f.sub 0 2,
        reg := f.a.toNat, m0 := s.inM0 t.key t.fibre } (outCodes f.a (decide (fld f.sub 0 2 = 3)))
    refine does_checked h.ready runs (outPair_codes f.a _ 0 ▸ free) live alike ((meaning h).trans ?_)
    rw [show spaceOf f = 0 from hs, load_fault (x := t.x s i)]
    case order => exact hs ▸ order
    case room => exact room
    all_goals rw [global]
    · rw [same.inM0]
      rfl
    · exact aligned
    · exact clear
    · exact same.tableHeld tables
    · exact (same.translate tables 0 false).trans fault
  · refine land (fun e => absurd (hs.symm.trans e) (by decide)) ?_ (Read.refl _)
    rw [hs, State.loadSpace]
    simp only [same.pitchRange, range, same.pitchKey, same.store]
  · refine land (fun e => absurd (hs.symm.trans e) (by decide)) ?_ (Read.refl _)
    rw [hs, State.loadSpace]
    simp only [same.clusterRange, range, same.store]
  · have none : (t.fibre.frameLocs a n).find? (fun l => decide (((t.read s i).cell l).mark ≠ .full)) = none := by
      rw [List.find?_eq_none]
      intro l hl
      simp [same.mark, full l hl]
    refine ⟨land (fun e => absurd (hs.symm.trans e) (by decide)) ?_ (read_words _ _), fun settled => ?_⟩
    · rw [hs, State.loadSpace]
      simp only [none]
      rw [if_neg (by omega)]
    · rw [frameBytes_eq, readWords_settled _ _ _ settled, List.nil_append]
      exact ⟨rfl, by simp only [same.value]⟩
  · refine land (fun e => absurd (hs.symm.trans e) (by decide)) ?_ (Read.refl _)
    rw [hs, State.loadSpace]
    simp only [same.constSegment, State.isPoisoned, same.store] at clean ⊢
    rw [if_neg (by omega), if_neg (by simpa [State.isPoisoned] using clean)]

end Sys2Proof.Safety

/-! ## What the homes leave alone

The homes, the caches and the operations at them change the coherence state, the storage, what each core counts, the events
and fresh numbers; the rest of the state they leave. -/

namespace Sys2Proof.Machine

/-- The state but for the coherence state, the storage, the cores' own hardware, the bitterns and the fresh numbers. -/
def State.beyond (s : State) : State :=
  { s with coh := State.reset.coh, store := State.reset.store, cores := [], bitterns := [], nextId := 0 }

theorem foldl_beyond {α : Type} {f : State → α → State} (h : ∀ s a, (f s a).beyond = s.beyond) (l : List α) (s : State) :
    (l.foldl f s).beyond = s.beyond := Safety.foldl_keeps State.beyond f h l s

@[simp] theorem State.setHome_beyond (s : State) (line : Nat) (h : HomeLine) : (s.setHome line h).beyond = s.beyond := rfl

@[simp] theorem State.setL1_beyond (s : State) (core line : Nat) (l : L1Line) : (s.setL1 core line l).beyond = s.beyond := rfl

@[simp] theorem State.setOrd_beyond (s : State) (id : Nat) (o : OrdOp) : (s.setOrd id o).beyond = s.beyond := rfl

@[simp] theorem State.modCoh_beyond (s : State) (g : Coherence → Coherence) : (s.modCoh g).beyond = s.beyond := rfl

@[simp] theorem State.modStore_beyond (s : State) (g : Store → Store) : (s.modStore g).beyond = s.beyond := rfl

@[simp] theorem State.modUnit_beyond (s : State) (core : Nat) (g : CoreUnit → CoreUnit) : (s.modUnit core g).beyond = s.beyond :=
  rfl

@[simp] theorem State.fresh_beyond (s : State) : s.fresh.2.beyond = s.beyond := rfl

@[simp] theorem State.raise_beyond (s : State) (die type tenant src v0 v1 : Nat) :
    (s.raise die type tenant src v0 v1).beyond = s.beyond := rfl

@[simp] theorem State.dataLost_beyond (s : State) (line vf : Nat) (t : Tag) : (s.dataLost line vf t).beyond = s.beyond := rfl

@[simp] theorem State.tagRelease_beyond (s : State) (core vf : Nat) (crew : Option Nat) (addr size value : Nat) :
    (s.tagRelease core vf crew addr size value).beyond = s.beyond := by
  simp [State.tagRelease]

@[simp] theorem State.served_beyond (s : State) (id : Nat) (o : OrdOp) (value : Nat) (lost : Bool) :
    (s.served id o value lost).beyond = s.beyond := rfl

@[simp] theorem State.exchange_beyond (s : State) (id : Nat) (o : OrdOp) (op old : Nat) (lost : Bool) :
    (s.exchange id o op old lost).beyond = s.beyond := by
  simp [State.exchange]

@[simp] theorem State.wakeDie_beyond (s : State) (die : Nat) : (s.wakeDie die).beyond = s.beyond := rfl

@[simp] theorem State.clearL2_beyond (s : State) (lines : List Nat) : (s.clearL2 lines).beyond = s.beyond := rfl

@[simp] theorem State.closeObject_beyond (s : State) (index gen : Nat) : (s.closeObject index gen).beyond = s.beyond := rfl

@[simp] theorem State.holdAt_beyond (s : State) (line id vf : Nat) : (s.holdAt line id vf).beyond = s.beyond := by
  simp only [State.holdAt]
  split <;> rfl

@[simp] theorem State.watchWord_beyond (s : State) (id : Nat) (o : OrdOp) (cond value : Nat) :
    (s.watchWord id o cond value).beyond = s.beyond := by
  unfold State.watchWord
  split <;> rfl

@[simp] theorem State.applyAtomic_beyond (s : State) (id : Nat) (o : OrdOp) : (s.applyAtomic id o).beyond = s.beyond := by
  simp only [State.applyAtomic]
  split
  · rfl
  · split <;> rfl

@[simp] theorem State.queueAtomic_beyond (s : State) (id : Nat) (o : OrdOp) : (s.queueAtomic id o).beyond = s.beyond := by
  simp only [State.queueAtomic]
  split
  · simp
  · rfl

@[simp] theorem State.serve_beyond (s : State) (id : Nat) : (s.serve id).beyond = s.beyond := by
  simp only [State.serve]
  (repeat' split) <;> simp

@[simp] theorem State.evaluate_beyond (s : State) (line : Nat) : (s.evaluate line).beyond = s.beyond := by
  have serves : ∀ (ids : List Nat) (u : State), (ids.foldl State.serve u).beyond = u.beyond :=
    fun ids u => foldl_beyond State.serve_beyond ids u
  simp only [State.evaluate]
  split <;> simp [serves]

@[simp] theorem State.deliver_beyond (s : State) (line : Nat) : (s.deliver line).beyond = s.beyond := by
  simp only [State.deliver, State.evaluate_beyond, foldl_beyond State.serve_beyond, State.setHome_beyond]
  split <;> rfl

@[simp] theorem State.settle_beyond (s : State) (line id : Nat) : (s.settle line id).beyond = s.beyond := by
  unfold State.settle
  refine foldl_beyond (fun s p => ?_) _ _
  dsimp only
  split <;> simp

@[simp] theorem State.landFlight_beyond (s : State) (line : Nat) (core : Option Nat) :
    (s.landFlight line core).beyond = s.beyond := by
  unfold State.landFlight
  (repeat' split) <;> rfl

@[simp] theorem State.applyFirst_beyond (s : State) (line : Nat) (w : HomeWrite) : (s.applyFirst line w).beyond = s.beyond := by
  simp only [State.applyFirst]
  (repeat' split) <;> simp

@[simp] theorem State.applyWrites_beyond (s : State) (line n : Nat) : (s.applyWrites line n).beyond = s.beyond := by
  induction n generalizing s with
  | zero => rfl
  | succ n ih =>
    simp only [State.applyWrites]
    split
    · rfl
    · split
      · rfl
      · rw [ih, State.settle_beyond, State.evaluate_beyond, State.landFlight_beyond]
        split <;> simp

@[simp] theorem State.applyHome_beyond (s : State) (line : Nat) : (s.applyHome line).beyond = s.beyond := by
  simp [State.applyHome]

@[simp] theorem State.sendHomeAs_beyond (s : State) (w : HomeWrite) (line : Nat) : (s.sendHomeAs w line).2.beyond = s.beyond := by
  simp only [State.sendHomeAs, State.applyHome_beyond, State.setHome_beyond]
  (repeat' split) <;> rfl

@[simp] theorem State.sendHome_beyond (s : State) (core : Option Nat) (vf line : Nat) (data : List (Nat × Byte)) :
    (s.sendHome core vf line data).2.beyond = s.beyond := s.sendHomeAs_beyond _ line

@[simp] theorem State.writeBack_beyond (s : State) (core vf line : Nat) : (s.writeBack core vf line).2.beyond = s.beyond := by
  simp only [State.writeBack]
  (repeat' split) <;> simp

/-- The state of a fold that gathers answers beside it. -/
theorem foldl_snd_beyond {α β : Type} {f : β × State → α → β × State} (h : ∀ p a, (f p a).2.beyond = p.2.beyond) (l : List α)
    (p : β × State) : (l.foldl f p).2.beyond = p.2.beyond := by
  induction l generalizing p with
  | nil => rfl
  | cons a l ih => exact (ih _).trans (h p a)

@[simp] theorem State.writeBackAll_beyond (s : State) (core vf : Nat) (lines : List Nat) :
    (s.writeBackAll core vf lines).2.beyond = s.beyond := by
  unfold State.writeBackAll
  exact foldl_snd_beyond (f := fun a line => (a.1 ++ (a.2.writeBack core vf line).1, (a.2.writeBack core vf line).2))
    (fun p line => p.2.writeBack_beyond core vf line) lines ([], s)

@[simp] theorem State.recall_beyond (s : State) (core line : Nat) : (s.recall core line).beyond = s.beyond := by
  simp only [State.recall]
  (repeat' split) <;> simp

@[simp] theorem State.releaseRetained_beyond (s : State) (core vf line : Nat) :
    (s.releaseRetained core vf line).2.beyond = s.beyond := by
  simp only [State.releaseRetained]
  (repeat' split) <;> simp

@[simp] theorem State.clearCopies_beyond (s : State) (vf : Nat) (lines : List Nat) :
    (s.clearCopies vf lines).2.beyond = s.beyond := by
  unfold State.clearCopies
  refine foldl_snd_beyond (fun p q => ?_) _ ([], s)
  have one : (if q.2.retained then p.2.releaseRetained (q.1 / 2 ^ 58) vf (q.1 % 2 ^ 58)
      else p.2.writeBack (q.1 / 2 ^ 58) vf (q.1 % 2 ^ 58)).2.beyond = p.2.beyond := by
    split <;> simp
  dsimp only
  split
  · exact one
  · exact one

@[simp] theorem State.leaveState_beyond (s : State) (o : CohObject) (lines : List Nat) :
    (s.leaveState o lines).2.beyond = s.beyond := by
  unfold State.leaveState
  split <;> simp

@[simp] theorem State.leaveNow_beyond (s : State) (index : Nat) : (s.leaveNow index).beyond = s.beyond := by
  unfold State.leaveNow
  split <;> simp

@[simp] theorem State.freeObjects_beyond (s : State) (vf : Nat) : (s.freeObjects vf).beyond = s.beyond :=
  foldl_beyond (fun s p => by simp) _ s

/-- A core's registers are beyond the homes. -/
theorem regs_of_beyond {s t : State} (h : t.beyond = s.beyond) : t.regs = s.regs := (congrArg State.regs h :)

theorem plat_of_beyond {s t : State} (h : t.beyond = s.beyond) : t.plat = s.plat := (congrArg State.plat h :)

end Sys2Proof.Machine

/-! ## Resets (R370, R371)

What the steps of a function-level reset and of a core reset return, and what they leave alone. -/

namespace Sys2Proof

variable {α : Type}

/-- A selection by keys alone. -/
theorem Tbl.find_selectKeys (t : Tbl α) (p : Nat → Bool) (k : Nat) :
    (t.select fun k _ => p k).find k = if p k then t.find k else none := by
  induction t with
  | nil => simp [Tbl.select]
  | cons e t ih =>
    obtain ⟨j, v⟩ := e
    unfold Tbl.select at ih ⊢
    rw [List.filter_cons]
    by_cases hj : p j = true
    · rw [if_pos hj, Tbl.find_cons, Tbl.find_cons, ih]
      by_cases e : j = k
      · subst e
        simp [hj]
      · simp [e]
    · rw [if_neg hj, ih, Tbl.find_cons]
      by_cases e : j = k
      · subst e
        simp [hj]
      · simp [e]

/-- What a selection holds meets its test. -/
theorem Tbl.of_find_select {t : Tbl α} {p : Nat → α → Bool} {k : Nat} {v : α} (h : (t.select p).find k = some v) :
    p k v = true := (List.mem_filter.mp (Tbl.mem_of_find h)).2

end Sys2Proof

namespace Sys2Proof.Machine

theorem find_dropKeys {α : Type} (t : Tbl α) (lo hi k : Nat) :
    (dropKeys t lo hi).find k = if k < lo ∨ hi ≤ k then t.find k else none := by
  unfold dropKeys
  rw [Tbl.find_selectKeys]
  simp only [decide_eq_true_eq]

/-! ### Function-level resets -/

theorem State.freeCode_keeps (s : State) (vf : Nat) : (s.freeCode vf).regs = s.regs ∧ (s.freeCode vf).plat = s.plat := by
  unfold State.freeCode
  constructor
  · refine Safety.foldl_keeps State.regs _ (fun _ _ => ?_) _ s
    rfl
  · refine Safety.foldl_keeps State.plat _ (fun _ _ => ?_) _ s
    rfl

/-- Freeing what a function held leaves the registers and the platform. -/
theorem State.freeVf_keeps (s : State) (vf : Nat) : (s.freeVf vf).regs = s.regs ∧ (s.freeVf vf).plat = s.plat := by
  have objects := ((s.freeQueues vf).freeCores vf).freeObjects_beyond vf
  obtain ⟨regs, plat⟩ := (((s.freeQueues vf).freeCores vf).freeObjects vf).freeCode_keeps vf
  have regs' := regs.trans (regs_of_beyond objects)
  have plat' := plat.trans (plat_of_beyond objects)
  exact ⟨regs', plat'⟩

theorem State.btFlr_keeps (s : State) (vf : Nat) : (s.btFlr vf).regs = s.regs ∧ (s.btFlr vf).plat = s.plat := by
  unfold State.btFlr
  constructor
  · refine Safety.foldl_keeps State.regs _ (fun _ _ => ?_) _ s
    rfl
  · refine Safety.foldl_keeps State.plat _ (fun _ _ => ?_) _ s
    rfl

/-- EPOCH of a function in one of its network register blocks, kept while the block returns (R371). -/
def State.returnEpoch (vf : Nat) (s : State) (io : Nat) : State :=
  let at_ := netOff io (0x800 + 0x10 * vf)
  (s.setMgmt at_ (resetValue (mgmtFields at_))).setMgmt (at_ + 8)
    (setBits (resetValue (mgmtFields (at_ + 8))) 39 32 (s.mgmtF (at_ + 8) 39 32))

/-- The registers of a function that an FLR returns outright. -/
def State.dropFlrRegs (s : State) (vf : Nat) : State :=
  { s with regs := { s.regs with
    bar0 := dropQueueRegs s.regs.bar0 vf
    mgmt := dropKeys s.regs.mgmt (0xD000 + 0x10 * vf) (0xD010 + 0x10 * vf) } }

theorem State.returnFlr_eq (s : State) (vf : Nat) :
    s.returnFlr vf = (((s.dropFlrRegs vf).returnEpoch vf 0).returnEpoch vf 1).btFlr vf := rfl

theorem State.returnFlr_plat (s : State) (vf : Nat) : (s.returnFlr vf).plat = s.plat := by
  rw [State.returnFlr_eq, (State.btFlr_keeps _ vf).2]
  rfl

theorem State.returnFlr_core (s : State) (vf : Nat) : (s.returnFlr vf).regs.core = s.regs.core := by
  rw [State.returnFlr_eq, (State.btFlr_keeps _ vf).1]
  rfl

/-- The end of an FLR: the engines, the interface and the host are told (R371, R376). -/
def State.endFlr (s : State) (vf : Nat) : State :=
  let s := s.modNet fun n => { n with resets := n.resets.filter fun v => decide (v ≠ vf) }
  let s := s.modPlat fun p =>
    { p with tdisp := if (p.flr.find (256 + vf)).isSome then p.tdisp.put vf .unlocked else p.tdisp,
             flr := ((p.flr.del vf).del (128 + vf)).del (256 + vf) }
  s.answer [5, vf]

theorem State.flrFinish_eq (s : State) (vf : Nat) : s.flrFinish vf =
    if (s.plat.flr.find vf).isNone ∨ (s.fibresOf vf).isEmpty = false then s
    else ((s.freeVf vf).returnFlr vf).endFlr vf := rfl

/-- The end of an FLR leaves the registers of the cores. -/
theorem State.flrFinish_core (s : State) (vf : Nat) : (s.flrFinish vf).regs.core = s.regs.core := by
  have told : ∀ u : State, (u.endFlr vf).regs = u.regs := fun u => rfl
  rw [State.flrFinish_eq]
  split
  · rfl
  · rw [told, State.returnFlr_core, (s.freeVf_keeps vf).1]

theorem State.absorbFlrs_core (s : State) : s.absorbFlrs.regs.core = s.regs.core := by
  unfold State.absorbFlrs
  exact Safety.foldl_keeps (fun s => s.regs.core) State.flrFinish (fun s vf => s.flrFinish_core vf) _ s

theorem State.flrFinish_none {s : State} {vf : Nat} (h : s.plat.flr.find vf = none) : s.flrFinish vf = s := by
  rw [State.flrFinish_eq]
  exact if_pos (Or.inl (by rw [h]; rfl))

theorem State.absorbFlrs_none {s : State} (h : s.plat.flr = []) : s.absorbFlrs = s := by
  have none : ∀ vf, s.flrFinish vf = s := fun vf => State.flrFinish_none (by rw [h]; rfl)
  unfold State.absorbFlrs
  induction List.range 128 with
  | nil => rfl
  | cons vf l ih => rw [List.foldl_cons, none, ih]

/-! ### Head records -/

/-- Forgetting head records changes the watching operations and what the scheduler holds of queues. -/
theorem State.dropHead_keeps (s : State) (vf q : Nat) : ∃ ops queues,
    s.dropHead vf q = { s with coh := { s.coh with ops := ops }, sched := { s.sched with queues := queues } } := by
  unfold State.dropHead
  split
  · exact ⟨_, _, rfl⟩
  · exact ⟨_, _, rfl⟩

theorem State.dropHeads_keeps (s : State) (vf : Nat) : ∃ ops queues,
    s.dropHeads vf = { s with coh := { s.coh with ops := ops }, sched := { s.sched with queues := queues } } := by
  unfold State.dropHeads
  induction List.range 64 generalizing s with
  | nil => exact ⟨_, _, rfl⟩
  | cons q l ih =>
    obtain ⟨ops, queues, e⟩ := s.dropHead_keeps vf q
    obtain ⟨ops', queues', e'⟩ := ih (s.dropHead vf q)
    exact ⟨ops', queues', e'.trans (by rw [e])⟩

/-- The queue registers and the frame backing registers of every function return (R55, R71). -/
def State.dropQueueWindows (s : State) : State :=
  { s with regs := { s.regs with
    bar0 := s.regs.bar0.select fun k _ => decide (k % 2 ^ 23 < 0x10000 ∨ 0x11000 ≤ k % 2 ^ 23)
    mgmt := dropKeys s.regs.mgmt 0xD000 0xD800 } }

theorem State.dropQueueWindows_core (s : State) : s.dropQueueWindows.regs.core = s.regs.core := rfl

theorem State.returnQueues_eq (s : State) : s.returnQueues = ((List.range 128).foldl State.dropHeads s).dropQueueWindows := rfl

/-- What a reset wider than an FLR returns of the registers, beside the heads that it forgets. -/
theorem State.returnQueues_keeps (s : State) : ∃ ops queues, s.returnQueues = State.dropQueueWindows
    { s with coh := { s.coh with ops := ops }, sched := { s.sched with queues := queues } } := by
  have heads : ∀ (l : List Nat) (s : State), ∃ ops queues, l.foldl State.dropHeads s =
      { s with coh := { s.coh with ops := ops }, sched := { s.sched with queues := queues } } := by
    intro l
    induction l with
    | nil => exact fun s => ⟨s.coh.ops, s.sched.queues, rfl⟩
    | cons vf l ih =>
      intro s
      obtain ⟨ops, queues, e⟩ := s.dropHeads_keeps vf
      obtain ⟨ops', queues', e'⟩ := ih (s.dropHeads vf)
      rw [List.foldl_cons]
      generalize s.dropHeads vf = u at e e' ⊢
      subst e
      exact ⟨ops', queues', e'⟩
  obtain ⟨ops, queues, e⟩ := heads (List.range 128) s
  exact ⟨ops, queues, (State.returnQueues_eq s).trans (congrArg State.dropQueueWindows e)⟩

/-! ### The registers of a core that is reset -/

theorem State.file_regs (s : State) (key : Nat) : (s.file key).regs = s.regs := by
  unfold State.file
  split <;> rfl

theorem State.unpark_regs (s : State) (key : Nat) : (s.unpark key).regs = s.regs := by
  unfold State.unpark
  split
  · rfl
  · split
    · exact s.file_regs key
    · rfl
    · rfl

theorem State.recheck_regs (s : State) (core : Nat) : (s.recheck core).regs = s.regs := by
  unfold State.recheck
  refine Safety.foldl_keeps State.regs _ (fun s p => ?_) _ s
  split
  · split
    · exact s.unpark_regs _
    · rfl
  · split
    · exact s.unpark_regs _
    · rfl
  · rfl

/-- The registers of a core's window return. -/
def State.dropCoreRegs (s : State) (core : Nat) : State :=
  { s with regs := { s.regs with core := dropKeys s.regs.core (core * 2 ^ 24) ((core + 1) * 2 ^ 24) } }

/-- A core's hardware, incarnations and L1 as a reset leaves them, its fibres and crews having gone (R132, R370). -/
def State.clearUnit (s : State) (core : Nat) (spared : Bool) : State :=
  ((((s.newIncarnation core).newIncarnation (512 + core)).newIncarnation (1024 + core)).modUnit core fun u =>
    if spared then u.sparing else u.afterReset).discardCore core

/-- The platform forgets the beat that it has seen of a core. -/
def State.forgetBeat (s : State) (core : Nat) : State := s.modPlat fun p => { p with beatSeen := p.beatSeen.del core }

/-- A core's clerk starts anew, unless it is spared. -/
def State.newClerk (s : State) (core : Nat) (spared : Bool) : State := if spared then s else s.startClerk core

theorem State.clearCore_eq (s : State) (core : Nat) (spared : Bool) : s.clearCore core spared =
    (upto (clusterOf core * 8) 8).foldl State.recheck
      (((((s.killCore core spared).clearUnit core spared).dropCoreRegs core).newClerk core spared).forgetBeat core) := rfl

theorem State.newClerk_regs (s : State) (core : Nat) (spared : Bool) : (s.newClerk core spared).regs = s.regs := by
  unfold State.newClerk
  split <;> rfl

theorem State.rechecks_regs (s : State) (cores : List Nat) : (cores.foldl State.recheck s).regs = s.regs :=
  Safety.foldl_keeps State.regs State.recheck State.recheck_regs cores s

theorem State.coreReg_dropped (s : State) (core : Nat) {off : Nat} (h : off < 2 ^ 24) :
    (s.dropCoreRegs core).coreReg core off = resetValue (coreFields off) := by
  unfold State.coreReg State.dropCoreRegs
  rw [find_dropKeys, if_neg (by omega)]

theorem State.coreReg_congr {s t : State} (h : t.regs.core = s.regs.core) (core off : Nat) : t.coreReg core off = s.coreReg core off := by
  unfold State.coreReg
  rw [h]

/-- A cleared core's registers hold their reset values, in any state (R370). -/
theorem State.clearCore_coreReg (s : State) (core : Nat) (spared : Bool) {off : Nat} (h : off < 2 ^ 24) :
    (s.clearCore core spared).coreReg core off = resetValue (coreFields off) := by
  rw [State.clearCore_eq, State.coreReg_congr (congrArg Registers.core (State.rechecks_regs _ _))]
  generalize (s.killCore core spared).clearUnit core spared = u
  exact (State.coreReg_congr (congrArg Registers.core ((u.dropCoreRegs core).newClerk_regs core spared)) core off).trans
    (u.coreReg_dropped core h)

/-- A core reset returns the core's registers, in any state. -/
theorem State.resetCore_coreReg (s : State) (core : Nat) {off : Nat} (h : off < 2 ^ 24) :
    (s.resetCore core).coreReg core off = resetValue (coreFields off) := by
  have cleared := s.clearCore_coreReg core false h
  have same : (s.resetCore core).regs.core = (s.clearCore core false).regs.core := by
    generalize he : s.clearCore core false = u
    obtain ⟨ops, queues, e⟩ := u.returnQueues_keeps
    rw [State.resetCore, he, State.absorbFlrs_core, e, State.dropQueueWindows_core]
  exact (State.coreReg_congr same core off).trans cleared

end Sys2Proof.Machine

/-! ## Resets of a device at rest (R370)

Where no crew is there, no home holds anything and no fibre has what it waits for, a core is cleared in one step. -/

namespace Sys2Proof.Machine

/-- A fold whose steps change nothing. -/
theorem foldl_fixed {α β : Type} {f : β → α → β} {b : β} {l : List α} (h : ∀ a ∈ l, f b a = b) : l.foldl f b = b := by
  induction l with
  | nil => rfl
  | cons a l ih =>
    rw [List.foldl_cons, h a List.mem_cons_self]
    exact ih fun a ha => h a (List.mem_cons_of_mem _ ha)

/-- No crew, nothing at the homes, no FLR, and no fibre that what it waits for has come to: each waits for nothing, or for its
core's empty mailbox. -/
structure AtRest (s : State) : Prop where
  crews : s.sched.crews = []
  homes : s.coh.homes = []
  flr : s.plat.flr = []
  waits : ∀ p ∈ s.fibres, p.2.waiting = none ∨
    (p.2.waiting = some (.register .mailbox) ∧ (s.unit (coreOf p.1)).mailbox = [])

/-- The fibres of a core that a reset would end. -/
def endsAt (core : Nat) (spared : Bool) (p : Nat × Fibre) : Bool :=
  decide (coreOf p.1 = core) && !(spared && isClerk p.1)

theorem AtRest.recheck {s : State} (h : AtRest s) (core : Nat) : s.recheck core = s := by
  unfold State.recheck
  refine foldl_fixed fun p hp => ?_
  obtain ⟨here, own⟩ := List.mem_filter.mp hp
  have core_ : coreOf p.1 = core := of_decide_eq_true own
  rcases h.waits p here with none | ⟨waits, empty⟩
  · rw [none]
  · rw [waits]
    rw [core_] at empty
    simp [State.registerMet, empty]

theorem AtRest.killCore {s : State} (h : AtRest s) {core : Nat} {spared : Bool}
    (alone : ∀ p ∈ s.fibres, endsAt core spared p = false) : s.killCore core spared = s := by
  have crews : s.crewsOn core = [] := by
    unfold State.crewsOn
    rw [h.crews]
    rfl
  have fibres : (s.fibres.filter fun p => decide (coreOf p.1 = core) && !(spared && isClerk p.1)) = [] :=
    List.filter_eq_nil_iff.mpr fun p hp => by
      rw [← endsAt, alone p hp]
      exact Bool.false_ne_true
  unfold State.killCore
  simp only [crews, List.foldl_nil, fibres]

/-- A core's hardware, incarnations and L1 after a reset (R132, R370). -/
def State.unitAfter (s : State) (core : Nat) (spared : Bool) : State :=
  ((((s.newIncarnation core).newIncarnation (512 + core)).newIncarnation (1024 + core)).modUnit core fun u =>
    if spared then u.sparing else u.afterReset).modCoh fun c => { c with l1 := c.l1.select fun k _ => decide (k / 2 ^ 58 ≠ core) }

theorem State.discardCore_none {s : State} (h : s.coh.homes = []) (core : Nat) : s.discardCore core =
    s.modCoh fun c => { c with l1 := c.l1.select fun k _ => decide (k / 2 ^ 58 ≠ core) } := by
  unfold State.discardCore State.modCoh
  dsimp only
  rw [h]
  rfl

theorem AtRest.clearUnit {s : State} (h : AtRest s) (core : Nat) (spared : Bool) :
    s.clearUnit core spared = s.unitAfter core spared := by
  unfold State.clearUnit State.unitAfter
  exact State.discardCore_none (by exact h.homes) core

/-- A core that has been cleared. -/
def State.clearedCore (s : State) (core : Nat) (spared : Bool) : State :=
  (((s.unitAfter core spared).dropCoreRegs core).newClerk core spared).forgetBeat core

/-- The agents of a core that take a new incarnation with it (R18). -/
def agentsOf (core : Nat) : List Nat := [core, 512 + core, 1024 + core]

/-- What clearing a core leaves, and what it makes of the core. -/
structure OneCleared (s t : State) (core : Nat) (spared : Bool) : Prop where
  fibres : t.fibres = if spared then s.fibres else s.fibres.put (fibreKey core 4095) (Fibre.clerk core)
  unit : ∀ c, t.unit c = if c = core then (if spared then (s.unit core).sparing else (s.unit core).afterReset) else s.unit c
  coreRegs : ∀ c off, off < 2 ^ 24 → t.coreReg c off = if c = core then resetValue (coreFields off) else s.coreReg c off
  inc : ∀ agent, t.coh.inc.get agent 0 =
    if agent ∈ agentsOf core then (s.coh.inc.get agent 0 + 1) % 256 else s.coh.inc.get agent 0
  l1 : ∀ k, t.coh.l1.find k = if k / 2 ^ 58 = core then none else s.coh.l1.find k
  store : t.store = s.store
  gtc : t.gtc = s.gtc
  mgmt : t.regs.mgmt = s.regs.mgmt
  bar0 : t.regs.bar0 = s.regs.bar0
  bitterns : t.bitterns = s.bitterns
  l2 : t.coh.l2 = s.coh.l2
  crews : t.sched.crews = s.sched.crews
  homes : t.coh.homes = s.coh.homes
  flr : t.plat.flr = s.plat.flr

theorem State.newIncarnation_get (s : State) (a b : Nat) : (s.newIncarnation a).coh.inc.get b 0 =
    if b = a then (s.coh.inc.get a 0 + 1) % 256 else s.coh.inc.get b 0 := by
  show (s.coh.inc.put a _).get b 0 = _
  split
  · next e => rw [e, Tbl.get_put_same]
  · next e => exact Tbl.get_put_ne _ _ _ e

theorem State.newIncarnations_get (s : State) (core b : Nat) :
    (((s.newIncarnation core).newIncarnation (512 + core)).newIncarnation (1024 + core)).coh.inc.get b 0 =
      if b ∈ agentsOf core then (s.coh.inc.get b 0 + 1) % 256 else s.coh.inc.get b 0 := by
  simp only [State.newIncarnation_get, agentsOf, List.mem_cons, List.not_mem_nil, or_false]
  by_cases first : b = core
  · subst first
    simp
  · by_cases second : b = 512 + core
    · subst second
      simp
    · by_cases third : b = 1024 + core
      · subst third
        simp
      · simp [first, second, third]

theorem find_dropCoreRegs (s : State) (core c : Nat) {off : Nat} (h : off < 2 ^ 24) : (s.dropCoreRegs core).coreReg c off =
    if c = core then resetValue (coreFields off) else s.coreReg c off := by
  split
  · next e =>
    subst e
    exact s.coreReg_dropped c h
  · unfold State.coreReg State.dropCoreRegs
    rw [find_dropKeys, if_pos (by omega)]

theorem State.unit_congr {s t : State} (h : t.cores = s.cores) (core : Nat) : t.unit core = s.unit core := by
  unfold State.unit
  rw [h]

theorem State.unitAfter_unit (s : State) (core c : Nat) (spared : Bool) : (s.unitAfter core spared).unit c =
    if c = core then (if spared then (s.unit core).sparing else (s.unit core).afterReset) else s.unit c := by
  have cores : (s.unitAfter core spared).cores =
      (s.modUnit core fun u => if spared then u.sparing else u.afterReset).cores := rfl
  rw [State.unit_congr cores, State.unit_modUnit]

/-- A cleared core, part by part. -/
theorem State.clearedCore_eq (s : State) (core : Nat) (spared : Bool) : ∃ gangs segs, s.clearedCore core spared =
    { s.unitAfter core spared with
      regs := (s.dropCoreRegs core).regs
      gangs := gangs
      segs := segs
      fibres := if spared then s.fibres else s.fibres.put (fibreKey core 4095) (Fibre.clerk core)
      plat := { s.plat with beatSeen := s.plat.beatSeen.del core } } := by
  unfold State.clearedCore State.newClerk
  generalize e : s.unitAfter core spared = u
  have regs : (u.dropCoreRegs core).regs = (s.dropCoreRegs core).regs := by
    subst e
    rfl
  have fibres : u.fibres = s.fibres := by
    subst e
    rfl
  have plat : u.plat = s.plat := by
    subst e
    rfl
  rw [← regs, ← fibres, ← plat]
  cases spared with
  | true => exact ⟨u.gangs, u.segs, rfl⟩
  | false => exact ⟨(u.startClerk core).gangs, (u.startClerk core).segs, rfl⟩

theorem State.clearedCore_one (s : State) (core : Nat) (spared : Bool) : OneCleared s (s.clearedCore core spared) core spared := by
  obtain ⟨gangs, segs, e⟩ := s.clearedCore_eq core spared
  rw [e]
  refine ⟨rfl, fun c => ?_, fun c off h => ?_, fun agent => ?_, fun k => ?_, rfl, rfl, rfl, rfl, rfl, rfl, rfl, rfl, rfl⟩
  · exact s.unitAfter_unit core c spared
  · generalize s.unitAfter core spared = u
    exact (State.coreReg_congr (s := s.dropCoreRegs core) rfl c off).trans (find_dropCoreRegs s core c h)
  · have inc : (s.unitAfter core spared).coh.inc =
        (((s.newIncarnation core).newIncarnation (512 + core)).newIncarnation (1024 + core)).coh.inc := rfl
    dsimp only
    rw [inc, s.newIncarnations_get core agent]
  · have l1 : (s.unitAfter core spared).coh.l1 = s.coh.l1.select fun k _ => decide (k / 2 ^ 58 ≠ core) := rfl
    dsimp only
    rw [l1, Tbl.find_selectKeys s.coh.l1 (fun k => decide (k / 2 ^ 58 ≠ core)) k]
    by_cases k / 2 ^ 58 = core <;> simp

/-- A cleared core leaves a device at rest, which it was. -/
theorem OneCleared.rest {s t : State} {core : Nat} {spared : Bool} (h : OneCleared s t core spared) (rest : AtRest s) :
    AtRest t := by
  have empty : ∀ c, (s.unit c).mailbox = [] → (t.unit c).mailbox = [] := by
    intro c e
    rw [h.unit]
    split
    · cases spared <;> rfl
    · exact e
  have old : ∀ p ∈ s.fibres, p.2.waiting = none ∨
      (p.2.waiting = some (.register .mailbox) ∧ (t.unit (coreOf p.1)).mailbox = []) := fun p hp =>
    (rest.waits p hp).imp id fun e => ⟨e.1, empty _ e.2⟩
  refine ⟨h.crews.trans rest.crews, h.homes.trans rest.homes, h.flr.trans rest.flr, ?_⟩
  rw [h.fibres]
  cases spared with
  | true => exact old
  | false =>
    intro p hp
    rcases Safety.mem_put hp with e | hp
    · subst e
      refine Or.inr ⟨rfl, ?_⟩
      have core_ : coreOf (fibreKey core 4095) = core := by
        unfold coreOf fibreKey
        omega
      rw [core_, h.unit, if_pos rfl]
      rfl
    · exact old p hp

theorem AtRest.clearCore {s : State} (h : AtRest s) {core : Nat} {spared : Bool}
    (alone : ∀ p ∈ s.fibres, endsAt core spared p = false) : s.clearCore core spared = s.clearedCore core spared := by
  have rest : AtRest (s.clearedCore core spared) := (s.clearedCore_one core spared).rest h
  rw [State.clearCore_eq, h.killCore alone, h.clearUnit]
  exact foldl_fixed fun c _ => rest.recheck c

end Sys2Proof.Machine

/-! ## A core reset and a die reset at rest (R370) -/

namespace Sys2Proof.Machine

/-! ### The windows of the queue registers -/

theorem State.dropQueueWindows_bar0 (s : State) (f : Nat) {q off : Nat} (hq : q < 64) (ho : off < 64) :
    s.dropQueueWindows.bar0 f (queueOff q off) = resetValue (bar0Fields f (queueOff q off)) := by
  have inside : ¬ ((f * 2 ^ 23 + queueOff q off) % 2 ^ 23 < 0x10000 ∨ 0x11000 ≤ (f * 2 ^ 23 + queueOff q off) % 2 ^ 23) := by
    unfold queueOff
    omega
  unfold State.bar0 State.dropQueueWindows
  dsimp only
  rw [Tbl.find_selectKeys s.regs.bar0 (fun k => decide (k % 2 ^ 23 < 0x10000 ∨ 0x11000 ≤ k % 2 ^ 23)), if_neg (by simpa using inside)]

theorem State.dropQueueWindows_mgmt (s : State) (off : Nat) : s.dropQueueWindows.mgmt off =
    if 0xD000 ≤ off ∧ off < 0xD800 then resetValue (mgmtFields off) else s.mgmt off := by
  unfold State.mgmt State.dropQueueWindows
  dsimp only
  rw [find_dropKeys]
  by_cases inside : 0xD000 ≤ off ∧ off < 0xD800
  · rw [if_pos inside, if_neg (by omega)]
  · rw [if_neg inside, if_pos (by omega)]

/-- A state whose queues' windows have returned and whose heads are forgotten. -/
structure Queued (s t : State) : Prop where
  fibres : t.fibres = s.fibres
  cores : t.cores = s.cores
  inc : t.coh.inc = s.coh.inc
  l1 : t.coh.l1 = s.coh.l1
  l2 : t.coh.l2 = s.coh.l2
  homes : t.coh.homes = s.coh.homes
  crews : t.sched.crews = s.sched.crews
  core : t.regs.core = s.regs.core
  store : t.store = s.store
  gtc : t.gtc = s.gtc
  bitterns : t.bitterns = s.bitterns
  plat : t.plat = s.plat
  bar0 : ∀ f q off, q < 64 → off < 64 → t.bar0 f (queueOff q off) = resetValue (bar0Fields f (queueOff q off))
  mgmt : ∀ off, t.mgmt off = if 0xD000 ≤ off ∧ off < 0xD800 then resetValue (mgmtFields off) else s.mgmt off

theorem State.returnQueues_queued (s : State) : Queued s s.returnQueues := by
  obtain ⟨ops, queues, e⟩ := s.returnQueues_keeps
  rw [e]
  exact ⟨rfl, rfl, rfl, rfl, rfl, rfl, rfl, rfl, rfl, rfl, rfl, rfl, fun f q off hq ho => State.dropQueueWindows_bar0 _ f hq ho,
    fun off => State.dropQueueWindows_mgmt _ off⟩

theorem Queued.rest {s t : State} (h : Queued s t) (rest : AtRest s) : AtRest t := by
  refine ⟨h.crews.trans rest.crews, h.homes.trans rest.homes, by rw [h.plat]; exact rest.flr, ?_⟩
  rw [h.fibres]
  intro p hp
  rw [State.unit_congr h.cores]
  exact rest.waits p hp

theorem State.mgmt_congr {s t : State} (h : t.regs.mgmt = s.regs.mgmt) (off : Nat) : t.mgmt off = s.mgmt off := by
  unfold State.mgmt
  rw [h]

/-! ### A core reset -/

/-- A core reset of a device at rest. -/
theorem AtRest.resetCore {s : State} (h : AtRest s) {core : Nat} (alone : ∀ p ∈ s.fibres, endsAt core false p = false) :
    ∃ u, OneCleared s u core false ∧ Queued u (s.resetCore core) := by
  have one := s.clearedCore_one core false
  refine ⟨_, one, ?_⟩
  have queued := (s.clearedCore core false).returnQueues_queued
  rw [State.resetCore, h.clearCore alone, State.absorbFlrs_none (queued.rest (one.rest h)).flr]
  exact queued

theorem atRest_of_empty {s : State} (fibres : s.fibres = []) (crews : s.sched.crews = []) (homes : s.coh.homes = [])
    (flr : s.plat.flr = []) : AtRest s :=
  ⟨crews, homes, flr, by rw [fibres]; exact fun p hp => absurd hp List.not_mem_nil⟩

theorem cacheKey_core {core line : Nat} (h : line < 2 ^ 58) : cacheKey core line / 2 ^ 58 = core := by
  unfold cacheKey
  omega

/-- What a core reset of a device at rest returns and keeps. -/
theorem resetCore_effect {s : State} {core : Nat} (fibres : s.fibres = []) (h : AtRest s) :
    let t := s.resetCore core
    let u := s.unit core
    t.fibres = [(fibreKey core 4095, Fibre.clerk core)] ∧
      t.unit core = { CoreUnit.reset with inbox := u.inbox, copyQueue := u.copyQueue, scratch := u.scratch, weight := u.weight } ∧
      (t.unit core).rseq = 1 ∧ (t.unit core).queues = [] ∧ (t.unit core).perms = [] ∧ (t.unit core).mailbox = [] ∧
      (∀ agent ∈ [core, 512 + core, 1024 + core], t.coh.inc.get agent 0 = (s.coh.inc.get agent 0 + 1) % 256) ∧
      (∀ line, line < 2 ^ 58 → t.l1 core line = none ∧ ∀ c, c ≠ core → t.l1 c line = s.l1 c line) ∧
      (∀ c, c ≠ core → t.unit c = s.unit c ∧ ∀ off, off < 2 ^ 24 → t.coreReg c off = s.coreReg c off) ∧
      (∀ f q off, q < 64 → off < 64 → t.bar0 f (queueOff q off) = resetValue (bar0Fields f (queueOff q off))) ∧
      (∀ off, off < 0xD000 → t.mgmt off = s.mgmt off) ∧
      (∀ off, 0xD000 ≤ off → off < 0xD800 → t.mgmt off = resetValue (mgmtFields off)) ∧
      t.gtc = s.gtc ∧ t.store = s.store := by
  obtain ⟨v, one, queued⟩ := h.resetCore (core := core) (by rw [fibres]; exact fun p hp => absurd hp List.not_mem_nil)
  have unit : ∀ c, (s.resetCore core).unit c = if c = core then (s.unit core).afterReset else s.unit c := fun c => by
    rw [State.unit_congr queued.cores, one.unit]
    rfl
  have own := (unit core).trans (if_pos rfl)
  have l1 : ∀ c line, line < 2 ^ 58 → (s.resetCore core).l1 c line = if c = core then none else s.l1 c line := by
    intro c line hl
    unfold State.l1
    rw [queued.l1, one.l1, cacheKey_core hl]
  refine ⟨?_, own, by rw [own]; rfl, by rw [own]; rfl, by rw [own]; rfl, by rw [own]; rfl, fun agent ha => ?_,
    fun line hl => ⟨?_, fun c ne => ?_⟩, fun c ne => ⟨?_, fun off ho => ?_⟩, queued.bar0, fun off ho => ?_, fun off lo hi => ?_,
    queued.gtc.trans one.gtc, queued.store.trans one.store⟩
  · rw [queued.fibres, one.fibres, fibres]
    rfl
  · rw [queued.inc, one.inc, if_pos (show agent ∈ agentsOf core from ha)]
  · rw [l1 _ _ hl, if_pos rfl]
  · rw [l1 _ _ hl, if_neg ne]
  · rw [unit, if_neg ne]
  · rw [State.coreReg_congr queued.core, one.coreRegs c off ho, if_neg ne]
  · rw [queued.mgmt, if_neg (by omega), State.mgmt_congr one.mgmt]
  · rw [queued.mgmt, if_pos ⟨lo, hi⟩]

end Sys2Proof.Machine

/-! ## Resets of several cores at rest: of a die, of a partition, of the package (R370) -/

namespace Sys2Proof.Machine

/-! ### Several cores -/

/-- What clearing several cores one after another leaves, and what it makes of them. -/
structure Cleared (s t : State) (cores : List Nat) (spared : Bool) : Prop where
  rest : AtRest t
  fibres : ∀ p ∈ t.fibres, p ∈ s.fibres ∨ (spared = false ∧ coreOf p.1 ∈ cores)
  find : ∀ k, (∀ c ∈ cores, k ≠ fibreKey c 4095) ∨ spared = true → t.fibres.find k = s.fibres.find k
  clerk : spared = false → ∀ c ∈ cores, t.fibres.find (fibreKey c 4095) = some (Fibre.clerk c)
  rseq : ∀ c, t.unit c = s.unit c ∨ (t.unit c).rseq = 1
  cleared : ∀ c ∈ cores, (t.unit c).rseq = 1
  coreRegs : ∀ c off, off < 2 ^ 24 → t.coreReg c off = if c ∈ cores then resetValue (coreFields off) else s.coreReg c off
  inc : ∀ agent, t.coh.inc.get agent 0 =
    if ∃ c ∈ cores, agent ∈ agentsOf c then (s.coh.inc.get agent 0 + 1) % 256 else s.coh.inc.get agent 0
  store : t.store = s.store
  gtc : t.gtc = s.gtc
  mgmt : t.regs.mgmt = s.regs.mgmt
  bitterns : t.bitterns = s.bitterns
  l2 : t.coh.l2 = s.coh.l2

theorem coreOf_clerk (core : Nat) : coreOf (fibreKey core 4095) = core := by
  unfold coreOf fibreKey
  omega

theorem fibreKey_inj {a b : Nat} (h : fibreKey a 4095 = fibreKey b 4095) : a = b := by
  rw [← coreOf_clerk a, h, coreOf_clerk]

/-- Cores are cleared one after another by any step that clears a core, while a condition holds that it keeps. -/
theorem cleared_fold {spared : Bool} {f : State → Nat → State} {P : State → Prop}
    (step : ∀ u core, P u → f u core = u.clearCore core spared)
    (keeps : ∀ u v core, P u → OneCleared u v core spared → P v) (cores : List Nat) (distinct : cores.Nodup)
    (small : ∀ c ∈ cores, c < 512) :
    ∀ s, AtRest s → P s → (∀ c ∈ cores, ∀ p ∈ s.fibres, endsAt c spared p = false) →
      Cleared s (cores.foldl f s) cores spared := by
  induction cores with
  | nil =>
    intro s rest _ _
    exact ⟨rest, fun p hp => Or.inl hp, fun _ _ => rfl, fun _ c hc => absurd hc List.not_mem_nil, fun _ => Or.inl rfl,
      fun c hc => absurd hc List.not_mem_nil, fun c off _ => by simp, fun agent => by simp, rfl, rfl, rfl, rfl, rfl⟩
  | cons core cores ih =>
    intro s rest here alone
    obtain ⟨first, distinct⟩ := List.nodup_cons.mp distinct
    have one := s.clearedCore_one core spared
    have e : f s core = s.clearedCore core spared := (step s core here).trans (rest.clearCore (alone core List.mem_cons_self))
    have fibres : ∀ p ∈ (s.clearedCore core spared).fibres, p ∈ s.fibres ∨ (spared = false ∧ coreOf p.1 = core) := by
      rw [one.fibres]
      cases spared with
      | true => exact fun p hp => Or.inl hp
      | false =>
        intro p hp
        rcases Safety.mem_put hp with e | old
        · exact Or.inr ⟨rfl, by rw [e]; exact coreOf_clerk core⟩
        · exact Or.inl old
    have find : ∀ k, k ≠ fibreKey core 4095 ∨ spared = true → (s.clearedCore core spared).fibres.find k = s.fibres.find k := by
      rw [one.fibres]
      rintro k (ne | sp)
      · cases spared with
        | true => rfl
        | false => exact Tbl.find_put_ne _ _ ne
      · rw [sp]
        rfl
    have later := ih distinct (fun c hc => small c (List.mem_cons_of_mem _ hc)) (s.clearedCore core spared) (one.rest rest)
      (keeps s _ core here one) (by
        intro c hc p hp
        rcases fibres p hp with old | ⟨-, new⟩
        · exact alone c (List.mem_cons_of_mem _ hc) p old
        · unfold endsAt
          rw [new, decide_eq_false fun (same : core = c) => first (same ▸ hc), Bool.false_and])
    rw [List.foldl_cons, e]
    refine ⟨later.rest, fun p hp => ?_, fun k hk => ?_, fun sp c hc => ?_, fun c => ?_, fun c hc => ?_, fun c off ho => ?_,
      fun agent => ?_, later.store.trans one.store, later.gtc.trans one.gtc, later.mgmt.trans one.mgmt,
      later.bitterns.trans one.bitterns, later.l2.trans one.l2⟩
    · rcases later.fibres p hp with old | ⟨sp, new⟩
      · exact (fibres p old).imp id fun ⟨sp, new⟩ => ⟨sp, new ▸ List.mem_cons_self⟩
      · exact Or.inr ⟨sp, List.mem_cons_of_mem _ new⟩
    · rw [later.find k (hk.imp (fun h c hc => h c (List.mem_cons_of_mem _ hc)) id),
        find k (hk.imp (fun h => h core List.mem_cons_self) id)]
    · rcases List.mem_cons.mp hc with own | other
      · subst own
        rw [later.find _ (Or.inl fun d hd same => first ((fibreKey_inj same : c = d) ▸ hd)), one.fibres, sp]
        exact Tbl.find_put_same _ _ _
      · exact later.clerk sp c other
    · have unit := one.unit c
      rcases later.rseq c with same | new
      · rw [same, unit]
        split
        · cases spared <;> exact Or.inr rfl
        · exact Or.inl rfl
      · exact Or.inr new
    · rcases later.rseq c with same | new
      · rcases List.mem_cons.mp hc with own | other
        · rw [same, one.unit, if_pos own]
          cases spared <;> rfl
        · exact later.cleared c other
      · exact new
    · rw [later.coreRegs c off ho, one.coreRegs c off ho]
      by_cases own : c = core <;> simp [own]
    · have apart : agent ∈ agentsOf core → ¬ ∃ c ∈ cores, agent ∈ agentsOf c := by
        rintro mine ⟨c, hc, its⟩
        have := small core List.mem_cons_self
        have := small c (List.mem_cons_of_mem _ hc)
        simp only [agentsOf, List.mem_cons, List.not_mem_nil, or_false] at mine its
        refine first ?_
        rw [show core = c by omega]
        exact hc
      have inc := one.inc agent
      rw [later.inc, inc]
      by_cases mine : agent ∈ agentsOf core
      · rw [if_neg (apart mine), if_pos mine, if_pos ⟨core, List.mem_cons_self, mine⟩]
      · rw [if_neg mine]
        by_cases its : ∃ c ∈ cores, agent ∈ agentsOf c
        · obtain ⟨c, hc, h⟩ := its
          rw [if_pos ⟨c, hc, h⟩, if_pos ⟨c, List.mem_cons_of_mem _ hc, h⟩]
        · rw [if_neg its, if_neg]
          rintro ⟨c, hc, h⟩
          rcases List.mem_cons.mp hc with own | other
          · exact mine (own ▸ h)
          · exact its ⟨c, other, h⟩

theorem clearCore_fold (cores : List Nat) (distinct : cores.Nodup) (small : ∀ c ∈ cores, c < 512) {s : State} (h : AtRest s)
    (alone : ∀ c ∈ cores, ∀ p ∈ s.fibres, coreOf p.1 ≠ c) :
    Cleared s (cores.foldl (fun s core => s.clearCore core false) s) cores false :=
  cleared_fold (P := fun _ => True) (fun _ _ _ => rfl) (fun _ _ _ _ _ => trivial) cores distinct small s h trivial
    fun c hc p hp => by
      unfold endsAt
      rw [decide_eq_false (alone c hc p hp), Bool.false_and]

/-! ### A die reset -/

/-- Writing back a home L2 poisons lines of its die. -/
theorem writeBackHome_keeps (s : State) (die : Nat) : ∃ poisoned free,
    s.writeBackHome die = { s with store := { s.store with poisoned := poisoned }, free := free } ∧
      ∀ line ∈ poisoned, line ∈ s.store.poisoned ∨ line ∈ s.linesOfDie die := by
  unfold State.writeBackHome
  generalize s.linesOfDie die = lines
  induction lines generalizing s with
  | nil => exact ⟨s.store.poisoned, s.free, rfl, fun line hl => Or.inl hl⟩
  | cons l lines ih =>
    rw [List.foldl_cons]
    dsimp only
    split
    · obtain ⟨poisoned, free, e, meets⟩ := ih (s.drawBit.2.modStore fun m =>
        { m with poisoned := l :: m.poisoned.filter fun x => decide (x ≠ l) })
      refine ⟨poisoned, free, e, fun line hl => ?_⟩
      rcases meets line hl with old | new
      · rcases List.mem_cons.mp old with own | kept
        · exact Or.inr (own ▸ List.mem_cons_self)
        · exact Or.inl (List.mem_filter.mp kept).1
      · exact Or.inr (List.mem_cons_of_mem _ new)
    · obtain ⟨poisoned, free, e, meets⟩ := ih s.drawBit.2
      exact ⟨poisoned, free, e, fun line hl => (meets line hl).imp id (List.mem_cons_of_mem _)⟩

/-- The home side of a die reset: its home L2, its walker's incarnation, the copies of its L2 and its bittern. -/
def State.dropDie (s : State) (die : Nat) : State :=
  let s := if die < 8 then (s.writeBackHome die).newIncarnation (3 * 512 + die) else s
  let s := s.modCoh fun c => { c with l2 := c.l2.select fun k _ => decide (k / 2 ^ 58 ≠ die) }
  { s with bitterns := s.bitterns.del die }

theorem State.resetDie_eq (s : State) (die : Nat) : s.resetDie die =
    State.absorbFlrs ((((coresOfDie die).foldl (fun s core => s.clearCore core false) s).returnQueues).dropDie die) := rfl

/-- What the home side of a die reset leaves and returns. -/
structure DieDropped (s t : State) (die : Nat) : Prop where
  fibres : t.fibres = s.fibres
  cores : t.cores = s.cores
  inc : ∀ agent, t.coh.inc.get agent 0 =
    if die < 8 ∧ agent = 3 * 512 + die then (s.coh.inc.get agent 0 + 1) % 256 else s.coh.inc.get agent 0
  l2 : ∀ k, t.coh.l2.find k = if k / 2 ^ 58 = die then none else s.coh.l2.find k
  homes : t.coh.homes = s.coh.homes
  crews : t.sched.crews = s.sched.crews
  regs : t.regs = s.regs
  phys : t.store.phys = s.store.phys
  poisoned : ∀ line ∈ t.store.poisoned, line ∈ s.store.poisoned ∨ line ∈ s.linesOfDie die
  gtc : t.gtc = s.gtc
  bitterns : t.bitterns = s.bitterns.del die
  plat : t.plat = s.plat

theorem find_dropL2 (t : Tbl L2Line) (die k : Nat) : (t.select fun k _ => decide (k / 2 ^ 58 ≠ die)).find k =
    if k / 2 ^ 58 = die then none else t.find k := by
  rw [Tbl.find_selectKeys t (fun k => decide (k / 2 ^ 58 ≠ die)) k]
  by_cases k / 2 ^ 58 = die <;> simp [*]

theorem State.dropDie_dropped (s : State) (die : Nat) : DieDropped s (s.dropDie die) die := by
  unfold State.dropDie
  by_cases low : die < 8
  · obtain ⟨poisoned, free, e, meets⟩ := writeBackHome_keeps s die
    rw [if_pos low, e]
    refine ⟨rfl, rfl, fun agent => ?_, fun k => find_dropL2 s.coh.l2 die k, rfl, rfl, rfl, rfl, meets, rfl, rfl, rfl⟩
    refine (State.newIncarnation_get s (3 * 512 + die) agent).trans ?_
    by_cases own : agent = 3 * 512 + die
    · rw [if_pos own, if_pos ⟨low, own⟩, own]
    · rw [if_neg own, if_neg fun h => own h.2]
  · rw [if_neg low]
    exact ⟨rfl, rfl, fun agent => (if_neg fun h => low h.1).symm, fun k => find_dropL2 s.coh.l2 die k, rfl, rfl, rfl, rfl,
      fun line hl => Or.inl hl, rfl, rfl, rfl⟩

/-- The cores of a die are distinct, and its own. -/
theorem mem_coresOfDie {die core : Nat} : core ∈ coresOfDie die ↔ die < 8 ∧ 32 * die ≤ core ∧ core < 32 * die + 32 := by
  unfold coresOfDie
  split
  · next low => simp [upto_eq_range', List.mem_range'_1, low]
  · next high => simp [high]

theorem nodup_coresOfDie (die : Nat) : (coresOfDie die).Nodup := by
  unfold coresOfDie
  split
  · rw [upto_eq_range']
    exact List.nodup_range'
  · exact List.nodup_nil

/-- A die reset of a device at rest, with no fibre on the die. -/
theorem AtRest.resetDie {s : State} (h : AtRest s) {die : Nat} (alone : ∀ p ∈ s.fibres, coreOf p.1 ∉ coresOfDie die) :
    ∃ u v, Cleared s u (coresOfDie die) false ∧ Queued u v ∧ DieDropped v (s.resetDie die) die := by
  have cleared := clearCore_fold (coresOfDie die) (nodup_coresOfDie die)
    (fun c hc => by have := mem_coresOfDie.mp hc; omega) h (fun c hc p hp same => alone p hp (same ▸ hc))
  have queued := ((coresOfDie die).foldl (fun s core => s.clearCore core false) s).returnQueues_queued
  have dropped := ((coresOfDie die).foldl (fun s core => s.clearCore core false) s).returnQueues.dropDie_dropped die
  refine ⟨_, _, cleared, queued, ?_⟩
  rw [State.resetDie_eq, State.absorbFlrs_none]
  · exact dropped
  · rw [dropped.plat, queued.plat]
    exact cleared.rest.flr

end Sys2Proof.Machine

/-! ## What the wider resets return and keep (R370) -/

namespace Sys2Proof.Machine

/-- What a die reset of a device at rest returns and keeps. -/
theorem resetDie_effect {s : State} {die : Nat} (low : die < 8) (fibres : s.fibres = []) (h : AtRest s) :
    let t := s.resetDie die
    (∀ core, 32 * die ≤ core → core < 32 * die + 32 →
        t.fibres.find (fibreKey core 4095) = some (Fibre.clerk core) ∧ (t.unit core).rseq = 1 ∧
        (∀ off, off < 2 ^ 24 → t.coreReg core off = resetValue (coreFields off)) ∧
        t.coh.inc.get core 0 = (s.coh.inc.get core 0 + 1) % 256) ∧
      t.coh.inc.get (3 * 512 + die) 0 = (s.coh.inc.get (3 * 512 + die) 0 + 1) % 256 ∧
      (∀ line, line < 2 ^ 58 → t.coh.l2.find (cacheKey die line) = none) ∧
      (Safety.rising s.bitterns → t.bittern die = .reset) ∧
      (∀ line, line ∈ t.store.poisoned → line ∈ s.store.poisoned ∨ line ∈ s.linesOfDie die) ∧
      t.gtc = s.gtc ∧ t.store.phys = s.store.phys := by
  obtain ⟨u, v, cleared, queued, dropped⟩ := h.resetDie (die := die) (by rw [fibres]; exact fun p hp => absurd hp List.not_mem_nil)
  have store : v.store = s.store := queued.store.trans cleared.store
  have inc : ∀ agent, agent < 3 * 512 → (s.resetDie die).coh.inc.get agent 0 = u.coh.inc.get agent 0 := fun agent ha => by
    rw [dropped.inc, if_neg (by omega), queued.inc]
  refine ⟨fun core lo hi => ?_, ?_, fun line hl => ?_, fun rise => ?_, fun line hl => ?_,
    (dropped.gtc.trans queued.gtc).trans cleared.gtc, dropped.phys.trans (congrArg Store.phys store)⟩
  · have mine : core ∈ coresOfDie die := mem_coresOfDie.mpr ⟨low, lo, hi⟩
    refine ⟨?_, ?_, fun off ho => ?_, ?_⟩
    · rw [dropped.fibres, queued.fibres]
      exact cleared.clerk rfl core mine
    · rw [State.unit_congr dropped.cores, State.unit_congr queued.cores]
      exact cleared.cleared core mine
    · rw [State.coreReg_congr (congrArg Registers.core dropped.regs), State.coreReg_congr queued.core, cleared.coreRegs core off ho,
        if_pos mine]
    · rw [inc core (by omega), cleared.inc, if_pos ⟨core, mine, List.mem_cons_self⟩]
  · rw [dropped.inc, if_pos ⟨low, rfl⟩, queued.inc, cleared.inc, if_neg]
    rintro ⟨c, hc, its⟩
    have := mem_coresOfDie.mp hc
    simp only [agentsOf, List.mem_cons, List.not_mem_nil, or_false] at its
    omega
  · rw [dropped.l2, if_pos (cacheKey_core hl)]
  · unfold State.bittern Tbl.get
    rw [dropped.bitterns, queued.bitterns, cleared.bitterns, rise.find_del]
    rfl
  · have lines : v.linesOfDie die = s.linesOfDie die := by
      unfold State.linesOfDie
      rw [store]
    have := dropped.poisoned line hl
    rwa [store, lines] at this

/-! ### A partition reset -/

theorem State.resetPartition_eq (s : State) (n : Nat) : s.resetPartition n =
    let vfs := (List.range 128).filter fun v => decide (s.partitionOf v = some n)
    let cores := (List.range 256).filter fun c => decide (s.partitionOfCluster (clusterOf c) = some n)
    let t := cores.foldl (fun s core => s.clearCore core !(s.unit core).stopped) (vfs.foldl State.beginFlr s)
    State.absorbFlrs (if cores.isEmpty then t else t.returnQueues) := rfl

/-- A partition reset spares a clerk that runs, and resets its core. -/
theorem resetPartition_effect {s : State} {n core : Nat} {f : Fibre} (fibres : s.fibres = [(fibreKey core 4095, f)])
    (crews : s.sched.crews = []) (homes : s.coh.homes = []) (flr : s.plat.flr = [])
    (vfs : ∀ vf, vf < 128 → s.partitionOf vf ≠ some n) (runs : ∀ c, (s.unit c).stopped = false) (small : core < 256)
    (mine : s.partitionOfCluster (clusterOf core) = some n) (waits : f.waiting = none) :
    let t := s.resetPartition n
    t.fibres.find (fibreKey core 4095) = some f ∧ (t.unit core).rseq = 1 ∧
      ∀ off, off < 2 ^ 24 → t.coreReg core off = resetValue (coreFields off) := by
  have rest : AtRest s := by
    refine ⟨crews, homes, flr, ?_⟩
    rw [fibres]
    intro p hp
    rw [List.mem_singleton.mp hp]
    exact Or.inl waits
  have noVf : ((List.range 128).filter fun v => decide (s.partitionOf v = some n)) = [] :=
    List.filter_eq_nil_iff.mpr fun v hv => by simpa using vfs v (List.mem_range.mp hv)
  have here : core ∈ (List.range 256).filter fun c => decide (s.partitionOfCluster (clusterOf c) = some n) :=
    List.mem_filter.mpr ⟨List.mem_range.mpr small, by simpa using mine⟩
  have cleared := cleared_fold (spared := true) (f := fun s core => s.clearCore core !(s.unit core).stopped)
    (P := fun u => ∀ c, (u.unit c).stopped = false) (fun u c hu => by rw [hu c]; rfl)
    (fun u v c hu one d => by
      rw [one.unit]
      split
      · rfl
      · exact hu d)
    ((List.range 256).filter fun c => decide (s.partitionOfCluster (clusterOf c) = some n)) (List.nodup_range.filter _)
    (fun c hc => by have := List.mem_range.mp (List.mem_filter.mp hc).1; omega) s rest runs (by
      rw [fibres]
      intro c hc p hp
      rw [List.mem_singleton.mp hp]
      have clerk : isClerk (fibreKey core 4095) = true := by
        unfold isClerk indexOf fibreKey
        simp only [decide_eq_true_eq]
        omega
      unfold endsAt
      rw [clerk]
      simp)
  rw [State.resetPartition_eq, noVf]
  dsimp only
  rw [List.foldl_nil]
  generalize ((List.range 256).filter fun c => decide (s.partitionOfCluster (clusterOf c) = some n)) = cores at here cleared
  rw [if_neg (by rw [List.isEmpty_iff]; exact fun e => by rw [e] at here; exact absurd here List.not_mem_nil)]
  have queued := (cores.foldl (fun s core => s.clearCore core !(s.unit core).stopped) s).returnQueues_queued
  rw [State.absorbFlrs_none (queued.rest cleared.rest).flr]
  refine ⟨?_, ?_, fun off ho => ?_⟩
  · rw [queued.fibres, cleared.find _ (Or.inr rfl), fibres]
    exact if_pos rfl
  · rw [State.unit_congr queued.cores]
    exact cleared.cleared core here
  · rw [State.coreReg_congr queued.core, cleared.coreRegs core off ho, if_pos here]

/-! ### A package warm reset -/

/-- What the die resets of a device at rest leave. -/
structure DiesReset (s t : State) (dies : List Nat) : Prop where
  rest : AtRest t
  fibres : ∀ p ∈ t.fibres, ∃ die ∈ dies, coreOf p.1 ∈ coresOfDie die
  gtc : t.gtc = s.gtc
  phys : t.store.phys = s.store.phys
  mgmt : ∀ off, off < 0xD000 → t.mgmt off = s.mgmt off

/-- Die resets one after another, of a device at rest without fibres on those dies. -/
theorem resetDies (dies : List Nat) (distinct : dies.Nodup) : ∀ (s t : State) (done : List Nat), DiesReset s t done →
    (∀ d ∈ dies, d ∉ done) → DiesReset s (dies.foldl State.resetDie t) (done ++ dies) := by
  induction dies with
  | nil =>
    intro s t done h _
    rwa [List.append_nil]
  | cons die dies ih =>
    intro s t done h new
    obtain ⟨first, distinct⟩ := List.nodup_cons.mp distinct
    obtain ⟨u, v, cleared, queued, dropped⟩ := h.rest.resetDie (die := die) (by
      intro p hp own
      obtain ⟨d, hd, its⟩ := h.fibres p hp
      have a := mem_coresOfDie.mp own
      have b := mem_coresOfDie.mp its
      refine new die List.mem_cons_self ?_
      rwa [show die = d by omega])
    have one : DiesReset s (t.resetDie die) (done ++ [die]) := by
      have rest := queued.rest cleared.rest
      refine ⟨⟨dropped.crews.trans rest.crews, dropped.homes.trans rest.homes, by rw [dropped.plat]; exact rest.flr, ?_⟩, ?_,
        ((dropped.gtc.trans queued.gtc).trans cleared.gtc).trans h.gtc, ?_, fun off ho => ?_⟩
      · rw [dropped.fibres]
        intro p hp
        rw [State.unit_congr dropped.cores]
        exact rest.waits p hp
      · rw [dropped.fibres, queued.fibres]
        intro p hp
        rcases cleared.fibres p hp with old | ⟨-, its⟩
        · obtain ⟨d, hd, its⟩ := h.fibres p old
          exact ⟨d, List.mem_append_left _ hd, its⟩
        · exact ⟨die, List.mem_append_right _ List.mem_cons_self, its⟩
      · rw [dropped.phys, queued.store, cleared.store, h.phys]
      · rw [State.mgmt_congr (congrArg Registers.mgmt dropped.regs), queued.mgmt, if_neg (by omega), State.mgmt_congr cleared.mgmt,
          h.mgmt off ho]
    rw [List.foldl_cons, List.append_cons]
    refine ih distinct s (t.resetDie die) (done ++ [die]) one ?_
    intro d hd
    rw [List.mem_append, List.mem_singleton]
    rintro (old | own)
    · exact new d (List.mem_cons_of_mem _ hd) old
    · exact first (own ▸ hd)

/-- The last part of a package warm reset: the held controller, and the registers that return. -/
def State.warmEnd (s : State) : State :=
  let s := if s.plat.standbyHeld then s.newIncarnation (6 * 512 + (1 - s.plat.activeController)) else s
  let s := { s with regs := { s.regs with mgmt := s.regs.mgmt.select fun k _ => !returnsWarm k } }
  let s := s.modSched fun c => { c with bal := [], debt := [], lent := [], budgets := [] }
  s.modPlat fun p => { p with standbyHeld := false, activeController := 0, beatSeen := p.beatSeen.del 256 }

theorem State.resetWarm_eq (s : State) : s.resetWarm = ((List.range 10).foldl State.resetDie s).warmEnd := rfl

theorem State.warmEnd_mgmt (s : State) (off : Nat) :
    s.warmEnd.mgmt off = if returnsWarm off then resetValue (mgmtFields off) else s.mgmt off := by
  have regs : s.warmEnd.regs.mgmt = s.regs.mgmt.select fun k _ => !returnsWarm k := by
    unfold State.warmEnd
    split <;> rfl
  unfold State.mgmt
  rw [regs, Tbl.find_selectKeys s.regs.mgmt (fun k => !returnsWarm k)]
  cases returnsWarm off <;> rfl

theorem State.warmEnd_keeps (s : State) : s.warmEnd.gtc = s.gtc ∧ s.warmEnd.store = s.store := by
  unfold State.warmEnd
  split <;> exact ⟨rfl, rfl⟩

/-- What a package warm reset returns and keeps. -/
theorem resetWarm_effect (s : State) :
    let t := s.resetWarm
    (∀ off, (0x1E00 ≤ off ∧ off < 0x2810) ∨ (0x4000 ≤ off ∧ off < 0x6600) ∨ off = 0x7028 ∨ (0xD000 ≤ off ∧ off < 0xD800) ∨
        (0xE000 ≤ off ∧ off < 0xF000) → t.mgmt off = resetValue (mgmtFields off)) ∧
      t.plat.standbyHeld = false ∧ t.plat.activeController = 0 ∧
      (s.fibres = [] ∧ s.sched.crews = [] ∧ s.coh.homes = [] ∧ s.plat.flr = [] →
        t.gtc = s.gtc ∧ t.store.phys = s.store.phys ∧ t.mgmt 0x7100 = s.mgmt 0x7100 ∧ t.mgmt 0x7200 = s.mgmt 0x7200) := by
  dsimp only
  rw [State.resetWarm_eq]
  refine ⟨fun off ho => ?_, rfl, rfl, ?_⟩
  · rw [State.warmEnd_mgmt, if_pos (by simpa [returnsWarm] using ho)]
  · rintro ⟨fibres, crews, homes, flr⟩
    have rest := atRest_of_empty fibres crews homes flr
    have dies := resetDies (List.range 10) List.nodup_range s s []
      ⟨rest, by rw [fibres]; exact fun p hp => absurd hp List.not_mem_nil, rfl, rfl, fun _ _ => rfl⟩
      fun _ _ => List.not_mem_nil
    obtain ⟨gtc, store⟩ := ((List.range 10).foldl State.resetDie s).warmEnd_keeps
    refine ⟨gtc.trans dies.gtc, (congrArg Store.phys store).trans dies.phys, ?_, ?_⟩
    · rw [State.warmEnd_mgmt, if_neg (by decide)]
      exact dies.mgmt _ (by decide)
    · rw [State.warmEnd_mgmt, if_neg (by decide)]
      exact dies.mgmt _ (by decide)

end Sys2Proof.Machine

/-! ## What a function-level reset frees and returns (R371) -/

namespace Sys2Proof.Machine

/-! ### What is freed -/

theorem freeCores_unit (s : State) (vf core : Nat) :
    (∀ n q, ((s.freeCores vf).unit core).queues.find n = some q → q.owner ≠ some vf) ∧
      ∀ n p, ((s.freeCores vf).unit core).perms.find n = some p → p.owner ≠ vf := by
  unfold State.freeCores State.unit Tbl.get
  dsimp only
  rw [Tbl.find_mapVals]
  cases s.cores.find core with
  | none =>
    constructor
    · intro n q h
      cases h
    · intro n p h
      cases h
  | some u =>
    constructor
    · intro n q h
      exact of_decide_eq_true (Tbl.of_find_select (p := fun _ (q : QReg) => decide (q.owner ≠ some vf)) h)
    · intro n p h
      exact of_decide_eq_true (Tbl.of_find_select (p := fun _ (p : PermSlot) => decide (p.owner ≠ vf)) h)

theorem freeCores_acc {s : State} {vf i : Nat} {a : AccContext} (h : (s.freeCores vf).acc.find i = some a) : a.holder ≠ some vf :=
  of_decide_eq_true (Tbl.of_find_select (p := fun _ (a : AccContext) => decide (a.holder ≠ some vf)) h)

theorem freeQueues_queue (s : State) (vf : Nat) {q : Nat} (h : q < 64) :
    (s.freeQueues vf).sched.queues.find (vf * 64 + q) = none := by
  refine (find_dropKeys s.sched.queues (vf * 64) (vf * 64 + 64) (vf * 64 + q)).trans (if_neg ?_)
  omega

theorem freeQueues_launch {s : State} {vf i : Nat} {l : Launch} (h : (s.freeQueues vf).sched.launches.find i = some l) :
    l.vf ≠ vf :=
  of_decide_eq_true (Tbl.of_find_select (p := fun _ (l : Launch) => decide (l.vf ≠ vf)) h)

/-- A code entry of the function is freed under its next generation (R195). -/
theorem freeCode_entry {s : State} {vf i : Nat} {e : CodeEntry} (hi : i < 4096) (only : s.code = [(vf * 4096 + i, e)])
    (valid : e.valid = true) : (s.freeCode vf).entryAt vf i =
      { CodeEntry.blank with gen := if e.gen = 4095 then 1 else e.gen + 1, twinGen := e.twinGen + 1 } := by
  have mine : (s.code.select fun k e => decide (k / 4096 = vf) && (e.reserved || e.valid)) = s.code := by
    rw [only]
    have : (vf * 4096 + i) / 4096 = vf := by omega
    simp [Tbl.select, this, valid]
  unfold State.freeCode
  rw [mine, only]
  have index : (vf * 4096 + i) % 4096 = i := by omega
  simp only [List.foldl_cons, List.foldl_nil, index]
  unfold State.entryAt State.setEntry
  exact Tbl.get_put_same _ _ _ _

theorem freeVf_segs (s : State) (vf : Nat) {key : Nat} (h : key / 2 ^ 48 = vf) : (s.freeVf vf).segs.find key = none := by
  unfold State.freeVf
  dsimp only
  refine (Tbl.find_selectKeys _ (fun k => decide (k / 2 ^ 48 ≠ vf)) key).trans (if_neg ?_)
  simpa using h

theorem freeVf_kobjs {s : State} {vf key : Nat} {o : KObject} (h : key / 2 ^ 22 = vf) (found : (s.freeVf vf).kobjs.find key = some o) :
    o.free = true := by
  unfold State.freeVf at found
  dsimp only at found
  rw [Tbl.find_mapVals] at found
  obtain ⟨old, -, e⟩ := Option.map_eq_some_iff.mp found
  rw [← e]
  split
  · rfl
  · next no =>
    by_contra held
    exact no ⟨h, by simpa using held⟩

/-! ### What returns -/

theorem returnFlr_bar0 (s : State) (vf : Nat) {q off : Nat} (hq : q < 64) (ho : off < 64) :
    (s.returnFlr vf).bar0 vf (queueOff q off) = resetValue (bar0Fields vf (queueOff q off)) := by
  have regs : (s.returnFlr vf).regs.bar0 = dropQueueRegs s.regs.bar0 vf := by
    rw [State.returnFlr_eq, (State.btFlr_keeps _ vf).1]
    rfl
  have inside : ¬ (vf * 2 ^ 23 + queueOff q off < vf * 2 ^ 23 + 0x10000 ∨ vf * 2 ^ 23 + 0x11000 ≤ vf * 2 ^ 23 + queueOff q off) := by
    unfold queueOff
    omega
  unfold State.bar0
  rw [regs, dropQueueRegs, find_dropKeys, if_neg inside]

theorem State.setMgmt_at (s : State) (at_ v off : Nat) :
    (s.setMgmt at_ v).mgmt off = if off = at_ then v % 2 ^ 64 else s.mgmt off := by
  unfold State.mgmt State.setMgmt
  dsimp only
  rw [Tbl.find_put]
  by_cases own : off = at_
  · rw [if_pos own, if_pos own]
    exact BitVec.toNat_ofNat v 64
  · rw [if_neg own, if_neg own]

/-- A byte of a register that has been written is what was written. -/
theorem bits_setBits_epoch (v x : Nat) : bits (setBits v 39 32 x % 2 ^ 64) 39 32 = x % 256 := by
  simp only [bits, setBits]
  omega

theorem returnEpoch_mgmtF (s : State) (vf io off : Nat) :
    (s.returnEpoch vf io).mgmtF off 39 32 = if off = netOff io (0x800 + 0x10 * vf) then
        bits (resetValue (mgmtFields off) % 2 ^ 64) 39 32
      else s.mgmtF off 39 32 := by
  unfold State.returnEpoch State.mgmtF
  simp only [State.setMgmt_at]
  by_cases epoch : off = netOff io (0x800 + 0x10 * vf) + 8
  · rw [if_pos epoch, if_neg (by omega), bits_setBits_epoch, ← epoch]
    exact Nat.mod_eq_of_lt (Nat.mod_lt _ (by decide))
  · rw [if_neg epoch]
    split
    · next at_ => rw [at_]
    · rfl

/-- EPOCH keeps counting over an FLR (R371). -/
theorem returnFlr_epoch (s : State) (vf io : Nat) : (s.returnFlr vf).epochOf io vf = s.epochOf io vf := by
  have regs := (State.btFlr_keeps (((s.dropFlrRegs vf).returnEpoch vf 0).returnEpoch vf 1) vf).1
  have kept : (s.dropFlrRegs vf).mgmtF (netOff io (0x808 + 0x10 * vf)) 39 32 = s.mgmtF (netOff io (0x808 + 0x10 * vf)) 39 32 := by
    unfold State.mgmtF State.mgmt State.dropFlrRegs
    dsimp only
    rw [find_dropKeys, if_pos (by unfold netOff; omega)]
  unfold State.epochOf
  rw [State.returnFlr_eq]
  have same : (((((s.dropFlrRegs vf).returnEpoch vf 0).returnEpoch vf 1).btFlr vf)).mgmtF (netOff io (0x808 + 0x10 * vf)) 39 32 =
      (((s.dropFlrRegs vf).returnEpoch vf 0).returnEpoch vf 1).mgmtF (netOff io (0x808 + 0x10 * vf)) 39 32 := by
    unfold State.mgmtF
    rw [State.mgmt_congr (congrArg Registers.mgmt regs)]
  rw [same, returnEpoch_mgmtF, if_neg (by unfold netOff; omega), returnEpoch_mgmtF, if_neg (by unfold netOff; omega), kept]

/-- What the end of an FLR leaves, and what it tells. -/
theorem endFlr_keeps (u : State) (vf : Nat) : (u.endFlr vf).segs = u.segs ∧ (u.endFlr vf).kobjs = u.kobjs ∧
    (u.endFlr vf).regs = u.regs ∧ (u.endFlr vf).cores = u.cores ∧ (u.endFlr vf).sched = u.sched ∧ (u.endFlr vf).code = u.code :=
  ⟨rfl, rfl, rfl, rfl, rfl, rfl⟩

theorem endFlr_flr {u : State} (vf : Nat) (h : Safety.rising u.plat.flr) : (u.endFlr vf).plat.flr.find vf = none := by
  have flr : (u.endFlr vf).plat.flr = ((u.plat.flr.del vf).del (128 + vf)).del (256 + vf) := rfl
  rw [flr, Tbl.find_del_ne _ (by omega), Tbl.find_del_ne _ (by omega)]
  exact h.find_del vf

/-- An FLR whose function has no fibre left ends. -/
theorem flrFinish_begun {s : State} {vf t₀ : Nat} (begun : s.plat.flr.find vf = some t₀) (none : s.fibresOf vf = []) :
    s.flrFinish vf = ((s.freeVf vf).returnFlr vf).endFlr vf := by
  rw [State.flrFinish_eq]
  refine if_neg ?_
  rw [begun, none]
  simp

/-- What an FLR frees and returns, and how it ends (R371). -/
theorem flr_effect (s : State) (vf : Nat) :
    let t := s.freeVf vf
    (∀ core n q, ((s.freeCores vf).unit core).queues.find n = some q → q.owner ≠ some vf) ∧
      (∀ core n p, ((s.freeCores vf).unit core).perms.find n = some p → p.owner ≠ vf) ∧
      (∀ i a, (s.freeCores vf).acc.find i = some a → a.holder ≠ some vf) ∧
      (∀ q, q < 64 → (s.freeQueues vf).sched.queues.find (vf * 64 + q) = none) ∧
      (∀ i l, (s.freeQueues vf).sched.launches.find i = some l → l.vf ≠ vf) ∧
      (∀ i e, i < 4096 → s.code = [(vf * 4096 + i, e)] → e.valid = true →
        let e' := (s.freeCode vf).entryAt vf i
        e'.valid = false ∧ e'.reserved = false ∧ e'.gen = (if e.gen = 4095 then 1 else e.gen + 1)) ∧
      (∀ key, key / 2 ^ 48 = vf → t.segs.find key = none) ∧
      (∀ key o, key / 2 ^ 22 = vf → t.kobjs.find key = some o → o.free = true) ∧
      (∀ q off, q < 64 → off < 64 → (s.returnFlr vf).bar0 vf (queueOff q off) = resetValue (bar0Fields vf (queueOff q off))) ∧
      (∀ io, io < 2 → vf < 128 → (s.returnFlr vf).epochOf io vf = s.epochOf io vf) ∧
      (s.fibresOf vf ≠ [] → s.flrFinish vf = s) ∧
      ∀ t₀, s.plat.flr.find vf = some t₀ → s.fibresOf vf = [] →
        let u := (s.freeVf vf).returnFlr vf
        (s.flrFinish vf).segs = u.segs ∧ (s.flrFinish vf).kobjs = u.kobjs ∧ (s.flrFinish vf).regs = u.regs ∧
        (s.flrFinish vf).cores = u.cores ∧ (s.flrFinish vf).sched = u.sched ∧ (s.flrFinish vf).code = u.code ∧
        (Safety.rising s.plat.flr → (s.flrFinish vf).plat.flr.find vf = none) ∧
        (s.flrFinish vf).plat.answers = u.plat.answers ++ [[5, vf]] := by
  refine ⟨fun core => (freeCores_unit s vf core).1, fun core => (freeCores_unit s vf core).2, fun i a => freeCores_acc,
    fun q => freeQueues_queue s vf, fun i l => freeQueues_launch, fun i e hi only valid => ?_, fun key => freeVf_segs s vf,
    fun key o => freeVf_kobjs, fun q off => returnFlr_bar0 s vf, fun io _ _ => returnFlr_epoch s vf io, fun some_ => ?_,
    fun t₀ begun none => ?_⟩
  · dsimp only
    rw [freeCode_entry hi only valid]
    exact ⟨rfl, rfl, rfl⟩
  · rw [State.flrFinish_eq, if_pos (Or.inr (by simpa using some_))]
  · have plat : ((s.freeVf vf).returnFlr vf).plat = s.plat := (State.returnFlr_plat _ vf).trans (s.freeVf_keeps vf).2
    obtain ⟨segs, kobjs, regs, cores, sched, code⟩ := endFlr_keeps ((s.freeVf vf).returnFlr vf) vf
    have answers : ∀ u : State, (u.endFlr vf).plat.answers = u.plat.answers ++ [[5, vf]] := fun u => rfl
    dsimp only
    rw [flrFinish_begun begun none]
    exact ⟨segs, kobjs, regs, cores, sched, code, fun rise => endFlr_flr vf (by rw [plat]; exact rise), answers _⟩

end Sys2Proof.Machine

/-! ## Events of the platform (R15, R136, R370 to R376, R379) -/

namespace Sys2Proof.Machine

theorem State.accepted_recovery {s : State} (h : s.plat.recovery = true) (g : State → State) : s.accepted g = s := if_pos h

theorem State.accepted_run {s : State} (h : s.plat.recovery = false) (g : State → State) : s.accepted g = g s :=
  if_neg (by rw [h]; exact Bool.false_ne_true)

/-- In recovery the device stays as it is (R374). -/
theorem recovery_keeps {s : State} (h : s.plat.recovery = true) (vf : Nat) (v : BitVec 64) (port : HostPort) (request : SpdmRequest)
    (key : BitVec 256) (n : Nat) :
    ∀ i ∈ [Instr.coreReset n, .dieReset n, .partitionReset n, .packageWarmReset, .vfFlr vf, .spdmRequest port request,
      .ideKm vf key, .lockInterfaceRequest vf, .startInterfaceRequest vf, .stopInterfaceRequest vf,
      .tdispFrozenWrite port vf n v, .mctpStatusRead (.pcie port) n, .mctpResetOrder .i3c .warm], exec i s = .next s := by
  have accepted : ∀ g, Host.Outcome.next (s.accepted g) = (.next s : Host.Outcome State Fault Refusal) := fun g =>
    congrArg _ (State.accepted_recovery h g)
  have written : ∀ g, Host.Outcome.next (s.fromPort port g) = (.next s : Host.Outcome State Fault Refusal) := fun g =>
    congrArg _ (if_pos h)
  have read : execMctpStatusRead (.pcie port) n s = .next s := congrArg _ (if_pos h)
  have ordered : execMctpResetOrder .i3c .warm s = .next s := by
    unfold execMctpResetOrder State.acceptsOrder
    rw [h]
    rfl
  simp only [List.forall_mem_cons, List.not_mem_nil, false_imp_iff, implies_true, and_true]
  exact ⟨accepted _, accepted _, accepted _, accepted _, accepted _, accepted _, accepted _, accepted _, accepted _, accepted _,
    written _, read, ordered⟩

/-! ### Heartbeats (R372) -/

theorem heartbeatCheck_effect {s : State} (h : s.plat.recovery = false) :
    let next := s.plat.checkedAt + s.mgmtF 0x7200 15 0 * 1000
    (next ≤ s.gtc → exec .heartbeatCheck s =
        .next ((List.range 256).foldl State.readBeat (s.modPlat fun p => { p with checkedAt := s.gtc }))) ∧
      (s.gtc < next → exec .heartbeatCheck s = .next s) := by
  have meaning : exec .heartbeatCheck s = .next s.checkBeats := congrArg _ (State.accepted_run h _)
  rw [meaning]
  exact ⟨fun due => congrArg _ (if_neg (Nat.not_lt.mpr due)), fun early => congrArg _ (if_pos early)⟩

theorem readBeat_seen {s : State} {core n : Nat} (h : s.plat.beatSeen.find core = some (s.coreF core 0x140 63 0, n)) :
    (n + 1 < s.mgmtF 0x7200 23 16 → ((s.readBeat core).plat.beatSeen.find core) = some (s.coreF core 0x140 63 0, n + 1)) ∧
      (s.mgmtF 0x7200 23 16 ≤ n + 1 → s.readBeat core = (s.raiseCore core 0x001A 0xFF core (n + 1)).resetCore core) := by
  have meaning : s.readBeat core = if n + 1 < s.mgmtF 0x7200 23 16 then
      s.modPlat fun p => { p with beatSeen := p.beatSeen.put core (s.coreF core 0x140 63 0, n + 1) }
    else (s.raiseCore core 0x001A 0xFF core (n + 1)).resetCore core := by
    unfold State.readBeat
    rw [h]
    exact if_neg fun ne => ne rfl
  rw [meaning]
  refine ⟨fun few => ?_, fun many => if_neg (Nat.not_lt.mpr many)⟩
  rw [if_pos few]
  exact Tbl.find_put_same _ _ _

theorem mcBeat_counts {s : State} {c : Nat} (hc : c < 2) (run : s.plat.recovery = false)
    (free : s.plat.standbyHeld = false ∨ c = s.plat.activeController)
    (due : s.plat.beatAt.get c 0 + s.mgmtF 0x7200 15 0 * 1000 ≤ s.gtc) :
    ∃ t : State, exec (.mcBeat c) s = .next t ∧ t.plat.beats.get c 0 = s.plat.beats.get c 0 + 1 := by
  have meaning : exec (.mcBeat c) s = .next (s.beat c) := congrArg _ (State.accepted_run run _)
  refine ⟨_, meaning, ?_⟩
  have watches : ∀ u : State, u.watchBeat.plat.beats = u.plat.beats := by
    intro u
    unfold State.watchBeat
    dsimp only [State.modPlat]
    split <;> rfl
  unfold State.beat
  rw [if_neg]
  · dsimp only
    split
    · exact Tbl.get_put_same _ _ _ _
    · rw [watches]
      exact Tbl.get_put_same _ _ _ _
  · rintro (big | ⟨held, other⟩ | early)
    · omega
    · rcases free with loose | active
      · rw [loose] at held
        cases held
      · exact other active
    · exact absurd early (Nat.not_lt.mpr due)

theorem mcTakeover_effect {s : State} {n : Nat} (loose : s.plat.standbyHeld = false)
    (seen : s.plat.beatSeen.find 256 = some (s.plat.beats.get s.plat.activeController 0, n)) (many : s.mgmtF 0x7200 23 16 ≤ n) :
    ∃ t : State, exec .mcTakeover s = .next t ∧ t.plat.activeController = 1 - s.plat.activeController ∧
      t.plat.standbyHeld = true := by
  have get : s.plat.beatSeen.get 256 (0, 0) = (s.plat.beats.get s.plat.activeController 0, n) := by
    unfold Tbl.get
    rw [seen]
    rfl
  have waits : ¬(s.plat.standbyHeld = true ∨ (s.plat.beatSeen.get 256 (0, 0)).2 < s.mgmtF 0x7200 23 16 ∨
      (s.plat.beatSeen.get 256 (0, 0)).1 ≠ s.plat.beats.get s.plat.activeController 0) := by
    rw [get, loose]
    rintro (held | few | differs)
    · cases held
    · exact absurd few (Nat.not_lt.mpr many)
    · exact differs rfl
  exact ⟨_, congrArg Host.Outcome.next (if_neg waits), rfl, rfl⟩

/-! ### Cold resets (R370, R374) -/

/-- The hosts' memories stay when every cell of the device goes. -/
theorem read_hosts (m : Memory) (a : Nat) : Memory.read (m.filter fun c => decide (targetOf c.1 ≠ 0)) a =
    if targetOf a = 0 then 0 else m.read a := by
  induction m with
  | nil => exact (ite_self _).symm
  | cons cell rest ih =>
    obtain ⟨b, v⟩ := cell
    by_cases host : targetOf b = 0
    · rw [List.filter_cons_of_neg (by simp [host]), ih]
      split
      · rfl
      · next elsewhere =>
        have differs : ¬b = a := fun same => elsewhere (same ▸ host)
        exact (if_neg differs).symm
    · rw [List.filter_cons_of_pos (by simp [host])]
      simp only [Memory.read]
      by_cases same : b = a
      · rw [if_pos same, if_pos same, if_neg (same ▸ host)]
      · rw [if_neg same, if_neg same, ih]

theorem coldReset_effect (s : State) (image : List Byte) :
    (Config.imageVerifies image = true → ∃ t : State, exec (.coldReset image) s = .next t ∧ t.plat.stages = [image] ∧
      t.plat.recovery = false ∧ t.gtc = 0 ∧
      ∀ a, t.store.phys.read a = if targetOf a = 0 then 0 else s.store.phys.read a) ∧
    (Config.imageVerifies image = false → ∃ t : State, exec (.coldReset image) s = .next t ∧ t.plat.recovery = true ∧
      t.fibres = []) := by
  constructor
  · intro verifies
    exact ⟨_, congrArg Host.Outcome.next (if_pos verifies), rfl, rfl, rfl, read_hosts s.store.phys⟩
  · intro fails
    exact ⟨_, congrArg Host.Outcome.next (if_neg (by rw [fails]; exact Bool.false_ne_true)), rfl, rfl⟩

/-! ### Reset orders (R370, R371, R373, R374) -/

theorem resets_accepted {s : State} (h : s.plat.recovery = false) :
    (∀ core, core < 256 → exec (.coreReset core) s = .next (s.resetCore core)) ∧
      (∀ die, die < 10 → exec (.dieReset die) s = .next (s.resetDie die)) ∧
      (∀ n, n < 8 → exec (.partitionReset n) s = .next (s.resetPartition n)) ∧
      exec .packageWarmReset s = .next s.resetWarm := by
  have accepted : ∀ g, Host.Outcome.next (s.accepted g) = (.next (g s) : Host.Outcome State Fault Refusal) := fun g =>
    congrArg _ (State.accepted_run h g)
  exact ⟨fun _ low => (accepted _).trans (congrArg _ (if_pos low)), fun _ low => (accepted _).trans (congrArg _ (if_pos low)),
    fun _ low => (accepted _).trans (congrArg _ (if_pos low)), accepted _⟩

theorem vfFlr_effect {s : State} {vf : Nat} (low : vf < 128) (h : s.plat.recovery = false) (free : s.plat.flr.find vf = none) :
    exec (.vfFlr vf) s = .next
      (((((s.modPlat fun p => { p with flr := p.flr.put vf s.gtc }).dropHeads vf).netReset vf).killVf vf).flrFinish vf) := by
  have begins : ¬((s.plat.flr.find vf).isSome = true ∨ 128 ≤ vf) := by
    rw [free]
    rintro (begun | high)
    · cases begun
    · omega
  exact congrArg Host.Outcome.next ((State.accepted_run h _).trans (if_neg begins))

theorem resetGraceExpiry_effect {s : State} {vf t₀ : Nat} (begun : s.plat.flr.find vf = some t₀) :
    (t₀ + s.mgmtF 0x7200 47 32 * 1000 ≤ s.gtc →
      exec (.resetGraceExpiry vf) s = .next ((((s.fibresOf vf).foldl State.killNow s).endRuns s).flrFinish vf)) ∧
    (s.gtc < t₀ + s.mgmtF 0x7200 47 32 * 1000 → exec (.resetGraceExpiry vf) s = .next (s.flrFinish vf)) := by
  have meaning : exec (.resetGraceExpiry vf) s = .next ((if s.gtc < t₀ + s.mgmtF 0x7200 47 32 * 1000 then s
      else ((s.fibresOf vf).foldl State.killNow s).endRuns s).flrFinish vf) := by
    change Host.Outcome.next (s.graceKill vf) = _
    unfold State.graceKill
    rw [begun]
    rfl
  rw [meaning]
  exact ⟨fun late => by rw [if_neg (Nat.not_lt.mpr late)], fun early => by rw [if_pos early]⟩

theorem mctpStatusRead_answers {s : State} (h : s.plat.recovery = false) (offset : Nat) (port : HostPort) :
    exec (.mctpStatusRead .i3c offset) s = .next (s.answer [8, 2, offset, s.readMgmt offset]) ∧
      exec (.mctpStatusRead (.pcie port) offset) s = .next (s.answer [8, portNumber port, offset, s.readMgmt offset]) := by
  have running : ¬s.plat.recovery = true := by
    rw [h]
    exact Bool.false_ne_true
  exact ⟨congrArg Host.Outcome.next (if_neg running), congrArg Host.Outcome.next (if_neg running)⟩

theorem State.standbyPort_ne (s : State) : s.standbyPort ≠ s.activePort := by
  unfold State.standbyPort
  cases s.activePort <;> simp

theorem mctpResetOrder_effect {s : State} (h : s.plat.recovery = false) (level : ResetLevel) :
    exec (.mctpResetOrder .i3c level) s = .next (s.resetAt level) ∧
      exec (.mctpResetOrder (.pcie s.activePort) level) s = .next (s.resetAt level) ∧
      (level ≠ .warm → exec (.mctpResetOrder (.pcie s.standbyPort) level) s = .next s) := by
  have i3c : s.acceptsOrder .i3c level = true := by simp [State.acceptsOrder, h]
  have active : s.acceptsOrder (.pcie s.activePort) level = true := by simp [State.acceptsOrder, h]
  refine ⟨congrArg Host.Outcome.next (if_pos i3c), congrArg Host.Outcome.next (if_pos active), fun cold => ?_⟩
  have standby : ¬s.acceptsOrder (.pcie s.standbyPort) level = true := by
    simp [State.acceptsOrder, h, s.standbyPort_ne, cold]
  exact congrArg Host.Outcome.next (if_neg standby)

theorem mctpFirmwareLoad_effect (s : State) (image : List Byte) :
    (s.plat.recovery = true → exec (.mctpFirmwareLoad image) s = .next (s.resetCold image)) ∧
      (s.plat.recovery = false → exec (.mctpFirmwareLoad image) s = .next s) :=
  ⟨fun waits => congrArg Host.Outcome.next (if_pos waits),
    fun runs => congrArg Host.Outcome.next (if_neg (by rw [runs]; exact Bool.false_ne_true))⟩

/-! ### SPDM, keys and TDISP (R374 to R376) -/

theorem spdmRequest_effect {s : State} (h : s.plat.recovery = false) (port : HostPort) :
    exec (.spdmRequest port .algorithms) s = .next (s.answer [6, portNumber port, 1, 2, 3, 4]) ∧
      (∀ b stage, s.plat.stages[b]? = some stage → exec (.spdmRequest port (.measurements b)) s =
        .next (s.answer [7, portNumber port, (Config.sha3 stage).toNat])) ∧
      (∀ code, exec (.spdmRequest port (.other code)) s = .next (s.answer [9, portNumber port, code])) ∧
      exec (.spdmRequest port .openSession) s = .next (s.modPlat fun p => { p with session := some port }) ∧
      exec (.spdmRequest port .endSession) s = .next (s.modPlat fun p => { p with session := none }) := by
  have accepted : ∀ g, Host.Outcome.next (s.accepted g) = (.next (g s) : Host.Outcome State Fault Refusal) := fun g =>
    congrArg _ (State.accepted_run h g)
  refine ⟨accepted _, fun b stage found => (accepted _).trans ?_, fun _ => accepted _, accepted _, accepted _⟩
  have digest : s.measurement b = [(Config.sha3 stage).toNat] := by
    unfold State.measurement
    rw [found]
  dsimp only
  rw [digest]
  rfl

theorem ideKm_effect {s : State} (h : s.plat.recovery = false) (vf : Nat) (key : BitVec 256) (port : HostPort) :
    (s.plat.session = some port → ∃ t : State, exec (.ideKm vf key) s = .next t ∧ t.plat.keys.find vf = some key) ∧
      (s.plat.session = none → exec (.ideKm vf key) s = .next s) := by
  constructor
  · intro inside
    have opened : s.plat.session.isSome = true := by
      rw [inside]
      rfl
    exact ⟨_, congrArg Host.Outcome.next ((State.accepted_run h _).trans (if_pos opened)), Tbl.find_put_same _ _ _⟩
  · intro outside
    have closed : ¬s.plat.session.isSome = true := by
      rw [outside]
      exact Bool.false_ne_true
    exact congrArg Host.Outcome.next ((State.accepted_run h _).trans (if_neg closed))

theorem lockInterface_effect {s : State} (h : s.plat.recovery = false) (vf : Nat) :
    (s.tdisp vf = .unlocked → ∃ t : State, exec (.lockInterfaceRequest vf) s = .next t ∧ t.tdisp vf = .locked) ∧
      (s.tdisp vf ≠ .unlocked → exec (.lockInterfaceRequest vf) s = .next s) :=
  ⟨fun free => ⟨_, congrArg Host.Outcome.next ((State.accepted_run h _).trans (if_pos free)), Tbl.get_put_same _ _ _ _⟩,
    fun other => congrArg Host.Outcome.next ((State.accepted_run h _).trans (if_neg other))⟩

theorem startInterface_effect {s : State} (h : s.plat.recovery = false) (vf : Nat) :
    (s.tdisp vf = .locked → ∃ t : State, exec (.startInterfaceRequest vf) s = .next t ∧ t.tdisp vf = .run) ∧
      (s.tdisp vf ≠ .locked → exec (.startInterfaceRequest vf) s = .next s) :=
  ⟨fun locked => ⟨_, congrArg Host.Outcome.next ((State.accepted_run h _).trans (if_pos locked)), Tbl.get_put_same _ _ _ _⟩,
    fun other => congrArg Host.Outcome.next ((State.accepted_run h _).trans (if_neg other))⟩

theorem stopInterface_effect {s : State} (h : s.plat.recovery = false) {vf : Nat} (low : vf < 128) :
    exec (.stopInterfaceRequest vf) s =
      .next (((s.modPlat fun p => { p with flr := p.flr.put (256 + vf) s.gtc }).beginFlr vf).flrFinish vf) :=
  congrArg Host.Outcome.next ((State.accepted_run h _).trans (if_neg (Nat.not_le.mpr low)))

/-- An interface that is locked or runs falls into ERROR when its keys fail it, or when the ACTIVE port writes what is frozen. -/
theorem tdisp_error {s : State} {vf : Nat} (frozen : s.tdisp vf = .locked ∨ s.tdisp vf = .run) (v : BitVec 64) :
    let err := (s.modPlat fun p =>
      { p with tdisp := p.tdisp.put vf .error, flr := p.flr.put (128 + vf) s.gtc }).killVf vf
    exec (.ideIntegrityFailure vf) s = .next err ∧
      (s.plat.recovery = false → ∀ offset, exec (.tdispFrozenWrite s.activePort vf offset v) s = .next err) := by
  intro err
  have fails : s.tdispError vf = err := if_pos frozen
  refine ⟨congrArg Host.Outcome.next fails, fun runs offset => congrArg Host.Outcome.next ?_⟩
  have running : ¬s.plat.recovery = true := by
    rw [runs]
    exact Bool.false_ne_true
  exact (if_neg running).trans ((if_pos rfl).trans ((if_pos frozen).trans fails))

/-! ### Throttling (R379) -/

theorem thermalStepChange_effect {s : State} {step : Nat} (low : step ≤ 3) (other : step ≠ s.plat.thermal) (sensor : Nat)
    (temperature : Word) : ∃ t : State, exec (.thermalStepChange sensor step temperature) s = .next t ∧ t.plat.thermal = step := by
  have changes : ¬(3 < step ∨ step = s.plat.thermal) := by
    rintro (high | same)
    · omega
    · exact other same
  exact ⟨_, congrArg Host.Outcome.next (if_neg changes), rfl⟩

end Sys2Proof.Machine

/-! ## Soft errors (R136, R137) -/

namespace Sys2Proof.Machine

variable (s : State)

theorem softKill_crew {crew : Nat} {k : Crew} (found : s.sched.crews.find crew = some k) (info : Nat) (relaunch : Bool) :
    (k.ended = true → s.softKill relaunch info crew = s) ∧
      (k.ended = false →
        let tenant := match s.sched.launches.find k.launch with | some l => l.vf | none => 0
        let t := s.postNotice k.core (s.softRecord k.core tenant info (s.crewFibres crew).head?)
        s.softKill relaunch info crew =
          (t.modCrew crew fun k => if relaunch ∧ k.killCause.isNone then { k with ecc := true } else k).killCrew crew 18) := by
  unfold State.softKill
  rw [found]
  refine ⟨fun ended => if_pos ended, fun runs => if_neg ?_⟩
  rw [runs]
  exact Bool.false_ne_true

theorem eccOutcome_scratch (core g : Nat) :
    (∀ h, (s.unit core).scratch.find g = some h → s.eccOutcome (.scratch core g) = s.softKill true g h.2) ∧
      ((s.unit core).scratch.find g = none → s.eccOutcome (.scratch core g) = s) := by
  unfold State.eccOutcome
  dsimp only
  exact ⟨fun h held => by rw [held], fun free => by rw [free]⟩

theorem eccOutcome_weight (core g : Nat) :
    ((s.unit core).weight.find g = none → s.eccOutcome (.weight core g) = s) ∧
      (∀ h crew k, (s.unit core).weight.find g = some h → s.crewsOn core = [(crew, k)] →
        s.eccOutcome (.weight core g) = if k.launch = h.2 then s.softKill true g crew else s) := by
  have meaning : s.eccOutcome (.weight core g) = (s.weightCrews core g).foldl (State.softKill · true g) s := rfl
  rw [meaning]
  unfold State.weightCrews
  refine ⟨fun free => by rw [free]; rfl, fun h crew k held alone => ?_⟩
  rw [held, alone]
  by_cases own : k.launch = h.2 <;> simp [own]

theorem eccOutcome_frame (tenant seg : Nat) :
    (∀ key f crew, s.segOwner tenant seg = some (key, f) → f.crew = some crew →
        s.eccOutcome (.frame tenant seg) = s.softKill false (seg / 64 % 2 ^ 32) crew) ∧
      (s.segOwner tenant seg = none → s.eccOutcome (.frame tenant seg) = s) := by
  unfold State.eccOutcome
  dsimp only
  refine ⟨fun key f crew owned member => ?_, fun free => by rw [free]⟩
  rw [owned]
  dsimp only
  rw [member]

theorem eccOutcome_cache {core line : Nat} {l : L1Line} (held : s.l1 core (lineOf line) = some l) :
    let gone := s.setL1 core (lineOf line) { l with copy := none, expiry := none, dirty := [] }
    (l.dirty = [] → s.eccOutcome (.cacheClean core line) = gone) ∧
      (l.dirty ≠ [] → (∀ crew k, l.crew = some crew → s.sched.crews.find crew = some k → k.ended = false →
          s.eccOutcome (.cacheDirty core line) = gone.softKill false (lineOf line / 64 % 2 ^ 32) crew) ∧
        (l.crew = none → s.eccOutcome (.cacheDirty core line) =
          gone.postNotice core (s.softRecord core 0xFF (lineOf line / 64 % 2 ^ 32) none))) := by
  dsimp only
  have clean : s.eccOutcome (.cacheClean core line) = s.eccCache core (lineOf line) := rfl
  have dirty : s.eccOutcome (.cacheDirty core line) = s.eccCache core (lineOf line) := rfl
  rw [clean, dirty]
  unfold State.eccCache
  rw [held]
  refine ⟨fun empty => if_pos (by rw [empty]; rfl), fun stored => ?_⟩
  have some_byte : ¬l.dirty.isEmpty = true := fun e => stored (List.isEmpty_iff.mp e)
  dsimp only
  rw [if_neg some_byte]
  refine ⟨fun crew k last found runs => ?_, fun nobody => ?_⟩
  · have alive : ((s.sched.crews.find crew).any fun k => !k.ended) = true := by
      rw [found]
      simp [runs]
    rw [last]
    exact if_pos alive
  · rw [nobody]
    rfl

theorem eccOutcome_l2Copy (h : Safety.rising s.coh.l2) (die line : Nat) :
    (s.eccOutcome (.l2Copy die line)).coh.l2.find (cacheKey die (lineOf line)) = none :=
  h.find_del _

end Sys2Proof.Machine

/-! ## Settling O57 -/

namespace Sys2Proof

open Machine

/-- Settles O57, one lemma for each event: what is accepted and how by the gates of recovery, what a reset returns and keeps by the
laws of clearing a core, and an uncorrectable error by its place. -/
theorem platformEventsTakeEffect : Obligations.PlatformEventsTakeEffect := by
  unfold Obligations.PlatformEventsTakeEffect
  intro s vf v goes rest
  have at_rest : rest → AtRest s := fun ⟨fibres, crews, homes, flr⟩ => atRest_of_empty fibres crews homes flr
  exact ⟨fun h port request key n => recovery_keeps h vf v port request key n,
    fun h => heartbeatCheck_effect h,
    fun _ _ seen => readBeat_seen seen,
    fun _ hc run free due => mcBeat_counts hc run free due,
    fun _ loose seen many => mcTakeover_effect loose seen many,
    fun h => resets_accepted h,
    fun core _ low => s.resetCore_coreReg core low,
    fun _ _ h => resetCore_effect h.1 (at_rest h),
    fun _ low h => resetDie_effect low h.1 (at_rest h),
    fun _ _ _ _ fibres crews homes flr vfs runs small mine waits =>
      resetPartition_effect fibres crews homes flr vfs runs small mine waits,
    resetWarm_effect s,
    flr_effect s vf,
    coldReset_effect s,
    fun low h free => vfFlr_effect low h free,
    fun _ begun => resetGraceExpiry_effect begun,
    fun offset port h => mctpStatusRead_answers h offset port,
    fun level h => mctpResetOrder_effect h level,
    mctpFirmwareLoad_effect s,
    fun port h => spdmRequest_effect h port,
    fun key port h => ideKm_effect h vf key port,
    fun h => (lockInterface_effect h vf).1,
    fun h => (lockInterface_effect h vf).2,
    fun h => (startInterface_effect h vf).1,
    fun h => (startInterface_effect h vf).2,
    fun low h => stopInterface_effect h low,
    fun frozen => tdisp_error frozen v,
    fun _ => ⟨rfl, rfl⟩,
    fun _ => List.mem_cons_self,
    fun _ _ => congrArg AccContext.poison (Tbl.get_put_same _ _ _ _),
    fun _ _ info relaunch found => softKill_crew s found info relaunch,
    fun core g => ⟨(eccOutcome_scratch s core g).1, (eccOutcome_scratch s core g).2, eccOutcome_weight s core g⟩,
    eccOutcome_frame s,
    fun _ _ _ held => eccOutcome_cache s held,
    fun h die line => eccOutcome_l2Copy s h die line,
    fun sensor _ temperature low other => thermalStepChange_effect low other sensor temperature⟩

end Sys2Proof

/-! ## Registers of the management window and their bits (R8) -/

namespace Sys2Proof.Machine

theorem State.setMgmt_same (s : State) (off v : Nat) : (s.setMgmt off v).mgmt off = v % 2 ^ 64 := by
  rw [State.setMgmt_at, if_pos rfl]

theorem State.setMgmt_ne (s : State) {at_ off : Nat} (v : Nat) (h : off ≠ at_) : (s.setMgmt at_ v).mgmt off = s.mgmt off := by
  rw [State.setMgmt_at, if_neg h]

theorem State.setMgmtF_ne (s : State) {at_ off : Nat} (hi lo x : Nat) (h : off ≠ at_) :
    (s.setMgmtF at_ hi lo x).mgmt off = s.mgmt off := s.setMgmt_ne _ h

theorem State.mgmtF_congr {s t : State} {off : Nat} (h : t.mgmt off = s.mgmt off) (hi lo : Nat) :
    t.mgmtF off hi lo = s.mgmtF off hi lo := congrArg (bits · hi lo) h

/-- A write of a field that takes every value (R8). -/
theorem writeField_rw (old x hi lo reset : Nat) : writeField old x (rw hi lo reset) = setBits old hi lo (bits x hi lo) := by
  have small : bits x hi lo ≤ 2 ^ (hi + 1 - lo) - 1 := Nat.le_sub_one_of_lt (Nat.mod_lt _ (Nat.two_pow_pos _))
  change setBits old hi lo (max 0 (min (2 ^ (hi + 1 - lo) - 1) (bits x hi lo))) = _
  rw [Nat.min_eq_right small, Nat.zero_max]

/-- A register that has been written, or whose reset value is one, is a word of 64 bits. -/
theorem State.mgmt_lt (s : State) {off : Nat} (h : resetValue (mgmtFields off) < 2 ^ 64) : s.mgmt off < 2 ^ 64 := by
  unfold State.mgmt
  split
  · exact BitVec.isLt _
  · exact h

/-- The flag of an expired lease (R362). -/
theorem bits_setBits_expired (v x : Nat) : bits (setBits v 32 32 x % 2 ^ 64) 32 32 = x % 2 := by
  simp only [bits, setBits]
  omega

theorem State.expired_set (s : State) (x : Nat) : (s.setMgmtF 0x7018 32 32 x).mgmtF 0x7018 32 32 = x % 2 := by
  unfold State.mgmtF State.setMgmtF
  rw [State.setMgmt_same, bits_setBits_expired]

theorem State.activePort_congr {s t : State} (h : t.mgmt 0x7000 = s.mgmt 0x7000) : t.activePort = s.activePort := by
  unfold State.activePort State.mgmtF
  rw [h]

/-! ### The gates of ports and of recovery (R363, R374) -/

theorem State.fromPort_active {s : State} (h : s.plat.recovery = false) (g : State → State) : s.fromPort s.activePort g = g s := by
  unfold State.fromPort
  rw [h]
  exact if_pos rfl

theorem State.fromPort_other {s : State} (h : s.plat.recovery = false) {port : HostPort} (other : port ≠ s.activePort)
    (g : State → State) : s.fromPort port g = s.countMgmt 0x7018 15 0 := by
  unfold State.fromPort
  rw [h]
  exact if_neg other

/-- A write through the port that is not ACTIVE is dropped and counted (R363). -/
theorem standby_dropped {s : State} (h : s.plat.recovery = false) {other : HostPort} (standby : other ≠ s.activePort)
    (vf die slot offset : Nat) (v : BitVec 64) :
    ∀ i ∈ [Instr.fctlEnable other vf die slot v, .hsnap other vf die v, .iclr other vf die v,
      .registerWrite (.bar0 other vf) offset v, .tdispFrozenWrite other vf offset v],
      exec i s = .next (s.countMgmt 0x7018 15 0) := by
  have dropped : ∀ g, Host.Outcome.next (s.fromPort other g) =
      (.next (s.countMgmt 0x7018 15 0) : Host.Outcome State Fault Refusal) := fun g =>
    congrArg _ (State.fromPort_other h standby g)
  simp only [List.forall_mem_cons, List.not_mem_nil, false_imp_iff, implies_true, and_true]
  exact ⟨dropped _, dropped _, dropped _, dropped _, dropped _⟩

/-- In recovery the orders of a host leave the device as it is (R374). -/
theorem recovery_orders {s : State} (h : s.plat.recovery = true) (vf core vector : Nat) (p : HostPort) (offset : Nat)
    (v : BitVec 64) :
    ∀ i ∈ [Instr.btOwnerWrite offset v, .hpartWrite offset v, .xlinv vf v, .registerWrite (.core core) offset v,
      .haltedWrite core v, .hlRenew p v, .hlClaim p v, .ptpOfsWrite v, .ptpTrimWrite v, .msixVectorUnmask vf vector],
      exec i s = .next s := by
  have accepted : ∀ g, Host.Outcome.next (s.accepted g) = (.next s : Host.Outcome State Fault Refusal) := fun g =>
    congrArg _ (State.accepted_recovery h g)
  simp only [List.forall_mem_cons, List.not_mem_nil, false_imp_iff, implies_true, and_true]
  exact ⟨accepted _, accepted _, accepted _, accepted _, accepted _, accepted _, accepted _, accepted _, accepted _, accepted _⟩

end Sys2Proof.Machine

/-! ## Orders to the bitterns (R348 to R357) -/

namespace Sys2Proof

variable {α : Type}

/-- What a table holds once the entries of another, of distinct keys, have been put into it. -/
theorem Tbl.find_foldl_put (l t : Tbl α) (k : Nat) (distinct : (l.map Prod.fst).Nodup) :
    Tbl.find (l.foldl (fun (t : Tbl α) p => t.put p.1 p.2) t) k = (Tbl.find l k).or (t.find k) := by
  induction l generalizing t with
  | nil => rfl
  | cons e l ih =>
    obtain ⟨j, v⟩ := e
    obtain ⟨fresh, rest⟩ := List.nodup_cons.mp distinct
    rw [List.foldl_cons, ih _ rest, Tbl.find_cons, Tbl.find_put]
    by_cases same : j = k
    · subst same
      have none : Tbl.find l j = none := by
        cases found : Tbl.find l j with
        | none => rfl
        | some w => exact absurd (List.mem_map_of_mem (Tbl.mem_of_find found)) fresh
      rw [none, if_pos rfl, if_pos rfl]
      rfl
    · rw [if_neg same, if_neg fun e => same e.symm]

end Sys2Proof

namespace Sys2Proof.Machine

theorem find_dropRange {α : Type} (t : Tbl α) (a n k : Nat) :
    (dropRange t a n).find k = if k < a ∨ a + n ≤ k then t.find k else none := by
  unfold dropRange
  rw [Tbl.find_selectKeys]
  simp only [decide_eq_true_eq]

/-- A fold in which one step alone does anything. -/
theorem foldl_single {α β : Type} {f : β → α → β} {l : List α} {a : α} (distinct : l.Nodup) (mem : a ∈ l)
    (h : ∀ b, ∀ x ∈ l, x ≠ a → f b x = b) (b : β) : l.foldl f b = f b a := by
  obtain ⟨before, after, rfl⟩ := List.append_of_mem mem
  have elsewhere : ∀ x ∈ before ++ after, x ≠ a := fun x hx e => by
    have := (List.nodup_middle.mp distinct)
    exact (List.nodup_cons.mp this).1 (e ▸ hx)
  rw [List.foldl_append, List.foldl_cons]
  rw [foldl_fixed (fun x hx => h _ x (List.mem_append_left _ hx) (elsewhere x (List.mem_append_left _ hx)))]
  exact foldl_fixed fun x hx => h _ x (List.mem_append_right _ (List.mem_cons_of_mem _ hx)) (elsewhere x (List.mem_append_right _ hx))

theorem fctlEnable_effect {s : State} (h : s.plat.recovery = false) (vf die slot : Nat) (v : BitVec 64) :
    (s.btOwner die .slot slot = some vf →
      let bad := (List.range 64).any fun i =>
        filterWordBad (fun k i => decide (s.btOwner die k i = some vf)) i ((s.bittern die).reg (0x100 * slot + 4 * i))
      bits v.toNat 0 0 = 1 → ∃ t : State, exec (.fctlEnable s.activePort vf die slot v) s = .next t ∧
        (t.bittern die).reg (fctlOff slot) = if bad then 2 else 1) ∧
    (s.btOwner die .slot slot ≠ some vf → exec (.fctlEnable s.activePort vf die slot v) s = .next s) := by
  have meaning : exec (.fctlEnable s.activePort vf die slot v) s = .next (s.writeFctl vf die slot v.toNat) :=
    congrArg _ (State.fromPort_active h _)
  rw [meaning]
  refine ⟨?_, fun other => congrArg _ (if_pos other)⟩
  intro own bad enables
  refine ⟨_, rfl, ?_⟩
  have sets : s.writeFctl vf die slot v.toNat = s.modBittern die fun b => b.setReg (fctlOff slot) (if bad then 2 else 1) :=
    (if_neg fun differs => differs own).trans (if_neg (by omega))
  rw [sets, State.bittern_modBittern, if_pos rfl]
  unfold Bittern.reg Bittern.setReg
  rw [Tbl.get_put_same]
  cases bad <;> rfl

/-- HSNAP of one histogram that the function owns. -/
theorem writeHsnap_one {s : State} {vf die h v : Nat} (own : s.btOwner die .histogram h = some vf) (low : h < 64)
    (one : v = 2 ^ h) : s.writeHsnap vf die v = s.modBittern die fun b =>
      { b with snap := (b.live.select fun k _ => decide (k / 64 = h)).foldl (fun (t : Tbl Nat) p => t.put p.1 p.2)
                 (dropRange b.snap (64 * h) 64),
               live := dropRange b.live (64 * h) 64 } := by
  have named : ∀ k, bits v k k = 1 ↔ k = h := by
    intro k
    have test := Nat.testBit_eq_decide_div_mod_eq (x := v) (i := k)
    rw [one, Nat.testBit_two_pow] at test
    have width : k + 1 - k = 1 := by omega
    rw [bits, one, width]
    by_cases e : h = k
    · subst e
      simp
    · simp only [e, decide_false] at test
      exact ⟨fun set => absurd test.symm (by simpa using set), fun same => absurd same.symm e⟩
  unfold State.writeHsnap
  rw [foldl_single (List.nodup_range) (List.mem_range.mpr low)
    (fun _ k _ other => if_neg fun both => other ((named k).mp both.1))]
  exact if_pos ⟨(named h).mpr rfl, own⟩

theorem hsnap_effect {s : State} (run : s.plat.recovery = false) {vf die h k : Nat} {v : BitVec 64}
    (own : s.btOwner die .histogram h = some vf) (low : h < 64) (one : v.toNat = 2 ^ h) (slot : k < 64)
    (live : Safety.rising (s.bittern die).live) :
    ∃ t : State, exec (.hsnap s.activePort vf die v) s = .next t ∧
      (t.bittern die).snap.get (64 * h + k) 0 = (s.bittern die).live.get (64 * h + k) 0 ∧
      (t.bittern die).live.get (64 * h + k) 0 = 0 := by
  have inside : ¬(64 * h + k < 64 * h ∨ 64 * h + 64 ≤ 64 * h + k) := by omega
  refine ⟨_, congrArg Host.Outcome.next (State.fromPort_active run _), ?_⟩
  rw [writeHsnap_one own low one, State.bittern_modBittern, if_pos rfl]
  unfold Tbl.get
  dsimp only
  have distinct := (Safety.rising_nodup live).sublist (List.filter_sublist.map Prod.fst) (l₁ := ((s.bittern die).live.select
    fun k _ => decide (k / 64 = h)).map Prod.fst)
  have mine : (64 * h + k) / 64 = h := by omega
  constructor
  · rw [Tbl.find_foldl_put _ _ _ distinct, find_dropRange, if_neg inside, Tbl.find_selectKeys, mine]
    simp
  · rw [find_dropRange, if_neg inside]
    rfl

theorem iclr_effect {s : State} (h : s.plat.recovery = false) {vf die : Nat} {v : BitVec 64} {k : BtKind}
    (kind : iclrKind (bits v.toNat 10 8) = some k) (item : bits v.toNat 5 0 < kindCount k) :
    (s.btOwner die k (bits v.toNat 5 0) = some vf →
      exec (.iclr s.activePort vf die v) s = .next (s.modBittern die fun b => b.clearItem k (bits v.toNat 5 0))) ∧
    (s.btOwner die k (bits v.toNat 5 0) ≠ some vf → exec (.iclr s.activePort vf die v) s = .next s) := by
  have meaning : exec (.iclr s.activePort vf die v) s = .next (
      if bits v.toNat 5 0 < kindCount k ∧ s.btOwner die k (bits v.toNat 5 0) = some vf then
        s.modBittern die fun b => b.clearItem k (bits v.toNat 5 0)
      else s) := by
    refine congrArg _ ((State.fromPort_active h _).trans ?_)
    unfold State.writeIclr
    rw [kind]
  rw [meaning]
  exact ⟨fun own => congrArg _ (if_pos ⟨item, own⟩), fun other => congrArg _ (if_neg fun both => other both.2)⟩

theorem filterRun_effect {s : State} {die : Nat} {e : Event} {rest : List Event} (h : (s.bittern die).tap = e :: rest) :
    exec (.filterRun die) s = .next
      ((List.range 32).foldl (fun w n => w.offerFilter die n e) (s.modBittern die fun b => { b with tap := rest })) := by
  change Host.Outcome.next (s.takeEvent die) = _
  unfold State.takeEvent
  rw [h]

theorem bitternPeriod_effect {s : State} {die vf n : Nat} {b : Bittern} (alone : s.bitterns = [(die, b)])
    (used : b.used = [(vf, n)]) :
    ∃ t : State, exec .bitternPeriod s = .next t ∧ (t.bittern die).period = s.gtc / 1000 ∧
      (t.bittern die).used.get vf 0 = n - (s.gtc / 1000 - b.period) * s.mgmtF (0x6200 + 8 * vf) 10 0 := by
  have now : ({ s with bitterns := s.bitterns.mapVals fun _ b => s.budgetPeriods b } : State).bittern die = s.budgetPeriods b := by
    unfold State.bittern
    rw [alone]
    unfold Tbl.get
    rw [Tbl.find_mapVals, Tbl.find_cons, if_pos rfl]
    rfl
  refine ⟨_, rfl, ?_⟩
  rw [now]
  refine ⟨rfl, ?_⟩
  unfold State.budgetPeriods Tbl.get
  dsimp only
  rw [Tbl.find_mapVals, used, Tbl.find_cons, if_pos rfl]
  rfl

end Sys2Proof.Machine

/-! ## Writes of registers (R52, R68, R315, R320, R362, R364, R367) -/

namespace Sys2Proof.Machine

theorem registerWrite_effect {s : State} (h : s.plat.recovery = false) (vf core offset : Nat) (v : BitVec 64) :
    exec (.registerWrite (.bar0 s.activePort vf) offset v) s = .next (s.writeBar0 vf offset v.toNat) ∧
      (offset ≠ 0x7008 → offset ≠ 0x7010 →
        exec (.registerWrite (.mgmt s.activePort) offset v) s = .next (s.writeMgmt offset v.toNat)) ∧
      exec (.registerWrite (.core core) offset v) s = .next (s.writeCore core offset v.toNat) :=
  ⟨congrArg Host.Outcome.next (State.fromPort_active h _),
    fun renews claims => congrArg Host.Outcome.next
      ((if_neg renews).trans ((if_neg claims).trans (State.fromPort_active h _))),
    congrArg Host.Outcome.next (State.accepted_run h _)⟩

theorem mboxPop_effect {s : State} {core : Nat} {r : EffectRecord × Bool} {rest : List (EffectRecord × Bool)}
    (h : (s.unit core).mailbox = r :: rest) :
    ∃ t : State, exec (.mboxPop core) s = .next t ∧ (t.unit core).mailbox = rest ∧
      (t.unit core).head = ((s.unit core).head + 1) % 32 := by
  refine ⟨_, rfl, ?_⟩
  unfold State.mboxPop
  rw [State.unit_modUnit, if_pos rfl, h]
  exact ⟨rfl, rfl⟩

theorem mboxWaitTimeout_effect {s : State} {core : Nat} {f : Fibre} {g : FormWI} {n : Nat}
    (clerk : s.fibres.find (fibreKey core 4095) = some f) (waits : f.state = .parked (.register .mailbox))
    (late : (s.unit core).waitSince + s.mgmtF 0x7200 15 0 * 500 ≤ s.gtc)
    (read : s.fetch f.tenant (s.ownPc f) = some (.srd g, n)) :
    let x := s.laneOf (fibreKey core 4095) f n
    exec (.mboxWaitTimeout core) s = .next
      (((s.writeLong x (outPair g.a.toNat true (s.mboxStat core))).modFibre (fibreKey core 4095) fun f =>
        { f with pc := x.next }).unpark (fibreKey core 4095)) := by
  have due : ¬(f.state ≠ .parked (.register .mailbox) ∨ s.gtc < (s.unit core).waitSince + s.mgmtF 0x7200 15 0 * 500) := by
    rintro (other | early)
    · exact other waits
    · omega
  change Host.Outcome.next (s.mboxTimeout core) = _
  unfold State.mboxTimeout
  simp only [clerk, if_neg due, read]

theorem haltedWrite_effect {s : State} (h : s.plat.recovery = false) (core : Nat) (v : BitVec 64) :
    ∃ t : State, exec (.haltedWrite core v) s = .next t ∧ t.coreF core 0x148 0 0 = bits v.toNat 0 0 := by
  refine ⟨_, congrArg Host.Outcome.next (State.accepted_run h _), ?_⟩
  have written : s.writeCore core 0x148 v.toNat = s.setCoreReg core 0x148
      (setBits (s.coreReg core 0x148) 0 0 (bits v.toNat 0 0)) := congrArg (s.setCoreReg core 0x148) (writeField_rw _ _ 0 0 0)
  rw [written]
  unfold State.coreF
  have now : ∀ x, (s.setCoreReg core 0x148 x).coreReg core 0x148 = x % 2 ^ 64 := by
    intro x
    unfold State.coreReg State.setCoreReg
    dsimp only
    rw [Tbl.find_put_same]
    exact BitVec.toNat_ofNat x 64
  rw [now]
  simp only [bits, setBits]
  omega

theorem xlinv_effect {s : State} (h : s.plat.recovery = false) {vf : Nat} (low : vf < 128) (v : BitVec 64) :
    ∃ t : State, exec (.xlinv vf v) s = .next t ∧
      (s.holders vf (bits v.toNat 47 12) (decide (bits v.toNat 0 0 = 1)) = [] → s.coh.translations = [] →
        bits (t.readMgmt (0x8008 + 0x10 * vf)) 63 63 = 0) := by
  refine ⟨_, congrArg Host.Outcome.next ((State.accepted_run h _).trans (if_pos low)), fun unheld none => ?_⟩
  have idle : (s.writeXlinv vf v.toNat).invalidating vf = false := by
    have left : (s.writeXlinv vf v.toNat).coh.translations =
        (s.coh.translations.filter fun p => (s.engine.find p.2).isSome) ++
          (s.holders vf (bits v.toNat 47 12) (decide (bits v.toNat 0 0 = 1))).map fun i => (vf, i) := rfl
    unfold State.invalidating
    rw [left, none, unheld]
    rfl
  have its : (0x8008 + 0x10 * vf - 0x8000) / 0x10 = vf := by omega
  unfold State.readMgmt
  rw [if_neg (by omega), if_pos (by omega), its, idle, if_neg Bool.false_ne_true]
  simp only [bits, setBits]
  omega

/-- A write of the register of a partition's clusters (R68). -/
theorem hpartWrite_moves {s : State} (h : s.plat.recovery = false) {off : Nat} (fields : mgmtFields off = [rw 31 0 0])
    (inside : 0x1E00 ≤ off ∧ off < 0x1F00 ∧ off % 8 = 0) (place : (off - 0x1E00) % 0x20 ≠ 0x18) (v : BitVec 64) :
    let t := s.setMgmtF off 31 0 v.toNat
    exec (.hpartWrite off v) s = .next (
      if t.mgmt off ≠ s.mgmt off ∧ (t.partitionsClash = true ∨ s.partitionBusy ((off - 0x1E00) / 0x20) = true) then
        s.setMgmtF 0x1F00 2 2 1
      else t.arbitrate) := by
  intro t
  have value : writeValue (mgmtFields off) (s.mgmt off) v.toNat = setBits (s.mgmt off) 31 0 v.toNat := by
    rw [fields, writeValue, List.foldl_cons, List.foldl_nil, writeField_rw]
    simp only [setBits, bits]
    omega
  have small : s.mgmt off < 2 ^ 64 := s.mgmt_lt (by rw [fields]; decide)
  have short : setBits (s.mgmt off) 31 0 v.toNat < 2 ^ 64 := by
    simp only [setBits, bits]
    omega
  have stored : t.mgmt off = setBits (s.mgmt off) 31 0 v.toNat := (s.setMgmt_same off _).trans (Nat.mod_eq_of_lt short)
  have meaning : exec (.hpartWrite off v) s = .next (s.writeHpart off v.toNat) :=
    congrArg Host.Outcome.next ((State.accepted_run h _).trans (if_pos inside))
  rw [meaning, State.writeHpart, value, stored]
  simp only [place, t, State.setMgmtF, ne_eq, not_false_eq_true, decide_true, Bool.true_and, Bool.and_eq_true, Bool.or_eq_true,
    decide_eq_true_eq]

theorem hpartWrite_effect {s : State} (h : s.plat.recovery = false) {n : Nat} (low : n < 8) (v : BitVec 64) :
    let off := 0x1E00 + 0x20 * n
    let t := s.setMgmtF off 31 0 v.toNat
    (t.partitionsClash = false → s.sched.crews = [] → exec (.hpartWrite off v) s = .next t.arbitrate) ∧
      (t.partitionsClash = true → t.mgmt off ≠ s.mgmt off → exec (.hpartWrite off v) s = .next (s.setMgmtF 0x1F00 2 2 1)) := by
  intro off t
  have fields : mgmtFields off = [rw 31 0 0] := by
    unfold mgmtFields
    rw [if_neg (by omega), if_pos (by omega), if_pos (by omega)]
  rw [hpartWrite_moves h fields (by omega) (by omega)]
  refine ⟨fun apart none => congrArg _ (if_neg ?_), fun clash moves => congrArg _ (if_pos ⟨moves, Or.inl clash⟩)⟩
  rintro ⟨-, clash | busy⟩
  · exact absurd (apart.symm.trans clash) Bool.false_ne_true
  · unfold State.partitionBusy at busy
    rw [none] at busy
    cases busy

end Sys2Proof.Machine

/-! ## The host lease and failover (R362, R363) -/

namespace Sys2Proof.Machine

theorem dropHostWrites_keeps (s : State) (old : HostPort) :
    (s.dropHostWrites old).mgmt 0x7000 = s.mgmt 0x7000 := by
  refine Safety.foldl_keeps (fun t : State => t.mgmt 0x7000) _ (fun t w => ?_) _ s
  refine (State.setMgmtF_ne _ 31 16 _ (by decide)).trans ?_
  rw [State.mgmt_congr (congrArg Registers.mgmt (regs_of_beyond (State.settle_beyond _ w.line w.id)))]
  rfl

/-- A takeover (R362): the other port is ACTIVE, and the epoch of the lease is the next. -/
theorem failover_port (s : State) : s.failover.activePort = s.standbyPort ∧
    s.failover.mgmtF 0x7000 15 8 = (s.mgmtF 0x7000 15 8 + 1) % 256 := by
  obtain ⟨u, base, ends⟩ : ∃ u : State, u.mgmt 0x7000 = s.mgmt 0x7000 ∧ s.failover.mgmt 0x7000 =
      ((u.setMgmtF 0x7000 1 1 (1 - u.mgmtF 0x7000 1 1)).setMgmtF 0x7000 15 8
        ((u.setMgmtF 0x7000 1 1 (1 - u.mgmtF 0x7000 1 1)).mgmtF 0x7000 15 8 + 1)).mgmt 0x7000 :=
    ⟨_, dropHostWrites_keeps (s.modCoh _) s.activePort, rfl⟩
  simp only [State.setMgmtF, State.mgmtF, State.setMgmt_same, base] at ends
  constructor
  · have flips : bits (s.failover.mgmt 0x7000) 1 1 = 1 - bits (s.mgmt 0x7000) 1 1 := by
      rw [ends]
      simp only [bits, setBits]
      omega
    unfold State.standbyPort State.activePort State.mgmtF
    rw [flips]
    by_cases second : bits (s.mgmt 0x7000) 1 1 = 1
    · rw [second]
      rfl
    · have first : bits (s.mgmt 0x7000) 1 1 = 0 := by
        simp only [bits] at second ⊢
        omega
      rw [first]
      rfl
  · unfold State.mgmtF
    rw [ends]
    simp only [bits, setBits]
    omega

theorem hlRenew_effect {s : State} (h : s.plat.recovery = false) {p : HostPort} {v : BitVec 64}
    (epoch : bits v.toNat 7 0 = s.mgmtF 0x7000 15 8) :
    (p = s.activePort → ∃ t : State, exec (.hlRenew p v) s = .next t ∧ t.plat.renewed = s.gtc ∧ t.mgmtF 0x7018 32 32 = 0) ∧
      (p ≠ s.activePort → exec (.hlRenew p v) s = .next (s.countMgmt 0x7018 15 0)) :=
  ⟨fun active => ⟨_, congrArg Host.Outcome.next ((State.accepted_run h _).trans (if_pos ⟨active, epoch⟩)), rfl, s.expired_set 0⟩,
    fun standby => congrArg Host.Outcome.next ((State.accepted_run h _).trans (if_neg fun both => standby both.1))⟩

theorem hlClaim_effect {s : State} (h : s.plat.recovery = false) {p : HostPort} {v : BitVec 64} (standby : p ≠ s.activePort)
    (expired : s.mgmtF 0x7018 32 32 = 1) (epoch : bits v.toNat 7 0 = (s.mgmtF 0x7000 15 8 + 1) % 256) :
    ∃ t : State, exec (.hlClaim p v) s = .next t ∧ t.activePort = p ∧ t.mgmtF 0x7018 32 32 = 0 := by
  have mine : s.standbyPort = p := by
    have other := s.standbyPort_ne
    revert other standby
    cases s.standbyPort <;> cases s.activePort <;> cases p <;> simp
  refine ⟨_, congrArg Host.Outcome.next ((State.accepted_run h _).trans (if_pos ⟨standby, expired, epoch⟩)), ?_,
    State.expired_set _ 0⟩
  rw [State.activePort_congr (State.setMgmtF_ne _ _ _ _ (by decide)), (failover_port s).1, mine]

theorem hostLeaseExpiry_effect {s : State} (enabled : s.mgmtF 0x7000 0 0 = 1)
    (late : s.plat.renewed + s.mgmtF 0x7000 47 32 * 1000 ≤ s.gtc) :
    (s.standbyPort ∈ s.plat.linkUp → ∃ t : State, exec .hostLeaseExpiry s = .next t ∧ t.activePort = s.standbyPort ∧
      t.mgmtF 0x7000 15 8 = (s.mgmtF 0x7000 15 8 + 1) % 256) ∧
    (s.standbyPort ∉ s.plat.linkUp → exec .hostLeaseExpiry s = .next (s.setMgmtF 0x7018 32 32 1)) := by
  have due : ¬(s.mgmtF 0x7000 0 0 = 0 ∨ s.gtc < s.plat.renewed + s.mgmtF 0x7000 47 32 * 1000) := by omega
  exact ⟨fun up => ⟨_, congrArg Host.Outcome.next ((if_neg due).trans (if_pos (by simpa using up))), failover_port s⟩,
    fun down => congrArg Host.Outcome.next ((if_neg due).trans (if_neg (by simpa using down)))⟩

/-- A port's link comes up or goes down, and a port that has rejoined has a new incarnation (R18, R362). -/
theorem hostPortLinkChange_effect (s : State) (p : HostPort) (up : Bool) :
    ∃ t : State, exec (.hostPortLinkChange p up) s = .next t ∧ (p ∈ t.plat.linkUp ↔ up = true) ∧
      (let agent := 5 * 512 + portNumber p
       t.coh.inc = if up = true ∧ p ∉ s.plat.linkUp then s.coh.inc.put agent ((s.coh.inc.get agent 0 + 1) % 256)
        else s.coh.inc) ∧
      { t with plat := { t.plat with linkUp := s.plat.linkUp }, coh := { t.coh with inc := s.coh.inc } } = s := by
  refine ⟨_, rfl, ?_⟩
  unfold State.linkChange
  cases up with
  | false => simp [State.modPlat]
  | true =>
    by_cases joined : p ∈ s.plat.linkUp
    · simp [State.modPlat, joined]
    · simp [State.modPlat, State.newIncarnation, State.modCoh, joined]

end Sys2Proof.Machine

/-! ## PTP time (R377, R378) -/

namespace Sys2Proof.Machine

theorem ptpOfsWrite_effect {s : State} (h : s.plat.recovery = false) (v : BitVec 64) :
    ∃ t : State, exec (.ptpOfsWrite v) s = .next t ∧ t.ptp = BitVec.ofNat 64 s.gtc + v ∧ t.ptpAcc = 0 := by
  refine ⟨_, congrArg Host.Outcome.next (State.accepted_run h _), ?_, rfl⟩
  have offset : (s.writePtpOfs v.toNat).mgmt 0x7100 = v.toNat % 2 ^ 64 := State.setMgmt_same s 0x7100 v.toNat
  change BitVec.ofNat 64 s.gtc + BitVec.ofNat 64 ((s.writePtpOfs v.toNat).mgmt 0x7100) + BitVec.ofInt 64 (0 / 2 ^ 32) = _
  rw [offset, Nat.mod_eq_of_lt v.isLt, BitVec.ofNat_toNat, BitVec.setWidth_eq]
  exact BitVec.add_zero _

/-- A number of 32 bits that is within the bounds of PTP_TRIM is kept as it is. -/
theorem clampTrim_toInt (v : Nat) : (BitVec.ofNat 32 (clampTrim v)).toInt =
    max (-4294967) (min 4294967 ((BitVec.ofNat 32 v).toInt)) := by
  unfold clampTrim
  rw [BitVec.ofNat_toNat, BitVec.setWidth_eq, BitVec.toInt_ofInt]
  generalize (BitVec.ofNat 32 v).toInt = x
  exact Int.bmod_eq_of_le (by omega) (by omega)

theorem ptpTrimWrite_effect {s : State} (h : s.plat.recovery = false) (v : BitVec 64) :
    ∃ t : State, exec (.ptpTrimWrite v) s = .next t ∧ t.ptp = s.ptp ∧
      t.ptpTrim = max (-4294967) (min 4294967 ((BitVec.ofNat 32 v.toNat).toInt)) := by
  refine ⟨_, congrArg Host.Outcome.next (State.accepted_run h _), ?_, ?_⟩
  · have offset : (s.writePtpTrim v.toNat).mgmt 0x7100 =
        (BitVec.ofNat 64 (s.mgmt 0x7100) + BitVec.ofInt 64 (s.ptpAcc / 2 ^ 32)).toNat % 2 ^ 64 :=
      (State.setMgmt_ne (s.setMgmt 0x7100 _) _ (by decide)).trans (s.setMgmt_same 0x7100 _)
    have acc : s.ptpAcc % 2 ^ 32 / 2 ^ 32 = 0 := by omega
    change BitVec.ofNat 64 s.gtc + BitVec.ofNat 64 ((s.writePtpTrim v.toNat).mgmt 0x7100) +
      BitVec.ofInt 64 (s.ptpAcc % 2 ^ 32 / 2 ^ 32) = _
    rw [offset, acc, Nat.mod_eq_of_lt (BitVec.isLt _), BitVec.ofNat_toNat, BitVec.setWidth_eq, State.ptp]
    exact (BitVec.add_zero _).trans (BitVec.add_assoc _ _ _).symm
  · have small : clampTrim v.toNat < 2 ^ 32 := BitVec.isLt _
    have kept : (s.writePtpTrim v.toNat).mgmtF 0x7108 31 0 = clampTrim v.toNat := by
      refine (congrArg (bits · 31 0) (State.setMgmt_same (s.setMgmt 0x7100 _) 0x7108 _)).trans ?_
      simp only [bits]
      omega
    unfold State.ptpTrim
    rw [kept, clampTrim_toInt]

end Sys2Proof.Machine

/-! ## MSI-X vectors (R369) -/

namespace Sys2Proof.Machine

theorem State.setBar0_same (s : State) (vf off v : Nat) : (s.setBar0 vf off v).bar0 vf off = v % 2 ^ 64 := by
  unfold State.bar0 State.setBar0
  dsimp only
  rw [Tbl.find_put_same]
  exact BitVec.toNat_ofNat v 64

theorem State.setBar0_ne (s : State) (vf : Nat) {at_ off : Nat} (v : Nat) (h : off ≠ at_) :
    (s.setBar0 vf at_ v).bar0 vf off = s.bar0 vf off := by
  unfold State.bar0 State.setBar0
  dsimp only
  rw [Tbl.find_put_ne _ _ (by omega)]

/-- Sending a message leaves the registers. -/
theorem sendVector_regs (s : State) (vf v : Nat) (charged : Bool) : (s.sendVector vf v charged).regs = s.regs := by
  unfold State.sendVector
  cases charged <;> rfl

theorem sendVector_messages (s : State) (vf v : Nat) (charged : Bool) :
    (s.sendVector vf v charged).plat.messages = s.plat.messages ++ [(vf, v, s.activePort)] := by
  unfold State.sendVector
  cases charged <;> rfl

theorem sendPended_regs (s : State) (vf v : Nat) : (s.sendPended vf v).regs = (s.setVectorPending vf v 0).regs :=
  sendVector_regs _ vf v _

theorem sendPended_messages (s : State) (vf v : Nat) :
    (s.sendPended vf v).plat.messages = s.plat.messages ++ [(vf, v, s.activePort)] := sendVector_messages _ vf v _

/-- The mask of a vector does not stand where its pending bit does. -/
theorem vectorMasked_sent (s : State) (vf : Nat) {v : Nat} (_ : v < 256) :
    (s.sendPended vf v).vectorMasked vf v = s.vectorMasked vf v := by
  have apart : 0x20000 + 16 * v + 8 ≠ pbaOff v := by
    unfold pbaOff
    omega
  have same : (s.sendPended vf v).bar0 vf (0x20000 + 16 * v + 8) = s.bar0 vf (0x20000 + 16 * v + 8) := by
    refine Eq.trans ?_ (s.setBar0_ne vf (setBits (s.bar0 vf (pbaOff v)) (v % 64) (v % 64) 0) apart)
    unfold State.bar0
    rw [sendPended_regs]
    rfl
  unfold State.vectorMasked
  rw [same]

/-- A vector that is unmasked is sent when it is pending and its account is funded. -/
theorem releaseVector_effect {u : State} {vf v : Nat} (low : v < 256) (open_ : u.vectorMasked vf v = false)
    (free : u.tdisp vf = .unlocked) :
    (u.releaseVector vf v).vectorMasked vf v = false ∧
      (u.vectorPending vf v = false → (u.releaseVector vf v).plat.messages = u.plat.messages) ∧
      (u.vectorPending vf v = true → u.mgmtF 0x1F00 0 0 = 0 ∨ 0 < u.bal vf →
        (u.releaseVector vf v).plat.messages = u.plat.messages ++ [(vf, v, u.activePort)]) := by
  unfold State.releaseVector
  refine ⟨?_, fun idle => ?_, fun pending funded => ?_⟩
  · split
    · rw [vectorMasked_sent u vf low, open_]
    · exact open_
  · have waits : ¬u.maySend vf v = true := by simp [State.maySend, idle]
    rw [if_neg waits]
  · have sends : u.maySend vf v = true := by
      unfold State.maySend
      rw [pending, open_, free]
      rcases funded with unscheduled | some_
      · simp [unscheduled]
      · simp [some_]
    rw [if_pos sends, sendPended_messages]

theorem bits_setBits_below (w x : Nat) : bits (setBits w 31 0 x % 2 ^ 64) 32 32 = bits w 32 32 := by
  simp only [setBits, bits]
  omega

theorem bits_setBits_mask (w x : Nat) : bits (setBits w 32 32 x) 32 32 = x % 2 := by
  simp only [setBits, bits]
  omega

/-- A write of a vector's control word (R364). -/
theorem writeValue_control (old x : Nat) : writeValue [rw 32 32 1, rw 31 0 0] old x =
    setBits (setBits old 32 32 (bits x 32 32)) 31 0 (bits x 31 0) := by
  rw [writeValue, List.foldl_cons, List.foldl_cons, List.foldl_nil, writeField_rw, writeField_rw]

theorem unmasked_bit (old : Nat) : bits (writeValue [rw 32 32 1, rw 31 0 0] old (setBits old 32 32 0) % 2 ^ 64) 32 32 = 0 := by
  rw [writeValue_control, bits_setBits_below, bits_setBits_mask, bits_setBits_mask]

theorem msixVectorUnmask_effect {s : State} (h : s.plat.recovery = false) {vf vector : Nat} (low : vector < 256)
    (free : s.tdisp vf = .unlocked) :
    ∃ t : State, exec (.msixVectorUnmask vf vector) s = .next t ∧ t.vectorMasked vf vector = false ∧
      (s.vectorPending vf vector = false → t.plat.messages = s.plat.messages) ∧
      (s.vectorPending vf vector = true → s.mgmtF 0x1F00 0 0 = 0 ∨ 0 < s.bal vf →
        t.plat.messages = s.plat.messages ++ [(vf, vector, s.activePort)]) := by
  have thawed : ¬(s.tdisp vf = .locked ∨ s.tdisp vf = .run) := by
    rw [free]
    rintro (e | e) <;> cases e
  have fields : bar0Fields vf (0x20008 + 16 * vector) = [rw 32 32 1, rw 31 0 0] := by
    unfold bar0Fields
    rw [if_neg (by omega), if_pos (by omega), if_neg (by omega)]
  obtain ⟨x, unmasked⟩ : ∃ x, writeValue (bar0Fields vf (0x20008 + 16 * vector)) (s.bar0 vf (0x20008 + 16 * vector))
      (setBits (s.bar0 vf (0x20008 + 16 * vector)) 32 32 0) = x ∧ bits (x % 2 ^ 64) 32 32 = 0 := by
    rw [fields]
    exact ⟨_, rfl, unmasked_bit _⟩
  obtain ⟨value, unmasked⟩ := unmasked
  have its : (0x20008 + 16 * vector - 0x20000) / 16 = vector := by omega
  have writes : s.writeMsix vf (0x20008 + 16 * vector) (setBits (s.bar0 vf (0x20008 + 16 * vector)) 32 32 0) =
      (s.setBar0 vf (0x20008 + 16 * vector) x).releaseVector vf vector := by
    unfold State.writeMsix
    rw [if_neg thawed, value, if_pos (by omega), its]
  have place : 0x20000 + 16 * vector + 8 = 0x20008 + 16 * vector := by omega
  have open_ : (s.setBar0 vf (0x20008 + 16 * vector) x).vectorMasked vf vector = false := by
    unfold State.vectorMasked
    rw [place, State.setBar0_same, unmasked]
    rfl
  have pending : (s.setBar0 vf (0x20008 + 16 * vector) x).vectorPending vf vector = s.vectorPending vf vector := by
    unfold State.vectorPending
    rw [State.setBar0_ne]
    unfold pbaOff
    omega
  have sent := releaseVector_effect low open_ free
  rw [pending] at sent
  exact ⟨_, congrArg Host.Outcome.next ((State.accepted_run h _).trans ((if_pos low).trans writes)), sent⟩

end Sys2Proof.Machine

/-! ## Settling O56 -/

namespace Sys2Proof

open Machine

/-- Settles O56, one lemma for each event: what a write does by its gate and the register's fields, a takeover by what the homes
leave alone, and PTP time by its definition. -/
theorem registerAndTelemetryEventsTakeEffect : Obligations.RegisterAndTelemetryEventsTakeEffect := by
  unfold Obligations.RegisterAndTelemetryEventsTakeEffect
  intro s vf die core v goes port
  exact ⟨fun h => ⟨fun _ standby slot offset => standby_dropped h standby vf die slot offset v,
      fun slot => (fctlEnable_effect h vf die slot v).1,
      fun slot => (fctlEnable_effect h vf die slot v).2,
      fun _ _ own low one slot live _ => hsnap_effect h own low one slot live,
      fun _ kind item => iclr_effect h kind item,
      fun offset => (registerWrite_effect h vf core offset v).1,
      fun offset => (registerWrite_effect h vf core offset v).2.1⟩,
    fun _ _ tap => filterRun_effect tap,
    fun _ _ alone used => bitternPeriod_effect alone used,
    fun h p offset => recovery_orders h vf core offset p offset v,
    fun _ h => congrArg Host.Outcome.next (State.accepted_run h _),
    fun _ _ mailbox => mboxPop_effect mailbox,
    fun _ _ _ clerk waits late read => mboxWaitTimeout_effect clerk waits late read,
    fun h => haltedWrite_effect h core v,
    rfl,
    fun low h => xlinv_effect h low v,
    fun _ low h => hpartWrite_effect h low v,
    fun offset h => (registerWrite_effect h vf core offset v).2.2,
    fun _ h epoch => hlRenew_effect h epoch,
    fun _ h standby expired epoch => hlClaim_effect h standby expired epoch,
    fun enabled late => hostLeaseExpiry_effect enabled late,
    fun h => ptpOfsWrite_effect h v,
    fun h => ptpTrimWrite_effect h v,
    fun _ _ => rfl,
    hostPortLinkChange_effect s,
    fun _ low h free => msixVectorUnmask_effect h low free⟩

end Sys2Proof

/-! ## What filing fibres and completing barriers leave alone

Where fibres stand, their PCs, the convened gangs, the leases that a band barrier drops, and fresh numbers change; the rest of
the state, its segments and its gangs among it, does not. -/

namespace Sys2Proof.Machine

/-- The state but for its fibres and where they are filed, the convened gangs, the coherence state and the fresh numbers. -/
def State.aside (s : State) : State :=
  { s with fibres := [], cores := [], convened := [], nextId := 0, coh := State.reset.coh }

theorem foldl_aside {α : Type} {f : State → α → State} (h : ∀ s a, (f s a).aside = s.aside) (l : List α) (s : State) :
    (l.foldl f s).aside = s.aside := Safety.foldl_keeps State.aside f h l s

@[simp] theorem State.setFibre_aside (s : State) (key : Nat) (f : Fibre) : (s.setFibre key f).aside = s.aside := rfl

@[simp] theorem State.modFibre_aside (s : State) (key : Nat) (g : Fibre → Fibre) : (s.modFibre key g).aside = s.aside := by
  unfold State.modFibre
  split <;> rfl

@[simp] theorem State.modUnit_aside (s : State) (core : Nat) (g : CoreUnit → CoreUnit) : (s.modUnit core g).aside = s.aside :=
  rfl

@[simp] theorem State.fresh_aside (s : State) : s.fresh.2.aside = s.aside := rfl

@[simp] theorem State.file_aside (s : State) (key : Nat) : (s.file key).aside = s.aside := by
  unfold State.file
  split <;> rfl

@[simp] theorem State.fileHeld_aside (s : State) (core : Nat) (members : List (Nat × Nat)) :
    (s.fileHeld core members).aside = s.aside := by
  unfold State.fileHeld
  split
  · rfl
  · split
    · rfl
    · exact foldl_aside (fun _ _ => State.modFibre_aside _ _ _) _ _

@[simp] theorem State.wake_aside (s : State) (core : Nat) : (s.wake core).aside = s.aside := rfl

@[simp] theorem State.askReload_aside (s : State) (key : Nat) : (s.askReload key).aside = s.aside := rfl

@[simp] theorem State.unpark_aside (s : State) (key : Nat) : (s.unpark key).aside = s.aside := by
  unfold State.unpark
  split
  · rfl
  · split
    · rw [State.wake_aside, State.file_aside]
    · rfl
    · rfl

@[simp] theorem State.recheck_aside (s : State) (core : Nat) : (s.recheck core).aside = s.aside := by
  refine foldl_aside (fun s p => ?_) _ s
  split
  · split
    · exact s.unpark_aside _
    · rfl
  · split
    · exact s.unpark_aside _
    · rfl
  · rfl

@[simp] theorem State.advanced_aside (s : State) (key n : Nat) : (s.step_ key n).aside = s.aside := State.modFibre_aside _ _ _

@[simp] theorem State.leaveBarrier_aside (s : State) (l : Tbl Fibre) : (s.leaveBarrier l).aside = s.aside :=
  foldl_aside (fun _ _ => (State.unpark_aside _ _).trans (State.advanced_aside _ _ _)) l s

@[simp] theorem State.gather_aside (s : State) (keys : List Nat) : (s.gather keys).2.aside = s.aside :=
  foldl_aside (fun _ _ => State.askReload_aside _ _) _ s

@[simp] theorem State.dropLeases_aside (s : State) (core : Nat) : (s.dropLeases core).aside = s.aside := by
  refine foldl_aside (fun s line => ?_) _ s
  split <;> rfl

/-- The state after some fibres have been gathered. -/
theorem gathered_aside {s t : State} {keys : List Nat} {away : Bool} (h : s.gather keys = (away, t)) : t.aside = s.aside :=
  (congrArg (fun p => State.aside p.2) h).symm.trans (s.gather_aside keys)

@[simp] theorem State.checkBar_aside (s : State) (crew : Nat) : (s.checkBar crew).aside = s.aside := by
  unfold State.checkBar
  dsimp only
  split
  · split
    · next h => exact gathered_aside h
    · next h => exact (State.leaveBarrier_aside _ _).trans (gathered_aside h)
  · rfl

@[simp] theorem State.checkCross_aside (s : State) (conv : Nat) : (s.checkCross conv).aside = s.aside := by
  unfold State.checkCross
  split
  · rfl
  · split
    · split
      · next h => exact gathered_aside h
      · next h =>
        dsimp only
        rw [State.wake_aside, State.fileHeld_aside]
        exact (foldl_aside (fun _ _ => State.modFibre_aside _ _ _) _ _).trans (gathered_aside h)
    · rfl

@[simp] theorem State.checkBand_aside (s : State) (launch band k : Nat) : (s.checkBand launch band k).aside = s.aside := by
  unfold State.checkBand
  dsimp only
  split
  · split
    · next h => exact gathered_aside h
    · next h =>
      exact (foldl_aside (fun _ _ => State.dropLeases_aside _ _) _ _).trans
        ((State.leaveBarrier_aside _ _).trans (gathered_aside h))
  · rfl

@[simp] theorem State.checkConvene_aside (s : State) (key level : Nat) : (s.checkConvene key level).aside = s.aside := by
  unfold State.checkConvene
  split
  · rfl
  · dsimp only
    split
    · split
      · next h => exact gathered_aside h
      · next u _ _ _ _ h _ _ =>
        have placed : ∀ (w : State) (l : Tbl Fibre) (step : State → Nat × Fibre → State),
            (∀ s p, (step s p).aside = s.aside) → w.aside = s.aside → (l.foldl step w).aside = s.aside :=
          fun w l step keeps base => (foldl_aside keeps l w).trans base
        have gathered := gathered_aside h
        split
        · rw [State.wake_aside, State.fileHeld_aside]
          exact placed _ _ _ (fun _ _ => (State.advanced_aside _ _ _).trans (State.modFibre_aside _ _ _)) gathered
        · exact placed _ _ _ (fun _ _ => State.unpark_aside _ _)
            (placed _ _ _ (fun _ _ => (State.advanced_aside _ _ _).trans (State.modFibre_aside _ _ _)) gathered)
      · next h _ => exact gathered_aside h
    · rfl

@[simp] theorem State.meet_aside (s : State) (key : Nat) (w : Park) : (s.meet key w).aside = s.aside := by
  unfold State.meet
  split
  · exact s.checkConvene_aside _ _
  · exact s.checkCross_aside _
  · split
    · exact s.checkBar_aside _
    · rfl
  · split
    · exact s.checkBand_aside _ _ _
    · rfl
  · rfl

theorem segs_of_aside {s t : State} (h : t.aside = s.aside) : t.segs = s.segs := (congrArg State.segs h :)

theorem gangs_of_aside {s t : State} (h : t.aside = s.aside) : t.gangs = s.gangs := (congrArg State.gangs h :)

end Sys2Proof.Machine

/-! ## The draw of a lone fibre (R31 to R36) -/

namespace Sys2Proof.Machine

/-- The state but for the hardware of its cores. -/
def State.offCores (s : State) : State := { s with cores := [] }

@[simp] theorem State.modUnit_offCores (s : State) (core : Nat) (g : CoreUnit → CoreUnit) :
    (s.modUnit core g).offCores = s.offCores := rfl

theorem State.releaseStall_offCores (s : State) (core age : Nat) : (s.releaseStall core age).offCores = s.offCores := by
  unfold State.releaseStall
  dsimp only
  split
  · rfl
  · split
    · rfl
    · split <;> rfl

theorem State.chooseTenant_offCores (s : State) (core : Nat) (c : List Nat) :
    (s.chooseTenant core c).2.offCores = s.offCores := by
  have credited : ∀ f : State → Nat → State, (∀ u t, (f u t).offCores = u.offCores) → (c.foldl f s).offCores = s.offCores :=
    fun f keeps => Safety.foldl_keeps State.offCores f keeps c s
  unfold State.chooseTenant
  dsimp only
  split <;> split
  · exact credited _ fun _ _ => rfl
  · rfl
  · exact credited _ fun _ _ => rfl
  · rfl

theorem State.chooseTenant_one (s : State) (core t : Nat) :
    ∃ u, s.chooseTenant core [t] = (some t, u) ∧ u.offCores = s.offCores :=
  ⟨_, rfl, s.chooseTenant_offCores core [t]⟩

theorem State.widthOf_ge (s : State) (launch : Nat) : 16 ≤ s.widthOf launch := by
  unfold State.widthOf
  split
  · exact Nat.le_mul_of_pos_right 16 (Nat.two_pow_pos _)
  · exact Nat.le_refl 16

/-- The one candidate of a core in whose one stall one fibre stands. -/
def loneDrawable (s : State) (st : Stall) (m : Filed) : Drawable :=
  { stall := st, members := [m], width := s.widthOf st.key.launch, oldest := m }

/-- A core holds one filed fibre alone, with room for its gang on a port. -/
structure LoneFiled (s : State) (core port base : Nat) (st : Stall) (m : Filed) (lane i : Nat) : Prop where
  stalls : (s.unit core).stalls = [st]
  overflow : (s.unit core).overflow = []
  members : st.members = [m]
  lanes : m.lanes = [(lane, i)]
  single : m.held = false
  fibre : i < 4095
  own : s.issuesFor core st.key.tenant = true
  room : s.freeRange core port (s.widthOf st.key.launch) = some base

variable {s : State} {core port base : Nat} {st : Stall} {m : Filed} {lane i : Nat}

theorem LoneFiled.drawables (h : LoneFiled s core port base st m lane i) (paused : Bool) :
    s.drawables core port paused = if s.heldBack core m = paused then [loneDrawable s st m] else [] := by
  have other : i ≠ 4095 := Nat.ne_of_lt h.fibre
  unfold State.drawables
  rw [h.stalls]
  by_cases held : s.heldBack core m = paused
  · simp [h.members, h.lanes, other, held, h.room, byAge, sortBy, insertBy, loneDrawable]
  · simp [h.members, h.lanes, other, held, byAge, sortBy]

theorem LoneFiled.notFull (h : LoneFiled s core port base st m lane i) : (loneDrawable s st m).isFull = false := by
  have wide := s.widthOf_ge st.key.launch
  have count : countMembers (s.widthOf st.key.launch) [m] = 1 := by simp [countMembers, h.single]
  unfold Drawable.isFull loneDrawable
  dsimp only
  rw [count]
  exact decide_eq_false (by omega)

/-- The lone fibre is drawn, at whatever rank, and the draw changes deficit counters alone. -/
theorem LoneFiled.drawRank (h : LoneFiled s core port base st m lane i) :
    ∃ rank u, s.drawRank core port = (some (rank, false, loneDrawable s st m), u) ∧ u.offCores = s.offCores := by
  have own : s.issuesFor core (loneDrawable s st m).stall.key.tenant = true := h.own
  have wait := h.notFull
  unfold State.drawRank
  dsimp only
  rw [h.drawables false]
  have paused := h.drawables true
  cases back : s.heldBack core m with
  | true => exact ⟨6, s, by simp [oldestOf, firstOf, dedup, sortBy, own, paused, back], rfl⟩
  | false =>
    by_cases late : s.overdueAge core ≤ (loneDrawable s st m).age
    · exact ⟨2, s, by simp [oldestOf, late], rfl⟩
    · by_cases aged : s.isAged core (loneDrawable s st m) = true
      · obtain ⟨u, chosen, kept⟩ := s.chooseTenant_one core (loneDrawable s st m).stall.key.tenant
        have aged' : u.isAged core (loneDrawable s st m) = true := by
          have regs : u.regs = s.regs := (congrArg State.regs kept :)
          unfold State.isAged State.stallAge State.coreF State.coreReg at aged ⊢
          rw [regs]
          exact aged
        cases low : (loneDrawable s st m).stall.demoted with
        | true => exact ⟨5, u, by simp [oldestOf, firstOf, dedup, sortBy, insertBy, own, late, aged, chosen, aged', low], kept⟩
        | false => exact ⟨3, u, by simp [oldestOf, firstOf, dedup, sortBy, insertBy, own, late, aged, chosen, aged', low], kept⟩
      · exact ⟨6, s, by simp [oldestOf, firstOf, dedup, sortBy, own, late, aged, wait], rfl⟩

/-- The lanes of the draw: the lone fibre in lane 0. -/
theorem LoneFiled.lanesDrawn (h : LoneFiled s core port base st m lane i) :
    drawFrom (loneDrawable s st m).members (loneDrawable s st m).width false = [(0, i)] := by
  obtain ⟨n, width⟩ : ∃ n, s.widthOf st.key.launch = n + 1 := ⟨s.widthOf st.key.launch - 1, by
    have := s.widthOf_ge st.key.launch
    omega⟩
  simp [drawFrom, loneDrawable, width, h.single, h.lanes, byAge, sortBy, insertBy, numberLanes]

/-- A gang of one fibre that has no replay left takes its lane (R35). -/
theorem startGang_lone {f : Fibre} (w : Nat) (key : StallKey) (found : s.fibres.find (fibreKey core i) = some f)
    (caught : f.replays = []) :
    let t := s.startGang core port base w key [(0, i)]
    ∃ g f', t.gangs.find s.nextId = some g ∧ g.core = core ∧ g.port = port ∧ g.base = base ∧ g.width = w ∧
      g.members = [(0, i)] ∧ t.fibres.find (fibreKey core i) = some f' ∧ f'.state = .issuing ∧ f'.lane = 0 ∧
      f'.pc = s.freshPc f.tenant f.pc := by
  intro t
  obtain ⟨u, g, meaning, gangs, fibre, core_, port_, base_, width, members⟩ : ∃ (u : State) (g : Gang),
      t = u.catchUp (fibreKey core i) ∧ u.gangs.find s.nextId = some g ∧
      u.fibres.find (fibreKey core i) = some { f with
        state := .issuing, lane := 0, pause := none, reform := false, pc := s.freshPc f.tenant f.pc } ∧
      g.core = core ∧ g.port = port ∧ g.base = base ∧ g.width = w ∧ g.members = [(0, i)] := by
    refine ⟨_, _, rfl, Tbl.find_put_same _ _ _, ?_, rfl, rfl, rfl, rfl, rfl⟩
    refine (State.find_modFibre _ _ _ _).trans ((if_pos rfl).trans ?_)
    have same : ((s.fresh.2).modUnit core fun u => u.unfile i).fibres.find (fibreKey core i) = some f := found
    exact (congrArg _ same).trans rfl
  have none : u.catchUp (fibreKey core i) = u := by
    unfold State.catchUp
    rw [fibre]
    dsimp only
    rw [caught]
  rw [meaning, none]
  exact ⟨g, _, gangs, core_, port_, base_, width, members, fibre, rfl, rfl, rfl⟩

theorem State.freeRange_congr {u : State} (h : u.gangs = s.gangs) (core port w : Nat) :
    u.freeRange core port w = s.freeRange core port w := by
  unfold State.freeRange
  rw [h]

theorem State.freshPc_congr {u : State} (h : u.code = s.code) (vf : Nat) (pc : Pc) : u.freshPc vf pc = s.freshPc vf pc := by
  unfold State.freshPc State.codeOf
  rw [h]

/-- An issue opportunity of a core whose one filed fibre stands alone (R36). -/
theorem LoneFiled.opportunity (h : LoneFiled s core port base st m lane i) {f : Fibre} (clerk : s.clerkReady core = none)
    (runs : s.coreF core 0x148 0 0 = 0) (cool : s.plat.thermal < 3) (found : s.fibres.find (fibreKey core i) = some f)
    (caught : f.replays = []) :
    ∃ id g f', (s.opportunity core port).gangs.find id = some g ∧ g.core = core ∧ g.port = port ∧ g.base = base ∧
      g.width = s.widthOf st.key.launch ∧ g.members = [(0, i)] ∧
      (s.opportunity core port).fibres.find (fibreKey core i) = some f' ∧ f'.state = .issuing ∧ f'.lane = 0 ∧
      f'.pc = s.freshPc f.tenant f.pc := by
  obtain ⟨rank, u, drawn, kept⟩ := h.drawRank
  have fibres : u.fibres = s.fibres := (congrArg State.fibres kept :)
  have gangs : u.gangs = s.gangs := (congrArg State.gangs kept :)
  have code : u.code = s.code := (congrArg State.code kept :)
  have room : u.freeRange core port (loneDrawable s st m).width = some base :=
    (State.freeRange_congr gangs _ _ _).trans h.room
  have open_ : ¬(s.coreF core 0x148 0 0 = 1 ∨ 3 ≤ s.plat.thermal) := by omega
  let v := u.raiseCore core 0x0007 (loneDrawable s st m).stall.key.tenant
    (drawnAge (loneDrawable s st m).members [(0, i)]) rank
  let w := v.startGang core port base (loneDrawable s st m).width (loneDrawable s st m).stall.key [(0, i)]
  have ends : (s.opportunity core port).gangs = w.gangs ∧ (s.opportunity core port).fibres = w.fibres := by
    have settled : ∀ x : State, ((if s.anyOverdue core then x else x.ageAll core).settleOverflow core).offCores = x.offCores := by
      intro x
      refine (State.releaseStall_offCores _ _ _).trans ?_
      split <;> rfl
    have meaning : s.opportunity core port = (if s.anyOverdue core then
          (if rank = 2 then w.setCoreF core 0x108 63 32 (w.coreF core 0x108 63 32 + 1) else w)
        else (if rank = 2 then w.setCoreF core 0x108 63 32 (w.coreF core 0x108 63 32 + 1) else w).ageAll core).settleOverflow
          core := by
      unfold State.opportunity
      rw [clerk]
      dsimp only
      rw [if_neg open_, drawn]
      dsimp only
      rw [room]
      dsimp only
      rw [h.lanesDrawn]
    have same := settled (if rank = 2 then w.setCoreF core 0x108 63 32 (w.coreF core 0x108 63 32 + 1) else w)
    rw [meaning]
    constructor
    · refine (congrArg State.gangs same :).trans ?_
      split <;> rfl
    · refine (congrArg State.fibres same :).trans ?_
      split <;> rfl
  have here : v.fibres.find (fibreKey core i) = some f := (congrArg (Tbl.find · _) fibres).trans found
  obtain ⟨g, f', gang, core_, port_, base_, width, members, fibre, issuing, lane_, pc⟩ :=
    startGang_lone (port := port) (base := base) (loneDrawable s st m).width (loneDrawable s st m).stall.key here caught
  have same_pc : v.freshPc f.tenant f.pc = s.freshPc f.tenant f.pc := State.freshPc_congr code _ _
  rw [ends.1, ends.2]
  exact ⟨_, g, f', gang, core_, port_, base_, width, members, fibre, issuing, lane_, pc.trans same_pc⟩

end Sys2Proof.Machine

/-! ## The overflow, pauses and kills (R33, R51, R212) -/

namespace Sys2Proof.Machine

theorem CoreUnit.drainOverflow_full {u : CoreUnit} (h : 64 ≤ u.busyStalls.length) (n : Nat) : u.drainOverflow n = u := by
  cases n with
  | zero => rfl
  | succ n =>
    unfold CoreUnit.drainOverflow
    split
    · exact if_neg (Nat.not_lt.mpr h)
    · rfl

theorem modUnit_unit (s : State) (core : Nat) (g : CoreUnit → CoreUnit) : (s.modUnit core g).unit core = g (s.unit core) := by
  rw [State.unit_modUnit, if_pos rfl]

/-- A pick among some members is one of them. -/
theorem foldl_pick_mem {α : Type} (better : α → α → Bool) (l : List α) (b : α) :
    l.foldl (fun b q => if better b q then q else b) b ∈ b :: l := by
  induction l generalizing b with
  | nil => exact List.mem_singleton_self b
  | cons q l ih =>
    rw [List.foldl_cons]
    split
    · exact List.mem_cons_of_mem _ (ih q)
    · rcases List.mem_cons.mp (ih b) with same | inside
      · rw [same]
        exact List.mem_cons_self
      · exact List.mem_cons_of_mem _ (List.mem_cons_of_mem _ inside)

/-- A stall that may be released is one of the core's. -/
theorem mem_of_releasable {s : State} {core : Nat} {overdue : Bool} {st : Stall} (h : s.releasable core overdue = some st) :
    st ∈ (s.unit core).stalls := by
  unfold State.releasable at h
  dsimp only at h
  split at h
  · cases h
  · next t rest free =>
    have picked := foldl_pick_mem (fun b q : Stall => decide (b.assigned < q.assigned)) rest t
    rw [← free] at picked
    simp only [decide_eq_true_eq] at picked
    rw [Option.some.inj h] at picked
    exact List.mem_of_mem_filter (List.mem_of_mem_filter picked)

/-- A key alone in the overflow, for which no stall is, comes into one of its own (R33). -/
theorem letIn_moves {u : CoreUnit} {key : StallKey} {m : Filed} {out : List (StallKey × Filed)}
    (overflow : u.overflow = (key, m) :: out) (others : ∀ p ∈ out, p.1 ≠ key) (apart : ∀ x ∈ u.stalls, x.key ≠ key) :
    (u.letIn key).overflow = out ∧ ∃ x ∈ (u.letIn key).stalls, x.key = key ∧ x.members = [m] := by
  have none : (u.stalls.any fun t => decide (t.key = key)) = false := by simpa using apart
  have mine : u.overflow.filter (fun p => decide (p.1 = key)) = [(key, m)] := by
    rw [overflow, List.filter_cons_of_pos (by simp), List.filter_eq_nil_iff.mpr fun p hp => by simp [others p hp]]
  have rest : u.overflow.filter (fun p => decide (p.1 ≠ key)) = out := by
    rw [overflow, List.filter_cons_of_neg (by simp), List.filter_eq_self.mpr fun p hp => by simp [others p hp]]
  unfold CoreUnit.letIn
  dsimp only
  rw [none, mine, rest]
  exact ⟨rfl, _, List.mem_append_right _ List.mem_cons_self, rfl, rfl⟩

/-- The oldest key of the overflow takes the stall of another (R33, R47). -/
theorem releaseStall_moves {s : State} {core age : Nat} {key : StallKey} {m : Filed} {st : Stall}
    (waits : (s.unit core).overflow = [(key, m)]) (full : 64 ≤ (s.unit core).busyStalls.length)
    (apart : ∀ x ∈ (s.unit core).stalls, x.key ≠ key)
    (chosen : s.releasable core (decide (s.overdueAge core ≤ m.age)) = some st) (old : age ≤ m.age) :
    ((s.releaseStall core age).unit core).overflow = st.members.map (fun q => (st.key, q)) ∧
      ∃ x ∈ ((s.releaseStall core age).unit core).stalls, x.key = key ∧ x.members = [m] := by
  have oldest : (s.unit core).oldestOverflow = some (key, m) := by
    unfold CoreUnit.oldestOverflow
    rw [waits]
    simp [oldestFiled]
  obtain ⟨v, meaning, same, regs⟩ : ∃ v : State, v = s.modUnit core (fun u => u.drainOverflow u.overflow.length) ∧
      v.unit core = s.unit core ∧ v.regs = s.regs :=
    ⟨_, rfl, (modUnit_unit s core _).trans (CoreUnit.drainOverflow_full full _), rfl⟩
  have chosen' : v.releasable core (decide (v.overdueAge core ≤ m.age)) = some st := by
    have overdue : v.overdueAge core = s.overdueAge core := by
      unfold State.overdueAge State.coreF State.coreReg
      rw [regs]
    rw [← chosen, overdue]
    unfold State.releasable
    rw [same, overdue]
  have ends : (s.releaseStall core age).unit core = CoreUnit.letIn { s.unit core with
      stalls := (s.unit core).stalls.filter fun q => decide (q.key ≠ st.key),
      overflow := (s.unit core).overflow ++ st.members.map fun q => (st.key, q) } key := by
    unfold State.releaseStall
    dsimp only
    rw [← meaning, same, oldest]
    dsimp only
    rw [if_neg (Nat.not_lt.mpr old), chosen']
    dsimp only
    rw [modUnit_unit, same]
  have others : st.key ≠ key := apart st (mem_of_releasable chosen)
  rw [ends]
  refine letIn_moves (congrArg (· ++ _) waits) (fun p hp => ?_) fun x hx => apart x (List.mem_of_mem_filter hx)
  obtain ⟨q, -, rfl⟩ := List.mem_map.mp hp
  exact others

theorem pauseRelease_effect {s : State} {core i : Nat} {m : Filed} (due : s.heldBack core m = false)
    (mine : (((s.unit core).stalls.flatMap fun st => st.members) ++ (s.unit core).overflow.map Prod.snd).find?
      (fun q => !q.held && q.lanes.any fun l => decide (l.2 = i)) = some m) :
    exec (.pauseRelease core i) s = .next (s.modFibre (fibreKey core i) fun f => { f with pause := none }) := by
  change execPauseRelease core i s = _
  unfold execPauseRelease
  dsimp only
  rw [mine]
  exact congrArg _ (if_neg (by rw [due]; exact Bool.false_ne_true))

theorem killDeadline_effect {s : State} {crew d : Nat} {k : Crew} (found : s.sched.crews.find crew = some k)
    (by_ : k.deadline = some d) (killed : k.killCause.isSome = true) :
    (d ≤ s.gtc → exec (.killDeadline crew) s = .next
      ((((s.crewFibres crew).foldl (fun (v : State) p => v.killNow p.1) s).endRuns s).endCrew crew)) ∧
    (s.gtc < d → exec (.killDeadline crew) s = .next s) := by
  have ordered : ¬k.killCause.isNone = true := by simpa [Option.isSome_iff_ne_none] using killed
  have meaning : exec (.killDeadline crew) s = .next (if s.gtc < d ∨ k.killCause.isNone then s
      else (((s.crewFibres crew).foldl (fun (v : State) p => v.killNow p.1) s).endRuns s).endCrew crew) := by
    change Host.Outcome.next (s.deadlineKill crew) = _
    unfold State.deadlineKill
    rw [found]
    dsimp only
    rw [by_]
  rw [meaning]
  exact ⟨fun late => congrArg _ (if_neg fun early => early.elim (Nat.not_lt.mpr late) ordered),
    fun early => congrArg _ (if_pos (Or.inl early))⟩

end Sys2Proof.Machine

/-! ## Reloads, landings and the mailbox (R31, R81, R171) -/

namespace Sys2Proof.Machine

theorem fileAt_reloads (u : CoreUnit) (key : StallKey) (m : Filed) : (u.fileAt key m).reloads = u.reloads := by
  unfold CoreUnit.fileAt
  split
  · rfl
  · split <;> rfl

/-- A fibre that is filed is STALLED at its PC, and no core forgets a request (R30, R32). -/
theorem file_stalls {s : State} {key : Nat} {f : Fibre} (found : s.fibres.find key = some f) :
    (s.file key).fibres.find key = some { f with state := .stalled } ∧
      ∀ core, ((s.file key).unit core).reloads = (s.unit core).reloads := by
  obtain ⟨m, meaning⟩ : ∃ m, s.file key =
      ((s.fresh.2).setFibre key { f with state := .stalled }).modUnit (coreOf key) fun u => u.fileAt f.stallKey m := by
    unfold State.file
    rw [found]
    exact ⟨_, rfl⟩
  rw [meaning]
  refine ⟨Tbl.find_put_same _ _ _, fun core => ?_⟩
  rw [State.unit_modUnit]
  split
  · next own =>
    rw [fileAt_reloads, own]
    rfl
  · rfl

/-- A reload request is served (R31): the segment is on the core, the request is gone, and a fibre that was COLD for nothing else
is filed. -/
theorem segmentReload_serves {s v : State} {core key : Nat} {rest : List Nat} {f : Fibre}
    (asked : (s.unit core).reloads = key :: rest) (found : s.fibres.find key = some f)
    (slot : (if decide ((s.seg (segKey f.tenant f.fbSeg)).resident = some core) then some s else s.heapRoom core true) = some v) :
    ∃ u : State, u.fibres = v.fibres ∧ (u.unit core).reloads = rest ∧
      u.segs = v.segs.modify (segKey f.tenant f.fbSeg) (fun g => { g with resident := some core, touched := v.gtc }) ∧
      exec (.segmentReload core) s = .next (match f.state with
        | .cold none => u.file key
        | .cold (some w) => (u.modFibre key fun f => { f with state := .parked w }).meet key w
        | _ => u) := by
  let moved := (v.modUnit core fun u => { u with reloads := rest }).modSeg (segKey f.tenant f.fbSeg) fun g =>
    { g with resident := some core, touched := v.gtc }
  refine ⟨if decide ((s.seg (segKey f.tenant f.fbSeg)).resident = some core) then moved
      else moved.raiseCore core 0x000A f.tenant (moved.gtc - f.coldSince) 0, ?_, ?_, ?_, ?_⟩
  · split <;> rfl
  · have gone : (moved.unit core).reloads = rest := congrArg CoreUnit.reloads (modUnit_unit v core fun u => { u with reloads := rest })
    split
    · exact gone
    · exact gone
  · split <;> rfl
  · change execSegmentReload core s = _
    unfold execSegmentReload
    rw [asked]
    dsimp only
    rw [found]
    dsimp only
    rw [slot] <;> rfl

theorem segmentReload_effect {s : State} {core key : Nat} {rest : List Nat} {f : Fibre}
    (asked : (s.unit core).reloads = key :: rest) (found : s.fibres.find key = some f) :
    let seg := segKey f.tenant f.fbSeg
    ((s.seg seg).resident = some core → f.state = .cold none →
      ∃ (t : State) (g : Fibre), exec (.segmentReload core) s = .next t ∧ t.fibres.find key = some g ∧ g.state = .stalled ∧
        g.pc = f.pc ∧ (t.unit core).reloads = rest) ∧
    ∀ v, (s.seg seg).resident ≠ some core → s.heapRoom core true = some v → (v.segs.find seg).isSome = true →
      ∃ t : State, exec (.segmentReload core) s = .next t ∧ (t.seg seg).resident = some core := by
  intro seg
  constructor
  · intro here cold
    obtain ⟨u, fibres, reloads, -, meaning⟩ := segmentReload_serves asked found (if_pos (decide_eq_true here))
    rw [cold] at meaning
    obtain ⟨stalled, kept⟩ := file_stalls (s := u) (key := key) ((congrArg (Tbl.find · key) fibres).trans found)
    exact ⟨_, _, meaning, stalled, rfl, rfl, (kept core).trans reloads⟩
  · intro v away room there
    obtain ⟨u, -, -, segs, meaning⟩ := segmentReload_serves asked found
      ((if_neg (by simpa using away)).trans room)
    have resident : ∀ t : State, t.segs = u.segs → (t.seg seg).resident = some core := by
      intro t same
      obtain ⟨g, found⟩ := Option.isSome_iff_exists.mp there
      unfold State.seg Tbl.get
      rw [same, segs, Tbl.find_modify, if_pos rfl, found]
      rfl
    refine ⟨_, meaning, resident _ ?_⟩
    split
    · exact segs_of_aside (u.file_aside key)
    · exact segs_of_aside ((State.meet_aside _ _ _).trans (State.modFibre_aside _ _ _))
    · rfl

/-- Gangs that do not leave their lanes stay. -/
theorem settleLeaving_none {s : State} (h : ∀ p ∈ s.gangs, p.2.leaving = none) : s.settleLeaving = s := by
  refine foldl_fixed fun p _ => ?_
  split
  · next g found =>
    rw [h _ (Tbl.mem_of_find found)]
  · rfl

/-- A result is written to the register that awaits it (R171). -/
theorem landingWrite_effect {s : State} {id seg w : Nat} {l : Landing} {v : Word} (found : s.landings.find id = some l)
    (one : l.writes = [(.frame seg w, v)]) (there : (s.segs.find seg).isSome = true)
    (stay : ∀ p ∈ s.gangs, p.2.leaving = none) :
    ∃ t : State, exec (.landingWrite id) s = .next t ∧ (t.cell (.frame seg w)).val = v ∧
      (t.cell (.frame seg w)).mark = .full ∧ t.landings = s.landings.del id := by
  classical
  let taken : State := { s with landings := s.landings.del id }
  let written := (taken.writeCell (.frame seg w) v).touch seg
  have meaning : s.deliverLanding id = written.recheck (coreOf l.fibre) := by
    unfold State.deliverLanding
    rw [found]
    dsimp only
    rw [one]
    rfl
  obtain ⟨u, c, write, alike, -, gangs, -, val, mark⟩ := Safety.writeCell_eq taken (.frame seg w) v
  have placed : Safety.Placed u (.frame seg w) := (alike.1.placed (.frame seg w)).mpr there
  have cell : (u.setCell (.frame seg w) c).cell (.frame seg w) = c :=
    (Safety.setCell_cell u _ _ c).trans (if_pos ⟨rfl, placed⟩)
  have after : Safety.Same (u.setCell (.frame seg w) c) (written.recheck (coreOf l.fibre)) := by
    have touched := (Safety.same_touch (s := taken.writeCell (.frame seg w) v) seg).trans
      (Safety.same_recheck (s := written) (coreOf l.fibre))
    rw [write] at touched
    exact touched
  have kept : (written.recheck (coreOf l.fibre)).gangs = s.gangs := by
    refine (gangs_of_aside (written.recheck_aside _)).trans ?_
    change (taken.writeCell (.frame seg w) v).gangs = s.gangs
    rw [write, (Safety.setCell_keeps u _ c).2.1]
    exact gangs
  have settled : (s.deliverLanding id).settleLeaving = written.recheck (coreOf l.fibre) := by
    rw [meaning]
    exact settleLeaving_none (by rw [kept]; exact stay)
  refine ⟨_, congrArg Host.Outcome.next settled, ?_, ?_, ?_⟩
  · rw [after.value, cell, val]
  · rw [after.mark, cell, mark]
  · exact after.landings.trans ((Safety.apart_setCell _ c).landings.trans alike.1.landings)

/-- A fibre that waits for room in the mailbox tries again (R81). -/
theorem mailboxDeferredPost_effect {s : State} {core key : Nat} {f : Fibre} (room : s.mailboxRoom core = true)
    (none : (s.unit core).notices = [])
    (waits : (s.fibres.select fun k f => decide (coreOf k = core) && decide (f.state = .performing)) = [(key, f)]) :
    exec (.mailboxDeferredPost core) s = .next (s.tryPerform key) := by
  change execMailboxDeferredPost core s = _
  have posted : s.postWaiting core (s.unit core).notices.length = s := by
    rw [none]
    rfl
  unfold execMailboxDeferredPost
  rw [posted]
  dsimp only
  rw [waits]
  exact congrArg _ (if_pos room)

end Sys2Proof.Machine

/-! ## Settling O52 -/

namespace Sys2Proof

open Machine

/-- Settles O52, one lemma for each event: a draw by the one candidate that there is, a reload and a landing by what filing fibres
and completing barriers leave alone. -/
theorem coreEventsTakeEffect : Obligations.CoreEventsTakeEffect := by
  unfold Obligations.CoreEventsTakeEffect
  intro s core goes u
  refine ⟨?_, ?_, fun _ _ due mine => pauseRelease_effect due mine, fun _ _ _ asked found => segmentReload_effect asked found,
    fun _ _ _ found by_ killed => killDeadline_effect found by_ killed,
    fun _ _ _ _ _ found one there stay => landingWrite_effect found one there stay,
    fun _ _ room none waits => mailboxDeferredPost_effect room none waits⟩
  · intro port st m lane i base f w low ports open_ clerk runs cool stalls overflow members lanes single fibre found own caught room
    have lone : LoneFiled s core port base st m lane i :=
      ⟨stalls, overflow, members, lanes, single, fibre, own, room⟩
    obtain ⟨id, g, f', rest⟩ := lone.opportunity clerk runs cool found caught
    have granted : exec (.issueOpportunity core port) s = .next (s.opportunity core port) :=
      congrArg Host.Outcome.next (if_pos ⟨low, ports, open_⟩)
    exact ⟨_, id, g, f', granted, rest⟩
  · intro key m st waits full apart chosen moved
    exact ⟨fun old => ⟨_, rfl, releaseStall_moves waits full apart chosen old⟩,
      fun old => ⟨_, rfl, releaseStall_moves waits full apart chosen old⟩⟩

end Sys2Proof

/-! O28 fails: a clerk of another tenant than the PF. A clerk’s free segment is sought among the PF's segments, the new segment is
made among those of the fibre's own tenant, and so it can be put where the caller's own segment stands. The hop then
marks the words it has copied full in the new segment, while the statement has their marks go with them. -/
namespace Sys2Proof.Safety

open Sys2Proof.Machine

/-- A `call` with slide 16. -/
def hopCall : FormWI := { hdr := { pred := 0, rb := 1 }, a := 0, b := 0, lb := false, imm := 0, mod := 0, sub := 2 }

/-- A launch with frames of 128 words, in which every call hops. -/
def narrowLaunch : Launch :=
  { vf := 1, queue := 0, placed := 1, late := false, crewKilled := false, completing := false,
    record :=
      { code := 0, entry := 0, flags := 0, widths := [1, 1, 1, 1, 1], counts := [1, 1, 1, 1, 1], frameW := 128,
        partFrame := 8, partScratch := 0, partWeight := 8, partCache := 8, actx := 15, tokcls := 0, prio := 0, args := 0,
        start := 0, depAddr := 0, depVal := 0, doneAddr := 0, doneVal := 0, msix := 0xFFFF, runlim := 0 } }

/-- The clerk of core 0 as a fibre of tenant 1, standing in the first segment of that clerk. -/
def foreignClerk : Fibre :=
  { Fibre.clerk 0 with state := .issuing, tenant := 1, launch := 1, fbSeg := clerkSeg 0, live := 128 }

/-- Its gang. -/
def foreignGang : Gang :=
  { core := 0, port := 0, base := 0, width := 16, tenant := 1, launch := 1, members := [(0, 4095)], runLen := 0,
    runStart := foreignClerk.pc, pos := 0, recent := [], reform := false, spinning := false, before := [] }

/-- The state in which it issues: word 32 of its segment is empty, and the PF has no segment of that clerk. -/
def foreignCalling : State :=
  { State.reset with
    fibres := [(4095, foreignClerk)]
    segs := [(segKey 1 (clerkSeg 0),
      { Segment.empty with resident := some 0, words := [(32, { RegCell.zero with mark := .empty })] })]
    gangs := [(1, foreignGang)]
    sched := { State.reset.sched with launches := [(1, narrowLaunch)] }
    cur := 1 }

/-- The turn in which it calls. -/
def foreignTurn : Turn :=
  { gang := foreignGang, lane := 0, index := 4095, fibre := foreignClerk, form := formWI hopCall .none .none true }

theorem ready_foreignCalling : Ready foreignCalling (.call hopCall) foreignTurn where
  gang := by decide +kernel
  alone := rfl
  index := by decide
  form := by decide +kernel
  legal := by decide +kernel
  fibre := by decide +kernel
  issuing := rfl
  owner := by decide +kernel
  inTime := Or.inl (by decide +kernel)
  guard := Or.inl rfl
  sources := by decide +kernel

theorem calm_foreignCalling : Calm foreignCalling foreignTurn 0 where
  kill := rfl
  faults := rfl
  request := rfl
  flags := by decide +kernel
  landings := by decide +kernel
  window _ high low := absurd (Nat.lt_of_le_of_lt high low) (by decide)

theorem free_foreignCalling : Free foreignCalling (.call hopCall) foreignTurn [14, 15] where
  takes := by decide +kernel
  room := by decide +kernel
  frame := by decide +kernel
  crew := by decide +kernel

/-- The mark of word 16 of a segment. -/
def markOf16 (g : Segment) : Option Mark := (g.words.find 16).map RegCell.mark

/-- A word of format W with every field zero, for the CALLI that the statement speaks of beside the CALL. -/
def zeroCalli : FormW :=
  { hdr := { pred := 0, rb := 0 }, a := 0, b := 0, c := 0, d := 0, lb := false, lc := false, ld := false, tb := false,
    tc := false, td := false, mod := 0, sub := 0 }

/-- Refutes O28: a clerk of tenant 1 hops into the segment that it stands in, and the copy of an empty word is full there. -/
theorem not_callsOpenTheirWindow : ¬ Obligations.CallsOpenTheirWindow := by
  unfold Obligations.CallsOpenTheirWindow
  intro h
  obtain ⟨call, -⟩ := h hopCall zeroCalli foreignCalling foreignTurn
  obtain ⟨-, hops⟩ := call ⟨ready_foreignCalling, Or.inr calm_foreignCalling⟩ free_foreignCalling
  have room : (foreignTurn.read foreignCalling (.call hopCall)).heapRoom (coreOf foreignTurn.key) false =
      some (foreignTurn.read foreignCalling (.call hopCall)) := if_pos (by decide +kernel)
  obtain ⟨-, claimed⟩ := hops (by decide +kernel) _ (clerkSeg 0) room (by decide +kernel)
  exact absurd (congrArg (Option.map markOf16) claimed) (by decide +kernel)

end Sys2Proof.Safety

/-! ## The end of an instruction, whatever it has done (R38 to R43) -/

namespace Sys2Proof.Safety

open Sys2Proof.Machine

variable {s s' u : State} {i : Instr} {t : Turn} {f : Fibre}

theorem popsSeen_alike (core : Nat) (rs : List ReadLane) : Alike s (s.popsSeen core rs) :=
  popsSeen_induct (P := fun a => Alike s a) (Alike.refl s) (fun _ _ h => h.trans (alike_recheck _ _)) core rs

/-- Where the run goes on, what comes after the lanes is bookkeeping, whatever has become of the fibre and its gang. -/
theorem afterLanes_running (runs : t.runsOn i) (rs : List ReadLane) (back : Bool) :
    Alike s (s.afterLanes i t.form t.gang rs back) := by
  obtain ⟨mark, goes, short⟩ := runs
  have ends : (decide (t.form.hdr.rb.toNat ≠ 0) || endsRun i || decide (24 ≤ t.gang.runLen + 1)) = false := by
    rw [mark, goes]
    simp
    omega
  unfold State.afterLanes
  dsimp only
  rw [ends]
  generalize (fun g : Gang => _ : Gang → Gang) = g
  have moved : Alike s ((s.popsSeen t.gang.core rs).modGang s.cur g) :=
    (popsSeen_alike _ _).trans ⟨same_modGang _ _, SameQ.of_cores rfl rfl⟩
  rw [Bool.not_false, if_pos rfl]
  split
  · exact moved.trans (Alike.trans ⟨same_chargeEnd _ _, sameQ_chargeEnd _ _⟩ (same_countSpin _ _))
  · exact moved

theorem alike_withPc (h : Alike s u) (pc : Pc) :
    Alike (s.modFibre t.key fun f => { f with pc := pc }) (u.modFibre t.key fun f => { f with pc := pc }) :=
  alike_modFibre h t.key _ fun x y e => by
    show context { context y with pc := pc } = context { context x with pc := pc }
    rw [e]

/-- Where its run goes on, an instruction whose lane changes the state does what that state says. -/
theorem does_running {codes : List Nat} (h : Ready s i t) (runs : t.runsOn i) (free : Free s i t codes)
    (he : exec i s = .next (t.after s i (.checked codes (.next u)))) : Does s i t u (t.next s i) := by
  have after : t.after s i (.checked codes (.next u)) =
      (u.modFibre t.key fun f => { f with pc := t.next s i }).afterLanes i t.form t.gang [t.line s i] false := by
    unfold Turn.after Lanes.finish
    dsimp only
    rw [stopAt_none h free]
    rfl
  have done := afterLanes_running (s := u.modFibre t.key fun f => { f with pc := t.next s i }) runs [t.line s i] false
  exact ⟨_, he.trans (congrArg _ after), done.1, (sameQ_modFibre _ _).trans done.2⟩

/-- The same, of an instruction that has no destinations to check. -/
theorem does_running_next (runs : t.runsOn i) (he : exec i s = .next (t.after s i (.next u))) :
    Does s i t u (t.next s i) := by
  have done := afterLanes_running (s := u.modFibre t.key fun f => { f with pc := t.next s i }) runs [t.line s i] false
  exact ⟨_, he, done.1, (sameQ_modFibre _ _).trans done.2⟩

/-- Results of long latency over the state that has read the operands. -/
theorem after_outs (o : List (Nat × Word)) :
    t.after s i (.outs true o 0 none) = t.after s i (.outsIn (t.read s i) o) := by
  unfold Turn.after Lanes.finish
  rfl

/-- An instruction whose lane gives results of long latency sends them. -/
theorem sends_outs {o : List (Nat × Word)} (h : Goes s i t) (free : Free s i t (o.map Prod.fst)) (plain : endsSafe i = false)
    (he : exec i s = .next (t.after s i (.outs true o 0 none))) :
    Sends s i t ((t.read s i).writeLong (t.x s i) o) (t.next s i) :=
  loads_land h free plain (Read.refl _) (he.trans (congrArg _ (after_outs o)))

/-! ### A fibre whose results an operation owes -/

/-- Nothing waits for the fibre's safe point but results that operations owe to its registers. -/
structure Owed (s : State) (t : Turn) (f : Fibre) : Prop where
  kill : f.killOrdered = false
  faults : f.pending = []
  request : f.request = none
  flags : f.trapping = false
  landings : ∀ p ∈ s.landings, p.2.fibre ≠ t.key
  owing : s.owing [t.key] = true

theorem Owed.same (h : Owed s t f) (e : Same s s') : Owed s' t f := by
  obtain ⟨kill, faults, request, flags, landings, owing⟩ := h
  have ops : s'.coh.ops = s.coh.ops := (congrArg Coherence.ops e.coh :)
  refine ⟨kill, faults, request, flags, by rw [e.landings]; exact landings, ?_⟩
  unfold State.owing at owing ⊢
  rw [ops, e.engine]
  exact owing

theorem Owed.withPc (h : Owed s t f) (pc : Pc) :
    Owed (s.modFibre t.key fun f => { f with pc := pc }) t { f with pc := pc } := by
  obtain ⟨kill, faults, request, flags, landings, owing⟩ := h
  refine ⟨kill, faults, request, flags, by simpa using landings, ?_⟩
  unfold State.owing at owing ⊢
  simpa using owing

theorem Owed.safePoint (h : Owed s t f) (live : Live s t f) (own : Pc) : s.safePoint t.key own = s := by
  unfold State.safePoint
  rw [live.fibre]
  simp [live.issuing, h.kill, h.faults, h.request, h.flags]

/-- Settling the one lane of a gang to which results are owed: at a safe point it keeps its lanes (R43). -/
theorem settle_owed (h : Live s t f) (hm : t.gang.members = [(t.lane, t.index)]) (owed : Owed s t f) (rb : Nat)
    (safe back : Bool) : Alike s (s.settleGang s.cur rb safe back) := by
  obtain ⟨g, hg, hgm, hgc⟩ := h.gang
  have keys : g.members.map (fun m => fibreKey g.core m.2) = [t.key] := by
    rw [hgm, hm, hgc]
    rfl
  have flush : s.flushLandings [t.key] = s := by
    have none : s.landings.select (fun _ l => [t.key].contains l.fibre) = [] :=
      List.filter_eq_nil_iff.mpr fun p hp => by simp [owed.landings p hp]
    unfold State.flushLandings
    rw [none]
    rfl
  have counted : ∀ b, Alike s (s.countSpin g b) := fun b => same_countSpin g b
  have left : ∀ u : State, Alike u (u.leaveTwin t.key) := fun u => ⟨same_leaveTwin _, sameQ_modFibre _ _⟩
  unfold State.settleGang
  rw [hg]
  dsimp only
  rw [keys]
  cases safe with
  | false =>
    split
    · exact ((counted false).trans (left _)).trans ⟨same_modGang _ _, SameQ.of_cores (s := State.leaveTwin _ _) rfl rfl⟩
    · simp only [Bool.false_eq_true, if_false, Bool.false_and, List.foldl_cons, List.foldl_nil]
      have before := fun b => (counted b).trans (left _)
      refine (before _).trans (fileGang_alike (f := f) ?_ owed.kill _)
      rw [(before _).1.fibres, h.fibre]
      rfl
  | true =>
    split
    · next e => simp at e
    · simp only [if_true, flush, owed.owing, Bool.true_and]
      exact ⟨same_modGang _ _, SameQ.of_cores rfl rfl⟩

/-- After the one lane of an instruction whose results are owed. -/
theorem afterLanes_owed (h : Live s t f) (hm : t.gang.members = [(t.lane, t.index)]) (owed : Owed s t f)
    (rs : List ReadLane) (back : Bool) : Alike s (s.afterLanes i t.form t.gang rs back) := by
  unfold State.afterLanes
  dsimp only
  generalize hgen : (fun g : Gang => _ : Gang → Gang) = g
  have hg : ∀ x, (g x).members = x.members ∧ (g x).core = x.core := by
    intro x
    rw [← hgen]
    exact ⟨rfl, rfl⟩
  clear hgen
  obtain ⟨h₀, cur₀, seen⟩ := popsSeen_live h t.gang.core rs
  rw [← cur₀]
  generalize s.popsSeen t.gang.core rs = s₀ at h₀ seen ⊢
  have moved : Alike s (s₀.modGang s₀.cur g) := Alike.trans seen ⟨same_modGang _ _, SameQ.of_cores rfl rfl⟩
  have live := live_modGang h₀ s₀.cur g hg
  have live₂ : Live ((s₀.modGang s₀.cur g).chargeEnd t.gang (t.gang.runLen + 1)) t f ∧
      ((s₀.modGang s₀.cur g).chargeEnd t.gang (t.gang.runLen + 1)).cur = s₀.cur := by
    unfold State.chargeEnd
    split
    · exact ⟨live, rfl⟩
    · exact ⟨⟨live.fibre, live.issuing, live.gang⟩, rfl⟩
  have alike₂ : Alike s ((s₀.modGang s₀.cur g).chargeEnd t.gang (t.gang.runLen + 1)) :=
    moved.trans ⟨same_chargeEnd _ _, sameQ_chargeEnd _ _⟩
  split
  · split
    · exact alike₂.trans (same_countSpin _ _)
    · exact moved
  · obtain ⟨live₂, cur₂⟩ := live₂
    generalize (s₀.modGang s₀.cur g).chargeEnd t.gang (t.gang.runLen + 1) = s₂ at live₂ alike₂ cur₂ ⊢
    rw [← cur₂]
    have owed₂ := owed.same alike₂.1
    have point : t.gang.members.foldl (fun s m => s.safePoint (fibreKey t.gang.core m.2)
        (ownOf rs (fibreKey t.gang.core m.2))) s₂ = s₂ := by
      rw [hm]
      exact owed₂.safePoint live₂ _
    rw [point, ite_self]
    split
    · exact alike₂.trans (same_countSpin _ _)
    · exact alike₂.trans (settle_owed live₂ hm owed₂ _ _ _)

end Sys2Proof.Safety

/-! ## KILL and SRET (R51, R87, R317, R321) -/

namespace Sys2Proof.Machine

@[simp] theorem State.fenceWrites_beyond (s : State) (core vf : Nat) : (s.fenceWrites core vf).2.beyond = s.beyond :=
  (State.writeBackAll_beyond _ core vf _).trans (foldl_beyond (fun s line => s.releaseRetained_beyond core vf line) _ s)

@[simp] theorem State.fencePart_beyond (s : State) (core vf scope : Nat) (o : OrdOp) :
    (s.fencePart core vf scope o).2.beyond = s.beyond := by
  unfold State.fencePart
  split
  · rfl
  · exact s.fenceWrites_beyond core vf

end Sys2Proof.Machine

namespace Sys2Proof.Safety

open Sys2Proof.Machine

variable {s s' u : State} {i : Instr} {t : Turn} {f : Fibre}

theorem live_of_beyond (h : Live s t f) (e : u.beyond = s.beyond) : Live u t f :=
  h.of_parts (congrArg (fun v : State => v.fibres.find t.key) e :) (congrArg State.gangs e :) (congrArg State.cur e :)

theorem quiet_of_beyond (q : Quiet s t t.fibre) (e : u.beyond = s.beyond) : Quiet u t t.fibre :=
  q.congr (congrArg State.landings e :) rfl rfl rfl rfl fun c lo hi =>
    (congrArg RegCell.mark (cell_congr (s := s) (congrArg State.segs e :) (congrArg (fun v : State => v.sched.crews) e :)
      _)).trans (q.window c lo hi)

/-- What KILL does on its lane to what it finds there (R321). -/
def killLane (k : FormW) (x : LaneIn) (s : State) : Option Fibre → LaneRes
  | none => .outs true [(k.a.toNat, 1)] 0 none
  | some g =>
    if g.counts = false then .outs true [(k.a.toNat, 2)] 0 none
    else
      let u := (s.noteWrite x k.a.toNat).writeCode x.key k.a.toNat 0
      .checked [k.a.toNat] (.next (match k.sub.toNat, g.crew with
        | 1, some c => u.killByOrder c (loWord x.c).toNat
        | _, _ => u.killOne (fibreKey (coreOf x.key) (loWord x.b).toNat)))

theorem kill_ready {k : FormW} (h : Ready s (.kill k) t) (low : (loWord (t.x s (.kill k)).b).toNat < 4095)
    {found : Option Fibre} (finds : s.fibres.find (fibreKey (coreOf t.key) (loWord (t.x s (.kill k)).b).toNat) = found)
    (may : isClerk t.key = true ∨ ∃ g, found = some g ∧ g.crew = t.fibre.crew) :
    exec (.kill k) s = .next (t.after s (.kill k) (killLane k (t.x s (.kill k)) (t.read s (.kill k)) found)) := by
  have reads : (t.read s (.kill k)).fibres.find (fibreKey (coreOf (t.x s (.kill k)).key) (loWord (t.x s (.kill k)).b).toNat) =
      found := (congrArg (Tbl.find · _) (read_gangs s (.kill k) t).2.2).trans finds
  refine (plain_ready h _).trans (congrArg (fun r => Host.Outcome.next (t.after s (.kill k) r)) ?_)
  dsimp only
  rw [if_neg (Nat.not_le.mpr low), reads]
  rcases may with clerk | ⟨g, rfl, own⟩
  · rw [if_neg fun e => Bool.false_ne_true (e.1.symm.trans clerk)]
    cases found <;> rfl
  · rw [if_neg fun e => of_decide_eq_false e.2 own]
    rfl

/-- KILL of what is no fibre, or counts no more, tells so (R321). -/
theorem kill_tells {k : FormW} (h : Goes s (.kill k) t) (low : (loWord (t.x s (.kill k)).b).toNat < 4095)
    (free : Free s (.kill k) t [k.a.toNat]) :
    let key := fibreKey (coreOf t.key) (loWord (t.x s (.kill k)).b).toNat
    let out := fun (v : Word) => Sends s (.kill k) t
      ((t.read s (.kill k)).writeLong (t.x s (.kill k)) [(k.a.toNat, v)]) (t.next s (.kill k))
    (s.fibres.find key = none → isClerk t.key = true → out 1) ∧
      ∀ g, s.fibres.find key = some g → (isClerk t.key = true ∨ g.crew = t.fibre.crew) → g.counts = false → out 2 := by
  intro key out
  refine ⟨fun none clerk => ?_, fun g found may gone => ?_⟩
  · have meaning := kill_ready h.ready low none (Or.inl clerk)
    exact sends_outs (o := [(k.a.toNat, 1)]) h free rfl meaning
  · have meaning := (kill_ready h.ready low found (may.imp id fun own => ⟨g, rfl, own⟩)).trans
      (congrArg (fun r => Host.Outcome.next (t.after s (.kill k) r)) (if_pos gone))
    exact sends_outs (o := [(k.a.toNat, 2)]) h free rfl meaning

/-- KILL of a fibre that counts kills it, or its crew, once A has been written (R51, R321). -/
theorem kill_kills {k : FormW} (h : Goes s (.kill k) t) (low : (loWord (t.x s (.kill k)).b).toNat < 4095)
    (free : Free s (.kill k) t [k.a.toNat]) {g : Fibre}
    (found : s.fibres.find (fibreKey (coreOf t.key) (loWord (t.x s (.kill k)).b).toNat) = some g)
    (may : isClerk t.key = true ∨ g.crew = t.fibre.crew) (counts : g.counts = true) (runs : t.runsOn (.kill k)) :
    let u := ((t.read s (.kill k)).noteWrite (t.x s (.kill k)) k.a.toNat).writeCode t.key k.a.toNat 0
    (k.sub = 0 → Does s (.kill k) t (u.killOne (fibreKey (coreOf t.key) (loWord (t.x s (.kill k)).b).toNat))
        (t.next s (.kill k))) ∧
      (k.sub = 1 → ∀ c, g.crew = some c →
        Does s (.kill k) t (u.killByOrder c (loWord (t.x s (.kill k)).c).toNat) (t.next s (.kill k))) := by
  intro u
  have counted : ¬g.counts = false := by simp [counts]
  have meaning := (kill_ready h.ready low found (may.imp id fun own => ⟨g, rfl, own⟩)).trans
    (congrArg (fun r => Host.Outcome.next (t.after s (.kill k) r)) (if_neg counted))
  refine ⟨fun one => does_running h.ready runs free ?_, fun all c member => does_running h.ready runs free ?_⟩
  · rw [one] at meaning
    exact meaning
  · rw [all, member] at meaning
    exact meaning

/-- SRET, once the clerk's writes have been performed (R317). -/
theorem sret_ready {q : FormW} (h : Ready s (.sret q) t) (clerk : isClerk t.key = true) (b : q.b ≠ 0xD8)
    (idle : t.fibre.pending = [])
    (done : let x := t.x s (.sret q)
      let u := t.read s (.sret q)
      let part := (u.fresh.2).fencePart (coreOf t.key) t.fibre.tenant 4 (x.ordOp u.fresh.2 .flush 0 0 0 4 0 0)
      part.2.writesPending part.1.writes = false) :
    let x := t.x s (.sret q)
    let u := t.read s (.sret q)
    let part := (u.fresh.2).fencePart (coreOf t.key) t.fibre.tenant 4 (x.ordOp u.fresh.2 .flush 0 0 0 4 0 0)
    exec (.sret q) s = .next (t.after s (.sret q) (.next (match s.suspendedBy (coreOf t.key) x.b with
      | some (key, g) => part.2.reply (coreOf t.key) key g x.b (loWord x.c).toNat x.d (bit q.mod 0)
      | none => part.2))) := by
  intro x u part
  have code : ¬q.b.toNat = 0xD8 := fun e => b (BitVec.eq_of_toNat_eq e)
  have empty : ¬(t.x s (.sret q)).f.pending.isEmpty = false := by
    have same : (t.x s (.sret q)).f.pending = [] := idle
    simp [same]
  have answers : u.suspendedBy (coreOf t.key) x.b = s.suspendedBy (coreOf t.key) x.b := by
    unfold State.suspendedBy
    rw [(read_gangs s (.sret q) t).2.2]
  refine (lanes_ready h (fun key => !isClerk key) (by rw [clerk]; rfl) _).trans
    (congrArg (fun r => Host.Outcome.next (t.after s (.sret q) r)) ?_)
  dsimp only
  rw [if_neg code, if_neg empty]
  refine (if_neg fun e => Bool.false_ne_true (done.symm.trans e)).trans ?_
  change (match u.suspendedBy (coreOf t.key) x.b with
    | some (key, g) => LaneRes.next (part.2.reply (coreOf t.key) key g x.b (loWord x.c).toNat x.d (bit q.mod 0))
    | none => LaneRes.next part.2) = _
  rw [answers]
  cases s.suspendedBy (coreOf t.key) x.b <;> rfl

theorem sret_effect {q : FormW} (h : Goes s (.sret q) t) (clerk : isClerk t.key = true) (b : q.b ≠ 0xD8)
    (idle : t.fibre.pending = []) :
    let x := t.x s (.sret q)
    let u := t.read s (.sret q)
    let part := (u.fresh.2).fencePart (coreOf t.key) t.fibre.tenant 4 (x.ordOp u.fresh.2 .flush 0 0 0 4 0 0)
    part.2.writesPending part.1.writes = false →
      (s.suspendedBy (coreOf t.key) x.b = none → Does s (.sret q) t part.2 (t.next s (.sret q))) ∧
      ∀ key g, s.suspendedBy (coreOf t.key) x.b = some (key, g) → t.runsOn (.sret q) →
        Does s (.sret q) t (part.2.reply (coreOf t.key) key g x.b (loWord x.c).toNat x.d (bit q.mod 0)) (t.next s (.sret q)) := by
  intro x u part done
  have meaning := sret_ready h.ready clerk b idle done
  have beyond : part.2.beyond = u.beyond := State.fencePart_beyond _ _ _ _ _
  refine ⟨fun nobody => ?_, fun key g suspended runs => ?_⟩
  · dsimp only at meaning
    rw [nobody] at meaning
    exact does_next h (live_of_beyond (read_live h.ready) beyond) (fun c => quiet_of_beyond (read_quiet c) beyond) meaning
  · dsimp only at meaning
    rw [suspended] at meaning
    exact does_running_next runs meaning

theorem ifence_effect {q : FormQ} (h : Goes s (.ifence q) t)
    (patched : isClerk t.key = true → s.counterMet (coreOf t.key) t.fibre .patches = true) :
    Does s (.ifence q) t (t.read s (.ifence q)) (t.next s (.ifence q)) := by
  have same : (t.read s (.ifence q)).counterMet (coreOf t.key) t.fibre .patches =
      s.counterMet (coreOf t.key) t.fibre .patches := by
    unfold State.counterMet
    rw [(same_read s (.ifence q) t).engine]
  have goes : ¬(isClerk t.key = true ∧ (t.read s (.ifence q)).counterMet (coreOf t.key) t.fibre .patches = false) := by
    rintro ⟨clerk, waits⟩
    rw [same, patched clerk] at waits
    cases waits
  exact does_next h (read_live h.ready) read_quiet ((plain_ready h.ready _).trans
    (congrArg (fun r => Host.Outcome.next (t.after s (.ifence q) r)) (if_neg goes)))

end Sys2Proof.Safety

/-! ## CODEX (R198, R319) -/

namespace Sys2Proof.Safety

open Sys2Proof.Machine

variable {s s' u : State} {i : Instr} {t : Turn} {f : Fibre}

/-- A block of GLOBAL memory is read through the caches, the homes and free choices alone. -/
theorem read_readBlock {x : LaneIn} {a : Nat} {b : List Byte} (h : x.readBlock s 0 a = .ok (u, b)) : Read s u := by
  unfold LaneIn.readBlock at h
  split at h
  · cases h
  · split at h
    · cases h
    · split at h
      · cases h
      · next r loaded =>
        cases h
        exact read_loadGlobal loaded

/-- A code below the q registers names a register. -/
theorem loc_register (f : Fibre) {code : Nat} (low : code < 0xC0) : ∃ l, f.loc code = some l := by
  unfold Fibre.loc
  rw [if_pos low]
  split <;> exact ⟨_, rfl⟩

/-- The place of a register is a word of a frame or an s-register. -/
theorem loc_cases {code : Nat} {l : Loc} (at_ : f.loc code = some l) :
    (∃ seg w, l = .frame seg w) ∨ ∃ crew n, l = .shared crew n := by
  unfold Fibre.loc at at_
  split at at_
  · cases at_
    exact Or.inl ⟨_, _, rfl⟩
  · split at at_ <;> cases at_
    exact Or.inr ⟨_, _, rfl⟩

/-- A register that is housed has its place. -/
theorem placed_housed {code : Nat} (h : Housed s f code) {l : Loc} (at_ : f.loc code = some l) : Placed s l := by
  obtain ⟨frame, crew⟩ := h
  unfold Fibre.loc at at_
  split at at_
  · cases at_
    exact frame
  · split at at_
    · next high low =>
      cases at_
      exact crew (Nat.le_of_not_lt high) low
    · cases at_

theorem reserve_register (x : LaneIn) {code : Nat} (low : code < 0xC0) {l : Loc} (at_ : x.f.loc code = some l) :
    s.reserve x code = (some l, s.markCell l .empty) := by
  have frame : ¬isQueue code = true := by
    unfold isQueue
    simp
    omega
  unfold State.reserve
  rw [if_neg frame, at_]

/-- Registers that are reserved are named in order, and are empty. -/
theorem reserveAll_registers (x : LaneIn) (codes : List Nat) (low : ∀ c ∈ codes, c < 0xC0)
    (placed : ∀ c ∈ codes, ∀ l, x.f.loc c = some l → Placed s l) :
    codes.map x.f.loc = (s.reserveAll x codes).1.map some ∧
      (∀ l, (s.cell l).mark = .empty → ((s.reserveAll x codes).2.cell l).mark = .empty) ∧
      ∀ l ∈ (s.reserveAll x codes).1, ((s.reserveAll x codes).2.cell l).mark = .empty := by
  classical
  induction codes generalizing s with
  | nil => exact ⟨rfl, fun _ h => h, fun _ h => absurd h List.not_mem_nil⟩
  | cons c codes ih =>
    obtain ⟨l, at_⟩ := loc_register x.f (low c List.mem_cons_self)
    have noted : ∀ k, (s.noteWrite x c).cell k = s.cell k := cell_congr rfl rfl
    have here : Placed (s.noteWrite x c) l := placed c List.mem_cons_self l at_
    have marked : ∀ k, (((s.noteWrite x c).markCell l .empty).cell k).mark = if k = l then .empty else (s.cell k).mark := by
      intro k
      rw [State.markCell, setCell_cell]
      by_cases same : k = l
      · rw [if_pos ⟨same, here⟩, if_pos same]
      · rw [if_neg fun both => same both.1, if_neg same, noted]
    have places : ∀ k, Placed ((s.noteWrite x c).markCell l .empty) k ↔ Placed s k := fun k =>
      ((apart_setCell (s := s.noteWrite x c) l _).placed k).trans Iff.rfl
    obtain ⟨names, keeps, empties⟩ := ih (s := (s.noteWrite x c).markCell l .empty)
      (fun k hk => low k (List.mem_cons_of_mem _ hk))
      (fun k hk l' hl => (places l').mpr (placed k (List.mem_cons_of_mem _ hk) l' hl))
    have all : s.reserveAll x (c :: codes) = (l :: (((s.noteWrite x c).markCell l .empty).reserveAll x codes).1,
        (((s.noteWrite x c).markCell l .empty).reserveAll x codes).2) := by
      rw [State.reserveAll, reserve_register x (low c List.mem_cons_self) at_]
      rfl
    rw [all]
    refine ⟨by rw [List.map_cons, List.map_cons, at_, names], fun k hk => keeps k ?_, fun k hk => ?_⟩
    · rw [marked, hk, ite_self]
    · rcases List.mem_cons.mp hk with same | rest
      · exact keeps k (by rw [marked, if_pos same])
      · exact empties k rest

/-- The operation that a CODEX begins, with the registers that await its status and handle (R319). -/
def codexOp (x : LaneIn) (since : Nat) (b : List Byte) (l : List Loc) : EngineOp :=
  { core := coreOf x.key, fibre := x.key, vf := x.f.tenant, cls := 5, issued := since, pages := [],
    job := .codex (field b 0 1) (field b 4 4) (field b 8 8) (field b 16 4) (field b 20 4) (field b 24 2) none none l [],
    writes := [], release := none, hostWrites := [] }

/-- The state in which a CODEX has begun its operation. -/
def codexBegun (x : LaneIn) (u : State) (b : List Byte) (codes : List Nat) : State :=
  let r := u.reserveAll x codes
  { r.2.fresh.2 with engine := r.2.fresh.2.engine.put r.2.nextId (codexOp x u.gtc b r.1) }

/-- The registers that await a CODEX are owed to its fibre. -/
theorem owing_codexBegun {x : LaneIn} {b : List Byte} {c : Nat} {codes : List Nat}
    (names : (c :: codes).map x.f.loc = (u.reserveAll x (c :: codes)).1.map some) :
    (codexBegun x u b (c :: codes)).owing [x.key] = true := by
  obtain ⟨l, rest, locs⟩ : ∃ l rest, (u.reserveAll x (c :: codes)).1 = l :: rest := by
    cases e : (u.reserveAll x (c :: codes)).1 with
    | nil => simp [e] at names
    | cons l rest => exact ⟨l, rest, rfl⟩
  have at_ : x.f.loc c = some l := by
    rw [locs] at names
    exact (List.cons.inj names).1
  have kept : (codexBegun x u b (c :: codes)).engine.find (u.reserveAll x (c :: codes)).2.nextId =
      some (codexOp x u.gtc b (u.reserveAll x (c :: codes)).1) := Tbl.find_put_same _ _ _
  unfold State.owing
  refine (Bool.or_eq_true _ _).mpr (Or.inr (List.any_eq_true.mpr ⟨_, Tbl.mem_of_find kept, ?_⟩))
  rw [locs]
  simp only [codexOp, Job.targets, List.any_cons, List.contains_cons, BEq.rfl, Bool.true_or, Bool.true_and]
  rcases loc_cases at_ with ⟨seg, w, rfl⟩ | ⟨crew, n, rfl⟩ <;> rfl

/-- An instruction whose lane leaves results owed to its fibre does what its state says. -/
theorem does_owed {codes : List Nat} (h : Ready s i t) (free : Free s i t codes) (live : Live u t t.fibre)
    (owed : Owed u t t.fibre) (he : exec i s = .next (t.after s i (.checked codes (.next u)))) :
    Does s i t u (t.next s i) := by
  have after : t.after s i (.checked codes (.next u)) =
      (u.modFibre t.key fun f => { f with pc := t.next s i }).afterLanes i t.form t.gang [t.line s i] false := by
    unfold Turn.after Lanes.finish
    dsimp only
    rw [stopAt_none h free]
    rfl
  have moved := live.modFibre (fun f => { f with pc := t.next s i }) live.issuing
  have done := afterLanes_owed (i := i) moved h.alone (owed.withPc _) [t.line s i] false
  exact ⟨_, he.trans (congrArg _ after), done.1, (sameQ_modFibre _ _).trans done.2⟩

theorem codex_ready {q : FormW} (h : Ready s (.codex q) t) (clerk : isClerk t.key = true) {b : List Byte}
    (block : (t.x s (.codex q)).readBlock (t.read s (.codex q)) 0 (t.x s (.codex q)).b.toNat = .ok (u, b)) :
    exec (.codex q) s = .next (t.after s (.codex q) (
      if 4 < field b 0 1 then .outsIn u ([q.a.toNat, q.a.toNat + 1].zip [1, 0])
      else .checked [q.a.toNat, q.a.toNat + 1]
        (.next (codexBegun (t.x s (.codex q)) u b [q.a.toNat, q.a.toNat + 1])))) := by
  refine (lanes_ready h (fun key => !isClerk key) (by rw [clerk]; rfl) _).trans
    (congrArg (fun r => Host.Outcome.next (t.after s (.codex q) r)) ?_)
  dsimp only
  rw [block]
  rfl

/-- A CODEX whose registers await its end goes on, and at a safe point keeps its lanes until then (R43). -/
theorem codex_begins {q : FormW} (h : Goes s (.codex q) t) (clerk : isClerk t.key = true) (low : q.a.toNat < 0xBF)
    (free : Free s (.codex q) t [q.a.toNat, q.a.toNat + 1]) {b : List Byte}
    (block : (t.x s (.codex q)).readBlock (t.read s (.codex q)) 0 (t.x s (.codex q)).b.toNat = .ok (u, b))
    (known : field b 0 1 ≤ 4) :
    ∃ (v : State) (id : Nat) (o : EngineOp) (l : List Loc), Does s (.codex q) t v (t.next s (.codex q)) ∧
      v.engine.find id = some o ∧ [q.a.toNat, q.a.toNat + 1].map t.fibre.loc = l.map some ∧
      (∀ k ∈ l, (v.cell k).mark = .empty) ∧
      o.job = .codex (field b 0 1) (field b 4 4) (field b 8 8) (field b 16 4) (field b 20 4) (field b 24 2) none none l [] ∧
      o.core = coreOf t.key ∧ o.fibre = t.key := by
  obtain ⟨ready, calm⟩ := h
  have live := read_live ready
  have known : ¬4 < field b 0 1 := Nat.not_lt.mpr known
  have blocks : Read (t.read s (.codex q)) u := read_readBlock block
  have meaning := (codex_ready ready clerk block).trans
    (congrArg (fun r => Host.Outcome.next (t.after s (.codex q) r)) (if_neg known))
  have housed : ∀ c ∈ [q.a.toNat, q.a.toNat + 1], ∀ l, t.fibre.loc c = some l → Placed u l := fun c hc l at_ => by
    obtain ⟨_, _, _, rfl⟩ := blocks
    exact placed_housed (s := t.read s (.codex q)) (housed_read free c hc) at_
  have live₀ : Live u t t.fibre := by
    obtain ⟨_, _, _, rfl⟩ := blocks
    exact live.of_parts rfl rfl rfl
  obtain ⟨names, -, empties⟩ := reserveAll_registers (s := u) (t.x s (.codex q)) [q.a.toNat, q.a.toNat + 1]
    (fun c hc => by
      rcases List.mem_pair.mp hc with rfl | rfl <;> omega) housed
  obtain ⟨live₁, landings, -, -, -⟩ := reserveAll_reserved (t.x s (.codex q)) [q.a.toNat, q.a.toNat + 1] live₀
  refine ⟨codexBegun (t.x s (.codex q)) u b [q.a.toNat, q.a.toNat + 1], _,
    codexOp (t.x s (.codex q)) u.gtc b (u.reserveAll (t.x s (.codex q)) [q.a.toNat, q.a.toNat + 1]).1, _, ?_,
    Tbl.find_put_same _ _ _, names, empties, rfl, rfl, rfl⟩
  rcases calm with runs | calm
  · exact does_running ready runs free meaning
  · refine does_owed ready free (live₁.of_parts rfl rfl rfl) ⟨calm.kill, calm.faults, calm.request, (read_quiet (i := .codex q) calm).flags, ?_, ?_⟩ meaning
    · obtain ⟨_, _, _, rfl⟩ := blocks
      show ∀ p ∈ (State.reserveAll _ _ _).2.landings, _
      rw [landings]
      exact (read_quiet (i := .codex q) calm).landings
    · exact owing_codexBegun names

/-- CODEX with an unknown operation gives status 1 and no handle. -/
theorem codex_refuses {q : FormW} (h : Goes s (.codex q) t) (clerk : isClerk t.key = true)
    (free : Free s (.codex q) t [q.a.toNat, q.a.toNat + 1]) {b : List Byte}
    (block : (t.x s (.codex q)).readBlock (t.read s (.codex q)) 0 (t.x s (.codex q)).b.toNat = .ok (u, b))
    (unknown : 4 < field b 0 1) :
    Sends s (.codex q) t (u.writeLong (t.x s (.codex q)) ([q.a.toNat, q.a.toNat + 1].zip [1, 0])) (t.next s (.codex q)) :=
  loads_land h free rfl (read_readBlock block) ((codex_ready h.ready clerk block).trans
    (congrArg (fun r => Host.Outcome.next (t.after s (.codex q) r)) (if_pos unknown)))

/-- Settles O50, one instruction after another: each leaves its results, or a state in which the end of the run is
bookkeeping. -/
theorem clerkInstructions : Obligations.ClerkInstructions := by
  unfold Obligations.ClerkInstructions
  intro f q s t core clerk
  refine ⟨?_, ?_, ?_, ifence_effect⟩
  · intro i x target key out goes low free
    obtain ⟨absent, gone⟩ := kill_tells goes low free
    exact ⟨absent, fun g found may =>
      ⟨gone g found may, fun counts _ runs => kill_kills goes low free found may counts runs⟩⟩
  · intro i x u part goes clerk b idle done
    exact sret_effect goes clerk b idle done
  · intro i x codes goes clerk low free u b block
    exact ⟨codex_refuses goes clerk free block, codex_begins goes clerk low free block⟩

end Sys2Proof.Safety

/-! ## What makes no fibre execute

Between two draws fibres leave their gangs, are filed, parked, killed and freed, and gangs without members go: no fibre begins to
execute and no gang comes to be. -/

namespace Sys2Proof.Machine

/-- A fibre of that name executes. -/
def State.issues (s : State) (key : Nat) : Prop := ∃ f, (key, f) ∈ s.fibres ∧ f.state = .issuing

/-- Where the gangs and the fibres stand. -/
def State.crowd (s : State) : Nat × Tbl Gang × Tbl Fibre := (s.cur, s.gangs, s.fibres)

theorem foldl_crowd {α : Type} {f : State → α → State} (h : ∀ s a, (f s a).crowd = s.crowd) (l : List α) (s : State) :
    (l.foldl f s).crowd = s.crowd := Safety.foldl_keeps State.crowd f h l s

theorem State.setCell_crowd (s : State) (l : Loc) (c : RegCell) : (s.setCell l c).crowd = s.crowd := by
  unfold State.setCell
  split <;> rfl

theorem State.markCell_crowd (s : State) (l : Loc) (m : Mark) : (s.markCell l m).crowd = s.crowd := s.setCell_crowd l _

theorem State.writeCell_crowd (s : State) (l : Loc) (v : Word) : (s.writeCell l v).crowd = s.crowd := by
  unfold State.writeCell
  dsimp only
  split
  · exact State.setCell_crowd _ _ _
  · exact s.setCell_crowd _ _

theorem State.touchTop_crowd (s : State) (key : Nat) : (s.touchTop key).crowd = s.crowd := by
  unfold State.touchTop
  split <;> rfl

theorem State.sendVector_crowd (s : State) (vf v : Nat) (charged : Bool) : (s.sendVector vf v charged).crowd = s.crowd := by
  unfold State.sendVector
  dsimp only
  split <;> rfl

theorem State.raiseCheck_crowd (s : State) : s.raiseCheck.crowd = s.crowd := by
  unfold State.raiseCheck
  split
  · rfl
  · dsimp only
    split
    · rfl
    · exact s.sendVector_crowd _ _ _

theorem State.machineCheck_crowd (s : State) (core : Nat) (e : Effect) : (s.machineCheck core e).crowd = s.crowd := by
  unfold State.machineCheck
  refine (State.raiseCheck_crowd _).trans ?_
  split <;> rfl

theorem State.dropLeases_crowd (s : State) (core : Nat) : (s.dropLeases core).crowd = s.crowd := by
  refine foldl_crowd (fun s line => ?_) _ s
  split <;> rfl

theorem State.leaveNotice_crowd (s : State) (key : Nat) (f : Fibre) : (s.leaveNotice key f).crowd = s.crowd := by
  unfold State.leaveNotice
  split <;> rfl

theorem State.settleRecords_crowd (s : State) (seg : Nat) : (s.settleRecords seg).crowd = s.crowd := by
  refine foldl_crowd (fun w p => ?_) _ s
  exact foldl_crowd (fun w p => w.writeCell_crowd p.1 p.2) p.2.writes { w with landings := w.landings.del p.1 }

theorem State.unpop_crowd (s : State) (core : Nat) (taken : Taken) : (s.unpop core taken).crowd = s.crowd := by
  unfold State.unpop
  exact (foldl_crowd (fun _ _ => State.setCell_crowd _ _ _) _ _).trans (foldl_crowd (by exact fun _ _ => rfl) _ s)

theorem State.gather_crowd (s : State) (keys : List Nat) : (s.gather keys).2.crowd = s.crowd := by
  unfold State.gather
  exact foldl_crowd (by exact fun _ _ => rfl) _ s

end Sys2Proof.Machine

namespace Sys2Proof.Safety

open Sys2Proof.Machine

theorem parts_of_crowd {s u : State} (e : u.crowd = s.crowd) : u.cur = s.cur ∧ u.gangs = s.gangs ∧ u.fibres = s.fibres :=
  ⟨congrArg Prod.fst e, congrArg (fun p => p.2.1) e, congrArg (fun p => p.2.2) e⟩

/-- From one state to the next no fibre begins to execute and no gang comes to be; the fibres stay in the order of their
names. -/
structure Thins (s u : State) : Prop where
  cur : u.cur = s.cur
  gangs : ∀ k ∈ u.gangs.map Prod.fst, k ∈ s.gangs.map Prod.fst
  fibres : ∀ k, u.issues k → s.issues k
  order : rising s.fibres → rising u.fibres

namespace Thins

variable {s u v : State}

theorem refl (s : State) : Thins s s := ⟨rfl, fun _ h => h, fun _ h => h, id⟩

theorem trans (h : Thins s u) (g : Thins u v) : Thins s v :=
  ⟨g.cur.trans h.cur, fun k m => h.gangs k (g.gangs k m), fun k m => h.fibres k (g.fibres k m), fun o => g.order (h.order o)⟩

/-- A change of anything else. -/
theorem kept (h : Thins s u) (e : v.crowd = u.crowd := by rfl) : Thins s v := by
  obtain ⟨cur, gangs, fibres⟩ := parts_of_crowd e
  refine h.trans ⟨cur, fun k m => by rwa [← gangs], fun k ⟨f, m, i⟩ => ⟨f, fibres ▸ m, i⟩, fun o => by rwa [fibres]⟩

theorem foldl {α : Type} {f : State → α → State} (h : Thins s u) (step : ∀ w a, Thins s w → Thins s (f w a)) (l : List α) :
    Thins s (l.foldl f u) := by
  induction l generalizing u with
  | nil => exact h
  | cons a l ih => exact ih (step u a h)

/-! ### Fibres -/

theorem setFibre (h : Thins s u) {key : Nat} {f : Fibre} (idle : f.state = .issuing → u.issues key := by exact nofun) :
    Thins s (u.setFibre key f) := by
  refine h.trans ⟨rfl, fun k m => m, fun k ⟨g, m, i⟩ => ?_, fun o => o.put _ _⟩
  rcases mem_put m with e | old
  · cases e
    exact idle i
  · exact ⟨g, old, i⟩

/-- A fibre that is found is changed, but does not begin to execute. -/
theorem setFound (h : Thins s u) {key : Nat} {f g : Fibre} (found : u.fibres.find key = some f) (same : g.state = f.state) :
    Thins s (u.setFibre key g) :=
  h.setFibre fun i => ⟨f, Tbl.mem_of_find found, same.symm.trans i⟩

/-- A fibre is changed, and stops or goes on. -/
theorem modFibreTo (h : Thins s u) {key : Nat} {g : Fibre → Fibre} (idle : ∀ f, (g f).state = .issuing → f.state = .issuing) :
    Thins s (u.modFibre key g) := by
  unfold State.modFibre
  split
  · next f found => exact setFibre h fun i => ⟨f, Tbl.mem_of_find found, idle f i⟩
  · exact h

theorem modFibre (h : Thins s u) {key : Nat} {g : Fibre → Fibre} (same : ∀ f, (g f).state = f.state := by exact fun _ => rfl) :
    Thins s (u.modFibre key g) := modFibreTo h fun f i => (same f).symm.trans i

theorem stopFibre (h : Thins s u) {key : Nat} {g : Fibre → Fibre} (stops : ∀ f, (g f).state ≠ .issuing := by exact fun _ => nofun) :
    Thins s (u.modFibre key g) := modFibreTo h fun f i => absurd i (stops f)

theorem modUnit (h : Thins s u) (core : Nat) (g : CoreUnit → CoreUnit) : Thins s (u.modUnit core g) := kept h rfl

theorem fresh (h : Thins s u) : Thins s u.fresh.2 := kept h rfl

theorem raiseCore (h : Thins s u) (core type tenant v0 v1 : Nat) : Thins s (u.raiseCore core type tenant v0 v1) := kept h rfl

theorem setCell (h : Thins s u) {l : Loc} {c : RegCell} : Thins s (u.setCell l c) := kept h (u.setCell_crowd l c)

theorem wake (h : Thins s u) (core : Nat) : Thins s (u.wake core) := kept h rfl

theorem askReload (h : Thins s u) (key : Nat) : Thins s (u.askReload key) := kept h rfl

theorem file (h : Thins s u) (key : Nat) : Thins s (u.file key) := by
  unfold State.file
  split
  · exact h
  · exact modUnit (setFibre (fresh h)) _ _

theorem fileHeld (h : Thins s u) (core : Nat) (members : List (Nat × Nat)) : Thins s (u.fileHeld core members) := by
  unfold State.fileHeld
  split
  · exact h
  · split
    · exact h
    · exact modUnit (foldl (fresh h) (fun _ _ q => stopFibre q) _) _ _

theorem unpark (h : Thins s u) (key : Nat) : Thins s (u.unpark key) := by
  unfold State.unpark
  split
  · exact h
  · split
    · exact wake (file h key) _
    · exact wake (askReload (setFibre h) _) _
    · exact h

theorem recheck (h : Thins s u) (core : Nat) : Thins s (u.recheck core) := by
  refine foldl h (fun w p q => ?_) _
  split
  · split
    · exact unpark q _
    · exact q
  · split
    · exact unpark q _
    · exact q
  · exact q

theorem retarget (h : Thins s u) (move : Loc → Loc) : Thins s (u.retarget move) := by
  refine h.trans ⟨rfl, fun k m => m, fun k ⟨g, m, i⟩ => ?_, fun o => ?_⟩
  · obtain ⟨⟨j, f⟩, old, e⟩ := List.mem_map.mp m
    cases e
    exact ⟨f, old, i⟩
  · exact List.pairwise_map.mpr o

/-! ### Gangs -/

theorem leaveGang (h : Thins s u) (key : Nat) : Thins s (u.leaveGang key) := by
  have touched := h.kept (u.touchTop_crowd key)
  refine touched.trans ⟨rfl, fun k m => ?_, fun k i => i, id⟩
  obtain ⟨p, kept, rfl⟩ := List.mem_map.mp m
  rw [← keys_mapVals]
  exact List.mem_map_of_mem (List.mem_of_mem_filter kept)

theorem park (h : Thins s u) (key : Nat) (w : Park) : Thins s (u.park key w) := leaveGang (stopFibre h) key

theorem beginPerform (h : Thins s u) (key : Nat) (e : Effect) : Thins s (u.beginPerform key e) :=
  leaveGang (modUnit (stopFibre h) _ _) key

theorem orphan (h : Thins s u) (locs : List Loc) : Thins s (u.orphan locs) := by
  have marked : Thins s (locs.foldl (fun s l => if s.awaits l then s.markCell l .orphaned else s) u) := by
    refine h.foldl (fun w l q => ?_) locs
    split
    · exact q.kept (w.markCell_crowd _ _)
    · exact q
  refine marked.foldl (fun w p q => ?_) _
  split
  · split
    · exact q.beginPerform _ _
    · exact q
  · exact q

/-! ### Barriers -/

theorem advanced (h : Thins s u) (key n : Nat) : Thins s (u.step_ key n) := modFibre h

theorem leaveBarrier (h : Thins s u) (l : Tbl Fibre) : Thins s (u.leaveBarrier l) :=
  foldl h (fun _ _ q => unpark (advanced q _ _) _) l

theorem gathered (h : Thins s u) {keys : List Nat} {away : Bool} (e : u.gather keys = (away, v)) : Thins s v :=
  h.kept ((congrArg (fun p => State.crowd p.2) e).symm.trans (u.gather_crowd keys))

theorem checkBar (h : Thins s u) (crew : Nat) : Thins s (u.checkBar crew) := by
  unfold State.checkBar
  dsimp only
  split
  · split
    · next e => exact h.gathered e
    · next e => exact (h.gathered e).leaveBarrier _
  · exact h

theorem checkConvene (h : Thins s u) (key level : Nat) : Thins s (u.checkConvene key level) := by
  unfold State.checkConvene
  split
  · exact h
  · dsimp only
    split
    · split
      · next e => exact h.gathered e
      · next e _ _ =>
        split
        · exact wake (fileHeld (foldl (kept (gathered h e))
            (fun _ _ q => advanced (modFibre q) _ _) _) _ _) _
        · exact foldl (foldl (kept (gathered h e)) (fun _ _ q => advanced (modFibre q) _ _) _)
            (fun _ _ q => unpark q _) _
      · next e _ => exact h.gathered e
    · exact h

theorem checkCross (h : Thins s u) (conv : Nat) : Thins s (u.checkCross conv) := by
  unfold State.checkCross
  split
  · exact h
  · split
    · split
      · next e => exact h.gathered e
      · next e => exact wake (fileHeld (foldl (gathered h e) (fun _ _ q => modFibre q) _) _ _) _
    · exact h

theorem checkBand (h : Thins s u) (launch band k : Nat) : Thins s (u.checkBand launch band k) := by
  unfold State.checkBand
  dsimp only
  split
  · split
    · next e => exact h.gathered e
    · next e => exact ((h.gathered e).leaveBarrier _).foldl (fun w _ q => q.kept (w.dropLeases_crowd _)) _
  · exact h

/-- The eight barriers of a crew's band. -/
theorem checkBands (h : Thins s u) (launch band : Nat) :
    Thins s ((List.range 8).foldl (fun s b => s.checkBand launch band b) u) :=
  h.foldl (fun _ _ q => q.checkBand _ _ _) _

theorem checkBarriers (h : Thins s u) (crew : Nat) : Thins s (u.checkBarriers crew) := by
  unfold State.checkBarriers
  dsimp only
  have convened : ∀ w, Thins s w → Thins s ((w.crewFibres crew).foldl (fun s p =>
      match p.2.waiting with
      | some (.barrier (.convene l)) => s.checkConvene p.1 l
      | _ => s) w) := fun w q => q.foldl (fun w p q => by
    split
    · exact q.checkConvene _ _
    · exact q) _
  have crossed := (convened _ (h.checkBar crew)).foldl (fun w (p : Nat × Convened) q => q.checkCross p.1)
  split
  · exact (crossed _).checkBands _ _
  · exact crossed _

theorem leaveConvened (h : Thins s u) (key : Nat) : Thins s (u.leaveConvened key) := by
  unfold State.leaveConvened
  split
  · exact h
  · next f found =>
    split
    · exact h
    · exact (h.setFound (g := { f with conv := none }) found rfl).kept rfl

theorem breakCrew (h : Thins s u) (crew : Nat) : Thins s (u.breakCrew crew) := by
  unfold State.breakCrew
  dsimp only
  have broken : ∀ w : State, Thins s w → Thins s ((w.crewFibres crew).foldl (fun s p =>
      match p.2.waiting with
      | some (.barrier _) => s.beginPerform p.1 (p.2.effectAt 11 0 0)
      | _ => s) w) := fun w q => foldl q (fun w p q => by
    split
    · exact beginPerform q _ _
    · exact q) _
  split
  · exact checkBands (broken _ (kept h)) _ _
  · exact broken _ (kept h)

/-! ### The end of fibres and crews -/

theorem tenantGone (h : Thins s u) (core tenant : Nat) : Thins s (u.tenantGone core tenant) := by
  unfold State.tenantGone
  split
  · exact h
  · exact recheck (modUnit h _ _) _

theorem endCrew (h : Thins s u) (id : Nat) : Thins s (u.endCrew id) := by
  unfold State.endCrew
  split
  · exact h
  · split
    · exact h
    · exact tenantGone (modUnit (kept h) _ _) _ _

theorem delFibre (h : Thins s u) (key : Nat) : Thins s { u with fibres := u.fibres.del key } :=
  trans h ⟨rfl, fun _ m => m, fun _ ⟨f, m, i⟩ => ⟨f, mem_del m, i⟩, fun o => o.del _⟩

theorem freeDescriptor (h : Thins s u) (key : Nat) : Thins s (u.freeDescriptor key) := by
  unfold State.freeDescriptor
  split
  · exact h
  · dsimp only
    split
    · exact endCrew (delFibre h key) _
    · exact delFibre h key

theorem withdraw (h : Thins s u) (key : Nat) : Thins s (u.withdraw key) := orphan (kept h) _

theorem afterKill (h : Thins s u) (crew : Nat) : Thins s (u.afterKill crew) := by
  unfold State.afterKill
  split
  · split
    · exact breakCrew h _
    · exact checkBands h _ _
  · exact h

/-- What a kill frees of a fibre's segments and of the continuation it waits with. -/
theorem freeOwn (h : Thins s u) (f : Fibre) : Thins s (match f.kh with
    | none => u.freeSegs f.tenant (u.fibreSegs f)
    | some h =>
      match u.ownK f.tenant h with
      | some k =>
        let u := u.freeSegs f.tenant (u.fibreSegs f)
        { u with kobjs := u.kobjs.modify (kKey f.tenant k) fun o => { o with state := 2, free := true } }
      | none => u) := by
  split
  · exact kept h
  · split
    · exact kept h
    · exact h

/-- A fibre without operations gives its descriptor back. -/
theorem freeEmpty (h : Thins s u) (key : Nat) : Thins s (match u.fibres.find key with
    | some g => if g.counted.isEmpty then u.freeDescriptor key else u
    | none => u) := by
  split
  · split
    · exact freeDescriptor h key
    · exact h
  · exact h

theorem killNow (h : Thins s u) (key : Nat) : Thins s (u.killNow key) := by
  unfold State.killNow
  split
  · exact h
  · next f _ =>
    split
    · exact h
    · have masked := modUnit (leaveGang (leaveConvened h key) key) (coreOf key) fun u => u.unfile (indexOf key)
      have withdrawn := withdraw (kept (freeOwn masked f) (State.leaveNotice_crowd _ key f)) key
      dsimp only
      split
      · exact afterKill (freeEmpty (stopFibre (kept withdrawn)) key) _
      · exact freeEmpty (stopFibre (kept withdrawn)) key

theorem killFibre (h : Thins s u) (key : Nat) : Thins s (u.killFibre key) := by
  unfold State.killFibre
  split
  · exact h
  · next found =>
    split
    · exact setFound h found rfl
    · exact killNow h key

theorem killCrew (h : Thins s u) (id cause : Nat) : Thins s (u.killCrew id cause) := by
  unfold State.killCrew
  split
  · exact h
  · split
    · exact h
    · exact endCrew (foldl (kept h) (fun _ _ q => killFibre q _) _) _

/-! ### Segments and continuations -/

theorem evictSeg (h : Thins s u) (core key : Nat) : Thins s (u.evictSeg core key) := by
  unfold State.evictSeg
  split
  · exact raiseCore (modUnit (setFibre (kept h)) _ _) _ _ _ _ _
  · exact raiseCore (kept h) _ _ _ _ _

theorem heapRoom (h : Thins s u) {core : Nat} {reload : Bool} (e : u.heapRoom core reload = some v) : Thins s v := by
  unfold State.heapRoom at e
  split at e
  · cases e
    exact h
  · obtain ⟨k, -, rfl⟩ := Option.map_eq_some_iff.mp e
    exact evictSeg h core k

theorem bringIn (h : Thins s u) {core key : Nat} (e : u.bringIn core key = some v) : Thins s v := by
  unfold State.bringIn at e
  split at e
  · cases e
    exact kept h
  · obtain ⟨w, room, rfl⟩ := Option.map_eq_some_iff.mp e
    exact kept (heapRoom h room)

theorem splitSeg (h : Thins s u) (key : Nat) (f : Fibre) (seg w g bottom : Nat) (records : List Nat) :
    Thins s (u.splitSeg key f seg w g bottom records) := by
  have settled := fun l : List Nat => foldl h (fun w a q => kept q (w.settleRecords_crowd a)) l
  unfold State.splitSeg
  refine modFibre (foldl (foldl (retarget (kept (kept (kept (settled _)))) _) (fun w a q => ?_) _) (fun _ _ q => kept q) _)
  dsimp only
  split
  · exact setCell (setCell (setCell q))
  · exact setCell (setCell q)

theorem capture (h : Thins s u) (key slot : Nat) (e : Effect) (bottom : Nat) :
    Thins s (u.capture key slot e bottom).2 := by
  unfold State.capture
  split
  · exact h
  · exact modFibre (kept h)

theorem post (h : Thins s u) (core : Nat) (r : EffectRecord) (notice : Bool) : Thins s (u.post core r notice) :=
  recheck (kept h) core

theorem effectEvent (h : Thins s u) (key tenant tag how : Nat) : Thins s (u.effectEvent key tenant tag how) := kept h

theorem loadFsm (h : Thins s u) (key : Nat) : Thins s (u.loadFsm key) := modFibre h

theorem enterHandler (h : Thins s u) (key : Nat) (e : Effect) (k : DWord) (seg w prev : Nat) (handler : DWord) :
    Thins s (u.enterHandler key e k seg w prev handler) := by
  unfold State.enterHandler
  dsimp only
  split
  · exact modFibre h
  · split
    · exact file (effectEvent (loadFsm (modFibre (setCell (setCell (setCell (setCell (modFibre h)))))) _) _ _ _ _) key
    · exact effectEvent (modFibre (setCell (setCell (setCell (setCell (modFibre h)))))) _ _ _ _

/-! ### Effects -/

theorem performFound (h : Thins s u) (key : Nat) (f : Fibre) (e : Effect) (a : Nat) (r : HandlerRecord) :
    Thins s (u.performFound key f e a r) := by
  have killed : ∀ w, Thins s w → Thins s (match f.crew with | some c => w.killCrew c 0x10002 | none => w) := by
    intro w q
    split
    · exact killCrew q _ _
    · exact q
  unfold State.performFound
  split
  · exact h
  · dsimp only
    split
    · exact h
    · next brought =>
      have here := bringIn h brought
      split
      · exact killed _ here
      · split
        · exact enterHandler (capture here _ _ _ _) _ _ _ _ _ _ _
        · split
          · exact here
          · next room =>
            have roomy := heapRoom here (Option.filter_eq_some_iff.mp room).1
            split
            · exact killed _ here
            · exact enterHandler (capture (splitSeg roomy _ _ _ _ _ _ _) _ _ _ _) _ _ _ _ _ _ _

theorem performKill (h : Thins s u) (key : Nat) (f : Fibre) (e : Effect) : Thins s (u.performKill key f e) := by
  unfold State.performKill
  dsimp only
  split
  · exact modFibre h
  · have told := post (effectEvent h key f.tenant e.tag 3)
    split
    · exact killCrew (modFibre (told _ _ _)) _ _
    · exact killNow (modFibre (told _ _ _)) _

theorem performClerk (h : Thins s u) (key : Nat) (f : Fibre) (e : Effect) : Thins s (u.performClerk key f e) := by
  unfold State.performClerk
  split
  · exact h
  · split
    · split
      · exact killCrew h _ _
      · exact h
    · exact post (effectEvent (stopFibre (capture h _ _ _ _)) _ _ _ _) _ _ _

theorem performUnmatched (h : Thins s u) (key : Nat) (f : Fibre) (e : Effect) : Thins s (u.performUnmatched key f e) := by
  unfold State.performUnmatched
  split
  · exact file (effectEvent (modFibre h) _ _ _ _) _
  · exact performClerk h key f e
  · exact performKill h key f e

theorem clerkCheck (h : Thins s u) (key : Nat) (e : Effect) : Thins s (u.clerkCheck key e) :=
  modFibre (kept h (u.machineCheck_crowd _ _))

theorem reloadRecord (h : Thins s u) (key : Nat) (f : Fibre) (e : Effect) (a : Nat) :
    Thins s (u.reloadRecord key f e a) := by
  unfold State.reloadRecord
  cases brought : u.bringIn (coreOf key) (segKey f.tenant (frameSeg a)) with
  | none => exact modFibre h
  | some w => exact modFibre (bringIn h brought)

theorem tryPerform (h : Thins s u) (key : Nat) : Thins s (u.tryPerform key) := by
  unfold State.tryPerform
  split
  · exact h
  · split
    · split
      · exact clerkCheck h key _
      · split
        · exact performUnmatched h _ _ _
        · exact performFound h _ _ _ _ _
        · exact reloadRecord h _ _ _ _
        · exact h
        · split
          · exact clerkCheck h key _
          · exact performKill h _ _ _
    · exact h

theorem maskedKill (h : Thins s u) (key : Nat) : Thins s (u.maskedKill key) := by
  unfold State.maskedKill
  split
  · split
    · exact killNow h key
    · exact h
  · exact h

end Thins

end Sys2Proof.Safety

/-! ## A fibre that has left its gang (R39, R44, R45, R50) -/

namespace Sys2Proof.Safety

open Sys2Proof.Machine

variable {s u v : State} {i : Instr} {t : Turn}

/-- The gang that issued is gone, and the fibre executes no more. -/
structure Gone (s : State) (t : Turn) : Prop where
  gang : s.cur ∉ s.gangs.map Prod.fst
  fibre : ¬s.issues t.key

theorem Gone.thins (h : Gone s t) (g : Thins s u) : Gone u t :=
  ⟨fun m => h.gang (g.cur ▸ g.gangs _ m), fun i => h.fibre (g.fibres _ i)⟩

theorem find_none_iff {α : Type} {l : Tbl α} {k : Nat} : l.find k = none ↔ k ∉ l.map Prod.fst := by
  induction l with
  | nil => simp
  | cons p l ih =>
    rw [Tbl.find_cons, List.map_cons, List.mem_cons, not_or, ← ih]
    split
    · next e => simp [e]
    · next e => simp [Ne.symm e]

/-- Where the keys rise, one entry alone stands at a key. -/
theorem rising.find_of_mem {α : Type} {l : Tbl α} (h : rising l) {k : Nat} {v : α} (m : (k, v) ∈ l) : l.find k = some v := by
  induction l with
  | nil => cases m
  | cons p l ih =>
    obtain ⟨above, tail⟩ := List.pairwise_cons.mp h
    rw [Tbl.find_cons]
    rcases List.mem_cons.mp m with rfl | later
    · exact if_pos rfl
    · rw [if_neg (Nat.ne_of_lt (above _ later)), ih tail later]

/-- A fibre that is found at its key, and does not execute, is the only one there. -/
theorem idle_of_find (order : rising s.fibres) {key : Nat} (idle : ∀ f, s.fibres.find key = some f → f.state ≠ .issuing) :
    ¬s.issues key := fun ⟨f, m, i⟩ => idle f (order.find_of_mem m) i

theorem idle_stopFibre (order : rising s.fibres) (key : Nat) {g : Fibre → Fibre} (stops : ∀ f, (g f).state ≠ .issuing) :
    ¬(s.modFibre key g).issues key := by
  refine idle_of_find ((Thins.stopFibre (Thins.refl s) stops).order order) fun f found => ?_
  rw [State.find_modFibre, if_pos rfl] at found
  obtain ⟨f', -, rfl⟩ := Option.map_eq_some_iff.mp found
  exact stops f'

/-- Once the one fibre of the gang has left it, the gang is gone. -/
theorem gang_leaveGang (h : Ready s i t) (n : Sound s t) (cur : u.cur = s.cur) (gangs : u.gangs = s.gangs) :
    (u.leaveGang t.key).cur ∉ (u.leaveGang t.key).gangs.map Prod.fst := by
  refine find_none_iff.mp ?_
  rw [(leaveGang_keeps t.key).1]
  refine leaveGang_gone ?_ (cur ▸ gangs ▸ h.gang) h.alone (coreOf_key h).symm (indexOf_key h)
  rw [gangs]
  exact rising_nodup n.gangs

theorem gone_leaveGang (h : Ready s i t) (n : Sound s t) (cur : u.cur = s.cur) (gangs : u.gangs = s.gangs)
    (idle : ¬u.issues t.key) : Gone (u.leaveGang t.key) t :=
  ⟨gang_leaveGang h n cur gangs, fun i => idle ((Thins.leaveGang (Thins.refl u) t.key).fibres _ i)⟩

theorem gone_park (h : Ready s i t) (n : Sound s t) (e : u.crowd = s.crowd) (w : Park) : Gone (u.park t.key w) t := by
  obtain ⟨cur, gangs, fibres⟩ := parts_of_crowd e
  exact gone_leaveGang h n (by rw [State.modFibre_cur, cur]) (by rw [State.modFibre_gangs, gangs])
    (idle_stopFibre (fibres ▸ n.fibres) t.key fun _ => nofun)

theorem gone_perform (h : Ready s i t) (n : Sound s t) (cur : u.cur = s.cur) (gangs : u.gangs = s.gangs)
    (order : rising u.fibres) (e : Effect) : Gone (u.perform t.key e) t := by
  have idle := idle_stopFibre (g := fun f => { f with state := .performing, effect := some e, request := none }) order t.key
    fun _ => nofun
  have begun : Gone (u.beginPerform t.key e) t :=
    gone_leaveGang h n ((State.modFibre_cur _ _ _).trans cur) ((State.modFibre_gangs _ _ _).trans gangs) idle
  exact begun.thins (Thins.tryPerform (Thins.refl _) _)

theorem gone_performArith (h : Ready s i t) (n : Sound s t) (e : u.crowd = s.crowd) (f : Fibre) (fl : Flags) (pc : Pc) :
    Gone (u.performArith t.key f fl pc) t := by
  obtain ⟨cur, gangs, fibres⟩ := parts_of_crowd e
  have order : rising u.fibres := fibres ▸ n.fibres
  exact gone_perform (u := u.setFibre t.key f.clearFlags) h n cur gangs (order.put _ _) _

/-- A fibre that has given its descriptor back executes no more. -/
theorem idle_freeDescriptor (order : rising u.fibres) (key : Nat) : ¬(u.freeDescriptor key).issues key := by
  have gone : ¬State.issues { u with fibres := u.fibres.del key } key :=
    idle_of_find (order.del key) fun f found => absurd found (by rw [order.find_del]; nofun)
  unfold State.freeDescriptor
  split
  · next none => exact idle_of_find order fun f found => absurd found (by rw [none]; nofun)
  · dsimp only
    split
    · exact fun i => gone ((Thins.endCrew (Thins.refl _) _).fibres _ i)
    · exact gone

theorem gone_retire (h : Ready s i t) (n : Sound s t) (e : u.crowd = s.crowd) (free : Bool) : Gone (u.retire t.key free) t := by
  obtain ⟨cur, gangs, fibres⟩ := parts_of_crowd e
  have single : (u.leaveConvened t.key).cur = s.cur ∧ (u.leaveConvened t.key).gangs = s.gangs := by
    unfold State.leaveConvened
    split
    · exact ⟨cur, gangs⟩
    · split <;> exact ⟨cur, gangs⟩
  have gang := gang_leaveGang h n single.1 single.2
  have order : rising ((u.leaveConvened t.key).leaveGang t.key).fibres :=
    (Thins.leaveGang (Thins.leaveConvened (Thins.refl u) _) _).order (fibres ▸ n.fibres)
  unfold State.retire
  rw [fibres, h.fibre]
  dsimp only
  generalize (u.leaveConvened t.key).leaveGang t.key = w at gang order ⊢
  have withdrawn : Thins w ((w.modUnit (coreOf t.key) fun u => u.unfile (indexOf t.key)).withdraw t.key) :=
    Thins.withdraw (Thins.modUnit (Thins.refl w) _ _) _
  generalize (w.modUnit (coreOf t.key) fun u => u.unfile (indexOf t.key)).withdraw t.key = v at withdrawn ⊢
  have freed : Thins w (if free = true then v.freeSegs t.fibre.tenant (v.fibreSegs t.fibre) else v) := by
    split
    · exact Thins.kept withdrawn
    · exact withdrawn
  generalize (if free = true then v.freeSegs t.fibre.tenant (v.fibreSegs t.fibre) else v) = x at freed ⊢
  have given := Thins.freeDescriptor freed t.key
  have gone : Gone (x.freeDescriptor t.key) t :=
    ⟨fun m => gang (given.cur ▸ given.gangs _ m), idle_freeDescriptor (freed.order order) t.key⟩
  split
  · exact gone.thins (Thins.checkBarriers (Thins.refl _) _)
  · exact gone

/-- Once its one fibre has left its gang, what comes after the lanes is bookkeeping. -/
theorem leaves_gone (h : Ready s i t) (gone : Gone u t) (he : exec i s = .next (t.after s i (.stop u))) :
    Leaves s i (u.maskedKill t.key) := by
  obtain ⟨gang, fibre⟩ := gone.thins (Thins.maskedKill (Thins.refl u) t.key)
  have done := afterLanes_gone (i := i) (find_none_iff.mpr gang) h.alone
    (fun f found issuing => fibre ⟨f, Tbl.mem_of_find found, issuing⟩) [t.line s i] false
  exact ⟨_, he, done.1, done.2⟩

theorem crowd_read (s : State) (i : Instr) (t : Turn) : (t.read s i).crowd = s.crowd := by
  obtain ⟨gangs, cur, fibres⟩ := read_gangs s i t
  unfold State.crowd
  rw [gangs, cur, fibres]

/-! ## TRAP, BAR, CONVENE and EXIT -/

theorem crewBroken_read (s : State) (i : Instr) (t : Turn) (f : Fibre) : (t.read s i).crewBroken f = s.crewBroken f := by
  unfold State.crewBroken
  cases f.crew with
  | none => rfl
  | some c =>
    have rest := (same_read s i t).crewRest c
    simp only [Option.bind_some]
    cases now : (t.read s i).sched.crews.find c with
    | none =>
      rw [now] at rest
      rw [Option.map_eq_none_iff.mp rest.symm]
    | some k =>
      rw [now] at rest
      obtain ⟨k', before, bare⟩ := Option.map_eq_some_iff.mp rest.symm
      rw [before]
      exact (congrArg Crew.broken bare.symm :)

theorem launches_read (s : State) (i : Instr) (t : Turn) : (t.read s i).sched.launches = s.sched.launches :=
  (congrArg Scheduler.launches (same_read s i t).sched :)

theorem atomUnderWay_read (s : State) (i : Instr) (t : Turn) (key : Nat) :
    (t.read s i).atomUnderWay key = s.atomUnderWay key := by
  have ops : (t.read s i).coh.ops = s.coh.ops := (congrArg Coherence.ops (same_read s i t).coh :)
  unfold State.atomUnderWay
  rw [ops]

theorem conveneConflicts_read (s : State) (i : Instr) (t : Turn) (key : Nat) (f : Fibre) (level : Nat) :
    (t.read s i).conveneConflicts key f level = s.conveneConflicts key f level := by
  unfold State.conveneConflicts State.conveneSet State.crewFibres
  rw [(read_gangs s i t).2.2, launches_read]

theorem trap_effect {p : FormQI} (n : Sound s t) :
    let fl : Flags := t.fibre.flags &&& p.imm.setWidth 6
    (Goes s (.trap p) t → fl = 0 → Does s (.trap p) t (t.read s (.trap p)) (t.next s (.trap p))) ∧
      (Ready s (.trap p) t → fl ≠ 0 → Leaves s (.trap p)
        (((t.read s (.trap p)).performArith t.key t.fibre fl (t.own s)).maskedKill t.key)) := by
  intro fl
  refine ⟨fun goes clear => ?_, fun ready named => ?_⟩
  · exact does_next goes (read_live goes.ready) read_quiet ((plain_ready goes.ready _).trans
      (congrArg (fun r => Host.Outcome.next (t.after s (.trap p) r)) (if_pos clear)))
  · exact leaves_gone ready (gone_performArith ready n (crowd_read _ _ _) _ _ _) ((plain_ready ready _).trans
      (congrArg (fun r => Host.Outcome.next (t.after s (.trap p) r)) (if_neg named)))

theorem bar_effect {q : FormQ} (h : Ready s (.bar q) t) (n : Sound s t) {c : Nat} (member : t.fibre.crew = some c)
    (whole : s.crewBroken t.fibre = false) :
    (s.atomUnderWay t.key = none → Leaves s (.bar q)
        ((((t.read s (.bar q)).park t.key (.barrier .bar)).checkBar c).maskedKill t.key)) ∧
      ∀ id, s.atomUnderWay t.key = some id →
        Leaves s (.bar q) (((t.givenBack s (.bar q)).park t.key (.address id)).maskedKill t.key) := by
  have meaning : exec (.bar q) s = .next (t.after s (.bar q)
      (match (t.x s (.bar q)).ownAtoms (t.read s (.bar q)) with
        | some r => r
        | none => .stop (((t.read s (.bar q)).park t.key (.barrier .bar)).checkBar c))) := by
    refine (plain_ready h _).trans (congrArg (fun r => Host.Outcome.next (t.after s (.bar q) r)) ?_)
    have own : (t.x s (.bar q)).f.crew = some c := member
    have unbroken : ¬(t.read s (.bar q)).crewBroken (t.x s (.bar q)).f = true := by
      rw [crewBroken_read, x_f, whole]
      exact Bool.false_ne_true
    rw [own]
    exact if_neg unbroken
  have atoms : (t.x s (.bar q)).ownAtoms (t.read s (.bar q)) = (s.atomUnderWay t.key).map fun id => .park (.address id) := by
    unfold LaneIn.ownAtoms
    rw [x_key, atomUnderWay_read]
  rw [atoms] at meaning
  refine ⟨fun free => ?_, fun id busy => ?_⟩
  · rw [free] at meaning
    exact leaves_gone h ((gone_park h n (crowd_read _ _ _) _).thins (Thins.checkBar (Thins.refl _) _)) meaning
  · rw [busy] at meaning
    refine leaves_gone h (gone_park h n ((State.unpop_crowd _ _ _).trans (crowd_read _ _ _)) _) (meaning.trans (congrArg _ ?_))
    unfold Turn.after Lanes.finish Lanes.park Turn.givenBack
    rw [← coreOf_key h]
    rfl

theorem convene_effect {p : FormQI} (h : Ready s (.convene p) t) (n : Sound s t) (clerk : isClerk t.key = false)
    (whole : s.crewBroken t.fibre = false) (born : t.fibre.spawned = false) (single : t.fibre.conv = none)
    (level : s.levelOk t.fibre p.imm.toNat = true) (agree : s.conveneConflicts t.key t.fibre p.imm.toNat = []) :
    Leaves s (.convene p) ((((t.read s (.convene p)).park t.key (.barrier (.convene p.imm.toNat))).checkConvene t.key
      p.imm.toNat).maskedKill t.key) := by
  refine leaves_gone h ((gone_park h n (crowd_read _ _ _) _).thins (Thins.checkConvene (Thins.refl _) _ _))
    ((plain_ready h _).trans (congrArg (fun r => Host.Outcome.next (t.after s (.convene p) r)) ?_))
  have levels : (t.read s (.convene p)).levelOk t.fibre p.imm.toNat = true := by
    rw [← level]
    unfold State.levelOk
    rw [launches_read]
  dsimp only
  rw [x_key, x_f, crewBroken_read, clerk, whole, conveneConflicts_read, agree, levels, born, single]
  rfl

theorem exit_effect {q : FormQ} (h : Ready s (.exit q) t) (n : Sound s t) (clerk : isClerk t.key = false)
    (idle : t.fibre.pending = []) (clear : t.fibre.trapping = false) (empty : t.fibre.counted = []) :
    Leaves s (.exit q) (((t.read s (.exit q)).retire t.key true).maskedKill t.key) := by
  refine leaves_gone h (gone_retire h n (crowd_read _ _ _) _)
    ((plain_ready h _).trans (congrArg (fun r => Host.Outcome.next (t.after s (.exit q) r)) ?_))
  have ended : t.fibre.onlyStopped = true := by
    unfold Fibre.onlyStopped
    rw [empty]
    rfl
  have none : t.fibre.firstStopped = none := by
    unfold Fibre.firstStopped
    rw [empty]
    rfl
  rw [x_key, x_f, clerk, idle, clear, ended, none]
  rfl

/-- Settles O30: each instruction takes the fibre out of its gang, and no function that it calls then makes it execute. -/
theorem fibresLeaveTheirGang : Obligations.FibresLeaveTheirGang := by
  unfold Obligations.FibresLeaveTheirGang
  intro p q s t n x fl leaves
  obtain ⟨goes, performs⟩ := trap_effect (p := p) n
  exact ⟨goes, performs, fun ready c member whole => bar_effect ready n member whole,
    fun ready clerk whole born single level agree => convene_effect ready n clerk whole born single level agree,
    fun ready clerk idle clear empty => exit_effect ready n clerk idle clear empty⟩

end Sys2Proof.Safety

/-! ## Bits of registers (R8) -/

namespace Sys2Proof.Machine

/-- The bits above, in, and below a replaced field. -/
theorem setBits_eq (v x : Nat) {hi lo : Nat} (h : lo ≤ hi) :
    setBits v hi lo x = 2 ^ lo * (2 ^ (hi + 1 - lo) * (v / 2 ^ (hi + 1)) + x % 2 ^ (hi + 1 - lo)) + v % 2 ^ lo := by
  have whole : 2 ^ (hi + 1) = 2 ^ lo * 2 ^ (hi + 1 - lo) := (pow_mul_pow_sub 2 (by omega)).symm
  have low := Nat.div_add_mod v (2 ^ lo)
  have high := Nat.div_add_mod (v / 2 ^ lo) (2 ^ (hi + 1 - lo))
  have split : v = 2 ^ lo * (2 ^ (hi + 1 - lo) * (v / 2 ^ (hi + 1))) + bits v hi lo * 2 ^ lo + v % 2 ^ lo := by
    rw [whole, ← Nat.div_div_eq_div_mul, bits, Nat.mul_comm _ (2 ^ lo), ← Nat.mul_add, high, low]
  rw [setBits, Nat.mul_add, Nat.mul_comm (x % _)]
  omega

/-- A field that has been set holds what was set. -/
theorem bits_setBits_same (v x : Nat) {hi lo : Nat} (h : lo ≤ hi) :
    bits (setBits v hi lo x) hi lo = x % 2 ^ (hi + 1 - lo) := by
  rw [bits, setBits_eq v x h, Nat.mul_add_div (Nat.two_pow_pos _), Nat.div_eq_of_lt (Nat.mod_lt _ (Nat.two_pow_pos _)),
    Nat.add_zero, Nat.mul_add_mod, Nat.mod_mod]

/-- A field above one that has been set keeps its bits. -/
theorem bits_setBits_above (v x h : Nat) {hi lo l : Nat} (le : lo ≤ hi) (above : hi < l) :
    bits (setBits v hi lo x) h l = bits v h l := by
  have rest : setBits v hi lo x / 2 ^ (hi + 1) = v / 2 ^ (hi + 1) := by
    have whole : 2 ^ (hi + 1) = 2 ^ lo * 2 ^ (hi + 1 - lo) := (pow_mul_pow_sub 2 (by omega)).symm
    conv_lhs => rw [whole, ← Nat.div_div_eq_div_mul]
    rw [setBits_eq v x le, Nat.mul_add_div (Nat.two_pow_pos _),
      Nat.div_eq_of_lt (Nat.mod_lt _ (Nat.two_pow_pos lo)), Nat.add_zero, Nat.mul_add_div (Nat.two_pow_pos _),
      Nat.div_eq_of_lt (Nat.mod_lt _ (Nat.two_pow_pos _)), Nat.add_zero]
  have place : 2 ^ l = 2 ^ (hi + 1) * 2 ^ (l - (hi + 1)) := (pow_mul_pow_sub 2 (by omega)).symm
  rw [bits, place, ← Nat.div_div_eq_div_mul, rest, Nat.div_div_eq_div_mul, ← place, bits]

/-- A field that begins at bit 0 takes a number as it takes the number's own bits. -/
theorem setBits_bits_low (v x hi : Nat) : setBits v hi 0 (bits x hi 0) = setBits v hi 0 x := by
  have own : bits x hi 0 % 2 ^ (hi + 1 - 0) = x % 2 ^ (hi + 1 - 0) := by
    rw [bits, Nat.mod_mod, Nat.pow_zero, Nat.div_one]
  rw [setBits, setBits, own]

/-- A field that is set to what it holds changes nothing. -/
theorem setBits_own (v hi lo : Nat) : setBits v hi lo (bits v hi lo) = v := by
  have within : bits v hi lo * 2 ^ lo ≤ v :=
    (Nat.mul_le_mul_right _ (Nat.mod_le _ _)).trans (Nat.div_mul_le_self v _)
  rw [setBits, bits, Nat.mod_mod]
  exact Nat.sub_add_cancel within

theorem writeValue_nil (old x : Nat) : writeValue [] old x = old := by rw [writeValue, List.foldl_nil]

theorem writeValue_cons (f : RegField) (fs : List RegField) (old x : Nat) :
    writeValue (f :: fs) old x = writeValue fs (writeField old x f) x := by
  rw [writeValue, List.foldl_cons, writeValue]

theorem writeField_ro (old x hi lo reset : Nat) : writeField old x (ro hi lo reset) = old := rfl

theorem writeField_w1c (old x hi lo : Nat) : writeField old x (w1c hi lo) =
    setBits old hi lo (Nat.land (bits old hi lo) (2 ^ (hi + 1 - lo) - 1 - bits x hi lo)) := rfl

/-- Ones written to a W1C field clear it (R8). -/
theorem writeField_w1c_clear (old : Nat) {x hi lo : Nat} (ones : bits x hi lo = 2 ^ (hi + 1 - lo) - 1) :
    writeField old x (w1c hi lo) = setBits old hi lo 0 := by
  rw [writeField_w1c, ones, Nat.sub_self]
  exact congrArg _ (Nat.and_zero _)

/-- Zeros written to a W1C field leave it (R8). -/
theorem writeField_w1c_keep (old : Nat) {x hi lo : Nat} (zeros : bits x hi lo = 0) : writeField old x (w1c hi lo) = old := by
  have kept : Nat.land (bits old hi lo) (2 ^ (hi + 1 - lo) - 1) = bits old hi lo :=
    (Nat.and_two_pow_sub_one_eq_mod _ _).trans (Nat.mod_mod _ _)
  rw [writeField_w1c, zeros, Nat.sub_zero, kept, setBits_own]

/-- A write of a field leaves the bits above it (R8). -/
theorem bits_writeField_above (old x h : Nat) {f : RegField} {l : Nat} (le : f.lo ≤ f.hi) (above : f.hi < l) :
    bits (writeField old x f) h l = bits old h l := by
  unfold writeField
  split
  · rfl
  · rfl
  · exact bits_setBits_above _ _ _ le above
  · exact bits_setBits_above _ _ _ le above

/-- A register of 64 bits holds every field of them. -/
theorem bits_word (v : Nat) {h l : Nat} (le : l ≤ h) (word : h < 64) : bits (v % 2 ^ 64) h l = bits v h l := by
  have place : 2 ^ 64 = 2 ^ l * 2 ^ (64 - l) := (pow_mul_pow_sub 2 (by omega)).symm
  rw [bits, place, Nat.mod_mul_right_div_self, Nat.mod_mod_of_dvd _ (Nat.pow_dvd_pow 2 (by omega)), bits]

/-- A field that a queue register has been given. -/
theorem queueF_setBar0 (s : State) (vf q r v : Nat) {h l : Nat} (le : l ≤ h) (word : h < 64) :
    (s.setBar0 vf (queueOff q r) v).queueF vf q r h l = bits v h l := by
  rw [State.queueF, State.setBar0_same, bits_word v le word]

end Sys2Proof.Machine

/-! ## Orders of a host to a queue (R54 to R57, R363) -/

namespace Sys2Proof.Machine

/-- What the scheduler holds of a queue after a change of it. -/
@[simp] theorem State.queue_modQueue (s : State) (vf q : Nat) (g : QueueUnit → QueueUnit) :
    (s.modQueue vf q g).queue vf q = g (s.queue vf q) := Tbl.get_put_same _ _ _ _

/-- A write of a queue register through the port that is not ACTIVE is dropped and counted (R363). -/
theorem standby_queue_dropped {s : State} (h : s.plat.recovery = false) {other : HostPort} (standby : other ≠ s.activePort)
    (vf q : Nat) (v : BitVec 64) :
    ∀ i ∈ [Instr.doorbell other vf q v, .qheadWrite other vf q v, .qstatHaltClear other vf q v, .queueDisable other vf q v],
      exec i s = .next (s.countMgmt 0x7018 15 0) := by
  have dropped : ∀ g, Host.Outcome.next (s.fromPort other g) =
      (.next (s.countMgmt 0x7018 15 0) : Host.Outcome State Fault Refusal) := fun g =>
    congrArg _ (State.fromPort_other h standby g)
  simp only [List.forall_mem_cons, List.not_mem_nil, false_imp_iff, implies_true, and_true]
  exact ⟨dropped _, dropped _, dropped _, dropped _⟩

/-- A doorbell is rung at once, or waits behind the host's writes (R56). -/
theorem doorbell_effect {s : State} (h : s.plat.recovery = false) (vf q : Nat) (v : BitVec 64) :
    (s.coh.doorbells = [] → s.hostWaits = false →
      exec (.doorbell s.activePort vf q v) s =
        .next ((s.clearDeficits.setQueueF vf q 0x10 15 0 v.toNat).schedule vf q)) ∧
    (s.hostWaits = true → exec (.doorbell s.activePort vf q v) s =
      .next (s.modCoh fun c => { c with doorbells := c.doorbells ++ [(vf, q, v.toNat)] })) := by
  have meaning : exec (.doorbell s.activePort vf q v) s = .next (s.ringWaiting.hostRing vf q v.toNat) :=
    congrArg _ (State.fromPort_active h _)
  rw [meaning]
  constructor
  · intro none clear
    have still : s.ringWaiting = s := if_pos (Or.inl (by rw [none]; rfl))
    rw [still]
    exact congrArg _ (if_neg (by rw [clear]; exact Bool.false_ne_true))
  · intro waits
    have still : s.ringWaiting = s := if_pos (Or.inr waits)
    rw [still]
    exact congrArg _ (if_pos waits)

/-- QHEAD moves while HALT is 1 (R54). -/
theorem qheadWrite_effect {s : State} (h : s.plat.recovery = false) (vf q : Nat) (v : BitVec 64) :
    (s.queueF vf q 0x28 24 24 = 1 → exec (.qheadWrite s.activePort vf q v) s = .next (s.setQueueF vf q 0x18 15 0 v.toNat)) ∧
    (s.queueF vf q 0x28 24 24 = 0 → exec (.qheadWrite s.activePort vf q v) s = .next s) := by
  have meaning : exec (.qheadWrite s.activePort vf q v) s = .next (s.writeQhead vf q v.toNat) :=
    congrArg _ (State.fromPort_active h _)
  have value : ∀ old, writeValue (queueFields vf q 0x18) old v.toNat = setBits old 15 0 v.toNat :=
    fun old => (writeField_rw old v.toNat 15 0 0).trans (setBits_bits_low _ _ _)
  rw [meaning]
  refine ⟨fun halted => congrArg _ ((if_pos halted).trans ?_), fun runs => congrArg _ (if_neg ?_)⟩
  · rw [value]
    rfl
  · rw [runs]
    exact Nat.zero_ne_one

/-- A 1 written to HALT clears it, and a 0 to ERR leaves it (R8, R54). -/
theorem writeValue_qstat (vf n old : Nat) {x : Nat} (halt : bits x 24 24 = 1) (err : bits x 7 0 = 0) :
    writeValue (queueFields vf n 0x28) old x = setBits old 24 24 0 := by
  have fields : queueFields vf n 0x28 = [ro 63 48 0, ro 47 32 0, w1c 24 24, ro 23 8 0, w1c 7 0] := rfl
  rw [fields]
  simp only [writeValue_cons, writeValue_nil]
  rw [writeField_ro, writeField_ro, writeField_ro, writeField_w1c_keep _ err, writeField_w1c_clear _ halt]

/-- With HALT cleared the slot is validated again (R54). -/
theorem qstatHaltClear_effect {s : State} (h : s.plat.recovery = false) {vf q : Nat} {v : BitVec 64}
    (halted : s.queueF vf q 0x28 24 24 = 1) (halt : bits v.toNat 24 24 = 1) (err : bits v.toNat 7 0 = 0) :
    exec (.qstatHaltClear s.activePort vf q v) s = .next ((s.setQueueF vf q 0x28 24 24 0).schedule vf q) := by
  refine congrArg Host.Outcome.next ((State.fromPort_active h _).trans ((if_pos ⟨halted, halt⟩).trans ?_))
  rw [writeValue_qstat vf q _ halt err]
  rfl

/-- EN takes what is written to it (R55). -/
theorem bits_writeValue_qcfg (vf n old x : Nat) : bits (writeValue (queueFields vf n 8) old x) 15 15 = bits x 15 15 := by
  have fields : queueFields vf n 8 = [rw 23 16 0, rw 15 15 0, rw 14 12 7, ro 11 11 (if vf = 0 ∧ 60 ≤ n then 1 else 0),
      rw 10 9 3, rwIn 4 0 6 1 16] := rfl
  rw [fields]
  simp only [writeValue_cons, writeValue_nil]
  rw [bits_writeField_above _ _ _ (by decide) (by decide), bits_writeField_above _ _ _ (by decide) (by decide), writeField_ro,
    bits_writeField_above _ _ _ (by decide) (by decide), writeField_rw, bits_setBits_same _ _ (Nat.le_refl 15)]
  exact Nat.mod_mod _ _

/-- The scheduler forgets a head of which no band has been placed; registers stay. -/
theorem dropHead_effect (s : State) (vf q : Nat) :
    (s.dropHead vf q).regs = s.regs ∧ ((s.queue vf q).launch = none → ((s.dropHead vf q).queue vf q).head = none) := by
  unfold State.dropHead
  constructor
  · split <;> rfl
  · intro unplaced
    rw [unplaced, if_neg (by decide), State.queue_modQueue]
    rfl

/-- A queue that is disabled has EN 0, keeps LOGSZ, and holds no head of which no band has been placed (R55, R57). -/
theorem queueDisable_effect {s : State} (h : s.plat.recovery = false) {vf q : Nat} {v : BitVec 64}
    (on : s.queueF vf q 8 15 15 = 1) (off : bits v.toNat 15 15 = 0) :
    ∃ t : State, exec (.queueDisable s.activePort vf q v) s = .next t ∧ t.queueF vf q 8 15 15 = 0 ∧
      t.queueF vf q 8 4 0 = s.queueF vf q 8 4 0 ∧ ((s.queue vf q).launch = none → (t.queue vf q).head = none) := by
  let old := s.bar0 vf (queueOff q 8)
  let new := setBits (writeValue (queueFields vf q 8) old v.toNat) 4 0 (bits old 4 0)
  let written := s.setBar0 vf (queueOff q 8) new
  have disabled : bits new 15 15 = 0 :=
    (bits_setBits_above _ _ _ (by decide) (by decide)).trans ((bits_writeValue_qcfg vf q old v.toNat).trans off)
  have size : bits new 4 0 = bits old 4 0 := (bits_setBits_same _ _ (by decide)).trans (Nat.mod_mod _ _)
  have meaning : s.writeQcfg vf q v.toNat = written.dropHead vf q := by
    unfold State.writeQcfg
    dsimp only
    rw [if_pos (show bits (s.bar0 vf (queueOff q 8)) 15 15 = 1 from on)]
    exact if_pos ⟨on, disabled⟩
  obtain ⟨regs, forgets⟩ := dropHead_effect written vf q
  have field : ∀ hi lo, (written.dropHead vf q).queueF vf q 8 hi lo = written.queueF vf q 8 hi lo := by
    intro hi lo
    unfold State.queueF State.bar0
    rw [regs]
  refine ⟨_, congrArg Host.Outcome.next ((State.fromPort_active h _).trans meaning), ?_, ?_, forgets⟩
  · rw [field, queueF_setBar0 _ _ _ _ _ (by decide) (by decide), disabled]
  · rw [field, queueF_setBar0 _ _ _ _ _ (by decide) (by decide), size]
    rfl

end Sys2Proof.Machine

/-! ## Heads of queues and splits of cores (R54, R58, R120) -/

namespace Sys2Proof.Machine

/-- A head whose dependence is met and whose time has come is ready (R58). -/
theorem launchReady_effect {s : State} {vf q : Nat} {r : LaunchRecord} (head : (s.queue vf q).head = some r)
    (met : (s.queue vf q).dependMet = true)
    (due : r.flag 1 = false ∨ (r.start : Int) - 1000 * s.mgmtF 0x1F08 15 0 ≤ s.ptp.toNat) :
    exec (.launchReady vf q) s = .next (s.modQueue vf q fun u => { u with ready := true }).arbitrate := by
  have now : (!r.flag 1 || decide ((r.start : Int) - 1000 * s.mgmtF 0x1F08 15 0 ≤ s.ptp.toNat)) = true := by
    rcases due with untimed | late
    · rw [untimed]
      rfl
    · rw [decide_eq_true late, Bool.or_true]
  refine congrArg (fun t : State => Host.Outcome.next t.arbitrate) ?_
  unfold State.checkReady
  dsimp only
  rw [head]
  dsimp only
  rw [met, now]
  rfl

/-- An operation of a queue's dependence that is due to read its word again (R58, R272). -/
def dependDue (s : State) (vf q : Nat) (o : OrdOp) : Bool :=
  decide (o.kind = .depend vf q) && decide (o.stage = .watching ∧ isHostLine (lineOf o.addr) = true ∧
    max o.since o.polled + s.mgmtF 0x1F08 39 32 * 1000 ≤ s.gtc)

theorem dependDue_eq (s : State) (vf q : Nat) (o : OrdOp) :
    dependDue s vf q o = (decide (o.kind = .depend vf q) && s.pollDue o) := by
  rw [dependDue, State.pollDue, State.pollPeriod, Bool.decide_and, Bool.decide_and, Bool.decide_eq_true, Bool.and_assoc]

/-- A dependence word is read again, or its record is refused where the windows refuse the read (R54, R58, R368). -/
theorem deppollRead_effect (s : State) (vf q : Nat) :
    (∀ id o, s.coh.ops.first (fun _ o => dependDue s vf q o) = some (id, o) →
      (s.targetsOk vf 6 [o.addr] false = true → exec (.deppollRead vf q) s =
        .next (((s.setOrd id { o with polled := s.gtc }).serve id).tryComplete id)) ∧
      (s.targetsOk vf 6 [o.addr] false = false →
        exec (.deppollRead vf q) s = .next ((s.dropHead vf q).refuse vf q 10))) ∧
    (s.coh.ops.first (fun _ o => dependDue s vf q o) = none → exec (.deppollRead vf q) s = .next s) := by
  have same : (fun (_ : Nat) o => dependDue s vf q o) = fun _ o => decide (o.kind = .depend vf q) && s.pollDue o := by
    funext _ o
    exact dependDue_eq s vf q o
  rw [same]
  change (∀ id o, _ → (_ → execDeppollRead vf q s = _) ∧ (_ → execDeppollRead vf q s = _)) ∧
    (_ → execDeppollRead vf q s = _)
  unfold execDeppollRead
  refine ⟨fun id o found => ?_, fun none => ?_⟩
  · rw [found]
    exact ⟨fun ok => congrArg _ (if_pos ok), fun bad => congrArg _ (if_neg (by rw [bad]; exact Bool.false_ne_true))⟩
  · rw [none]

/-- A heap that is small enough is not shrunk. -/
theorem shrinkHeap_small {s : State} {core size : Nat} (h : s.heapUsed core ≤ size) (n : Nat) :
    s.shrinkHeap core size n = s := by
  cases n with
  | zero => rfl
  | succ n => exact if_pos h

/-- A split whose granules are free is taken (R120). -/
theorem repartition_effect {s : State} {core f sc w c : Nat} (asked : (s.unit core).repartition = some [f, sc, w, c])
    (all : f + sc + w + c = 24) (cache : s.coreF core 0x110 31 24 ≤ c) (frame : s.heapUsed core ≤ f * 64) :
    ∃ t : State, exec (.repartition core) s = .next t ∧ (t.unit core).repartition = none ∧
      t.coreReg core 0x110 = f + 2 ^ 8 * sc + 2 ^ 16 * w + 2 ^ 24 * c := by
  let map := c * 2 ^ 24 + w * 2 ^ 16 + sc * 2 ^ 8 + f
  have meaning : s.repartition core = (s.setCoreReg core 0x110 map).modUnit core fun u => { u with repartition := none } := by
    unfold State.repartition
    rw [asked]
    dsimp only
    rw [if_neg (Nat.not_lt.mpr cache), shrinkHeap_small frame, if_neg (Nat.not_lt.mpr frame)]
  refine ⟨_, congrArg Host.Outcome.next meaning, ?_, ?_⟩
  · rw [modUnit_unit]
  · have value : (s.setCoreReg core 0x110 map).coreReg core 0x110 = map % 2 ^ 64 := by
      unfold State.coreReg
      rw [State.setCoreReg_regs]
      dsimp only
      rw [Tbl.find_put_same]
      exact BitVec.toNat_ofNat map 64
    refine value.trans ?_
    dsimp only [map]
    omega

end Sys2Proof.Machine

/-! ## Crews and launches (R60 to R62, R137) -/

namespace Sys2Proof.Machine

/-- A crew of a launch without ARGS whose core has its split and whose time has come starts, or is killed where its tenant has no
segment for it (R60, R76). -/
theorem crewStart_effect {s : State} {crew : Nat} {k : Crew} {l : Launch} (found : s.sched.crews.find crew = some k)
    (launch : s.sched.launches.find k.launch = some l) (fresh : k.started = none) (whole : k.ended = false)
    (live : k.killCause = none) (split : (s.unit k.core).repartition = none) (args : l.record.args = 0)
    (due : l.record.flag 1 = false ∨ l.record.start ≤ s.ptp.toNat) :
    (∀ w, s.rootSegments (s.entryPc l.vf l.record) (s.crewFibres crew) = some (some w) → w.sched.crews.find crew = some k →
      ∃ (t : State) (k' : Crew), exec (.crewStart crew) s = .next t ∧ t.sched.crews.find crew = some k' ∧
        k'.started = some w.gtc ∧ k'.sregs = []) ∧
    (s.rootSegments (s.entryPc l.vf l.record) (s.crewFibres crew) = none →
      exec (.crewStart crew) s = .next (s.killCrew crew 0x10002)) := by
  have early : (l.record.flag 1 && decide (s.ptp.toNat < l.record.start)) = false := by
    rcases due with untimed | late
    · rw [untimed, Bool.false_and]
    · rw [decide_eq_false (Nat.not_lt.mpr late), Bool.and_false]
  have may : ¬(k.started.isSome ∨ k.ended ∨ k.killCause.isSome ∨
      (l.record.flag 1 && decide (s.ptp.toNat < l.record.start)) = true ∨ (s.unit k.core).repartition.isSome) := by
    rw [fresh, whole, live, early, split]
    decide
  have registers : s.argsOf l.vf l.record.args = some [] := if_pos args
  refine ⟨fun w room kept => ?_, fun none => ?_⟩
  · let started := w.modCrew crew fun k => { k with started := some w.gtc, sregs := [] }
    have meaning : s.startCrew crew = started.dropLeases k.core := by
      simp only [State.startCrew, found, launch, if_neg may, registers, room, started]
    have sched : (started.dropLeases k.core).sched = started.sched := (congrArg State.sched (started.dropLeases_aside k.core) :)
    refine ⟨_, { k with started := some w.gtc, sregs := [] }, congrArg Host.Outcome.next meaning, ?_, rfl, rfl⟩
    rw [sched, State.modCrew_sched, Tbl.find_modify, if_pos rfl, kept]
    rfl
  · have meaning : s.startCrew crew = s.killCrew crew 0x10002 := by
      simp only [State.startCrew, found, launch, if_neg may, registers, none]
    exact congrArg Host.Outcome.next meaning

/-- A crew that has run longer than RUNLIM is killed, with its deadline (R61). -/
theorem runlimExpiry_effect {s : State} {crew t₀ : Nat} {k : Crew} {r : LaunchRecord}
    (found : s.sched.crews.find crew = some k) (started : k.started = some t₀) (record : s.recordOf k.launch = some r)
    (live : k.killCause = none) (whole : k.ended = false) :
    (r.runlim ≠ 0 → t₀ + r.runlim * 1000 < s.gtc → exec (.runlimExpiry crew) s = .next
      ((s.modCrew crew fun k => { k with deadline := some (t₀ + (r.runlim + s.mgmtF 0x1F08 31 16) * 1000) }).killCrew crew
        0x10001)) ∧
    (r.runlim = 0 ∨ s.gtc ≤ t₀ + r.runlim * 1000 → exec (.runlimExpiry crew) s = .next s) := by
  have meaning : exec (.runlimExpiry crew) s = .next (
      if r.runlim = 0 ∨ s.gtc ≤ t₀ + r.runlim * 1000 ∨ k.killCause.isSome ∨ k.ended then s
      else (s.modCrew crew fun k => { k with deadline := some (t₀ + (r.runlim + s.mgmtF 0x1F08 31 16) * 1000) }).killCrew crew
        0x10001) := by
    change execRunlimExpiry crew s = _
    unfold execRunlimExpiry
    rw [found]
    dsimp only
    rw [started, record]
  rw [meaning]
  constructor
  · intro limited late
    refine congrArg _ (if_neg ?_)
    rw [live, whole]
    rintro (none | early | killed | ended)
    · exact limited none
    · exact absurd late (Nat.not_lt.mpr early)
    · cases killed
    · cases ended
  · rintro (none | early)
    · exact congrArg _ (if_pos (Or.inl none))
    · exact congrArg _ (if_pos (Or.inr (Or.inl early)))

/-- The crews of a launch. -/
def State.launchCrews (s : State) (launch : Nat) : Tbl Crew := s.sched.crews.select fun _ k => decide (k.launch = launch)

/-- The operation that holds a launch's completion until its writes are done (R62). -/
def State.completionOp (s : State) (launch vf : Nat) (writes : List (Nat × Nat)) : OrdOp :=
  { kind := .completion launch, stage := .held, agent := schedulerAgent, fibre := none, vf := vf, space := 0, addr := 0, size := 8,
    scope := 5, value := 0, value2 := 0, targets := [], writes := writes, lines := [],
    hostWrites := (s.launchCores launch).flatMap s.coreHostWrites, lost := false, result := 0, since := s.gtc }

/-- A launch whose last crew has ended begins its completion (R62): the cores that ran it write back, and one operation holds what
it waits for. -/
theorem launchComplete_effect {s : State} {launch : Nat} {l : Launch} (found : s.sched.launches.find launch = some l)
    (first : l.completing = false) (placed : l.placed = l.record.bands)
    (gone : ∀ p ∈ s.sched.crews, p.2.launch = launch → p.2.ended = true ∧ s.relaunchable p.2 = false) :
    let killed := (s.launchCrews launch).any fun p => p.2.killCause.isSome
    let s₁ := s.modSched fun c =>
      { c with launches := c.launches.put launch { l with completing := true, crewKilled := killed } }
    let w := (s.launchCores launch).foldl (fun (a : List (Nat × Nat) × State) core =>
      (a.1 ++ (a.2.fenceWrites core l.vf).1, (a.2.fenceWrites core l.vf).2)) ([], s₁)
    ∃ op : OrdOp, op.kind = .completion launch ∧ op.stage = .held ∧ op.writes = w.1 ∧
      op.hostWrites = (w.2.launchCores launch).flatMap w.2.coreHostWrites ∧
      exec (.launchComplete launch) s = .next (((w.2.fresh.2).setOrd w.2.nextId op).tryComplete w.2.nextId) := by
  intro killed s₁ w
  have none_left : ((s.launchCrews launch).any fun p => !p.2.ended || s.relaunchable p.2) = false := by
    refine List.any_eq_false.mpr fun p member => ?_
    obtain ⟨inside, mine⟩ := List.mem_filter.mp member
    obtain ⟨ended, never⟩ := gone p inside (of_decide_eq_true mine)
    rw [ended, never]
    exact Bool.false_ne_true
  have ready : ¬(l.completing ∨ l.placed < l.record.bands ∨
      ((s.launchCrews launch).any fun p => !p.2.ended || s.relaunchable p.2) = true) := by
    rw [first, placed, none_left]
    rintro (again | short | crews)
    · cases again
    · exact Nat.lt_irrefl _ short
    · cases crews
  refine ⟨w.2.completionOp launch l.vf w.1, rfl, rfl, rfl, rfl, ?_⟩
  change execLaunchComplete launch s = _
  unfold execLaunchComplete
  rw [found]
  exact congrArg _ (if_neg ready)

/-- A crew that may run again is placed again (R137). -/
theorem crewRelaunch_effect {s t : State} {crew : Nat} {k : Crew} {l : Launch} (found : s.sched.crews.find crew = some k)
    (launch : s.sched.launches.find k.launch = some l) (again : s.relaunchable k = true) (runs : l.completing = false)
    (fits : (s.modSched fun c => { c with crews := c.crews.del crew }).placeCrew l.vf k.launch k.band k.core k.firstWid.toNat
      (k.relaunches + 1) l.record = some t) : exec (.crewRelaunch crew) s = .next t := by
  have may : ¬(s.relaunchable k = false ∨ l.completing) := by
    rw [again, runs]
    decide
  change execCrewRelaunch crew s = _
  unfold execCrewRelaunch
  rw [found]
  dsimp only
  rw [launch]
  dsimp only
  rw [if_neg may, fits]
  rfl

end Sys2Proof.Machine

/-! ## The refill of the accounts (R66) -/

namespace Sys2Proof.Machine

/-- Accounts are refilled once at each boundary of TOKEN_PERIOD (R66). -/
theorem tokenRefill_effect (s : State) :
    (s.refillBoundary ≤ s.sched.refilledAt → exec .tokenRefill s = .next s) ∧
    (s.sched.refilledAt < s.refillBoundary → exec .tokenRefill s = .next
      ((List.range 128).foldl State.sendPending ((List.range 129).foldl State.refill s.takeBudgets)).arbitrate) :=
  ⟨fun done => congrArg Host.Outcome.next (if_pos done),
    fun due => congrArg Host.Outcome.next (if_neg (Nat.not_le.mpr due))⟩

/-- A table made over a list of keys holds at each of them what it was made with. -/
theorem find_tabulate {α : Type} (g : Nat → α) {keys : List Nat} {k : Nat} (h : k ∈ keys) :
    Tbl.find (keys.map fun i => (i, g i)) k = some (g k) := by
  induction keys with
  | nil => cases h
  | cons j keys ih =>
    rw [List.map_cons, Tbl.find_cons]
    split
    · next same => rw [same]
    · next other => exact ih ((List.mem_cons.mp h).resolve_left fun e => other e.symm)

/-- The BUDGET registers come into force (R66). -/
theorem takeBudgets_budget (s : State) {t : Nat} (low : t < 129) :
    s.takeBudgets.budget t = s.mgmtF (0x2000 + 0x10 * t) 31 0 :=
  congrArg (Option.getD · 0) (find_tabulate (fun t => s.mgmtF (0x2000 + 0x10 * t) 31 0) (List.mem_range.mpr low))

/-- Where nothing is lent there is no lender to repay (R66). -/
theorem repayLenders_none {s : State} (h : s.sched.lent = []) (t : Nat) (l : List Nat) (left : Nat) :
    s.repayLenders t l left = s := by
  induction l with
  | nil => rfl
  | cons u l ih =>
    have owes : s.sched.lent.get (u * 256 + t) 0 = 0 := by
      rw [h]
      rfl
    unfold State.repayLenders
    dsimp only
    rw [owes, if_pos (Or.inl (Nat.zero_min left)), ih]

/-- One account that owes to no tenant is refilled (R66). -/
theorem refill_effect {s : State} (h : s.sched.lent = []) (t : Nat) :
    let repay := min (s.sched.debt.get t 0) (s.budget t / 2)
    (s.refill t).bal t = max (min (s.bal t + s.budget t - repay) (s.budget t)) (-(s.budget t)) ∧
      (s.refill t).sched.debt.get t 0 = s.sched.debt.get t 0 - repay := by
  intro repay
  let repaid := s.modSched fun c =>
    { c with debt := c.debt.put t (s.sched.debt.get t 0 - repay),
             bal := c.bal.put t (max (min (s.bal t + s.budget t - repay) (s.budget t : Int)) (-(s.budget t : Int))) }
  have meaning : s.refill t = repaid := repayLenders_none (s := repaid) h t _ _
  rw [meaning]
  exact ⟨Tbl.get_put_same _ _ _ _, Tbl.get_put_same _ _ _ _⟩

end Sys2Proof.Machine

/-! ## Settling O53 -/

namespace Sys2Proof

open Machine

/-- Settles O53, one lemma for each event: the registers of a queue by their fields, a start by the segments that there are, a
completion by the crews that have ended, and a refill without lenders. -/
theorem schedulerEventsTakeEffect : Obligations.SchedulerEventsTakeEffect := by
  unfold Obligations.SchedulerEventsTakeEffect
  intro s vf q v goes port u
  refine ⟨fun run => ?_, fun _ head met due => launchReady_effect head met due, deppollRead_effect s vf q,
    fun _ _ _ _ _ asked all cache frame => repartition_effect asked all cache frame, ?_,
    fun _ _ _ _ found started record live whole => runlimExpiry_effect found started record live whole,
    fun _ _ found first placed gone => launchComplete_effect found first placed gone,
    fun _ _ _ _ found launch again runs fits => crewRelaunch_effect found launch again runs fits, ?_,
    fun none => refill_effect none vf⟩
  · obtain ⟨rung, waits⟩ := doorbell_effect run vf q v
    obtain ⟨halted, runs⟩ := qheadWrite_effect run vf q v
    exact ⟨fun _ standby => standby_queue_dropped run standby vf q v, rung, waits, halted, runs,
      fun halted halt err => qstatHaltClear_effect run halted halt err, fun on off => queueDisable_effect run on off⟩
  · intro crew k l w found launch fresh whole live split args due
    obtain ⟨starts, killed⟩ := crewStart_effect found launch fresh whole live split args due
    exact ⟨starts w, killed⟩
  · obtain ⟨done, due⟩ := tokenRefill_effect s
    exact ⟨done, due, rfl, fun _ low => takeBudgets_budget s low⟩

end Sys2Proof

/-! ## RET (R74, R75, R210)

What bookkeeping leaves of segments and code, effects at the instruction, and returns within a segment and across a hop. -/

namespace Sys2Proof.Safety

open Sys2Proof.Machine

variable {s u v : State} {i : Instr} {t : Turn}

/-! ### Segments and code under bookkeeping -/

theorem Same.bareSeg_eq (h : Same s u) (k : Nat) : bareSeg (u.seg k) = bareSeg (s.seg k) := by
  have e := h.links k
  unfold State.seg Tbl.get
  cases hs : s.segs.find k <;> cases hu : u.segs.find k <;> simp_all

theorem Same.segWord (h : Same s u) (tenant seg word : Nat) : u.segWord tenant seg word = s.segWord tenant seg word :=
  h.value _

theorem Same.codeOf (h : Same s u) (vf : Nat) (handle : Word) : u.codeOf vf handle = s.codeOf vf handle := by
  unfold State.codeOf
  rw [h.code]

theorem Same.enter (h : Same s u) (vf : Nat) (handle off : Word) : u.enter vf handle off = s.enter vf handle off := by
  unfold State.enter
  rw [h.codeOf]

theorem Same.validReturn (h : Same s u) (vf : Nat) (ptr : DWord) : u.validReturn vf ptr = s.validReturn vf ptr := by
  unfold State.validReturn
  rw [h.codeOf]

theorem Same.isM0 (h : Same s u) (vf : Nat) (handle : Word) : u.isM0 vf handle = s.isM0 vf handle := by
  unfold State.isM0
  rw [h.codeOf]

theorem Same.returnPtr (h : Same s u) (f : Fibre) (slide : Nat) : u.returnPtr f slide = s.returnPtr f slide := by
  have bare := h.bareSeg_eq (segKey f.tenant f.fbSeg)
  have link : (u.seg (segKey f.tenant f.fbSeg)).slide = (s.seg (segKey f.tenant f.fbSeg)).slide :=
    (congrArg Segment.slide bare :)
  have pc : (u.seg (segKey f.tenant f.fbSeg)).retpc = (s.seg (segKey f.tenant f.fbSeg)).retpc :=
    (congrArg Segment.retpc bare :)
  unfold State.returnPtr
  simp only [h.segWord, link, pc]


/-! ### An effect at the instruction (R183) -/

/-- A fibre that performs an effect while it issues alone has left its gang. -/
theorem gone_effect (h : Alone s i t) (n : Sound s t) (e : u.crowd = s.crowd) (x : Effect) :
    Gone ((u.perform t.key x).maskedKill t.key) t := by
  obtain ⟨cur, gangs, fibres⟩ := parts_of_crowd e
  have at_ : coreOf t.key = t.gang.core ∧ indexOf t.key = t.index := by
    have := h.index
    unfold coreOf indexOf Turn.key fibreKey
    omega
  let begun := u.modFibre t.key fun f => { f with state := .performing, effect := some x, request := none }
  let w := begun.modUnit (coreOf t.key) fun c => c.unfile (indexOf t.key)
  have left : (w.leaveGang t.key).gangs.find (w.leaveGang t.key).cur = none := by
    have there : w.gangs = s.gangs ∧ w.cur = s.cur :=
      ⟨(State.modFibre_gangs _ _ _).trans gangs, (State.modFibre_cur _ _ _).trans cur⟩
    rw [(leaveGang_keeps t.key).1]
    refine leaveGang_gone (g := t.gang) ?_ ?_ h.members at_.1.symm at_.2
    · rw [there.1]
      exact rising_nodup n.gangs
    · rw [there.1, there.2]
      exact h.gang
  have idle : ¬begun.issues t.key := idle_stopFibre (fibres ▸ n.fibres) t.key fun _ => nofun
  have gone : Gone (u.beginPerform t.key x) t :=
    ⟨find_none_iff.mp left, fun i => idle ((Thins.leaveGang (Thins.refl w) t.key).fibres _ i)⟩
  exact gone.thins (Thins.maskedKill (Thins.tryPerform (Thins.refl _) _) _)

theorem alone_of_ready (h : Ready s i t) (n : Sound s t) : Alone s i t :=
  ⟨h.gang, h.alone, h.index, h.form, h.fibre, h.issuing, n⟩

/-- An instruction whose lane performs an effect gives back what it took and leaves its gang. -/
theorem leaves_effect (h : Ready s i t) (n : Sound s t) {e : Effect} (he : exec i s = .next (t.after s i (.effect e))) :
    Leaves s i (((t.givenBack s i).perform t.key e).maskedKill t.key) := by
  have gone := gone_effect (alone_of_ready h n) n ((State.unpop_crowd _ t.gang.core (t.reading s i).2.1).trans (crowd_read s i t)) e
  have done := afterLanes_gone (i := i) (find_none_iff.mpr gone.gang) h.alone
    (fun f found issuing => gone.fibre ⟨f, Tbl.mem_of_find found, issuing⟩) [t.line s i] false
  refine ⟨_, he.trans (congrArg _ ?_), done.1, done.2⟩
  unfold Turn.after
  rw [← coreOf_key h]
  rfl

/-- Instructions that run on the gang and are not well-formed perform ILLEGAL, whatever their operands (R182, R183). -/
theorem performsIllegal_illFormed (bad : i.wellFormed = false) {priv : Nat → Bool} {body : LaneIn → State → LaneRes}
    (meaning : ∀ s, exec i s = s.lanes i priv body) : PerformsIllegal i := by
  intro s t h
  have charged : (t.charged s).crowd = s.crowd := by
    unfold State.crowd Turn.charged
    rw [chargeStep_cur, chargeStep_gangs, chargeStep_fibres]
  have gone := gone_effect h h.sound charged (effectOf (t.own s) 12 0 0)
  have done := afterLanes_gone (i := i) (find_none_iff.mpr gone.gang) h.members
    (fun f found issuing => gone.fibre ⟨f, Tbl.mem_of_find found, issuing⟩) [] false
  refine ⟨_, ?_, done.1, done.2⟩
  have fibre : (t.charged s).fibres.find (fibreKey t.gang.core t.index) = some t.fibre :=
    (congrArg (Tbl.find · _) (parts_of_crowd charged).2.2).trans h.fibre
  have performs : (t.charged s).allPerform t.gang.core t.gang.members (fun own => effectOf own 12 0 0) =
      ((t.charged s).perform t.key (effectOf (t.own s) 12 0 0)).maskedKill t.key := by
    unfold State.allPerform
    rw [h.members, List.foldl_cons, List.foldl_nil]
    dsimp only
    rw [fibre]
    exact if_pos h.issuing
  rw [meaning, State.lanes, h.gang, h.form]
  dsimp only
  rw [bad, if_pos rfl, ← performs]
  rfl

/-! ### Returns -/

theorem modFibre_seg (s : State) (key : Nat) (g : Fibre → Fibre) (k : Nat) : (s.modFibre key g).seg k = s.seg k := by
  unfold State.seg
  rw [State.modFibre_segs]

theorem dropOwn_modFibre (s : State) (key : Nat) (g : Fibre → Fibre) (f : Fibre) (n a : Nat) :
    (s.modFibre key g).dropOwn f a n = s.dropOwn f a n := by
  unfold State.modFibre
  split
  · next x _ =>
    induction n generalizing a with
    | zero => rfl
    | succ n ih =>
      unfold State.dropOwn
      simp only [ih]
      rfl
  · rfl

/-- A fibre whose window is all its own finds nothing to fill at a safe point (R42). -/
theorem Calm.quiet_full {f : Fibre} (c : Calm s t 0) (landings : ∀ p ∈ u.landings, p.2.fibre ≠ t.key)
    (kill : f.killOrdered = t.fibre.killOrdered) (faults : f.pending = []) (request : f.request = t.fibre.request)
    (flags : f.fsr = t.fibre.fsr) (full : f.live = 128) : Quiet u t f := by
  refine ⟨kill.trans c.kill, faults, request.trans c.request, ?_, landings, fun n low high => absurd high (by omega)⟩
  have clear := c.flags
  unfold Fibre.trapping Fibre.flags Fibre.enables
  unfold Fibre.flags Fibre.enables at clear
  rw [flags]
  simpa using clear

/-- What a hop return leaves of the fibre that makes it (R74). -/
theorem hopBack_live {f x : Fibre} (l : Live u t f) (g : Segment) :
    ∃ f', Live (u.hopBack t.key x g) t f' ∧ f'.live = 128 ∧ f'.killOrdered = f.killOrdered ∧ f'.request = f.request ∧
      f'.fsr = f.fsr ∧ (f.pending = [] → f'.pending = []) := by
  let move := shiftLoc (segKey x.tenant x.fbSeg) 0 (segKey x.tenant g.next) (g.savedFbw + g.slide) (128 - g.slide)
  let copied := u.modSeg (segKey x.tenant g.next) fun d =>
    { d with words := copyCells g.words 0 d.words (g.savedFbw + g.slide) (128 - g.slide), touched := u.gtc }
  let v := (copied.retarget move).freeSegs x.tenant [x.fbSeg]
  let follow := fun (f : Fibre) => { f with pending := f.pending.map fun (d : Deferred) => { d with locs := d.locs.map move } }
  have found : v.fibres.find t.key = some (follow f) :=
    (Tbl.find_mapVals u.fibres (fun _ => follow) t.key).trans (congrArg (Option.map follow) l.fibre)
  have moved : Live v t (follow f) := ⟨found, l.issuing, l.gang⟩
  refine ⟨_, moved.modFibre (fun x => { x with fbSeg := g.next, fbWord := g.savedFbw, hchain := g.hchain, live := 128 })
    l.issuing, rfl, rfl, rfl, rfl, fun none => ?_⟩
  show f.pending.map _ = []
  rw [none, List.map_nil]

/-- The landings after a hop return belong to the fibres that they belonged to. -/
theorem hopBack_landings {x : Fibre} {g : Segment} {key k : Nat} (h : ∀ p ∈ u.landings, p.2.fibre ≠ k) :
    ∀ p ∈ (u.hopBack key x g).landings, p.2.fibre ≠ k := by
  intro p hp
  unfold State.hopBack at hp
  rw [State.modFibre_landings] at hp
  obtain ⟨q, hq, rfl⟩ := List.mem_map.mp hp
  exact h q hq

theorem hopBack_gangs (s : State) (key : Nat) (x : Fibre) (g : Segment) :
    (s.hopBack key x g).gangs = s.gangs ∧ (s.hopBack key x g).cur = s.cur :=
  ⟨State.modFibre_gangs _ _ _, State.modFibre_cur _ _ _⟩

/-- What RET does on its lane, where it has a pointer to a valid object (R74). -/
def retLane (x : LaneIn) (u : State) (slide : Nat) (ptr : DWord) : LaneRes :=
  let pc := u.enter x.f.tenant (hiWord ptr) (loWord ptr)
  let w := u.setFsm x.key x.f.tenant (hiWord ptr)
  if slide ≤ x.f.fbWord then
    .jump (w.modFibre x.key fun g =>
      { g with fbWord := x.f.fbWord - slide, hchain := w.dropOwn x.f x.f.hchain w.searchFuel, live := 128 }) pc false
  else
    let link := w.seg (segKey x.f.tenant x.f.fbSeg)
    let v := w.hopBack x.key x.f link
    if decide ((w.seg (segKey x.f.tenant link.next)).resident = some (coreOf x.key)) then .jump v pc false
    else .stop (v.coldAt x.key pc)

/-- RET finds where it goes, or performs ILLEGAL (R74, R196, R210). -/
theorem ret_ready {p : FormQI} (h : Ready s (.ret p) t) {ptr : Option DWord}
    (found : (if p.imm.toNat * 8 = 0 then none else s.returnPtr t.fibre (p.imm.toNat * 8)) = ptr) :
    exec (.ret p) s = .next (t.after s (.ret p) (ptr.elim (.effect (effectOf (t.own s) 12 0 0)) fun ptr =>
      if s.validReturn t.fibre.tenant ptr = false then .effect (effectOf (t.own s) 12 0 0)
      else retLane (t.x s (.ret p)) (t.read s (.ret p)) (p.imm.toNat * 8) ptr)) := by
  have same := same_read s (.ret p) t
  refine (plain_ready h _).trans (congrArg (fun r => Host.Outcome.next (t.after s (.ret p) r)) ?_)
  dsimp only
  rw [x_f, same.returnPtr, found]
  cases ptr with
  | none => rfl
  | some ptr =>
    dsimp only
    rw [same.validReturn]
    rfl

theorem ret_returns {p : FormQI} (h : Ready s (.ret p) t) (slides : p.imm.toNat * 8 ≠ 0) {ptr : DWord}
    (found : s.returnPtr t.fibre (p.imm.toNat * 8) = some ptr) (valid : s.validReturn t.fibre.tenant ptr = true) :
    exec (.ret p) s =
      .next (t.after s (.ret p) (retLane (t.x s (.ret p)) (t.read s (.ret p)) (p.imm.toNat * 8) ptr)) := by
  refine (ret_ready h ((if_neg slides).trans found)).trans ?_
  rw [Option.elim_some, valid]
  rfl

theorem returnPtr_within {f : Fibre} {slide : Nat} (within : slide ≤ f.fbWord) :
    s.returnPtr f slide =
      some (pair (s.segWord f.tenant f.fbSeg (f.fbWord - 2)) (s.segWord f.tenant f.fbSeg (f.fbWord - 1))) := if_pos within

theorem returnPtr_hop {f : Fibre} {slide : Nat} (beyond : ¬slide ≤ f.fbWord) (bottom : f.fbWord = 0)
    (link : (s.seg (segKey f.tenant f.fbSeg)).slide = slide) :
    s.returnPtr f slide = some (s.seg (segKey f.tenant f.fbSeg)).retpc :=
  (if_neg beyond).trans (if_pos ⟨bottom, link⟩)

theorem returnPtr_none {f : Fibre} {slide : Nat} (beyond : f.fbWord < slide)
    (link : f.fbWord ≠ 0 ∨ (s.seg (segKey f.tenant f.fbSeg)).slide ≠ slide) : s.returnPtr f slide = none :=
  (if_neg (Nat.not_le.mpr beyond)).trans (if_neg fun both => link.elim (fun no => no both.1) fun no => no both.2)

/-- A RET has no operands, so it takes nothing that it would give back. -/
theorem givenBack_ret {p : FormQI} (h : Ready s (.ret p) t) : t.givenBack s (.ret p) = t.read s (.ret p) := by
  have form : t.form = formQI p .none (p.imm.toNat < 16) := (Option.some.inj h.form).symm
  unfold Turn.givenBack Turn.reading
  rw [form]
  rfl

/-- RET within its segment (R74). -/
theorem ret_within {p : FormQI} (h : Goes s (.ret p) t) (slides : p.imm.toNat * 8 ≠ 0)
    (within : p.imm.toNat * 8 ≤ t.fibre.fbWord) {ptr : DWord} (found : s.returnPtr t.fibre (p.imm.toNat * 8) = some ptr)
    (valid : s.validReturn t.fibre.tenant ptr = true) :
    Does s (.ret p) t (((t.read s (.ret p)).modFibre t.key fun g =>
        { g with fsm := s.isM0 t.fibre.tenant (hiWord ptr) }).modFibre t.key fun g =>
        { g with fbWord := t.fibre.fbWord - p.imm.toNat * 8, live := 128,
                 hchain := (t.read s (.ret p)).dropOwn t.fibre t.fibre.hchain (t.read s (.ret p)).searchFuel })
      (s.enter t.fibre.tenant (hiWord ptr) (loWord ptr)) := by
  obtain ⟨ready, calm⟩ := h
  have same := same_read s (.ret p) t
  have live := read_live ready
  have calm' : Calm s t 0 := calm.resolve_left fun runs => Bool.noConfusion runs.2.1
  have meaning := (ret_returns ready slides found valid).trans
    (congrArg (fun r => Host.Outcome.next (t.after s (.ret p) r)) (if_pos within))
  unfold State.setFsm State.searchFuel at meaning
  simp only [dropOwn_modFibre, State.modFibre_segs, same.isM0, same.enter] at meaning
  refine does_jump ⟨ready, calm⟩ ((live.modFibre _ live.issuing).modFibre _ live.issuing) (fun c => ?_) meaning
  refine c.quiet_full ?_ rfl c.faults rfl rfl rfl
  simpa using (read_quiet (i := .ret p) c).landings

/-- A fibre that goes COLD where it returns has left its gang (R31). -/
theorem coldAt_leaves (h : Ready s i t) (n : Sound s t) {f : Fibre} (l : Live u t f) (gangs : u.gangs = s.gangs)
    (cur : u.cur = s.cur) (kill : f.killOrdered = false) {pc : Pc}
    (he : exec i s = .next (t.after s i (.stop (u.coldAt t.key pc)))) : Leaves s i (u.coldAt t.key pc) := by
  refine leaves_stop h (find_none_iff.mpr (gang_leaveGang h n ?_ ?_)) (fun g found => ?_) he
  · exact (State.modFibre_cur _ _ _).trans cur
  · exact (State.modFibre_gangs _ _ _).trans gangs
  · unfold State.coldAt at found
    rw [(leaveGang_keeps t.key).2, State.modUnit_fibres, State.find_modFibre, if_pos rfl, l.fibre] at found
    cases found
    exact ⟨nofun, kill⟩

/-- What RET does on its lane across a hop (R74, R75), in a state that has read the operands. -/
theorem retLane_hop (same : Same s u) {x : LaneIn} {slide : Nat} (beyond : ¬slide ≤ x.f.fbWord) (ptr : DWord) :
    let link := s.seg (segKey x.f.tenant x.f.fbSeg)
    let w := u.modFibre x.key fun g => { g with fsm := s.isM0 x.f.tenant (hiWord ptr) }
    let v := w.hopBack x.key x.f (w.seg (segKey x.f.tenant x.f.fbSeg))
    let pc := s.enter x.f.tenant (hiWord ptr) (loWord ptr)
    retLane x u slide ptr =
      if (s.seg (segKey x.f.tenant link.next)).resident = some (coreOf x.key) then .jump v pc false
      else .stop (v.coldAt x.key pc) := by
  have next : (u.seg (segKey x.f.tenant x.f.fbSeg)).next = (s.seg (segKey x.f.tenant x.f.fbSeg)).next :=
    (congrArg Segment.next (same.bareSeg_eq _) :)
  have resident : ∀ k, (u.seg k).resident = (s.seg k).resident := fun k =>
    (congrArg Segment.resident (same.bareSeg_eq k) :)
  unfold retLane State.setFsm
  rw [if_neg beyond, same.isM0, same.enter]
  simp only [modFibre_seg, next, resident, decide_eq_true_eq]

/-- RET across a hop (R74, R75). -/
theorem ret_hop {p : FormQI} (h : Goes s (.ret p) t) (slides : p.imm.toNat * 8 ≠ 0) (bottom : t.fibre.fbWord = 0) {ptr : DWord}
    (found : s.returnPtr t.fibre (p.imm.toNat * 8) = some ptr) (valid : s.validReturn t.fibre.tenant ptr = true) :
    let x := t.fibre
    let u := (t.read s (.ret p)).modFibre t.key fun g => { g with fsm := s.isM0 x.tenant (hiWord ptr) }
    let v := u.hopBack t.key x (u.seg (segKey x.tenant x.fbSeg))
    let pc := s.enter x.tenant (hiWord ptr) (loWord ptr)
    if (s.seg (segKey x.tenant (s.seg (segKey x.tenant x.fbSeg)).next)).resident = some (coreOf t.key) then
      Does s (.ret p) t v pc
    else Sound s t → Leaves s (.ret p) (v.coldAt t.key pc) := by
  intro x u v pc
  obtain ⟨ready, calm⟩ := h
  have live := read_live ready
  have meaning := ret_returns ready slides found valid
  rw [retLane_hop (same_read s (.ret p) t) (x := t.x s (.ret p)) (by rw [x_f]; omega)] at meaning
  obtain ⟨f, lives, full, kill, request, flags, none⟩ :=
    hopBack_live (x := x) (live.modFibre (fun g => { g with fsm := s.isM0 x.tenant (hiWord ptr) }) live.issuing)
      (u.seg (segKey x.tenant x.fbSeg))
  split
  · next here =>
    refine does_jump ⟨ready, calm⟩ lives (fun c => ?_) (meaning.trans (congrArg _ (congrArg _ (if_pos here))))
    refine c.quiet_full (hopBack_landings ?_) kill (none c.faults) request flags full
    rw [State.modFibre_landings]
    exact (read_quiet c).landings
  · next away =>
    intro sound
    obtain ⟨gangs, cur, -⟩ := read_gangs s (.ret p) t
    obtain ⟨gangs', cur'⟩ := hopBack_gangs u t.key x (u.seg (segKey x.tenant x.fbSeg))
    exact coldAt_leaves ready sound lives (gangs'.trans ((State.modFibre_gangs _ _ _).trans gangs))
      (cur'.trans ((State.modFibre_cur _ _ _).trans cur)) (kill.trans sound.kill)
      (meaning.trans (congrArg _ (congrArg _ (if_neg away))))

/-- RET that has nowhere to go performs ILLEGAL (R74, R196, R210). -/
theorem ret_illegal {p : FormQI} (h : Ready s (.ret p) t) (n : Sound s t) {ptr : Option DWord}
    (found : (if p.imm.toNat * 8 = 0 then none else s.returnPtr t.fibre (p.imm.toNat * 8)) = ptr)
    (invalid : ∀ r, ptr = some r → s.validReturn t.fibre.tenant r = false) :
    Leaves s (.ret p) (((t.read s (.ret p)).perform t.key (effectOf (t.own s) 12 0 0)).maskedKill t.key) := by
  rw [← givenBack_ret h]
  refine leaves_effect h n ((ret_ready h found).trans ?_)
  cases ptr with
  | none => rfl
  | some r => rw [Option.elim_some, if_pos (invalid r rfl)]

/-- Settles O29: a return has one pointer, below FB or in the link that its slide names; with it, the fibre goes on in the frame
below or in the caller's segment, and without it RET performs ILLEGAL. -/
theorem returnsCloseTheirWindow : Obligations.ReturnsCloseTheirWindow := by
  unfold Obligations.ReturnsCloseTheirWindow
  intro p s t i x slide link below ptr pc u
  have within : slide ≤ x.fbWord → s.returnPtr x slide = some ptr := fun within =>
    (returnPtr_within within).trans (congrArg some (if_pos within).symm)
  have beyond : ¬slide ≤ x.fbWord → ptr = link.retpc := fun no => if_neg no
  refine ⟨fun goes slides valid =>
    ⟨fun inside => ret_within goes slides inside (within inside) valid, fun bottom named => ?_⟩,
    fun ready sound bad => ?_, fun large => ?_⟩
  · have past : ¬slide ≤ x.fbWord := fun inside => slides (Nat.le_zero.mp (bottom ▸ inside))
    exact ret_hop goes slides bottom ((returnPtr_hop past bottom named).trans (congrArg some (beyond past).symm)) valid
  · rcases bad with zero | ⟨short, link'⟩ | invalid
    · exact ret_illegal ready sound (if_pos zero) nofun
    · exact ret_illegal ready sound (ptr := none) (by split; exacts [rfl, returnPtr_none short link']) nofun
    · refine ret_illegal ready sound rfl fun r found => ?_
      have named : s.returnPtr x slide = some r := by
        split at found
        · cases found
        · exact found
      have same : r = ptr := by
        by_cases inside : slide ≤ x.fbWord
        · exact Option.some.inj (named.symm.trans (within inside))
        · rw [beyond inside]
          unfold State.returnPtr at named
          rw [if_neg inside] at named
          split at named
          · exact (Option.some.inj named).symm
          · cases named
      rw [same]
      exact invalid
  · refine performsIllegal_illFormed ?_ fun s => (by unfold execRet State.plain; rfl : execRet p s = _)
    show (formQI p .none (decide (p.imm.toNat < 16))).ok = false
    rw [decide_eq_false (Nat.not_lt.mpr large)]
    unfold Form.ok
    simp [formQI]

end Sys2Proof.Safety

/-! ## Requests at the safe point (R41, R42, R84, R220 to R223)

PERFORM, PERFORMV, YIELD and RESUME leave a request to the safe point that ends their run, where the fibre leaves its gang. -/

namespace Sys2Proof

/-- What an entry is put over is forgotten. -/
theorem Tbl.put_put {α : Type} (l : Tbl α) (k : Nat) (a b : α) : (l.put k a).put k b = l.put k b := by
  induction l with
  | nil => simp [Tbl.put]
  | cons p rest ih =>
    obtain ⟨j, x⟩ := p
    rcases lt_trichotomy k j with below | rfl | above
    · simp [Tbl.put, below]
    · simp [Tbl.put]
    · have : ¬k < j := by omega
      have : k ≠ j := by omega
      simp [Tbl.put, *]

end Sys2Proof

namespace Sys2Proof.Machine

@[simp] theorem State.beforeRestamp_beyond (s : State) (core line : Nat) : (s.beforeRestamp core line).beyond = s.beyond := by
  unfold State.beforeRestamp
  split
  · split <;> simp
  · rfl

@[simp] theorem State.storeLine_beyond (s : State) (core : Nat) (crew : Option Nat) (vf pa : Nat) (kind : ObjState)
    (data : List Byte) : (s.storeLine core crew vf pa kind data).beyond = s.beyond := by
  unfold State.storeLine
  dsimp only
  split <;> simp

theorem crowd_of_beyond {s u : State} (e : u.beyond = s.beyond) : u.crowd = s.crowd := (congrArg State.crowd e :)

theorem State.setBackingByte_crowd (s : State) (tenant addr : Nat) (v : Byte) :
    (s.setBackingByte tenant addr v).crowd = s.crowd := by
  unfold State.setBackingByte
  dsimp only
  split
  · split
    · split <;> rfl
    · rfl
  · split
    · split <;> rfl
    · rfl

/-- A store of a core to GLOBAL memory leaves gangs and fibres. -/
theorem State.storeGlobal_crowd {s u : State} {core : Nat} {crew : Option Nat} {clerk : Bool} {vf va : Nat} {data : List Byte}
    (h : s.storeGlobal core crew clerk vf va data = .ok u) : u.crowd = s.crowd := by
  unfold State.storeGlobal at h
  split at h
  case h_4 =>
    split at h
    · cases h
    · split at h <;> cases h
      · exact foldl_crowd (fun _ _ => State.setBackingByte_crowd _ _ _ _) _ _
      · exact crowd_of_beyond (State.storeLine_beyond _ _ _ _ _ _ _)
  all_goals cases h

theorem State.wakeCrew_crowd (s : State) (key : Nat) (crew : Option Nat) : (s.wakeCrew key crew).crowd = s.crowd := by
  unfold State.wakeCrew
  split <;> rfl

theorem State.poison_crowd (s : State) (key : Nat) (f : Fibre) (reg : Nat) (wide : Bool) :
    (s.poison key f reg wide).crowd = s.crowd := foldl_crowd (fun s l => s.markCell_crowd l _) _ s

theorem State.relink_crowd (s : State) (f : Fibre) (k : KObject) (ret : DWord) : (s.relink f k ret).crowd = s.crowd := by
  unfold State.relink
  dsimp only
  split
  · rfl
  · exact (State.setCell_crowd _ _ _).trans ((State.setCell_crowd _ _ _).trans (State.settleRecords_crowd _ _))

end Sys2Proof.Machine

namespace Sys2Proof.Safety

open Sys2Proof.Machine

variable {s u v : State} {i : Instr} {t : Turn} {gid : Nat}

/-! ### The seat of a fibre that issues alone -/

/-- The gang that issues has the fibre as its one member. -/
structure Seated (s : State) (t : Turn) : Prop where
  order : rising s.gangs
  gang : ∃ g, s.gangs.find s.cur = some g ∧ g.members = [(t.lane, t.index)] ∧ g.core = coreOf t.key
  index : indexOf t.key = t.index

/-- A gang is gone. -/
def Unseated (s : State) (gid : Nat) : Prop := gid ∉ s.gangs.map Prod.fst

theorem Seated.crowd (h : Seated s t) (e : u.crowd = s.crowd := by rfl) : Seated u t := by
  obtain ⟨cur, gangs, -⟩ := parts_of_crowd e
  exact ⟨by rw [gangs]; exact h.order, by rw [cur, gangs]; exact h.gang, h.index⟩

theorem Seated.of_gangs (h : Seated s t) (gangs : u.gangs = s.gangs) (cur : u.cur = s.cur) : Seated u t :=
  ⟨by rw [gangs]; exact h.order, by rw [cur, gangs]; exact h.gang, h.index⟩

theorem Seated.leaveGang (h : Seated s t) : Unseated (s.leaveGang t.key) s.cur := by
  obtain ⟨order, ⟨g, found, alone, core⟩, index⟩ := h
  refine find_none_iff.mp ?_
  exact leaveGang_gone (rising_nodup order) found alone core index

theorem Unseated.thins {gid : Nat} (h : Unseated s gid) (g : Thins s u) : Unseated u gid := fun m => h (g.gangs _ m)

theorem Seated.beginPerform (h : Seated s t) (e : Effect) : Unseated (s.beginPerform t.key e) s.cur := by
  unfold State.beginPerform
  dsimp only
  generalize hw : State.modUnit _ _ _ = w
  have stays : w.cur = s.cur := by
    rw [← hw]
    exact State.modFibre_cur _ _ _
  rw [← stays]
  refine (h.of_gangs ?_ stays).leaveGang
  rw [← hw]
  exact State.modFibre_gangs _ _ _

theorem Seated.perform (h : Seated s t) (e : Effect) : Unseated (s.perform t.key e) s.cur :=
  (h.beginPerform e).thins (Thins.tryPerform (Thins.refl _) _)

/-- A fibre that is there, in the gang that issues or gone from it. -/
structure There (gid : Nat) (s : State) (t : Turn) : Prop where
  fibre : (s.fibres.find t.key).isSome
  cur : s.cur = gid
  gang : Seated s t ∨ Unseated s gid

theorem There.crowd (h : There gid s t) (e : u.crowd = s.crowd := by rfl) : There gid u t := by
  obtain ⟨cur, gangs, fibres⟩ := parts_of_crowd e
  refine ⟨by rw [fibres]; exact h.fibre, cur.trans h.cur, h.gang.imp (fun a => a.crowd e) fun a => ?_⟩
  unfold Unseated
  rw [gangs]
  exact a

theorem There.of_gangs (h : There gid s t) (fibre : (u.fibres.find t.key).isSome) (gangs : u.gangs = s.gangs := by rfl)
    (cur : u.cur = s.cur := by rfl) : There gid u t := by
  refine ⟨fibre, cur.trans h.cur, h.gang.imp (fun a => a.of_gangs gangs cur) fun a => ?_⟩
  unfold Unseated
  rw [gangs]
  exact a

theorem There.setFibre (h : There gid s t) (key : Nat) (f : Fibre) : There gid (s.setFibre key f) t := by
  refine h.of_gangs ?_
  rw [State.setFibre_fibres, Tbl.find_put]
  split
  · rfl
  · exact h.fibre

theorem There.modFibre (h : There gid s t) (key : Nat) (g : Fibre → Fibre) : There gid (s.modFibre key g) t := by
  unfold State.modFibre
  split
  · exact h.setFibre _ _
  · exact h

theorem There.leaveGang (h : There gid s t) : Unseated (s.leaveGang t.key) gid :=
  h.gang.elim (fun a => h.cur ▸ a.leaveGang) fun a => a.thins (Thins.leaveGang (Thins.refl s) t.key)

theorem There.beginPerform (h : There gid s t) (e : Effect) : There gid (s.beginPerform t.key e) t := by
  refine ⟨?_, (leaveGang_keeps t.key).1.trans ((State.modFibre_cur s t.key _).trans h.cur),
    Or.inr (h.gang.elim (fun a => h.cur ▸ a.beginPerform e) fun a => a.thins (Thins.beginPerform (Thins.refl s) t.key e))⟩
  unfold State.beginPerform
  rw [(leaveGang_keeps t.key).2]
  exact (h.modFibre t.key _).fibre

theorem There.foldl {α : Type} {f : State → α → State} (h : There gid s t)
    (step : ∀ w a, There gid w t → There gid (f w a) t) (l : List α) : There gid (l.foldl f s) t := by
  induction l generalizing s with
  | nil => exact h
  | cons a l ih => exact ih (step s a h)

theorem There.file (h : There gid s t) (key : Nat) : There gid (s.file key) t := by
  unfold State.file
  split
  · exact h
  · exact ((h.crowd (u := s.fresh.2)).setFibre _ _).crowd

theorem There.unpark (h : There gid s t) (key : Nat) : There gid (s.unpark key) t := by
  unfold State.unpark
  split
  · exact h
  · split
    · exact (h.file key).crowd
    · exact (h.setFibre _ _).crowd
    · exact h

theorem There.recheck (h : There gid s t) (core : Nat) : There gid (s.recheck core) t := by
  refine h.foldl (fun w p q => ?_) _
  split
  · split
    · exact q.unpark _
    · exact q
  · split
    · exact q.unpark _
    · exact q
  · exact q

/-! ### Replays (R84, R91) -/

theorem There.writeCode (h : There gid s t) (key code : Nat) (v : Word) : There gid (s.writeCode key code v) t := by
  unfold State.writeCode
  split
  · exact h
  · split
    · exact h.crowd (s.writeCell_crowd _ _)
    · split
      · exact (h.crowd ((State.wakeCrew_crowd _ _ _).trans (s.writeCell_crowd _ _))).recheck _
      · split
        · exact (h.crowd (u := (State.modUnit s.fresh.2 _ _).wake _)).recheck _
        · split
          · exact h.modFibre _ _
          · exact h

theorem There.writePair (h : There gid s t) (key code : Nat) (wide : Bool) (v : DWord) :
    There gid (s.writePair key code wide v) t := by
  unfold State.writePair
  split
  · exact (h.writeCode _ _ _).writeCode _ _ _
  · exact h.writeCode _ _ _

theorem There.writeLocs (h : There gid s t) (key : Nat) (locs : List Loc) (v : DWord) : There gid (s.writeLocs key locs v) t := by
  unfold State.writeLocs
  exact (h.crowd (foldl_crowd (fun s (p : Loc × Word) => s.writeCell_crowd p.1 p.2) _ s)).recheck _

theorem There.replay (h : There gid s t) (d : Deferred) : There gid (s.replay t.key d) t := by
  have write : ∀ w v, There gid w t → There gid (if d.locs.isEmpty then w.writePair t.key d.reg (decide (d.size = 3)) v
      else w.writeLocs t.key d.locs v) t := by
    intro w v q
    split
    · exact q.writePair _ _ _ _
    · exact q.writeLocs _ _ _
  unfold State.replay
  split
  · exact h
  · next f _ =>
    dsimp only
    split
    · exact h.beginPerform _
    · split
      · exact write _ _ h
      · split
        · split
          · exact h.setFibre _ _
          · split
            · next stored => exact h.crowd ((State.wakeCrew_crowd _ _ _).trans (State.storeGlobal_crowd stored))
            · exact h.beginPerform _
            · exact h.beginPerform _
            · exact h.setFibre _ _
        · split
          · next loaded =>
            obtain ⟨_, _, _, rfl⟩ := read_loadGlobal loaded
            exact write _ _ (h.crowd rfl)
          · exact h.beginPerform _
          · exact h.beginPerform _
          · have deferred := h.setFibre t.key { f with pending := f.pending ++ [d] }
            split
            · exact deferred.crowd (State.poison_crowd _ _ _ _ _)
            · exact deferred.crowd (foldl_crowd (fun s l => s.markCell_crowd l _) _ _)

theorem There.runReplays (h : There gid s t) (l : List Deferred) : There gid (s.runReplays t.key l) t := by
  induction l generalizing s with
  | nil => exact h
  | cons d l ih =>
    unfold State.runReplays
    split
    · exact h.modFibre _ _
    · exact ih (h.replay d)

/-- A fibre that continues a continuation leaves the gang that issues (R84). -/
theorem There.continueK (h : There gid s t) (slot : Nat) (k : KObject) (value : DWord) (wide linked : Bool) (ret : DWord) :
    Unseated (s.continueK t.key slot k value wide linked ret) gid := by
  obtain ⟨f, found⟩ := Option.isSome_iff_exists.mp h.fibre
  unfold State.continueK
  rw [found]
  dsimp only
  have joined : There gid (if linked then (s.relink f k ret).touch (segKey f.tenant f.fbSeg) else s) t := by
    split
    · exact h.crowd (s.relink_crowd f k ret)
    · exact h
  generalize (if linked then (s.relink f k ret).touch (segKey f.tenant f.fbSeg) else s) = w at joined ⊢
  generalize hx : State.loadFsm _ t.key = x
  have replayed : There gid x t := by
    rw [← hx]
    exact There.modFibre (There.runReplays (There.setFibre joined.crowd _ _) _) _ _
  clear hx
  obtain ⟨g, found⟩ := Option.isSome_iff_exists.mp replayed.fibre
  rw [found]
  dsimp only
  split
  · exact replayed.leaveGang.thins (Thins.tryPerform (Thins.refl _) _)
  · split
    · exact replayed.leaveGang.thins (Thins.file (Thins.refl _) _)
    · exact (replayed.setFibre _ _).leaveGang

/-- RESUME takes its fibre out of the gang, by an effect of its checks or by its continuation (R84). -/
theorem Seated.resume (h : Seated s t) {f : Fibre} (found : s.fibres.find t.key = some f) (k v : DWord) (wide : Bool)
    (own next : Pc) : Unseated (s.resume t.key k v wide own next) s.cur := by
  unfold State.resume
  rw [found]
  dsimp only
  split
  · exact h.perform _
  · split
    · exact h.perform _
    · exact There.continueK ⟨by rw [found]; rfl, rfl, Or.inl h⟩ _ _ _ _ _ _

/-! ### The safe point -/

theorem liveFull_keeps (s : State) (key : Nat) : (s.liveFull key).gangs = s.gangs ∧ (s.liveFull key).cur = s.cur := by
  have marks : ∀ (l : List Loc) (w : State), (l.foldl (fun s l => s.markCell l .full) w).crowd = w.crowd := fun l w =>
    foldl_crowd (fun s l => s.markCell_crowd l .full) l w
  unfold State.liveFull
  split
  · exact ⟨rfl, rfl⟩
  · dsimp only
    split
    · exact ⟨rfl, rfl⟩
    · obtain ⟨cur, gangs, -⟩ := parts_of_crowd (marks _ _)
      exact ⟨gangs, cur⟩

/-- A fibre that has asked for something at the end of its run, and stands at its next PC. -/
structure Asking (s : State) (t : Turn) (r : Request) (pc : Pc) : Prop where
  seated : Seated s t
  fibre : ∃ f, s.fibres.find t.key = some f ∧ f.state = .issuing ∧ f.killOrdered = false ∧ f.pending = [] ∧
    f.trapping = false ∧ f.request = some r ∧ f.pc = pc

/-- At the safe point a fibre performs the effect that it has asked for, its window full (R42, R221). -/
theorem Asking.performs {e : Effect} {pc : Pc} (h : Asking s t (.perform e) pc) (own : Pc) :
    s.safePoint t.key own = (s.liveFull t.key).perform t.key e := by
  obtain ⟨f, found, issuing, kill, pending, flags, request, -⟩ := h.fibre
  unfold State.safePoint
  rw [found]
  simp [issuing, kill, pending, flags, request]

/-- At the safe point a fibre resumes the continuation that it has asked for (R84, R223). -/
theorem Asking.resumes {k v : DWord} {wide : Bool} {pc : Pc} (h : Asking s t (.resume k v wide) pc) (own : Pc) :
    s.safePoint t.key own = s.resume t.key k v wide own pc := by
  obtain ⟨f, found, issuing, kill, pending, flags, request, at_⟩ := h.fibre
  unfold State.safePoint
  rw [found]
  simp [issuing, kill, pending, flags, request, at_]

theorem rising.modify {α : Type} {l : Tbl α} (h : rising l) (k : Nat) (g : α → α) : rising (l.modify k g) := by
  unfold Tbl.modify
  split
  · exact h.put _ _
  · exact h

theorem seated_of_live {f : Fibre} (h : Ready s i t) (l : Live u t f) (order : rising u.gangs) : Seated u t := by
  obtain ⟨g, found, members, core⟩ := l.gang
  exact ⟨order, ⟨g, found, members.trans h.alone, core.trans (coreOf_key h).symm⟩, indexOf_key h⟩

/-- Around the safe point that ends a run, at which the fibre leaves its gang, all is bookkeeping (R38 to R43). -/
theorem afterLanes_point {f : Fibre} (h : Ready s i t) (l : Live u t f) (order : rising u.gangs)
    (ends : endsRun i = true) (safe : endsSafe i = true) :
    ∃ v, Alike u v ∧ Live v t f ∧ Seated v t ∧ (Unseated (v.safePoint t.key (t.own s)) v.cur →
      Alike (v.safePoint t.key (t.own s)) (u.afterLanes i t.form t.gang [t.line s i] false)) := by
  unfold State.afterLanes
  dsimp only
  rw [ends, safe]
  generalize hgen : (fun g : Gang => _ : Gang → Gang) = g
  have hg : ∀ x, (g x).members = x.members ∧ (g x).core = x.core := by
    intro x
    rw [← hgen]
    exact ⟨rfl, rfl⟩
  clear hgen
  obtain ⟨l₀, cur₀, seen⟩ := popsSeen_live l t.gang.core [t.line s i]
  have order₀ : rising (u.popsSeen t.gang.core [t.line s i]).gangs :=
    (popsSeen_induct (P := fun a => Live a t f ∧ rising a.gangs) ⟨l, order⟩ (fun a c q =>
      ⟨live_recheck q.1 c, by rw [(recheck_live c t.key f q.1.fibre q.1.issuing).2.1]; exact q.2⟩) _ _).2
  rw [← cur₀]
  generalize u.popsSeen t.gang.core [t.line s i] = w at l₀ seen order₀ ⊢
  let x := (w.modGang w.cur g).chargeEnd t.gang (t.gang.runLen + 1)
  have charged : x.fibres = w.fibres ∧ x.gangs = (w.modGang w.cur g).gangs ∧ x.cur = w.cur := by
    unfold x State.chargeEnd
    split <;> exact ⟨rfl, rfl, rfl⟩
  have live : Live x t f := by
    obtain ⟨fibres, gangs, cur⟩ := charged
    exact (live_modGang l₀ w.cur g hg).of_parts (by rw [fibres]; rfl) gangs cur
  have seat : Seated x t := seated_of_live h live (by rw [charged.2.1]; exact order₀.modify _ _)
  refine ⟨x, Alike.trans seen (Alike.trans (b := w.modGang w.cur g) ⟨same_modGang _ _, SameQ.of_cores rfl rfl⟩
    ⟨same_chargeEnd _ _, sameQ_chargeEnd _ _⟩), live, seat, fun gone => ?_⟩
  have point : t.gang.members.foldl (fun s' m => s'.safePoint (fibreKey t.gang.core m.2)
      (ownOf [t.line s i] (fibreKey t.gang.core m.2))) x = x.safePoint t.key (t.own s) := by
    rw [h.alone]
    show x.safePoint t.key (ownOf [t.line s i] t.key) = _
    unfold ownOf
    rw [List.find?_cons_of_pos (by exact decide_eq_true rfl)]
    rfl
  have left : (x.safePoint t.key (t.own s)).gangs.find w.cur = none := by
    rw [← charged.2.2]
    exact find_none_iff.mpr gone
  simp only [Bool.or_true, Bool.true_or, Bool.not_true, Bool.false_eq_true, if_false, if_true]
  rw [point, left]
  exact ⟨(same_countSpin _ _).1, (same_countSpin _ _).2⟩

/-- Two changes of a fibre are one. -/
theorem modFibre_modFibre (s : State) (k : Nat) (g h : Fibre → Fibre) :
    (s.modFibre k g).modFibre k h = s.modFibre k fun f => h (g f) := by
  unfold State.modFibre
  cases found : s.fibres.find k with
  | none => simp [found]
  | some f => simp [State.setFibre, Tbl.put_put]

/-- An instruction that leaves a request for the safe point which ends its run, and goes on to its next PC: there the fibre
leaves its gang (R41, R42, R220 to R223). -/
theorem leaves_asking {r : Request} {g : State → State} (h : Ready s i t) (n : Sound s t) (pending : t.fibre.pending = [])
    (flags : t.fibre.trapping = false) (ends : endsRun i = true) (safe : endsSafe i = true)
    (act : ∀ u, Asking u t r (t.next s i) → u.safePoint t.key (t.own s) = g u ∧ Unseated (g u) u.cur)
    (he : exec i s = .next (t.after s i (.next ((t.read s i).modFibre t.key fun x => { x with request := some r })))) :
    ∃ s₂, Same ((t.read s i).modFibre t.key fun x => { x with pc := t.next s i, request := some r }) s₂ ∧
      SameQ (t.read s i) s₂ ∧ Leaves s i (g s₂) := by
  have live : Live (t.read s i) t t.fibre := read_live h
  let asked := (t.read s i).modFibre t.key fun x => { x with pc := t.next s i, request := some r }
  have asks : Live asked t { t.fibre with pc := t.next s i, request := some r } := by
    refine ⟨?_, h.issuing, ?_⟩
    · unfold asked
      rw [State.find_modFibre, if_pos rfl, live.fibre]
      rfl
    · unfold asked
      rw [State.modFibre_gangs, State.modFibre_cur]
      exact live.gang
  have order : rising asked.gangs := by
    unfold asked
    rw [State.modFibre_gangs, (read_gangs s i t).1]
    exact n.gangs
  obtain ⟨v, same, still, seated, point⟩ := afterLanes_point (s := s) h asks order ends safe
  obtain ⟨acts, gone⟩ := act v ⟨seated, _, still.fibre, h.issuing, n.kill, pending, flags, rfl, rfl⟩
  rw [acts] at point
  obtain ⟨done, doneQ⟩ := point gone
  refine ⟨v, same.1, (sameQ_modFibre _ _).trans same.2, _, he.trans (congrArg _ ?_), done, doneQ⟩
  show State.afterLanes (((t.read s i).modFibre t.key _).modFibre t.key _) i t.form t.gang [t.line s i] false = _
  rw [modFibre_modFibre]
  rfl

theorem Seated.liveFull (h : Seated s t) : Seated (s.liveFull t.key) t :=
  h.of_gangs (liveFull_keeps s t.key).1 (liveFull_keeps s t.key).2

/-- PERFORM, PERFORMV and YIELD perform their effect at the safe point, with the window full (R42, R221). -/
theorem leaves_request {e : Effect} (h : Ready s i t) (n : Sound s t) (pending : t.fibre.pending = [])
    (flags : t.fibre.trapping = false) (ends : endsRun i = true) (safe : endsSafe i = true)
    (he : exec i s = .next (t.after s i
      (.next ((t.read s i).modFibre t.key fun x => { x with request := some (.perform e) })))) :
    ∃ s₂, Same ((t.read s i).modFibre t.key fun x => { x with pc := t.next s i, request := some (.perform e) }) s₂ ∧
      SameQ (t.read s i) s₂ ∧ Leaves s i ((s₂.liveFull t.key).perform t.key e) := by
  refine leaves_asking (g := fun u => (u.liveFull t.key).perform t.key e) h n pending flags ends safe (fun u a => ?_) he
  refine ⟨a.performs _, ?_⟩
  rw [← (liveFull_keeps u t.key).2]
  exact a.seated.liveFull.perform e

/-- Settles O31: the request is in the descriptor when the run ends, and the safe point there acts on it; whatever it does, the
fibre has left its gang. -/
theorem requestsAreMadeAtTheRunEnd : Obligations.RequestsAreMadeAtTheRunEnd := by
  intro w q f s t n pending flags
  have may : performable (fld w.imm 0 16) = true → (!performable (fld w.imm 0 16)) = false := fun tag => by rw [tag]; rfl
  refine ⟨fun h tag => ?_, fun h tag => ?_, fun h => ?_, fun h => ?_⟩
  · exact leaves_request h n pending flags rfl rfl (lanes_ready h (fun _ => !performable (fld w.imm 0 16)) (may tag) _)
  · exact leaves_request h n pending flags rfl rfl (lanes_ready h (fun _ => !performable (fld w.imm 0 16)) (may tag) _)
  · exact leaves_request h n pending flags rfl rfl (plain_ready h _)
  · refine leaves_asking h n pending flags rfl rfl (fun u a => ⟨a.resumes _, ?_⟩) (plain_ready h _)
    obtain ⟨g, found, -⟩ := a.fibre
    exact a.seated.resume found _ _ _ _ _

end Sys2Proof.Safety

/-! O32 fails: a table of descriptors that names the spawner's index twice. The heap has no room, and the segment that it evicts
for the new fibre's is the top of the second descriptor, whose fibre becomes COLD under the index of the spawner. Where the run
ends, the kill that was ordered for that fibre is carried out, which the statement has stay ordered. `Sound`, which rules such
a table out, is no premise of the statement. -/

namespace Sys2Proof.Safety

open Sys2Proof.Machine

/-- `spawn g8, g4, g6, g7` with the mark that ends its run and parts its gang. -/
def lastSpawn : FormW :=
  { hdr := { pred := 0, rb := 3 }, a := 8, b := 4, c := 6, d := 7, lb := false, lc := false, ld := false, tb := false,
    tc := false, td := false, mod := 0, sub := 0 }

/-- The fibre that spawns, whose segment serves a continuation's reply. -/
def spawner : Fibre := { fetchFibre with tenant := 1, launch := 1, crew := some 1, fbSeg := 0x604000, kh := some 0 }

/-- A second descriptor: a STALLED fibre with the same top segment, ordered to be killed. -/
def condemned : Fibre := { spawner with state := .stalled, kh := none, killOrdered := true }

def spawnerGang : Gang := { fetchGangOf with tenant := 1, launch := 1 }

def spawnerCrew : Crew :=
  { core := 0, launch := 1, band := 0, firstWid := 0, number := 0, started := some 0, sregs := [], broken := false, scrBase := 0,
    scrCount := 0, wgtBase := 0, wgtCount := 0, relaunches := 0, ended := false, killCause := none, noRelaunch := false,
    ecc := false, deadline := none, cycles := 0 }

/-- The state in which that fibre issues: g4 and g5 point to entry 0 of its code object, the backing area at 0x600000 holds 64 K
slots and 4 segments, and the heap of core 0 has no slot. -/
def spawning : State :=
  { State.reset with
    fibres := [(0, spawner), (0, condemned)]
    segs := [(segKey 1 0x604000,
      { Segment.empty with resident := some 0, words := [(5, { RegCell.zero with val := fetchHandle })] })]
    gangs := [(1, spawnerGang)]
    cur := 1
    code := [(codeKey 1 1, fetchEntry)]
    regs := { State.reset.regs with core := [(0x110, 0)], mgmt := [(0xD010, 0x600000), (0xD018, 0x100000004)] }
    sched := { State.reset.sched with crews := [(1, spawnerCrew)] } }

/-- The turn in which it executes. -/
def spawnerTurn : Turn :=
  { gang := spawnerGang, lane := 0, index := 0, fibre := spawner,
    form := formW lastSpawn (.dst false) (.src true) (.src false) (.src false) true }

theorem ready_spawning : Ready spawning (.spawn lastSpawn) spawnerTurn where
  gang := by decide +kernel
  alone := rfl
  index := by decide
  form := by decide +kernel
  legal := by decide +kernel
  fibre := by decide +kernel
  issuing := rfl
  owner := by decide +kernel
  inTime := Or.inl (by decide +kernel)
  guard := Or.inl rfl
  sources := by decide +kernel

theorem calm_spawning : Calm spawning spawnerTurn 0 where
  kill := rfl
  faults := rfl
  request := rfl
  flags := by decide +kernel
  landings := by decide +kernel
  window _ high low := absurd (Nat.lt_of_le_of_lt high low) (by decide)

theorem free_spawning : Free spawning (.spawn lastSpawn) spawnerTurn [8] where
  takes := by decide +kernel
  room := by decide +kernel
  frame := by decide +kernel
  crew := by decide +kernel

/-- The new fibre and the state that it is made in. -/
def spawned : Option (Nat × State) :=
  (spawnerTurn.read spawning (.spawn lastSpawn)).spawnFibre spawnerTurn.key spawner (spawnerTurn.x spawning (.spawn lastSpawn)).b
    (loWord (spawnerTurn.x spawning (.spawn lastSpawn)).c) (loWord (spawnerTurn.x spawning (.spawn lastSpawn)).d)

/-- Where the fibre of index 0 stands. -/
def offOf0 (s : State) : Option Word := ((s.fibres.find 0).map context).map fun f => f.pc.off

/-- The model's answer: index 0 names the descriptor that is left once the kill is carried out. -/
theorem exec_spawning : ∀ s', exec (.spawn lastSpawn) spawning = .next s' → offOf0 s' = some 0 := by
  have killed : (match exec (.spawn lastSpawn) spawning with
      | .next s' => decide (offOf0 s' = some 0) | _ => true) = true := by decide +kernel
  intro s' he
  rw [he] at killed
  exact of_decide_eq_true killed

/-- What the statement has the state be, from the new fibre's. -/
def claimedAfter (u : State) : State :=
  let sent := u.writeLong (spawnerTurn.x spawning (.spawn lastSpawn)) [(8, 1)]
  (sent.modFibre 0 fun f => { f with pc := spawnerTurn.next spawning (.spawn lastSpawn) }).flushLandings [0]

/-- The new fibre has index 1, and the fibre of index 0 is to go on. -/
theorem spawned_eq : ∃ u, spawned = some (1, u) ∧ offOf0 (claimedAfter u) = some 8 := by
  have claim : (match spawned with | some (1, u) => decide (offOf0 (claimedAfter u) = some 8) | _ => false) = true := by
    decide +kernel
  split at claim
  · next u made => exact ⟨u, made, of_decide_eq_true claim⟩
  · cases claim

/-- Refutes O32: the descriptor that stands under the spawner's index is killed at the end of its run, where the statement has it
go on to the next PC. -/
theorem not_fibresHandlersAndHandles : ¬ Obligations.FibresHandlersAndHandles := by
  unfold Obligations.FibresHandlersAndHandles
  intro h
  obtain ⟨spawn, -⟩ := h lastSpawn spawning spawnerTurn
  obtain ⟨made, -⟩ := spawn ⟨ready_spawning, Or.inr calm_spawning⟩ free_spawning (by decide)
    (by decide +kernel) (by decide +kernel)
  obtain ⟨u, room, off⟩ := spawned_eq
  obtain ⟨s', he, same, -⟩ := made 1 u room
  have stands := same.fibres 0
  have claimed : offOf0 s' = offOf0 (claimedAfter u) := congrArg (Option.map fun f : Fibre => f.pc.off) stands
  rw [exec_spawning s' he, off] at claimed
  exact absurd claimed (by decide)

end Sys2Proof.Safety

/-! O36 fails: a store to a line whose dirty bytes a release of the core has ordered, while another release of the core waits at
that line's home. The line is written back before it takes a later stamp, the home serves the release that waits there, and so
RSEQ has advanced when the store takes its stamp, while the statement has the stamp be the RSEQ of before. -/

namespace Sys2Proof.Safety

open Sys2Proof.Machine

/-- `st.32 g7, [g4 + 0]`. -/
def storeG7 : FormW :=
  { hdr := { pred := 0, rb := 0 }, a := 0, b := 4, c := 0, d := 7, lb := false, lc := false, ld := false, tb := false, tc := false,
    td := false, mod := 0, sub := 2 }

/-- The fibre that stores. -/
def storer : Fibre := { fetchFibre with tenant := 1, launch := 1, fbSeg := 0x604000 }

def storerGang : Gang := { fetchGangOf with tenant := 1, launch := 1 }

/-- The line at 0x5000 in the core's L1: a dirty byte of stamp 1. -/
def orderedLine : L1Line := { L1Line.none .shared with dirty := [(4, 7)], stamp := 1 }

/-- The tag of the core's release with sequence 1, at the home of the line at 0x9000. -/
def releaseTag : Tag := { agent := 0, inc := 0, seq := 1, dead := false }

/-- A release of another fibre of the core, which waits at the home of the line at 0x5000. -/
def waitingRelease : OrdOp :=
  { kind := .rel, stage := .watching, agent := 0, fibre := some 1, vf := 1, space := 0, addr := 0x5020, size := 4, scope := 2,
    value := 9, value2 := 0, targets := [], writes := [], lines := [], hostWrites := [], lost := false, result := 0, since := 0 }

/-- The state in which that fibre issues, RSEQ being 2: g4 is 0x5000, and the first GiB of GLOBAL is mapped to itself. -/
def storing : State :=
  { State.reset with
    fibres := [(0, storer)]
    segs := [(segKey 1 0x604000,
      { Segment.empty with resident := some 0, words := [(4, { RegCell.zero with val := 0x5000 })] })]
    gangs := [(1, storerGang)]
    cur := 1
    regs := { State.reset.regs with
      mgmt := [(0x8010, 0x40001), (0x9080, 0xFFC0000000000000), (0x9088, 0x000FFFFFFFFFF000)] }
    store := { State.reset.store with
      phys := ((State.reset.store.phys.writeBytes 0x40000 [7, 0x10, 4]).writeBytes 0x41000 [0x87]) }
    cores := [(0, { CoreUnit.reset with rseq := 2 })]
    coh := { State.reset.coh with
      ops := [(5, waitingRelease)]
      l1 := [(cacheKey 0 0x5000, orderedLine)]
      homes := [(0x9000, { HomeLine.reset with tagState := .tagged, tag := some releaseTag })] } }

/-- The turn in which it executes. -/
def storerTurn : Turn :=
  { gang := storerGang, lane := 0, index := 0, fibre := storer,
    form := formX storeG7 0 .none (.src true) (.src false) true }

theorem ready_storing : Ready storing (.stX storeG7 0) storerTurn where
  gang := by decide +kernel
  alone := rfl
  index := by decide
  form := by decide +kernel
  legal := by decide +kernel
  fibre := by decide +kernel
  issuing := rfl
  owner := by decide +kernel
  inTime := Or.inl (by decide +kernel)
  guard := Or.inl rfl
  sources := by decide +kernel

/-- The stamp of the line at 0x5000 in the core's L1. -/
def stampOf5000 (s : State) : Option (BitVec 16) := (s.l1 0 0x5000).map L1Line.stamp

/-- The model's answer: the line is stamped with the RSEQ that the release has advanced. -/
theorem exec_storing : ∀ s', exec (.stX storeG7 0) storing = .next s' → stampOf5000 s' = some 3 := by
  have stamped : (match exec (.stX storeG7 0) storing with
      | .next s' => decide (stampOf5000 s' = some 3) | _ => true) = true := by decide +kernel
  intro s' he
  rw [he] at stamped
  exact of_decide_eq_true stamped

/-- Refutes O36: the line takes stamp 3, where RSEQ was 2 before the store. -/
theorem not_storesIntoMemory : ¬ Obligations.StoresIntoMemory := by
  unfold Obligations.StoresIntoMemory
  intro h
  obtain ⟨plain, -⟩ := h storeG7 0 storing storerTurn (by decide +kernel)
  obtain ⟨-, -, stores⟩ := (plain (by decide +kernel)).2 ⟨ready_storing, Or.inl ⟨rfl, rfl, by decide⟩⟩ (by decide)
    (by decide +kernel) ⟨fun _ => rfl, fun _ => by decide +kernel⟩
  obtain ⟨u, ⟨s', he, -, queues⟩, -, -, -, within, -⟩ := stores (by decide +kernel) (by decide +kernel) (by decide +kernel)
    (by decide +kernel) (by decide +kernel) 0x5000 (by decide +kernel) (by decide +kernel) (by decide +kernel)
  obtain ⟨-, ⟨l, found, stamp, -⟩, -⟩ := within (by decide +kernel)
  have claimed : stampOf5000 s' = some 2 := by
    have same : s'.l1 0 0x5000 = some l := (congrArg (fun c : Tbl L1Line => c.find (cacheKey 0 0x5000)) queues.l1).trans found
    rw [stampOf5000, same, Option.map_some, stamp]
    decide +kernel
  rw [exec_storing s' he] at claimed
  exact absurd claimed (by decide)

end Sys2Proof.Safety

/-! ## Counted operations (R146, R147, R265 to R269, R326)

The instructions of the copy engine and of the network engines: what each has done before it hands its operation over leaves
the fibre standing, and the operation goes on the fibre's counter. -/

namespace Sys2Proof.Machine

@[simp] theorem State.flushLines_beyond (s : State) (core vf : Nat) (lines : List Nat) :
    (s.flushLines core vf lines).2.beyond = s.beyond := by
  unfold State.flushLines
  have step : ∀ (u : State) (line : Nat) (held : Bool),
      (if held then u.releaseRetained core vf line else u.writeBack core vf line).2.beyond = u.beyond := by
    intro u line held
    cases held
    · exact State.writeBack_beyond _ _ _ _
    · exact State.releaseRetained_beyond _ _ _ _
  exact foldl_beyond (fun u line => step u line _) _ _

end Sys2Proof.Machine

namespace Sys2Proof.Safety

open Sys2Proof.Machine

variable {s u v : State} {i : Instr} {t : Turn}

/-- A load of a lane reads the caches, the homes and free choices alone. -/
theorem read_loadSpace {key space a n : Nat} {f : Fibre} {r : State × List Byte} (h : s.loadSpace key f space a n = .ok r) :
    Read s r.1 := by
  unfold State.loadSpace at h
  dsimp only at h
  split at h
  · exact read_loadGlobal h
  · split at h <;> cases h
    exact Read.refl _
  · split at h <;> cases h
    exact Read.refl _
  · split at h
    · cases h
    · split at h <;> cases h
      rw [frameBytes_eq]
      exact read_words _ _
  · split at h
    · cases h
    · split at h <;> cases h
      exact Read.refl _
  · cases h

/-- The reading of an engine's block does so too (R267). -/
theorem read_block {x : LaneIn} {space a : Nat} {b : List Byte} (h : x.readBlock s space a = .ok (u, b)) : Read s u := by
  unfold LaneIn.readBlock at h
  split at h
  · cases h
  · split at h
    · cases h
    · split at h
      · cases h
      · next r loaded =>
        cases h
        split at loaded
        · cases range : s.engineRange (coreOf x.key) x.f.tenant 1 a 64 true with
          | some b => rw [range] at loaded; cases loaded
          | none => rw [range] at loaded; exact read_loadSpace loaded
        · exact read_loadSpace loaded

/-! ### The fibre stands as it did -/

/-- The fibre executes as it did, and finds no more at its safe point. -/
structure Stands (s u : State) (t : Turn) : Prop where
  live : Live u t t.fibre
  quiet : Calm s t 0 → Quiet u t t.fibre

theorem Stands.read (h : Ready s i t) : Stands s (t.read s i) t := ⟨read_live h, read_quiet⟩

theorem Stands.of_beyond (h : Stands s u t) (e : v.beyond = u.beyond) : Stands s v t :=
  ⟨live_of_beyond h.live e, fun c => quiet_of_beyond (h.quiet c) e⟩

theorem Stands.of_parts (h : Stands s u t) (fibres : v.fibres = u.fibres := by rfl) (gangs : v.gangs = u.gangs := by rfl)
    (cur : v.cur = u.cur := by rfl) (landings : v.landings = u.landings := by rfl) (segs : v.segs = u.segs := by rfl)
    (crews : v.sched.crews = u.sched.crews := by rfl) : Stands s v t :=
  ⟨h.live.of_parts (by rw [fibres]) gangs cur, fun c => (h.quiet c).congr landings rfl rfl rfl rfl fun n lo hi => by
    rw [cell_congr segs crews]
    exact (h.quiet c).window n lo hi⟩

theorem Stands.of_read (h : Stands s u t) (e : Read u v) : Stands s v t := by
  obtain ⟨_, _, _, rfl⟩ := e
  exact h.of_parts

/-! ### Handing over -/

/-- A fibre under whose counters an operation has been put. -/
def countOn (cls id : Nat) (f : Fibre) : Fibre :=
  { f with counted := f.counted ++ [{ cls := cls, op := id, num := f.issued.get cls 0, done := false, stopped := none }],
           issued := f.issued.put cls (f.issued.get cls 0 + 1) }

/-- An instruction whose lane has counted an operation for a standing fibre goes on. -/
theorem does_count (h : Goes s i t) (stands : Stands s u t) {w : State} {cls id : Nat}
    (fibres : w.fibres = (u.modFibre t.key (countOn cls id)).fibres) (gangs : w.gangs = u.gangs) (cur : w.cur = u.cur)
    (landings : w.landings = u.landings) (segs : w.segs = u.segs) (crews : w.sched.crews = u.sched.crews)
    (he : exec i s = .next (t.after s i (.next w))) : Does s i t w (t.next s i) := by
  have counted : Live (u.modFibre t.key (countOn cls id)) t (countOn cls id t.fibre) := stands.live.modFibre _ stands.live.issuing
  refine does_next h (counted.of_parts (by rw [fibres]) ?_ ?_) (fun c => ?_) he
  · rw [gangs, State.modFibre_gangs]
  · rw [cur, State.modFibre_cur]
  · refine (stands.quiet c).congr landings rfl rfl rfl rfl fun n lo hi => ?_
    rw [cell_congr segs crews]
    exact (stands.quiet c).window n lo hi

/-- What handing an operation over leaves alone. -/
theorem startEngine_keeps (s : State) (key vf cls : Nat) (pages : List (Nat × Nat)) (job : Job) (writes : List (Nat × Nat))
    (hosts : List Nat) :
    let r := s.startEngine key vf cls pages job writes hosts
    r.2.fibres = (s.modFibre key (countOn cls r.1)).fibres ∧ r.2.gangs = s.gangs ∧ r.2.cur = s.cur ∧
      r.2.landings = s.landings ∧ r.2.segs = s.segs ∧ r.2.sched.crews = s.sched.crews := by
  unfold State.startEngine State.modFibre
  dsimp only
  split
  · next found =>
    replace found : s.fibres.find key = some _ := found
    rw [found]
    exact ⟨rfl, rfl, rfl, rfl, rfl, rfl⟩
  · next absent =>
    replace absent : s.fibres.find key = none := absent
    rw [absent]
    exact ⟨rfl, rfl, rfl, rfl, rfl, rfl⟩

/-- An instruction that hands an operation over. -/
theorem does_start (h : Goes s i t) (stands : Stands s u t) {vf cls : Nat} {pages : List (Nat × Nat)} {job : Job}
    {writes : List (Nat × Nat)} {hosts : List Nat}
    (he : exec i s = .next (t.after s i (.next (u.startEngine t.key vf cls pages job writes hosts).2))) :
    Does s i t (u.startEngine t.key vf cls pages job writes hosts).2 (t.next s i) := by
  obtain ⟨fibres, gangs, cur, landings, segs, crews⟩ := startEngine_keeps u t.key vf cls pages job writes hosts
  exact does_count h stands fibres gangs cur landings segs crews he

/-- The same, with the granules that the operation touches. -/
theorem does_pinned (h : Goes s i t) (stands : Stands s u t) {vf cls : Nat} {pages : List (Nat × Nat)} {job : Job}
    {granules : List (Nat × Bool × Nat)}
    (he : exec i s = .next (t.after s i (.next
      ((u.startEngine t.key vf cls pages job [] []).2.pin (u.startEngine t.key vf cls pages job [] []).1 granules)))) :
    Does s i t ((u.startEngine t.key vf cls pages job [] []).2.pin (u.startEngine t.key vf cls pages job [] []).1 granules)
      (t.next s i) := by
  obtain ⟨fibres, gangs, cur, landings, segs, crews⟩ := startEngine_keeps u t.key vf cls pages job [] []
  exact does_count h stands fibres gangs cur landings segs crews he

/-- An instruction that posts to the network, once the lines of its source have begun to be written back (R326). -/
theorem does_post (h : Goes s i t) (stands : Stands s u t) {vf : Nat} {pages : List (Nat × Nat)} {job : NetJob} {lines : List Nat}
    (tenant : vf = t.fibre.tenant)
    (he : exec i s = .next (t.after s i ((t.x s i).startNet u lines pages job))) :
    Does s i t ((u.flushLines (coreOf t.key) vf lines).2.startEngine t.key vf 3 pages (.net job)
      (u.flushLines (coreOf t.key) vf lines).1 []).2 (t.next s i) := by
  subst tenant
  exact does_start h (stands.of_beyond (State.flushLines_beyond _ _ _ _)) he

theorem Stands.netJob (h : Stands s u t) (vf space request len : Nat) (q : NetRequest) (kslot : Option Nat) :
    Stands s (u.netJob vf space request len q kslot).2 t := h.of_parts

/-- Nothing keeps the lane from issuing (R146, R147). -/
theorem engineStop_none (pending : t.fibre.pending = []) {cls : Nat} (room : t.fibre.counter cls < 255)
    (free : s.atomUnderWay t.key = none) (release : Bool) : (t.x s i).engineStop (t.read s i) cls release = none := by
  have atoms : (t.x s i).ownAtoms (t.read s i) = none := by
    unfold LaneIn.ownAtoms
    rw [x_key, atomUnderWay_read, free]
    rfl
  unfold LaneIn.engineStop
  rw [x_f, pending, if_neg (by simp), if_neg (by omega), atoms, ite_self]

/-! ### Copies, gathers and scatters (R266 to R269) -/

/-- A copy whose ranges translate. -/
theorem issueCopy_ok {x : LaneIn} {j : CopyJob} {pages : List (Nat × Nat)}
    (ok : x.engineRanges u (j.ranges ++ (j.word.map fun w => (0, w.1, 8, true)).toList) = .ok pages) :
    let r := u.startEngine x.key x.f.tenant 0 pages (.copy j) [] []
    x.issueCopy u j = .next (r.2.pin r.1 (j.ranges.flatMap fun p => u.rangeGranules (coreOf x.key) p.1 p.2.1 p.2.2.1)) := by
  unfold LaneIn.issueCopy
  rcases word : j.word with _ | ⟨a, v, c⟩
  all_goals
    simp only [word, Option.map, Option.toList] at ok ⊢
    rw [ok]

/-- CPY2D and CPYW issue the copy of their block (R267, R268). -/
theorem copyBlock_ok {x : LaneIn} {space a : Nat} {scope : Option Nat} {b : List Byte} (goes : x.engineStop s 0 true = none)
    (block : x.readBlock s space a = .ok (u, b)) (legal : (CopyJob.ofBytes b scope).illegal = false) :
    let j := CopyJob.ofBytes b scope
    let narrow := fun (sp v : Nat) => if sp = 0 then v else v % 2 ^ 32
    x.copyBlock s space a scope = x.issueCopy u { j with dst := narrow j.dspace j.dst, src := narrow j.sspace j.src } := by
  unfold LaneIn.copyBlock
  simp only [goes, block, legal, Bool.false_eq_true, if_false]

/-- A gather or scatter whose block is legal and whose ranges translate (R269). -/
theorem issueGs_ok {x : LaneIn} {scatter : Bool} {space a : Nat} {b : List Byte} {pages : List (Nat × Nat)}
    (goes : x.engineStop s 1 true = none) (block : x.readBlock s space a = .ok (u, b))
    (legal : (GsJob.ofBytes scatter b).illegal = false) :
    let j := GsJob.ofBytes scatter b
    let narrow := fun (sp v : Nat) => if sp = 0 then v else v % 2 ^ 32
    let j' := { j with dst := narrow j.dspace j.dst, src := narrow j.sspace j.src, idx := narrow j.ispace j.idx,
                       mask := narrow j.ispace j.mask }
    x.engineRanges u j'.ranges = .ok pages →
    let r := u.startEngine x.key x.f.tenant 1 pages (.gs j') [] []
    x.issueGs s scatter space a = .next (r.2.pin r.1
      ((j'.ranges.flatMap fun p => u.rangeGranules (coreOf x.key) p.1 p.2.1 p.2.2.1) ++
        u.indexedGranules (coreOf x.key) x.f.tenant (if scatter then j'.dspace else j'.sspace))) := by
  intro j narrow j' ok
  unfold LaneIn.issueGs
  simp only [goes, block, legal, Bool.false_eq_true, if_false]
  rw [ok]

/-! ### Network operations (R326, R341) -/

/-- A continuation that may be sent goes out of use, and its operation is posted (R85, R224, R341). -/
theorem sendK_ok {x : LaneIn} {space request : Nat} {q : NetRequest} {pages : List (Nat × Nat)} {lines : List Nat} {slot : Nat}
    {k : KObject} (found : u.checkHandle x.f.tenant (BitVec.ofNat 64 q.laddr) = .ok (slot, k)) :
    let y : State := { u with kobjs := u.kobjs.put (kKey x.f.tenant slot) { k with state := 3 } }
    let r := y.netJob x.f.tenant space request (256 + 1024 * (y.kSegs x.f.tenant k).length + 32 * k.heldStores.length) q (some slot)
    x.sendK u space request q pages lines = x.startNet r.2 lines pages r.1 := by
  unfold LaneIn.sendK
  simp only [found]

/-- A work request other than a KSEND is posted once its ranges translate. -/
theorem post_ok {x : LaneIn} {space a : Nat} {q : NetRequest} {pages : List (Nat × Nat)} {lines : List Nat}
    (legal : q.illegal = false) (plain : q.op ≠ 2) (ok : x.engineRanges u q.ranges = .ok pages) :
    let r := u.netJob x.f.tenant space a q.len q none
    x.post u space a q lines = x.startNet r.2 lines pages r.1 := by
  unfold LaneIn.post
  simp only [legal, plain, ok, Bool.false_eq_true, if_false, decide_false]

/-- A work request that sends a continuation is posted by it, its handle checked first. -/
theorem post_sends {x : LaneIn} {space a : Nat} {q : NetRequest} {pages : List (Nat × Nat)} {lines : List Nat} {slot : Nat}
    {k : KObject} (legal : q.illegal = false) (sends : q.op = 2) (ok : x.engineRanges u q.ranges = .ok pages)
    (found : u.checkHandle x.f.tenant (BitVec.ofNat 64 q.laddr) = .ok (slot, k)) :
    x.post u space a q lines = x.sendK u space a q pages lines := by
  unfold LaneIn.post
  simp only [legal, sends, found, ok, Bool.false_eq_true, if_false, if_true]

theorem Same.checkHandle (h : Same s u) (vf : Nat) (handle : DWord) : u.checkHandle vf handle = s.checkHandle vf handle := by
  unfold State.checkHandle State.kSlotAt State.backing
  simp only [h.mgmtF_at, h.kobjs]

/-- The posting of an operation, by the instruction whose lane comes to it. -/
theorem does_netJob {f : Fibre} (h : Goes s i t) (stands : Stands s u t) (fibre : t.fibre = f) {space request len : Nat}
    {q : NetRequest} {kslot : Option Nat} {pages : List (Nat × Nat)} {lines : List Nat} {job : NetJob × State}
    (made : job = u.netJob f.tenant space request len q kslot)
    (he : exec i s = .next (t.after s i ((t.x s i).startNet job.2 lines pages job.1))) :
    Does s i t ((job.2.flushLines (coreOf t.key) f.tenant lines).2.startEngine t.key f.tenant 3 pages (.net job.1)
      (job.2.flushLines (coreOf t.key) f.tenant lines).1 []).2 (t.next s i) := by
  subst fibre made
  exact does_post h (stands.netJob ..) rfl he

/-- NPOST, once its own lines have begun to be written back and its work request has been read (R326). -/
theorem exec_npost {f : FormW} {b : List Byte} {own : List Nat} (h : Ready s (.npost f) t)
    (goes : (t.x s (.npost f)).engineStop (t.read s (.npost f)) 3 true = none) (low : spaceOf f ≤ 1)
    (lines : (if spaceOf f = 0 then (t.read s (.npost f)).rangeLines t.fibre.tenant
      (engineAddr (spaceOf f) (t.x s (.npost f)).b) 64 else []) = own)
    (read : (t.x s (.npost f)).readBlock ((t.read s (.npost f)).flushLines (coreOf t.key) t.fibre.tenant own).2 (spaceOf f)
      (engineAddr (spaceOf f) (t.x s (.npost f)).b) = .ok (u, b)) :
    exec (.npost f) s = .next (t.after s (.npost f) ((t.x s (.npost f)).post
      (u.flushLines (coreOf t.key) t.fibre.tenant (own ++ u.sourceLines t.fibre.tenant (NetRequest.ofBytes b))).2 (spaceOf f)
      (engineAddr (spaceOf f) (t.x s (.npost f)).b) (NetRequest.ofBytes b)
      (own ++ u.sourceLines t.fibre.tenant (NetRequest.ofBytes b)))) := by
  refine (plain_ready h _).trans ?_
  simp only [goes, x_key, x_f, lines, read]
  rw [if_neg (by omega)]

/-- KSEND with no reserved bit set (R224). -/
theorem exec_ksend {f : FormW} (h : Ready s (.ksend f) t)
    (goes : (t.x s (.ksend f)).engineStop (t.read s (.ksend f)) 3 true = none)
    (low : bits (loWord (t.x s (.ksend f)).c).toNat 31 27 = 0) (high : bits (loWord (t.x s (.ksend f)).d).toNat 31 7 = 0) :
    exec (.ksend f) s = .next (t.after s (.ksend f) ((t.x s (.ksend f)).sendK (t.read s (.ksend f)) 2
      (t.x s (.ksend f)).b.toNat (ksendRequest (t.x s (.ksend f)).b (loWord (t.x s (.ksend f)).c).toNat
        (loWord (t.x s (.ksend f)).d).toNat) [] [])) := by
  refine (plain_ready h _).trans ?_
  simp only [goes]
  rw [if_neg (by simp only [low, high, ne_eq, not_true_eq_false, or_self, not_false_eq_true])]

/-- KSEND of a continuation that may be sent (R85, R224, R341). -/
theorem ksend_posts {f : FormW} (h : Goes s (.ksend f) t) {x : LaneIn} (operands : t.x s (.ksend f) = x)
    (goes : x.engineStop (t.read s (.ksend f)) 3 true = none) (low : bits (loWord x.c).toNat 31 27 = 0)
    (high : bits (loWord x.d).toNat 31 7 = 0) {slot : Nat} {k : KObject}
    (state : u = { t.read s (.ksend f) with
      kobjs := (t.read s (.ksend f)).kobjs.put (kKey t.fibre.tenant slot) { k with state := 3 } })
    (found : (t.read s (.ksend f)).checkHandle t.fibre.tenant x.b = .ok (slot, k)) {r : NetJob × State}
    (made : r = u.netJob t.fibre.tenant 2 x.b.toNat (256 + 1024 * (u.kSegs t.fibre.tenant k).length + 32 * k.heldStores.length)
      (ksendRequest x.b (loWord x.c).toNat (loWord x.d).toNat) (some slot)) :
    Does s (.ksend f) t ((r.2.flushLines (coreOf t.key) t.fibre.tenant []).2.startEngine t.key t.fibre.tenant 3 [] (.net r.1)
      (r.2.flushLines (coreOf t.key) t.fibre.tenant []).1 []).2 (t.next s (.ksend f)) := by
  have handle : BitVec.ofNat 64 (ksendRequest x.b (loWord x.c).toNat (loWord x.d).toNat).laddr = x.b :=
    (BitVec.ofNat_toNat _ _).trans (BitVec.setWidth_eq _)
  have meaning := exec_ksend h.ready (by rw [operands]; exact goes) (by rw [operands]; exact low) (by rw [operands]; exact high)
  rw [operands] at meaning
  generalize ksendRequest x.b (loWord x.c).toNat (loWord x.d).toNat = q at handle made meaning
  have tenant : x.f = t.fibre := by rw [← operands, x_f]
  rw [sendK_ok (by rw [handle, tenant]; exact found), tenant, ← state, ← made, ← operands] at meaning
  rw [state] at made
  exact does_netJob h (Stands.read h.ready).of_parts rfl made meaning

/-- Settles O41: each instruction does what its block or its operands say, up to the operation that it hands over, and what it
has done before then leaves the fibre standing. -/
theorem engineInstructionsIssue : Obligations.EngineInstructionsIssue := by
  intro f s t pending room free vf core space at_ narrow touched starts posts copies block rect indexed
  have goes : ∀ i cls, (t.x s i).engineStop (t.read s i) cls true = none := fun i cls =>
    engineStop_none pending (room cls) free true
  have copy : ∀ {i u j}, Goes s i t → Stands s u t → exec i s = .next (t.after s i ((t.x s i).issueCopy u j)) →
      copies i u j := by
    intro i u j h stands he pages word ok
    exact does_pinned h stands (he.trans (congrArg (fun r => Host.Outcome.next (t.after s i r)) (issueCopy_ok ok)))
  have rects : ∀ i scope, (∀ s, exec i s = s.plain i fun x s => x.copyBlock s space (at_ space x.b) scope) →
      rect i scope := by
    intro i scope meaning h u b read j legal
    refine copy h ((Stands.read h.ready).of_read (read_block read)) ?_
    rw [meaning, plain_ready h.ready, copyBlock_ok (goes i 0) read legal]
  have gathers : ∀ i scatter, (∀ s, exec i s = s.plain i fun x s => x.issueGs s scatter space (at_ space x.b)) →
      indexed i scatter := by
    intro i scatter meaning h u b read pages j j' legal ok
    refine does_pinned h ((Stands.read h.ready).of_read (read_block read)) ?_
    rw [meaning, plain_ready h.ready, issueGs_ok (goes i 1) read legal ok]
    rfl
  refine ⟨?_, rects _ _ fun _ => rfl, rects _ _ fun _ => rfl, gathers _ _ fun _ => rfl, gathers _ _ fun _ => rfl, ?_, ?_⟩
  · intro i x h
    refine copy h (Stands.read h.ready) ((plain_ready h.ready _).trans ?_)
    simp only [goes]
    rfl
  · intro i x a own h low u b read pages q lines v legal ok
    have stands : Stands s v t :=
      (((Stands.read h.ready).of_beyond (State.flushLines_beyond _ _ _ _)).of_read (read_block read)).of_beyond
        (State.flushLines_beyond _ _ _ _)
    have meaning := exec_npost h.ready (goes i 3) low rfl read
    refine ⟨fun plain => ?_, fun sends slot k found => ?_⟩
    · exact does_netJob h stands rfl rfl
        (meaning.trans (congrArg (fun r => Host.Outcome.next (t.after s i r)) (post_ok legal plain ok)))
    · exact does_netJob h stands.of_parts rfl rfl (meaning.trans (congrArg (fun r => Host.Outcome.next (t.after s i r))
        ((post_sends legal sends ok found).trans (sendK_ok found))))
  · intro i x c d h reserved reserved' slot k found u
    refine ksend_posts h rfl (goes i 3) reserved reserved' (slot := slot) (k := k) ?_ ?_ rfl
    · exact congrArg (fun l : Tbl KObject => { t.read s i with kobjs := l.put (kKey vf slot) { k with state := 3 } })
        (same_read s i t).kobjs.symm
    · exact (Same.checkHandle (same_read s i t) _ _).trans found

end Sys2Proof.Safety

/-! O51 fails: a table of segments that is not in the order of its keys. The installer's segment is touched before it
is split, and is put then before the first entry of a greater key, while its old entry stands further on: counted twice among the
segments of the heap, it leaves no slot for the new one, and the fibre stays PERFORMING. That the table rises is no
premise of the statement. -/

namespace Sys2Proof.Safety

open Sys2Proof.Machine

/-- The effect of a PERFORM of tag 0x50. -/
def askedEffect : Effect := { tag := 0x50, payload := 0, addr := 0, info := 0, pc := fetchPc, result := 0xFF, wide := false }

/-- The address of the handler record, at word 8 of the segment at 0x604000. -/
def recordAddress : Nat := 0x604000 + 32 + 4 * 8

/-- The fibre that performs it, at word 16 of the segment that holds the record. -/
def performer : Fibre :=
  { fetchFibre with tenant := 1, launch := 1, state := .performing, effect := some askedEffect, fbSeg := 0x604000, fbWord := 16,
                    hchain := recordAddress }

/-- A frame word that holds a value. -/
def wordOf (v : Word) : RegCell := { RegCell.zero with val := v }

/-- The segment of the record: its HANDLER is entry 0, its tag 0x50, its frame the 16 words from word 0. -/
def recordSegment : Segment :=
  { Segment.empty with
    resident := some 0
    words := [(11, wordOf fetchHandle), (12, wordOf 0x00500050), (13, wordOf 0x00100000)] }

/-- A heap of 64 slots with 63 segments, of which 62 are of clerks; they stand in the table before the fibre's, whose key is
lower. -/
def unordered : Tbl Segment :=
  (List.range 62).map (fun n => (clerkSeg 0 + 1024 * n, { Segment.empty with resident := some 0 })) ++
    [(segKey 1 0x604000, recordSegment)]

/-- The state in which the fibre's effect is taken, with entry 0 of its code object, and a backing area at 0x600000 of 64 K slots
and 4 segments. -/
def performing : State :=
  { State.reset with
    fibres := [(0, performer)]
    segs := unordered
    code := [(codeKey 1 1, fetchEntry)]
    regs := { State.reset.regs with core := [(0x110, 1)], mgmt := [(0xD010, 0x600000), (0xD018, 0x100000004)] } }
/-- The record that the search finds. -/
def foundRecord : HandlerRecord :=
  { prev := 0, handler := 0x0000100100000000, tagLo := 0x50, tagHi := 0x50, fbw := 0, gslide := 16 }

/-- The state of the fibre of index 0. -/
def stateOf0 (s : State) : Option FibreState := (s.fibres.find 0).map Fibre.state

/-- The model's answer: the fibre stays PERFORMING, for want of room. -/
theorem exec_performing : ∀ t, exec (.performEffect 0 0) performing = .next t → stateOf0 t = some .performing := by
  have waits : (match exec (.performEffect 0 0) performing with
      | .next t => decide (stateOf0 t = some .performing) | _ => true) = true := by decide +kernel
  intro t he
  rw [he] at waits
  exact of_decide_eq_true waits

/-- Refutes O51: the split waits for room in a heap of 64 slots that held 63 segments, and no handler is entered. -/
theorem not_effectsAreTaken : ¬ Obligations.EffectsAreTaken := by
  unfold Obligations.EffectsAreTaken
  intro h
  obtain ⟨-, -, -, fibre⟩ := h performing 0 0 performer askedEffect (by decide +kernel) rfl rfl (by decide)
  obtain ⟨-, -, splits, -⟩ := fibre (by decide)
  obtain ⟨t, g, k, he, -, found, stalled, -⟩ := splits recordAddress foundRecord 0x604400 0 (by decide +kernel)
    (by decide +kernel) rfl
    (by decide +kernel) (by decide +kernel) (by decide +kernel) (by decide +kernel) (by decide +kernel) (by decide +kernel)
    (by decide +kernel) (by decide +kernel) (by decide +kernel) rfl rfl
  have claimed : stateOf0 t = some .stalled := by
    rw [← stalled]
    exact congrArg (Option.map Fibre.state) found
  rw [exec_performing t he] at claimed
  exact absurd claimed (by decide)

end Sys2Proof.Safety

/-! ## Settling O11 -/

namespace Sys2Proof

open Machine Safety

/-- Settles O11: the meaning of each form is one rounding of the exact operation on its operands, so that `gives_fp` says
what it gives. -/
theorem floatArithmeticResults : Obligations.FloatArithmeticResults := by
  intro q f lit fmt mode down l v rnd
  refine ⟨⟨?_, ?_, ?_⟩, ⟨?_, ?_, ?_⟩, ⟨?_, ?_, ?_⟩, ⟨?_, ?_, ?_⟩, ⟨?_, ?_⟩, ?_, ?_⟩
  all_goals exact gives_fp fun _ => rfl

end Sys2Proof

/-! ## Rounding (R105, R107) -/

namespace Sys2Proof.Machine

/-- A power of two with a natural exponent closes the gap between two exponents. -/
theorem two_pow_toNat_sub {b e : Int} (h : b ≤ e) : (2 : Rat) ^ (e - b).toNat * 2 ^ b = 2 ^ e := by
  rw [← zpow_natCast, Int.toNat_of_nonneg (by omega), ← zpow_add₀ two_ne_zero, sub_add_cancel]

/-- What is cut off a magnitude is less than a quantum. -/
theorem cutAt_rest_lt (mant : Nat) (exp q : Int) : (cutAt mant exp q).2.1 < 2 ^ (cutAt mant exp q).2.2 := by
  unfold cutAt
  split
  · exact Nat.one_pos
  · exact Nat.mod_lt _ (by positivity)

/-- A magnitude is its whole quanta and the rest. -/
theorem cutAt_value (mant : Nat) (exp q : Int) :
    (mant : Rat) * 2 ^ exp =
      ((cutAt mant exp q).1 + ((cutAt mant exp q).2.1 : Rat) / 2 ^ (cutAt mant exp q).2.2) * 2 ^ q := by
  unfold cutAt
  split
  · next h =>
    rw [← two_pow_toNat_sub h]
    push_cast
    ring
  · next h =>
    have parts : (mant : Rat) =
        2 ^ (q - exp).toNat * (mant / 2 ^ (q - exp).toNat : Nat) + (mant % 2 ^ (q - exp).toNat : Nat) := by
      exact_mod_cast (Nat.div_add_mod mant _).symm
    rw [← two_pow_toNat_sub (le_of_not_ge h), parts]
    field_simp

section

variable {rest sh : Nat}

/-- The rest as a part of a quantum lies above the half where twice the rest exceeds a quantum. -/
theorem half_lt_part : 1 / 2 < (rest : Rat) / 2 ^ sh ↔ 2 ^ sh < 2 * rest := by
  rw [div_lt_div_iff₀ two_pos (by positivity), one_mul, mul_comm]
  exact_mod_cast Iff.rfl

theorem part_eq_half : (rest : Rat) / 2 ^ sh = 1 / 2 ↔ 2 ^ sh = 2 * rest := by
  rw [div_eq_div_iff (by positivity) two_ne_zero, one_mul, mul_comm, eq_comm]
  exact_mod_cast Iff.rfl

/-- To nearest, ties to even (R105). -/
theorem roundUp_nearest (u : Nat) (neg : Bool) (k : Nat) (h : rest ≠ 0) :
    roundUp 0 u neg k rest sh false = true ↔
      1 / 2 < (rest : Rat) / 2 ^ sh ∨ (rest : Rat) / 2 ^ sh = 1 / 2 ∧ k % 2 = 1 := by
  rw [half_lt_part, part_eq_half]
  simp [roundUp, h]

/-- The draw of a positive number against the part above its lower neighbour (R105). -/
theorem roundUp_stochastic_pos (u k : Nat) (h : rest ≠ 0) :
    roundUp 4 u false k rest sh false = true ↔ (u : Int) < ((rest : Rat) / 2 ^ sh * 2 ^ 32).floor := by
  have quanta : (u + 1) * 2 ^ sh ≤ rest * 2 ^ 32 ↔ ((u : Int) + 1 : Int) ≤ (rest : Rat) / 2 ^ sh * 2 ^ 32 := by
    rw [div_mul_eq_mul_div, le_div_iff₀ (by positivity)]
    exact_mod_cast Iff.rfl
  rw [← Int.add_one_le_iff, Rat.le_floor_iff, ← quanta, ← Nat.le_div_iff_mul_le (by positivity)]
  simp [roundUp, h]

/-- A quotient rounded up, against a bound. -/
theorem ceil_le_iff (a : Nat) {b : Nat} (hb : 0 < b) (n : Nat) :
    (if a % b ≠ 0 then a / b + 1 else a / b) ≤ n ↔ a ≤ n * b := by
  split
  · next left =>
    have between : a ≠ n * b := fun e => left (by rw [e, Nat.mul_mod_left])
    rw [Nat.succ_le_iff, Nat.div_lt_iff_lt_mul hb, le_iff_lt_or_eq, or_iff_left between]
  · next even =>
    obtain ⟨c, rfl⟩ := Nat.dvd_of_mod_eq_zero (not_not.mp even)
    rw [Nat.mul_div_cancel_left c hb, mul_comm b c, Nat.mul_le_mul_right_iff hb]

/-- The draw of a negative number, whose lower neighbour is the one of greater magnitude (R105). -/
theorem roundUp_stochastic_neg {u : Nat} (k : Nat) (h : rest ≠ 0) (hu : u < 2 ^ 32) :
    roundUp 4 u true k rest sh false = true ↔ ¬(u : Int) < ((1 - (rest : Rat) / 2 ^ sh) * 2 ^ 32).floor := by
  obtain ⟨n, room⟩ : ∃ n, n + (u + 1) = 2 ^ 32 := ⟨2 ^ 32 - (u + 1), by omega⟩
  have quanta : rest * 2 ^ 32 ≤ n * 2 ^ sh ↔ ((u : Int) + 1 : Int) ≤ (1 - (rest : Rat) / 2 ^ sh) * 2 ^ 32 := by
    have whole : ((2 : Rat) ^ 32) = n + (u + 1) := by exact_mod_cast room.symm
    rw [sub_mul, le_sub_comm, div_mul_eq_mul_div, div_le_iff₀ (by positivity), one_mul]
    nth_rw 2 [whole]
    rw [Int.cast_add, Int.cast_natCast, Int.cast_one, add_sub_cancel_right]
    exact_mod_cast Iff.rfl
  rw [← Int.add_one_le_iff, Rat.le_floor_iff, ← quanta, ← ceil_le_iff _ (by positivity)]
  simp only [roundUp, h]
  simp
  omega

end

/-- A magnitude that is whole stays as it is. -/
theorem roundUp_whole (mode u : Nat) (neg : Bool) (k sh : Nat) : roundUp mode u neg k 0 sh false = false := by simp [roundUp]

/-- A number between two neighbours goes to the one that its mode names (R105). -/
theorem roundUp_iff {mode u : Nat} (neg : Bool) (k : Nat) {rest sh : Nat} (hm : mode < 5) (hu : u < 2 ^ 32) (h : rest ≠ 0) :
    let part : Rat := (rest : Rat) / 2 ^ sh
    roundUp mode u neg k rest sh false = true ↔
      (mode = 0 ∧ (1 / 2 < part ∨ part = 1 / 2 ∧ k % 2 = 1)) ∨ (mode = 2 ∧ neg = false) ∨ (mode = 3 ∧ neg = true) ∨
      (mode = 4 ∧ if neg then ¬(u : Int) < ((1 - part) * 2 ^ 32).floor else (u : Int) < (part * 2 ^ 32).floor) := by
  intro part
  match mode, hm with
  | 0, _ => simpa using roundUp_nearest u neg k h
  | 1, _ => simp [roundUp]
  | 2, _ => simp [roundUp, h]
  | 3, _ => simp [roundUp, h]
  | 4, _ =>
    cases neg
    · simpa using roundUp_stochastic_pos u k h
    · simpa using roundUp_stochastic_neg k h hu

/-! ### Values that a format has -/

/-- A magnitude in whole quanta is cut into them. -/
theorem cutAt_self (mant : Nat) (q : Int) : cutAt mant q q = (mant, 0, 0) := by simp [cutAt]

/-- A mantissa of a format stands in its own quantum (R94): where it has its leading bit that is `m` below it, and else the
exponent is the lowest. -/
theorem quantum_eq {m mant : Nat} {exp emin : Int} (nonzero : mant ≠ 0) (top : mant < 2 ^ (m + 1)) (low : emin - m ≤ exp)
    (normal : 2 ^ m ≤ mant ∨ exp = emin - m) : max (leadExp mant exp) emin - m = exp := by
  have below : Nat.log2 mant < m + 1 := (Nat.log2_lt nonzero).mpr top
  unfold leadExp
  rcases normal with full | rfl
  · have lead : m ≤ Nat.log2 mant := (Nat.le_log2 nonzero).mpr full
    omega
  · omega

/-- The exponent of the last place of a format’s subnormals (R94). -/
def FloatFmt.lowest (f : FloatFmt) : Int := 1 - (f.bias : Int) - f.m

/-- A value that a format has is rounded to its code, whatever the mode, and raises nothing (R107). -/
theorem roundFloat_representable (fmt mode u : Nat) (neg : Bool) {mant : Nat} {exp : Int} (hfmt : fmt ≠ 8)
    (top : mant < 2 ^ ((floatFmt fmt).m + 1)) (low : (floatFmt fmt).lowest ≤ exp)
    (normal : 2 ^ (floatFmt fmt).m ≤ mant ∨ exp = (floatFmt fmt).lowest)
    (small : (exp - (floatFmt fmt).lowest).toNat * 2 ^ (floatFmt fmt).m + mant ≤ (floatFmt fmt).most) :
    roundFloat fmt mode u false (.fin neg mant exp false) =
      ((if neg then 2 ^ ((floatFmt fmt).m + (floatFmt fmt).eb) else 0) +
        ((exp - (floatFmt fmt).lowest).toNat * 2 ^ (floatFmt fmt).m + mant), 0) := by
  by_cases zero : mant = 0
  · subst zero
    obtain rfl : exp = (floatFmt fmt).lowest := normal.resolve_left (by simp)
    simp [roundFloat, hfmt]
  have code : (exp - (floatFmt fmt).lowest).toNat * 2 ^ (floatFmt fmt).m + mant ≠ 0 := by omega
  unfold FloatFmt.lowest at *
  simp only [roundFloat, zero, false_and, if_false, quantum_eq zero top low normal, cutAt_self, roundUp_whole, if_neg code,
    Bool.false_eq_true, add_zero, if_neg (not_lt.mpr small)]
  simp

/-- What R94 gives for a code that is no infinity and no NaN. -/
theorem decodePlain_finite {f : FloatFmt} {code : Nat} (finite : code % 2 ^ (f.m + f.eb) ≤ f.most)
    (special : f.hasInf = true → f.most < (2 ^ f.eb - 1) * 2 ^ f.m) :
    decodePlain f code false =
      if code / 2 ^ f.m % 2 ^ f.eb = 0 then
        .fin (decide (code / 2 ^ (f.m + f.eb) % 2 = 1)) (code % 2 ^ f.m) f.lowest false
      else .fin (decide (code / 2 ^ (f.m + f.eb) % 2 = 1)) (2 ^ f.m + code % 2 ^ f.m)
        ((code / 2 ^ f.m % 2 ^ f.eb : Nat) - (f.bias : Int) - f.m) false := by
  have field : code % 2 ^ (f.m + f.eb) = code % 2 ^ f.m + 2 ^ f.m * (code / 2 ^ f.m % 2 ^ f.eb) := by
    rw [pow_add, Nat.mod_mul]
  have plain : ¬(f.hasInf = true ∧ code / 2 ^ f.m % 2 ^ f.eb = 2 ^ f.eb - 1) := fun ⟨inf, e⟩ => by
    have := special inf
    rw [field, e, mul_comm] at finite
    omega
  unfold decodePlain FloatFmt.lowest
  simp [plain, finite]

/-- The mantissa, exponent and sign bits of a code make it up. -/
theorem code_parts {m e code : Nat} (h : code < 2 ^ (m + e + 1)) :
    (if code / 2 ^ (m + e) % 2 = 1 then 2 ^ (m + e) else 0) + (code / 2 ^ m % 2 ^ e * 2 ^ m + code % 2 ^ m) = code := by
  have low : code % 2 ^ (m + e) = code % 2 ^ m + 2 ^ m * (code / 2 ^ m % 2 ^ e) := by rw [pow_add, Nat.mod_mul]
  have sign : code / 2 ^ (m + e) < 2 := Nat.div_lt_of_lt_mul (by rwa [← pow_succ])
  have whole := Nat.div_add_mod code (2 ^ (m + e))
  rw [low, mul_comm (2 ^ m)] at whole
  obtain zero | one := Nat.le_one_iff_eq_zero_or_eq_one.mp (Nat.lt_succ_iff.mp sign)
  · rw [zero] at whole ⊢
    simpa [add_comm] using whole
  · rw [one, mul_one] at whole
    rw [one, if_pos (by rfl), Nat.add_comm (_ * _), whole]

/-- A code of a format other than F4X that is no infinity and no NaN comes back from its value (R105, R107). -/
theorem roundFloat_decodeVal {fmt code : Nat} (mode u : Nat) (hfmt : 9 ≤ fmt)
    (special : (floatFmt fmt).hasInf = true → (floatFmt fmt).most < (2 ^ (floatFmt fmt).eb - 1) * 2 ^ (floatFmt fmt).m)
    (finite : code % 2 ^ ((floatFmt fmt).m + (floatFmt fmt).eb) ≤ (floatFmt fmt).most)
    (fits : code < 2 ^ ((floatFmt fmt).m + (floatFmt fmt).eb + 1)) :
    roundFloat fmt mode u false (decodeVal fmt code false) = (code, 0) := by
  have value : decodeVal fmt code false = decodePlain (floatFmt fmt) code false := by
    simp [decodeVal, Nat.mod_eq_of_lt fits, show ¬fmt < 8 by omega, show fmt ≠ 8 by omega]
  have parts := code_parts fits
  have mantissa := Nat.mod_lt code (y := 2 ^ (floatFmt fmt).m) (by positivity)
  have small : code / 2 ^ (floatFmt fmt).m % 2 ^ (floatFmt fmt).eb * 2 ^ (floatFmt fmt).m + code % 2 ^ (floatFmt fmt).m ≤
      (floatFmt fmt).most := by
    rw [pow_add, Nat.mod_mul] at finite
    linarith
  rw [value, decodePlain_finite finite special]
  generalize code / 2 ^ (floatFmt fmt).m % 2 ^ (floatFmt fmt).eb = e at *
  split
  · next subnormal =>
    rw [subnormal, zero_mul, zero_add] at small parts
    rw [roundFloat_representable fmt mode u _ (by omega) (by rw [pow_succ]; omega) le_rfl (.inr rfl) (by simpa using small)]
    simpa using parts
  · next normal =>
    have place : (((e : Nat) : Int) - (floatFmt fmt).bias - (floatFmt fmt).m - (floatFmt fmt).lowest).toNat = e - 1 := by
      unfold FloatFmt.lowest
      omega
    have low : (floatFmt fmt).lowest ≤ ((e : Nat) : Int) - (floatFmt fmt).bias - (floatFmt fmt).m := by
      unfold FloatFmt.lowest
      omega
    have code_eq : (e - 1) * 2 ^ (floatFmt fmt).m + (2 ^ (floatFmt fmt).m + code % 2 ^ (floatFmt fmt).m) =
        e * 2 ^ (floatFmt fmt).m + code % 2 ^ (floatFmt fmt).m := by
      rw [← Nat.add_assoc, ← Nat.succ_mul, Nat.succ_eq_add_one, Nat.sub_add_cancel (by omega)]
    rw [roundFloat_representable fmt mode u _ (by omega) (by rw [pow_succ]; omega) low (.inl (Nat.le_add_right _ _))
      (by rwa [place, code_eq]), place, code_eq]
    simpa using parts

end Sys2Proof.Machine

/-! ## Settling O10 -/

namespace Sys2Proof

open Machine

/-- Settles O10: the cut is exact, each mode chooses by the part of a quantum that is left, and a code that is finite comes back
from its value, whose quantum is its own. -/
theorem roundingChoosesANeighbour : Obligations.RoundingChoosesANeighbour := by
  refine ⟨fun mant exp q mode u neg hm hu => ?_, fun fmt mode u code low high => ?_⟩
  · intro c k part up
    have quantum : (0 : Rat) < 2 ^ c.2.2 := by positivity
    have nothing : part = 0 ↔ c.2.1 = 0 := by simp [part, quantum.ne']
    refine ⟨cutAt_value mant exp q, by positivity, ?_, fun whole => ?_,
      fun between => roundUp_iff neg k hm hu fun z => between (nothing.mpr z)⟩
    · rw [div_lt_one quantum]
      exact_mod_cast cutAt_rest_lt mant exp q
    · simp only [up, nothing.mp whole, roundUp_whole]
  · intro f finite fits
    have special : f.hasInf = true → f.most < (2 ^ f.eb - 1) * 2 ^ f.m := by
      have finites : ∀ n ∈ [9, 10, 11, 12, 13, 14], (floatFmt n).hasInf = true →
          (floatFmt n).most < (2 ^ (floatFmt n).eb - 1) * 2 ^ (floatFmt n).m := by decide
      exact finites fmt (by simp; omega)
    exact roundFloat_decodeVal mode u low special finite fits

end Sys2Proof

/-! ## Exact values (R102, R105, R108) -/

namespace Sys2Proof.Machine

/-- The number that a sign, a mantissa and an exponent stand for. -/
def signedVal (neg : Bool) (m : Nat) (e : Int) : Rat := (if neg then -1 else 1) * m * 2 ^ e

theorem signedVal_false (m : Nat) (e : Int) : signedVal false m e = m * 2 ^ e := by simp [signedVal]

@[simp] theorem signedVal_zero (neg : Bool) (e : Int) : signedVal neg 0 e = 0 := by simp [signedVal]

/-- A mantissa taken to a lower exponent keeps its value. -/
theorem signedAt_value (neg : Bool) (m : Nat) {e base : Int} (h : base ≤ e) :
    (signedAt neg m e base : Rat) * 2 ^ base = signedVal neg m e := by
  have shifted : ((m * 2 ^ (e - base).toNat : Nat) : Rat) * 2 ^ base = m * 2 ^ e := by
    rw [Nat.cast_mul, Nat.cast_pow, Nat.cast_ofNat, mul_assoc, two_pow_toNat_sub h]
  cases neg
  · simpa [signedAt, signedVal] using shifted
  · simpa [signedAt, signedVal] using shifted

/-- A whole number, written with its sign apart. -/
theorem signedVal_natAbs (v : Int) (e : Int) : signedVal (decide (v < 0)) v.natAbs e = v * 2 ^ e := by
  by_cases h : v < 0
  · simp [signedVal, h, Nat.cast_natAbs, abs_of_neg h]
  · simp [signedVal, h, Nat.cast_natAbs, abs_of_nonneg (not_lt.mp h)]

/-- The sum of two finite values is formed exactly (R108). -/
theorem fadd_exact (down na nb : Bool) (ma mb : Nat) (ea eb : Int) :
    ∃ n m e, fadd down (.fin na ma ea false) (.fin nb mb eb false) = (.fin n m e false, 0) ∧
      signedVal n m e = signedVal na ma ea + signedVal nb mb eb := by
  by_cases zeros : ma = 0 ∧ mb = 0
  · obtain ⟨rfl, rfl⟩ := zeros
    exact ⟨if na = nb then na else down, 0, 0, by simp [fadd, FVal.zero], by simp⟩
  have sum : signedVal na ma ea + signedVal nb mb eb =
      ((signedAt na ma ea (min ea eb) + signedAt nb mb eb (min ea eb) : Int) : Rat) * 2 ^ min ea eb := by
    rw [Int.cast_add, add_mul, signedAt_value na ma (min_le_left ea eb), signedAt_value nb mb (min_le_right ea eb)]
  by_cases cancel : signedAt na ma ea (min ea eb) + signedAt nb mb eb (min ea eb) = 0
  · exact ⟨down, 0, 0, by simp [fadd, zeros, cancel, FVal.zero], by rw [sum, cancel]; simp⟩
  · exact ⟨_, _, _, by simp only [fadd, if_neg zeros, if_neg cancel]; rfl, by rw [sum, signedVal_natAbs]⟩

/-- The product of two finite values is formed exactly (R108). -/
theorem fmul_exact (na nb : Bool) (ma mb : Nat) (ea eb : Int) :
    fmul (.fin na ma ea false) (.fin nb mb eb false) = (.fin (na != nb) (ma * mb) (ea + eb) false, 0) ∧
      signedVal (na != nb) (ma * mb) (ea + eb) = signedVal na ma ea * signedVal nb mb eb := by
  refine ⟨rfl, ?_⟩
  have sign : (if na != nb then -1 else 1 : Rat) = (if na then -1 else 1) * (if nb then -1 else 1) := by
    cases na <;> cases nb <;> simp
  simp only [signedVal, sign, Nat.cast_mul, zpow_add₀ (two_ne_zero (α := Rat))]
  ring

/-- A whole quotient and what is left over, against the true quotient in units of 2^e. -/
theorem nat_div_bounds (n : Nat) {b : Nat} (hb : 0 < b) (e : Int) :
    signedVal false (n / b) e ≤ (n : Rat) / b * 2 ^ e ∧ (n : Rat) / b * 2 ^ e < signedVal false (n / b + 1) e ∧
      (n % b = 0 ↔ signedVal false (n / b) e = (n : Rat) / b * 2 ^ e) := by
  have unit : (0 : Rat) < 2 ^ e := by positivity
  have den : (0 : Rat) < b := by exact_mod_cast hb
  have parts : (n : Rat) = b * (n / b : Nat) + (n % b : Nat) := by exact_mod_cast (Nat.div_add_mod n b).symm
  have quot : (n : Rat) / b = (n / b : Nat) + ((n % b : Nat) : Rat) / b := by rw [parts]; field_simp
  have rest : ((n % b : Nat) : Rat) / b < 1 := by rw [div_lt_one den]; exact_mod_cast Nat.mod_lt n hb
  have rest0 : 0 ≤ ((n % b : Nat) : Rat) / b := by positivity
  simp only [signedVal_false]
  refine ⟨by rw [quot]; gcongr; linarith, ?_, ?_⟩
  · rw [quot]
    gcongr
    push_cast
    linarith
  · rw [mul_left_inj' unit.ne', quot, left_eq_add, div_eq_zero_iff]
    simp [den.ne']

/-- The quotient of two finite values that are not zero: it has 160 bits or more, lies below the true one by less than its last
place, and `more` says whether something is left over (R108). -/
theorem quotient_bounds (na nb : Bool) {ma mb : Nat} (ea eb : Int) (ha : 0 < ma) (hb : 0 < mb) :
    ∃ m e more, quotient na nb ma mb ea eb = .fin (na != nb) m e more ∧ 2 ^ 159 ≤ m ∧
      signedVal false m e ≤ signedVal false ma ea / signedVal false mb eb ∧
      signedVal false ma ea / signedVal false mb eb < signedVal false (m + 1) e ∧
      (more = false ↔ signedVal false m e = signedVal false ma ea / signedVal false mb eb) := by
  have shifted : signedVal false ma ea / signedVal false mb eb =
      ((ma * 2 ^ (160 + Nat.log2 mb) : Nat) : Rat) / mb * 2 ^ (ea - eb - (160 + Nat.log2 mb : Nat)) := by
    have den : (mb : Rat) ≠ 0 := by exact_mod_cast hb.ne'
    rw [signedVal_false, signedVal_false, zpow_sub₀ two_ne_zero, zpow_sub₀ two_ne_zero, zpow_natCast, Nat.cast_mul,
      Nat.cast_pow]
    field_simp
    simp
  have long : 2 ^ 159 ≤ ma * 2 ^ (160 + Nat.log2 mb) / mb := by
    rw [Nat.le_div_iff_mul_le hb]
    calc 2 ^ 159 * mb ≤ 2 ^ 159 * 2 ^ (Nat.log2 mb + 1) := Nat.mul_le_mul_left _ Nat.lt_log2_self.le
      _ = 2 ^ (160 + Nat.log2 mb) := by rw [← pow_add]; congr 1; omega
      _ ≤ ma * 2 ^ (160 + Nat.log2 mb) := Nat.le_mul_of_pos_left _ ha
  obtain ⟨low, high, whole⟩ := nat_div_bounds (ma * 2 ^ (160 + Nat.log2 mb)) hb (ea - eb - (160 + Nat.log2 mb : Nat))
  refine ⟨_, _, _, rfl, long, shifted ▸ low, shifted ▸ high, ?_⟩
  rw [shifted, ← whole]
  simp

/-- The bits of a square root, from bit `k - 1` down: what is found stays below the root, and within 2^k of it. -/
theorem isqrtFrom_bounds (n k : Nat) : ∀ r, r * r ≤ n → n < (r + 2 ^ k) * (r + 2 ^ k) →
    isqrtFrom n r k * isqrtFrom n r k ≤ n ∧ n < (isqrtFrom n r k + 1) * (isqrtFrom n r k + 1) := by
  induction k with
  | zero => exact fun r low high => ⟨low, high⟩
  | succ k ih =>
    intro r low high
    rw [isqrtFrom]
    split
    · next h => exact ih _ h (by rwa [add_assoc, ← two_mul, ← pow_succ'])
    · next h => exact ih _ low (not_le.mp h)

/-- `isqrt` is the whole part of the square root. -/
theorem isqrt_bounds (n : Nat) : isqrt n * isqrt n ≤ n ∧ n < (isqrt n + 1) * (isqrt n + 1) := by
  refine isqrtFrom_bounds n _ 0 (Nat.zero_le _) ?_
  calc n < 2 ^ (Nat.log2 n + 1) := Nat.lt_log2_self
    _ ≤ 2 ^ (Nat.log2 n / 2 + 1 + (Nat.log2 n / 2 + 1)) := Nat.pow_le_pow_right two_pos (by omega)
    _ = (0 + 2 ^ (Nat.log2 n / 2 + 1)) * (0 + 2 ^ (Nat.log2 n / 2 + 1)) := by rw [pow_add, Nat.zero_add]

/-- The square of a value with an exponent of `h` has the exponent `h + h`. -/
theorem signedVal_mul_self (r : Nat) (h : Int) :
    signedVal false r h * signedVal false r h = ((r * r : Nat) : Rat) * 2 ^ (h + h) := by
  rw [signedVal_false, zpow_add₀ two_ne_zero, Nat.cast_mul]
  ring

/-- A value with an even number of bits taken to its mantissa, whose exponent is then twice `h`. -/
theorem signedVal_shift (m k : Nat) {e h : Int} (even : h + h = e - k) :
    signedVal false m e = ((m * 2 ^ k : Nat) : Rat) * 2 ^ (h + h) := by
  rw [signedVal_false, even, zpow_sub₀ two_ne_zero, zpow_natCast, Nat.cast_mul, Nat.cast_pow]
  field_simp
  simp

/-- The square root of a positive value is exact, or lies below the true one by less than its last place (R108). -/
theorem fsqrt_bounds {ma : Nat} (ea : Int) (ha : 0 < ma) :
    ∃ m e more, fsqrt (.fin false ma ea false) = (.fin false m e more, 0) ∧
      signedVal false m e * signedVal false m e ≤ signedVal false ma ea ∧
      signedVal false ma ea < signedVal false (m + 1) e * signedVal false (m + 1) e ∧
      (more = false ↔ signedVal false m e * signedVal false m e = signedVal false ma ea) := by
  obtain ⟨k, h, even, eq⟩ : ∃ (k : Nat) (h : Int), h + h = ea - k ∧ fsqrt (.fin false ma ea false) =
      (.fin false (isqrt (ma * 2 ^ k)) h (decide (isqrt (ma * 2 ^ k) * isqrt (ma * 2 ^ k) ≠ ma * 2 ^ k)), 0) := by
    by_cases parity : ea % 2 = 0
    · exact ⟨320, (ea - 320) / 2, by omega, by simp only [fsqrt, if_neg ha.ne', if_pos parity, Bool.false_eq_true, if_false]⟩
    · exact ⟨321, (ea - 321) / 2, by omega, by simp only [fsqrt, if_neg ha.ne', if_neg parity, Bool.false_eq_true, if_false]⟩
  have unit : (0 : Rat) < 2 ^ (h + h) := by positivity
  obtain ⟨low, high⟩ := isqrt_bounds (ma * 2 ^ k)
  refine ⟨_, _, _, eq, ?_, ?_, ?_⟩
  · rw [signedVal_mul_self, signedVal_shift ma k even]
    gcongr
  · rw [signedVal_mul_self, signedVal_shift ma k even]
    gcongr
  · rw [signedVal_mul_self, signedVal_shift ma k even, mul_left_inj' unit.ne', Nat.cast_inj]
    simp

end Sys2Proof.Machine

/-! ## Settling O12 -/

namespace Sys2Proof

open Machine

/-- Settles O12: each operation is exact by the bounds of its own mantissa. -/
theorem floatOperationsAreExact : Obligations.FloatOperationsAreExact := by
  intro na nb down ma mb ea eb
  refine ⟨fadd_exact down na nb ma mb ea eb, ⟨_, _, _, fmul_exact na nb ma mb ea eb⟩, fun ha hb => ?_,
    fun ha => fsqrt_bounds ea ha⟩
  obtain ⟨m, e, more, value, bounds⟩ := quotient_bounds na nb ea eb ha hb
  exact ⟨m, e, more, by rw [fdiv, if_neg hb.ne', if_neg ha.ne', value], bounds⟩

end Sys2Proof

/-! ## The permutation network (R289, R290) -/

namespace Sys2Proof.Machine

/-- A stage turns one of the bits of a lane’s number. -/
theorem stageBit_lt {k s : Nat} (hs : s < 2 * k - 1) : stageBit k s < k := by
  unfold stageBit
  split <;> omega

/-- Turning bit `b` changes neither the bits above it nor those below it. -/
theorem xor_two_pow_parts (b i : Nat) :
    Nat.xor i (2 ^ b) / 2 ^ (b + 1) = i / 2 ^ (b + 1) ∧ Nat.xor i (2 ^ b) % 2 ^ b = i % 2 ^ b := by
  have high : (2 ^ b : Nat) / 2 ^ (b + 1) = 0 := Nat.div_eq_of_lt (Nat.pow_lt_pow_right (by norm_num) (Nat.lt_succ_self b))
  constructor
  · exact (Nat.xor_div_two_pow (a := i) (b := 2 ^ b) (n := b + 1)).trans (by simp [high])
  · exact (Nat.xor_mod_two_pow (a := i) (b := 2 ^ b) (n := b)).trans (by simp)

/-- A switch stays among the lanes of the gang. -/
theorem swapAt_lt {k s i : Nat} (image : Nat) (hs : s < 2 * k - 1) (hi : i < 2 ^ k) : swapAt k image s i < 2 ^ k := by
  unfold swapAt
  dsimp only
  split
  · exact Nat.xor_lt_two_pow hi (Nat.pow_lt_pow_right (by norm_num) (stageBit_lt hs))
  · exact hi

/-- A switch exchanges its two lanes, or leaves both: done twice it does nothing. -/
theorem swapAt_swapAt (k image s i : Nat) : swapAt k image s (swapAt k image s i) = i := by
  obtain ⟨above, below⟩ := xor_two_pow_parts (stageBit k s) i
  by_cases on : bits image (s * 2 ^ (k - 1) + (i / 2 ^ (stageBit k s + 1) * 2 ^ stageBit k s + i % 2 ^ stageBit k s))
      (s * 2 ^ (k - 1) + (i / 2 ^ (stageBit k s + 1) * 2 ^ stageBit k s + i % 2 ^ stageBit k s)) = 1
  · have turned : swapAt k image s i = Nat.xor i (2 ^ stageBit k s) := if_pos on
    rw [turned, swapAt, above, below, if_pos on]
    exact Nat.xor_xor_cancel_right ..
  · have kept : swapAt k image s i = i := if_neg on
    rw [kept, kept]

/-- A switch whose bit of the image is zero moves nothing. -/
theorem swapAt_zero (k s i : Nat) : swapAt k 0 s i = i := by simp [swapAt, bits]

theorem networkSource_lt {k n i : Nat} (image : Nat) (hn : n ≤ 2 * k - 1) (hi : i < 2 ^ k) :
    networkSource k image i n < 2 ^ k := by
  induction n generalizing i with
  | zero => exact hi
  | succ n ih => exact ih (by omega) (swapAt_lt image hn hi)

theorem networkSource_injective (k image n : Nat) : Function.Injective fun i => networkSource k image i n := by
  induction n with
  | zero => exact fun _ _ h => h
  | succ n ih => exact ih.comp (Function.LeftInverse.injective (g := swapAt k image n) fun i => swapAt_swapAt k image n i)

theorem networkSource_zero (k i n : Nat) : networkSource k 0 i n = i := by
  induction n with
  | zero => rfl
  | succ n ih => rw [networkSource, swapAt_zero, ih]

@[simp] theorem widthLog_two_pow (k : Nat) : widthLog (2 ^ k) = k := Nat.log2_two_pow

/-! ## Integer reductions (R114, R115) -/

/-- The sum of `n` lanes from `lo` on. -/
def laneSum (x : Nat → Nat) (lo n : Nat) : Nat := ((List.range n).map fun i => x (lo + i)).sum

theorem laneSum_zero (x : Nat → Nat) (n : Nat) : laneSum x 0 n = ((List.range n).map x).sum := by simp [laneSum]

theorem laneSum_add (x : Nat → Nat) (lo m n : Nat) : laneSum x lo (m + n) = laneSum x lo m + laneSum x (lo + m) n := by
  simp [laneSum, List.range_add, Nat.add_assoc, Function.comp_def]

theorem combineOp_add {fmt : Nat} (mode a b : Nat) (hf : fmt < 8) :
    combineOp fmt 0 mode a b = ((a + b) % 2 ^ intWidth fmt, 0) := by simp [combineOp, hf]

/-- What a SCAN holds once it has taken in the lanes below `lo`: nothing, or their wrapped sum. -/
def prefixAcc (fmt : Nat) (x : Nat → Nat) (lo : Nat) : Option (Nat × Flags) :=
  if lo = 0 then none else some (laneSum x 0 lo % 2 ^ intWidth fmt, 0)

section

variable {fmt : Nat} (mode : Nat) {x : Nat → Nat} (hf : fmt < 8) (hx : ∀ i, x i < 2 ^ intWidth fmt)

include hf hx

/-- The tree of a sum is the wrapped sum of its lanes, whatever the order of the additions (R114). -/
theorem treeOf_sum (lo k : Nat) : treeOf (combineOp fmt 0 mode) x lo k = (laneSum x lo (2 ^ k) % 2 ^ intWidth fmt, 0) := by
  induction k generalizing lo with
  | zero => simp [treeOf, laneSum, Nat.mod_eq_of_lt (hx lo)]
  | succ k ih =>
    simp only [treeOf, ih, combineOp_add _ _ _ hf, ← Nat.add_mod, ← laneSum_add]
    simp [pow_succ, Nat.mul_two]

/-- From there on it takes in the lanes up to its own, by the bits of their number (R115). -/
theorem prefixFrom_sum (i k lo : Nat) (h : lo + (i + 1) % 2 ^ k = i + 1) :
    prefixFrom (combineOp fmt 0 mode) x i (prefixAcc fmt x lo) lo k = (laneSum x 0 (i + 1) % 2 ^ intWidth fmt, 0) := by
  induction k generalizing lo with
  | zero =>
    obtain rfl : lo = i + 1 := by simpa [Nat.mod_one] using h
    simp [prefixFrom, prefixAcc]
  | succ k ih =>
    rw [Nat.mod_pow_succ] at h
    rw [prefixFrom]
    split
    · next set =>
      rw [set, mul_one] at h
      rw [← ih (lo + 2 ^ k) (by omega)]
      rcases Nat.eq_zero_or_pos lo with rfl | pos
      · simp [prefixAcc, treeOf_sum mode hf hx]
      · simp only [prefixAcc, pos.ne', if_false, treeOf_sum mode hf hx, combineOp_add _ _ _ hf, ← Nat.add_mod, laneSum_add x 0,
          Nat.zero_add]
        simp
    · next clear =>
      rw [(by omega : (i + 1) / 2 ^ k % 2 = 0), mul_zero, add_zero] at h
      exact ih lo h

end

end Sys2Proof.Machine

/-! ## Settling O46 -/

namespace Sys2Proof

open Machine

/-- Settles O46: every stage exchanges pairs of lanes, and wrapped addition makes a REDUCE and a SCAN the sum of their lanes. -/
theorem networkAndTrees : Obligations.NetworkAndTrees := by
  intro k _ _
  simp only [networkLane, widthLog_two_pow]
  refine ⟨fun image i hi => networkSource_lt image le_rfl hi, fun image i j _ _ e => networkSource_injective k image _ e,
    fun i _ => networkSource_zero k i _, fun fmt mode x hf hx => ⟨?_, fun i hi => ?_⟩⟩
  · rw [← laneSum_zero]
    exact treeOf_sum mode hf hx 0 k
  · have fits : i + 1 < 2 ^ (k + 1) := by rw [pow_succ]; omega
    rw [← laneSum_zero]
    exact prefixFrom_sum mode hf hx i (k + 1) 0 (by rw [Nat.mod_eq_of_lt fits, Nat.zero_add])

end Sys2Proof

/-! ## What leaves the accumulators as they are

The end of a matrix command settles the operation of every fibre that counts it: fibres wake, perform, are killed and freed, and
no element of an accumulator changes. -/

namespace Sys2Proof.Machine

/-- A fold whose step leaves the accumulators leaves them. -/
@[simp] theorem foldl_acc {α : Type} {f : State → α → State} (h : ∀ s a, (f s a).acc = s.acc) (l : List α)
    (s : State) :
    (l.foldl f s).acc = s.acc := Safety.foldl_keeps State.acc f h l s

@[simp] theorem ite_acc (c : Prop) [Decidable c] (a b : State) :
    (if c then a else b).acc = if c then a.acc else b.acc := apply_ite ..

/-- What leaves aside all that fibres wait for leaves the accumulators. -/
theorem acc_of_aside {s t : State} (h : t.aside = s.aside) : t.acc = s.acc := (congrArg State.acc h :)

@[simp] theorem State.raise_acc (s : State) (die type tenant src v0 v1 : Nat) :
    (s.raise die type tenant src v0 v1).acc = s.acc := (Safety.same_raise die type tenant src v0 v1).acc

@[simp] theorem State.raiseCore_acc (s : State) (core type tenant v0 v1 : Nat) :
    (s.raiseCore core type tenant v0 v1).acc = s.acc := by simp [State.raiseCore]

@[simp] theorem State.charge_acc (s : State) (t : Nat) (n : ℤ) :
    (s.charge t n).acc = s.acc := (Safety.same_charge t n).acc

@[simp] theorem State.setVectorPending_acc (s : State) (vf v x : Nat) :
    (s.setVectorPending vf v x).acc = s.acc := by simp [State.setVectorPending]

@[simp] theorem State.sendVector_acc (s : State) (vf v : Nat) (charged : Bool) :
    (s.sendVector vf v charged).acc = s.acc := by simp [State.sendVector]

@[simp] theorem State.raiseCheck_acc (s : State) : s.raiseCheck.acc = s.acc := by simp [State.raiseCheck]

@[simp] theorem State.setCell_acc (s : State) (l : Loc) (c : RegCell) :
    (s.setCell l c).acc = s.acc := (Safety.apart_setCell l c).acc

@[simp] theorem State.writeCell_acc (s : State) (l : Loc) (v : Word) :
    (s.writeCell l v).acc = s.acc := by simp [State.writeCell]

@[simp] theorem State.markCell_acc (s : State) (l : Loc) (m : Mark) :
    (s.markCell l m).acc = s.acc := by simp [State.markCell]

@[simp] theorem State.evictSeg_acc (s : State) (core key : Nat) : (s.evictSeg core key).acc = s.acc := by
  unfold State.evictSeg
  split <;> simp

@[simp] theorem State.touch_acc (s : State) (key : Nat) : (s.touch key).acc = s.acc := rfl

theorem State.heapRoom_acc (s : State) {core : Nat} {reload : Bool} {t : State} (e : s.heapRoom core reload = some t) :
    t.acc = s.acc := by
  unfold State.heapRoom at e
  split at e
  · cases e
    rfl
  · obtain ⟨k, -, rfl⟩ := Option.map_eq_some_iff.mp e
    simp

theorem State.bringIn_acc (s : State) {core key : Nat} {t : State} (e : s.bringIn core key = some t) :
    t.acc = s.acc := by
  unfold State.bringIn at e
  split at e
  · cases e
    simp
  · obtain ⟨u, hu, rfl⟩ := Option.map_eq_some_iff.mp e
    simp [s.heapRoom_acc hu]

@[simp] theorem State.newSeg_acc (s : State) (core tenant addr : Nat) (g : Segment) :
    (s.newSeg core tenant addr g).acc = s.acc := by simp [State.newSeg]

@[simp] theorem State.freeSegs_acc (s : State) (tenant : Nat) (addrs : List Nat) :
    (s.freeSegs tenant addrs).acc = s.acc := by simp [State.freeSegs]

@[simp] theorem State.retarget_acc (s : State) (move : Loc → Loc) :
    (s.retarget move).acc = s.acc := by simp [State.retarget]

@[simp] theorem State.file_acc (s : State) (key : Nat) : (s.file key).acc = s.acc := acc_of_aside (s.file_aside key)

@[simp] theorem State.touchTop_acc (s : State) (key : Nat) :
    (s.touchTop key).acc = s.acc := (Safety.same_touchTop key).1.acc

@[simp] theorem State.leaveGang_acc (s : State) (key : Nat) :
    (s.leaveGang key).acc = s.acc := by simp [State.leaveGang]

@[simp] theorem State.recheck_acc (s : State) (core : Nat) :
    (s.recheck core).acc = s.acc := acc_of_aside (s.recheck_aside core)

@[simp] theorem State.beginPerform_acc (s : State) (key : Nat) (e : Effect) :
    (s.beginPerform key e).acc = s.acc := by simp [State.beginPerform]

@[simp] theorem State.orphan_acc (s : State) (locs : List Loc) : (s.orphan locs).acc = s.acc := by
  unfold State.orphan
  refine (foldl_acc (fun s p => ?_) _ _).trans (foldl_acc (fun s l => ?_) _ _)
  · (repeat' split) <;> simp
  · split <;> simp

@[simp] theorem State.checkBand_acc (s : State) (launch band k : Nat) :
    (s.checkBand launch band k).acc = s.acc := acc_of_aside (s.checkBand_aside launch band k)

@[simp] theorem State.leaveConvened_acc (s : State) (key : Nat) : (s.leaveConvened key).acc = s.acc := by
  simp only [State.leaveConvened]
  (repeat' split) <;> simp

@[simp] theorem State.breakCrew_acc (s : State) (crew : Nat) : (s.breakCrew crew).acc = s.acc := by
  simp only [State.breakCrew]
  split
  · refine (foldl_acc (fun s b => by simp) _ _).trans ?_
    refine (foldl_acc (fun s p => ?_) _ _).trans (s.modCrew_acc _ _)
    split <;> simp
  · refine (foldl_acc (fun s p => ?_) _ _).trans (s.modCrew_acc _ _)
    split <;> simp

@[simp] theorem State.tenantGone_acc (s : State) (core tenant : Nat) :
    (s.tenantGone core tenant).acc = s.acc := by simp [State.tenantGone]

@[simp] theorem State.endCrew_acc (s : State) (id : Nat) : (s.endCrew id).acc = s.acc := by
  unfold State.endCrew
  split <;> simp

@[simp] theorem State.freeDescriptor_acc (s : State) (key : Nat) : (s.freeDescriptor key).acc = s.acc := by
  simp only [State.freeDescriptor]
  (repeat' split) <;> simp

@[simp] theorem State.withdraw_acc (s : State) (key : Nat) :
    (s.withdraw key).acc = s.acc := by simp [State.withdraw]

@[simp] theorem State.afterKill_acc (s : State) (crew : Nat) : (s.afterKill crew).acc = s.acc := by
  unfold State.afterKill
  split <;> simp

@[simp] theorem State.leaveNotice_acc (s : State) (key : Nat) (f : Fibre) :
    (s.leaveNotice key f).acc = s.acc := by
  unfold State.leaveNotice
  split <;> simp

@[simp] theorem State.killNow_acc (s : State) (key : Nat) : (s.killNow key).acc = s.acc := by
  simp only [State.killNow]
  (repeat' split) <;> simp

@[simp] theorem State.killFibre_acc (s : State) (key : Nat) : (s.killFibre key).acc = s.acc := by
  unfold State.killFibre
  split <;> simp

@[simp] theorem State.killCrew_acc (s : State) (id cause : Nat) : (s.killCrew id cause).acc = s.acc := by
  unfold State.killCrew
  split <;> simp

@[simp] theorem State.post_acc (s : State) (core : Nat) (r : EffectRecord) (notice : Bool) :
    (s.post core r notice).acc = s.acc := by simp [State.post]

@[simp] theorem State.machineCheck_acc (s : State) (core : Nat) (e : Effect) :
    (s.machineCheck core e).acc = s.acc := by
  unfold State.machineCheck
  rw [State.raiseCheck_acc, State.modUnit_acc]
  split <;> rfl

@[simp] theorem State.settleRecords_acc (s : State) (seg : Nat) :
    (s.settleRecords seg).acc = s.acc := by simp [State.settleRecords]

@[simp] theorem State.splitSeg_acc (s : State) (key : Nat) (f : Fibre) (seg w g bottom : Nat) (records : List Nat) :
    (s.splitSeg key f seg w g bottom records).acc = s.acc := by
  simp only [State.splitSeg, State.modFibre_acc]
  rw [foldl_acc fun s a => by simp, foldl_acc fun s a => by split <;> simp]
  simp

@[simp] theorem State.capture_acc (s : State) (key slot : Nat) (e : Effect) (bottom : Nat) :
    (s.capture key slot e bottom).2.acc = s.acc := by
  unfold State.capture
  split <;> simp

@[simp] theorem State.effectEvent_acc (s : State) (key tenant tag how : Nat) :
    (s.effectEvent key tenant tag how).acc = s.acc := by simp [State.effectEvent]

@[simp] theorem State.loadFsm_acc (s : State) (key : Nat) : (s.loadFsm key).acc = s.acc := by simp [State.loadFsm]

@[simp] theorem State.enterHandler_acc (s : State) (key : Nat) (e : Effect) (h : DWord) (seg w prev : Nat)
    (handler : DWord) :
    (s.enterHandler key e h seg w prev handler).acc = s.acc := by
  simp only [State.enterHandler]
  (repeat' split) <;> simp

@[simp] theorem State.performFound_acc (s : State) (key : Nat) (f : Fibre) (e : Effect) (a : Nat) (r : HandlerRecord) :
    (s.performFound key f e a r).acc = s.acc := by
  simp only [State.performFound]
  split
  · rfl
  split
  · rfl
  next t ht =>
  rw [← s.bringIn_acc ht]
  split
  · split <;> simp
  split
  · simp
  split
  · rfl
  next u hu =>
  obtain ⟨hu, -⟩ := Option.filter_eq_some_iff.mp hu
  split
  · split <;> simp
  · simp [t.heapRoom_acc hu]

@[simp] theorem State.performKill_acc (s : State) (key : Nat) (f : Fibre) (e : Effect) :
    (s.performKill key f e).acc = s.acc := by
  simp only [State.performKill]
  (repeat' split) <;> simp

@[simp] theorem State.performClerk_acc (s : State) (key : Nat) (f : Fibre) (e : Effect) :
    (s.performClerk key f e).acc = s.acc := by
  simp only [State.performClerk]
  (repeat' split) <;> simp

@[simp] theorem State.performUnmatched_acc (s : State) (key : Nat) (f : Fibre) (e : Effect) :
    (s.performUnmatched key f e).acc = s.acc := by
  unfold State.performUnmatched
  split <;> simp

@[simp] theorem State.clerkCheck_acc (s : State) (key : Nat) (e : Effect) :
    (s.clerkCheck key e).acc = s.acc := by simp [State.clerkCheck]

@[simp] theorem State.reloadRecord_acc (s : State) (key : Nat) (f : Fibre) (e : Effect) (a : Nat) :
    (s.reloadRecord key f e a).acc = s.acc := by
  simp only [State.reloadRecord, State.modFibre_acc]
  cases h : s.bringIn (coreOf key) (segKey f.tenant (frameSeg a)) with
  | none => rfl
  | some t => exact s.bringIn_acc h

@[simp] theorem State.tryPerform_acc (s : State) (key : Nat) : (s.tryPerform key).acc = s.acc := by
  simp only [State.tryPerform]
  (repeat' split) <;> simp

@[simp] theorem State.setOrd_acc (s : State) (id : Nat) (o : OrdOp) :
    (s.setOrd id o).acc = s.acc := by simp [State.setOrd]

@[simp] theorem State.served_acc (s : State) (id : Nat) (o : OrdOp) (value : Nat) (lost : Bool) :
    (s.served id o value lost).acc = s.acc := by simp [State.served]

@[simp] theorem State.watchWord_acc (s : State) (id : Nat) (o : OrdOp) (cond value : Nat) :
    (s.watchWord id o cond value).acc = s.acc := by simp [State.watchWord]

@[simp] theorem State.watchPitch_acc (s : State) (key n : Nat) : (s.watchPitch key n).acc = s.acc := by
  unfold State.watchPitch
  exact foldl_acc (fun s p => by split <;> simp) _ _

@[simp] theorem State.settleOp_acc (s : State) (key op : Nat) (stopped : Option Stopped) :
    (s.settleOp key op stopped).acc = s.acc := by
  unfold State.settleOp
  split <;> simp

@[simp] theorem State.commandDone_acc (s : State) (core ctx : Nat) (o : EngineOp) (a : MtxCommand) :
    (s.commandDone core ctx o a).acc = s.acc := by
  unfold State.commandDone
  split <;> simp

@[simp] theorem State.land_acc (s : State) (key : Nat) (writes : List (Loc × Word)) :
    (s.land key writes).acc = s.acc := by simp [State.land]

end Sys2Proof.Machine

/-! ## Accumulator elements (R112) -/

namespace Sys2Proof.Machine

open Safety (rising)

/-! ### Tables that are walked with a list of keys -/

/-- The keys of a table rise and stand in a list. -/
def Within {α : Type} (ks : List Nat) (t : Tbl α) : Prop := rising t ∧ ∀ p ∈ t, p.1 ∈ ks

/-- A key below every key of a table is not in it. -/
theorem Within.find_below {α : Type} {ks : List Nat} {t : Tbl α} {k : Nat} (h : Within ks t) (low : ∀ j ∈ ks, k < j) :
    t.find k = none := by
  cases found : t.find k with
  | none => rfl
  | some v => exact absurd (low k (h.2 _ (Tbl.mem_of_find found))) (lt_irrefl k)

/-- Taking a table apart at the least of its keys: what stands there, and a rest that answers for all the others. -/
theorem headAt_within {α : Type} {k : Nat} {ks : List Nat} {t : Tbl α} (h : Within (k :: ks) t) (low : ∀ j ∈ ks, k < j) :
    (headAt k t).1 = t.find k ∧ Within ks (headAt k t).2 ∧ ∀ j ∈ ks, (headAt k t).2.find j = t.find j := by
  obtain ⟨order, keys⟩ := h
  cases t with
  | nil => exact ⟨rfl, ⟨.nil, by simp [headAt]⟩, fun _ _ => rfl⟩
  | cons p t =>
    obtain ⟨j, v⟩ := p
    obtain ⟨above, order'⟩ := List.pairwise_cons.mp order
    by_cases e : j = k
    · subst e
      have rest : ∀ q ∈ t, q.1 ∈ ks := fun q hq =>
        (List.mem_cons.mp (keys q (List.mem_cons_of_mem _ hq))).resolve_left (above q hq).ne'
      refine ⟨by simp [headAt, Tbl.find_cons], by simpa [headAt] using ⟨order', rest⟩, fun n hn => ?_⟩
      simp [headAt, Tbl.find_cons, (low n hn).ne]
    · have first : j ∈ ks := (List.mem_cons.mp (keys (j, v) List.mem_cons_self)).resolve_left e
      have all : Within ks ((j, v) :: t) := by
        refine ⟨order, fun q hq => (List.mem_cons.mp (keys q hq)).resolve_left ?_⟩
        rcases List.mem_cons.mp hq with rfl | hq
        · exact e
        · exact ((low j first).trans (above q hq)).ne'
      simp only [headAt, if_neg e]
      exact ⟨(all.find_below low).symm, all, fun _ _ => trivial⟩

/-- What an element becomes when a term may be added to it: it is checked once against the bound, and may overflow. -/
def settled (old : Acc) (term : Option (Acc × Bool × Bool)) : Acc × Bool :=
  match term with
  | some v => (old.add v.1).settle
  | none => (old, false)

theorem addElems_cons (k : Nat) (ks : List Nat) (adds : Tbl (Acc × Bool × Bool)) (t : Tbl Acc) :
    addElems (k :: ks) adds t =
      let new := settled ((headAt k t).1.getD (.fin 0)) (headAt k adds).1
      let rest := addElems ks (headAt k adds).2 (headAt k t).2
      (if new.1 = .fin 0 then rest.1 else (k, new.1) :: rest.1, new.2 || rest.2) := rfl

/-- An element in front of others that do not name its key: +0 is not listed. -/
theorem get_listed (k j : Nat) (a : Acc) (t : Tbl Acc) (fresh : t.get k (.fin 0) = .fin 0) :
    (if a = .fin 0 then t else (k, a) :: t).get j (.fin 0) = if j = k then a else t.get j (.fin 0) := by
  by_cases e : j = k
  · subst e
    by_cases z : a = .fin 0
    · rw [if_pos z, if_pos rfl, fresh, z]
    · simp [Tbl.get, Tbl.find_cons, z]
  · by_cases z : a = .fin 0
    · rw [if_pos z, if_neg e]
    · simp [Tbl.get, Tbl.find_cons, z, e, Ne.symm e]

/-- Elements after terms have been added to them key by key: each is settled with its own term, and the rest are +0. -/
theorem addElems_spec {ks : List Nat} (order : ks.Pairwise (· < ·)) {adds : Tbl (Acc × Bool × Bool)} {t : Tbl Acc}
    (ha : Within ks adds) (ht : Within ks t) :
    (∀ k, (addElems ks adds t).1.get k (.fin 0) = if k ∈ ks then (settled (t.get k (.fin 0)) (adds.find k)).1 else .fin 0) ∧
      ((addElems ks adds t).2 = true ↔ ∃ k ∈ ks, (settled (t.get k (.fin 0)) (adds.find k)).2 = true) := by
  induction ks generalizing adds t with
  | nil =>
    obtain rfl : t = [] := List.eq_nil_iff_forall_not_mem.mpr fun p hp => List.not_mem_nil (ht.2 p hp)
    exact ⟨fun k => by simp [addElems, Tbl.get], by simp [addElems]⟩
  | cons k ks ih =>
    obtain ⟨low, order⟩ := List.pairwise_cons.mp order
    obtain ⟨term, ha', keepA⟩ := headAt_within ha low
    obtain ⟨old, ht', keepT⟩ := headAt_within ht low
    obtain ⟨elems, overflow⟩ := ih order ha' ht'
    have fresh : k ∉ ks := fun m => lt_irrefl k (low k m)
    have same : ∀ j ∈ ks, settled ((headAt k t).2.get j (.fin 0)) ((headAt k adds).2.find j) =
        settled (t.get j (.fin 0)) (adds.find j) := fun j hj => by rw [Tbl.get, keepT j hj, keepA j hj, Tbl.get]
    rw [addElems_cons, term, old]
    refine ⟨fun j => ?_, ?_⟩
    · dsimp only
      rw [get_listed _ _ _ _ ((elems k).trans (if_neg fresh)), elems j]
      by_cases e : j = k
      · rw [if_pos e, e, if_pos List.mem_cons_self, Tbl.get]
      · by_cases m : j ∈ ks
        · rw [if_neg e, if_pos m, if_pos (List.mem_cons_of_mem _ m), same j m]
        · rw [if_neg e, if_neg m, if_neg (by simp [e, m])]
    · simp only [Bool.or_eq_true, overflow, List.exists_mem_cons_iff]
      refine or_congr Iff.rfl (exists_congr fun j => and_congr_right fun hj => by rw [same j hj])

/-- A table that gives each key of a list its content. -/
theorem find_keyed {α : Type} (l : List Nat) (v : Nat → α) (k : Nat) :
    Tbl.find (l.map fun k => (k, v k)) k = if k ∈ l then some (v k) else none := by
  induction l with
  | nil => rfl
  | cons j l ih =>
    rw [List.map_cons, Tbl.find_cons, ih]
    by_cases e : j = k
    · simp [e]
    · simp [e, Ne.symm e]

/-- The terms of the elements that a mask names. -/
theorem within_masked {α : Type} (n : Nat) (p : Nat → Bool) (v : Nat → α) :
    Within (List.range n) (((List.range n).filter p).map fun k => (k, v k)) := by
  refine ⟨List.pairwise_map.mpr ((List.pairwise_lt_range (n := n)).filter p), fun q hq => ?_⟩
  obtain ⟨k, hk, rfl⟩ := List.mem_map.mp hq
  exact (List.mem_filter.mp hk).1

/-- What settling means for a key that a mask may name. -/
theorem settled_masked {n : Nat} (p : Nat → Bool) (v : Nat → Acc × Bool × Bool) (old : Acc) {k : Nat} (hk : k < n) :
    settled old (Tbl.find (((List.range n).filter p).map fun k => (k, v k)) k) =
      if p k then (old.add (v k).1).settle else (old, false) := by
  rw [find_keyed]
  by_cases m : p k = true
  · simp [m, hk, settled]
  · simp [m, settled]

/-- Adding terms to the elements below `n` that a mask names: what each becomes, and whether one overflows. -/
theorem addMasked_spec (n : Nat) (p : Nat → Bool) (v : Nat → Acc × Bool × Bool) {t : Tbl Acc} (order : rising t)
    (keys : ∀ q ∈ t, q.1 < n) :
    let r := addElems (List.range n) (((List.range n).filter p).map fun k => (k, v k)) t
    (∀ k, k < n → r.1.get k (.fin 0) = if p k then ((t.get k (.fin 0)).add (v k).1).settle.1 else t.get k (.fin 0)) ∧
      (r.2 = true ↔ ∃ k, k < n ∧ p k = true ∧ ((t.get k (.fin 0)).add (v k).1).settle.2 = true) := by
  obtain ⟨elems, overflow⟩ := addElems_spec List.pairwise_lt_range (within_masked n p v)
    (⟨order, fun q hq => List.mem_range.mpr (keys q hq)⟩ : Within _ t)
  refine ⟨fun k hk => ?_, overflow.trans (exists_congr fun k => ?_)⟩
  · rw [elems k, if_pos (List.mem_range.mpr hk), settled_masked p v _ hk, apply_ite Prod.fst]
  · rw [List.mem_range]
    refine and_congr_right fun hk => ?_
    rw [settled_masked p v _ hk]
    by_cases m : p k = true <;> simp [m]

/-- Some key of those that a mask names meets a test. -/
theorem any_masked (n : Nat) (p q : Nat → Bool) :
    ((List.range n).filter p).any q = true ↔ ∃ k, k < n ∧ p k = true ∧ q k = true := by
  simp [List.any_eq_true]

/-! ### The elements of a context -/

/-- Sticky bits after OVF (bit 6) and NV (bit 4) may have been set. -/
theorem getLsbD_sticky (st : BitVec 7) (high nv : Bool) (n : Nat) :
    (st ||| (if high then 64 else 0) ||| (if nv then 16 else 0)).getLsbD n =
      (st.getLsbD n || (high && decide (n = 6)) || (nv && decide (n = 4))) := by
  have six : (64 : BitVec 7) = BitVec.twoPow 7 6 := rfl
  have four : (16 : BitVec 7) = BitVec.twoPow 7 4 := rfl
  rw [six, four]
  cases high <;> cases nv <;> simp [BitVec.getLsbD_twoPow, eq_comm]

/-- What a command leaves in a context whose elements of the named quarters take a term each: the terms are added and checked
once against the bound, OVF (bit 6) and NV (bit 4) are set where they arise, and the rest stays (R112, R302, R305). -/
structure Adds (c c' : AccContext) (mask : Nat) (term : Nat → Acc) (high low : Nat → Prop) (invalid : Prop) : Prop where
  elem : ∀ k, k < 16384 → c'.elems.get k (.fin 0) =
    if inMask mask k then ((c.elems.get k (.fin 0)).add (term k)).settle.1 else c.elems.get k (.fin 0)
  overflow : c'.sticky.getLsbD 6 = true ↔ c.sticky.getLsbD 6 = true ∨ ∃ k, k < 16384 ∧ inMask mask k = true ∧
    (high k ∨ ((c.elems.get k (.fin 0)).add (term k)).settle.2 = true)
  invalid : c'.sticky.getLsbD 4 = true ↔ c.sticky.getLsbD 4 = true ∨ invalid ∨ ∃ k, k < 16384 ∧ inMask mask k = true ∧ low k
  others : ∀ n, n ≠ 4 → n ≠ 6 → c'.sticky.getLsbD n = c.sticky.getLsbD n
  poison : c'.poison = c.poison

/-- The queue has no part in it. -/
theorem Adds.withQueue {c r : AccContext} {mask : Nat} {term : Nat → Acc} {high low : Nat → Prop} {invalid : Prop}
    (h : Adds c r mask term high low invalid) (q : List Nat) : Adds c { r with queue := q } mask term high low invalid :=
  ⟨h.elem, h.overflow, h.invalid, h.others, h.poison⟩

/-- Terms and conditions may be given in other words. -/
theorem Adds.congr {c c' : AccContext} {mask : Nat} {term term' : Nat → Acc} {high low high' low' : Nat → Prop}
    {invalid : Prop} (h : Adds c c' mask term high low invalid) (terms : ∀ k, term' k = term k) (highs : ∀ k, high' k ↔ high k)
    (lows : ∀ k, low' k ↔ low k) : Adds c c' mask term' high' low' invalid := by
  obtain rfl := funext terms
  obtain rfl : high' = high := funext fun k => propext (highs k)
  obtain rfl : low' = low := funext fun k => propext (lows k)
  exact h

theorem addAll_poison (c : AccContext) (mask : Nat) (v : Nat → Acc × Bool × Bool) (nv : Bool) :
    (c.addAll mask v nv).poison = c.poison := by simp only [AccContext.addAll]

theorem addAll_queue (c : AccContext) (mask : Nat) (v : Nat → Acc × Bool × Bool) (nv : Bool) :
    (c.addAll mask v nv).queue = c.queue := by simp only [AccContext.addAll]

theorem addAll_adds {c : AccContext} (order : rising c.elems) (keys : ∀ p ∈ c.elems, p.1 < 16384) (mask : Nat)
    (v : Nat → Acc × Bool × Bool) (nv : Bool) :
    Adds c (c.addAll mask v nv) mask (fun k => (v k).1) (fun k => (v k).2.2 = true) (fun k => (v k).2.1 = true) (nv = true) := by
  obtain ⟨elems, overflow⟩ := addMasked_spec 16384 (inMask mask) v order keys
  obtain ⟨high, low, sticky, some6, some4⟩ : ∃ high low : Bool,
      (∀ n, (c.addAll mask v nv).sticky.getLsbD n =
        (c.sticky.getLsbD n || (high && decide (n = 6)) || (low && decide (n = 4)))) ∧
      (high = true ↔ (∃ k, k < 16384 ∧ inMask mask k = true ∧ ((c.elems.get k (.fin 0)).add (v k).1).settle.2 = true) ∨
        ∃ k, k < 16384 ∧ inMask mask k = true ∧ (v k).2.2 = true) ∧
      (low = true ↔ nv = true ∨ ∃ k, k < 16384 ∧ inMask mask k = true ∧ (v k).2.1 = true) := by
    refine ⟨_, _, getLsbD_sticky c.sticky _ _, ?_, ?_⟩
    · rw [Bool.or_eq_true, overflow, List.any_map]
      exact or_congr Iff.rfl (any_masked ..)
    · rw [Bool.or_eq_true, List.any_map]
      exact or_congr Iff.rfl (any_masked ..)
  refine ⟨?_, ?_, ?_, fun n h4 h6 => by simp [sticky n, h4, h6], addAll_poison ..⟩
  · simp only [AccContext.addAll]
    exact elems
  · refine (Bool.eq_iff_iff.mp (sticky 6)).trans ?_
    simp [some6, and_or_left, exists_or, or_comm]
  · refine (Bool.eq_iff_iff.mp (sticky 4)).trans ?_
    simp [some4]

end Sys2Proof.Machine

/-! ## What a drain writes (R113, R304) -/

namespace Sys2Proof.Machine

/-! ### Writes in order -/

/-- A memory after several strings of bytes have been written into it, in order. -/
def Memory.writeAll (m : Memory) (ws : List (Nat × List Byte)) : Memory := ws.foldl (fun m w => m.writeBytes w.1 w.2) m

/-- A write does not reach an address. -/
def Misses (w : Nat × List Byte) (a : Nat) : Prop := a < w.1 ∨ w.1 + w.2.length ≤ a

/-- An address that no write reaches keeps its byte. -/
theorem Memory.read_writeAll_missed {m : Memory} (wf : m.wf = true) {ws : List (Nat × List Byte)} {a : Nat}
    (missed : ∀ w ∈ ws, Misses w a) : (m.writeAll ws).read a = m.read a := by
  induction ws generalizing m with
  | nil => rfl
  | cons w ws ih =>
    have first := missed w List.mem_cons_self
    rw [Memory.writeAll, List.foldl_cons]
    refine (ih (m.wf_writeBytes w.1 w.2 wf) fun v hv => missed v (List.mem_cons_of_mem _ hv)).trans ?_
    rw [m.read_writeBytes wf, if_neg (by unfold Misses at first; omega)]

/-- A write whose bytes no other write reaches is read back. -/
theorem Memory.read_writeAll_of_mem {m : Memory} (wf : m.wf = true) {ws : List (Nat × List Byte)} {w : Nat × List Byte}
    (mem : w ∈ ws) (apart : ∀ v ∈ ws, v = w ∨ ∀ t, t < w.2.length → Misses v (w.1 + t)) {t : Nat} (ht : t < w.2.length) :
    (m.writeAll ws).read (w.1 + t) = w.2.getD t 0 := by
  induction ws generalizing m with
  | nil => cases mem
  | cons v ws ih =>
    have wf' := m.wf_writeBytes v.1 v.2 wf
    have apart' : ∀ u ∈ ws, u = w ∨ ∀ t, t < w.2.length → Misses u (w.1 + t) := fun u hu =>
      apart u (List.mem_cons_of_mem _ hu)
    rw [Memory.writeAll, List.foldl_cons]
    by_cases later : w ∈ ws
    · exact ih wf' later apart'
    · obtain rfl : w = v := (List.mem_cons.mp mem).resolve_right later
      refine (Memory.read_writeAll_missed wf' fun u hu => ?_).trans ?_
      · exact (apart' u hu).resolve_left (fun e => later (e ▸ hu)) t ht
      · rw [m.read_writeBytes wf, if_pos (by omega), Nat.add_sub_cancel_left]

/-! ### Blocks -/

theorem blockRound_length (fmt mode : Nat) (e : Int) (seed : Word) (v : List FVal) :
    (blockRound fmt mode e seed v).1.length = v.length := by
  induction v generalizing seed with
  | nil => rfl
  | cons x v ih => simp [blockRound, ih]

/-- Outside the stochastic mode no draw is made. -/
theorem blockRound_seed {mode : Nat} (hm : mode ≠ 4) (fmt : Nat) (e : Int) (seed : Word) (v : List FVal) :
    (blockRound fmt mode e seed v).2 = seed := by
  induction v with
  | nil => rfl
  | cons x v ih => simp [blockRound, drawFor, hm, ih]

theorem encodeBlock_length (fmt mode : Nat) (seed : Word) (v : List FVal) :
    (encodeBlock fmt mode seed v).codes.length = v.length := by
  unfold encodeBlock
  dsimp only
  split
  · simp
  · split
    · simp
    · split <;> simp [blockRound_length]

theorem encodeBlock_seed {mode : Nat} (hm : mode ≠ 4) (fmt : Nat) (seed : Word) (v : List FVal) :
    (encodeBlock fmt mode seed v).seed = seed := by
  unfold encodeBlock
  dsimp only
  split
  · simp [blockRound_seed hm]
  · split
    · simp [blockRound_seed hm]
    · split <;> simp [blockRound_seed hm]

theorem drainRound_length (fmt mode : Nat) (seed : Word) (v : List FVal) :
    (drainRound fmt mode seed v).data.length = v.length * (matBits fmt / 8) := by
  induction v generalizing seed with
  | nil => simp [drainRound]
  | cons x v ih => simp [drainRound, length_toBytes, ih, Nat.succ_mul, Nat.add_comm]

theorem roundDraw_seed {mode : Nat} (hm : mode ≠ 4) (fmt : Nat) (ftz : Bool) (seed : Word) (fl : Flags) (x : FVal) :
    (roundDraw fmt mode ftz seed fl x).seed = seed := by simp [roundDraw, drawFor, hm]

theorem drainRound_seed {mode : Nat} (hm : mode ≠ 4) (fmt : Nat) (seed : Word) (v : List FVal) :
    (drainRound fmt mode seed v).seed = seed := by
  induction v with
  | nil => rfl
  | cons x v ih => simp [drainRound, roundDraw_seed hm, ih]

/-- The flags of elements rounded one by one. -/
theorem drainRound_flags {mode : Nat} (hm : mode ≠ 4) (fmt : Nat) (seed : Word) (v : List FVal) (n : Nat) :
    (drainRound fmt mode seed v).flags.getLsbD n = true ↔
      ∃ x ∈ v, (roundDraw fmt mode false seed 0 x).flags.getLsbD n = true := by
  induction v with
  | nil => simp [drainRound]
  | cons x v ih =>
    rw [drainRound]
    simp only [roundDraw_seed hm, BitVec.getLsbD_or, Bool.or_eq_true, ih, List.exists_mem_cons_iff]

/-- The bytes of one element among those of a block. -/
theorem drainRound_data {mode : Nat} (hm : mode ≠ 4) (fmt : Nat) (seed : Word) (v : List FVal) {j t : Nat} (hj : j < v.length)
    (ht : t < matBits fmt / 8) :
    (drainRound fmt mode seed v).data.getD (j * (matBits fmt / 8) + t) 0 =
      (toBytes (roundDraw fmt mode false seed 0 v[j]).code (matBits fmt / 8)).getD t 0 := by
  induction v generalizing j with
  | nil => simp at hj
  | cons x v ih =>
    rw [drainRound]
    dsimp only
    rw [roundDraw_seed hm]
    cases j with
    | zero => rw [List.getD_append _ _ _ _ (by rw [length_toBytes]; omega)]; simp
    | succ j =>
      rw [List.getD_append_right _ _ _ _ (by rw [length_toBytes, Nat.succ_mul]; omega), length_toBytes]
      have place : (j + 1) * (matBits fmt / 8) + t - matBits fmt / 8 = j * (matBits fmt / 8) + t := by
        rw [Nat.succ_mul]; omega
      rw [place, ih (by simpa using hj)]
      rfl

/-- An element of a format without block scales takes whole bytes. -/
theorem matBits_plain {fmt : Nat} (plain : scaled fmt = false) : matBits fmt % 8 = 0 := by
  have high : ¬fmt < 11 := by simpa [scaled] using plain
  rw [matBits, if_neg (by omega), if_neg high]
  split <;> rfl

/-- A block row has the bytes of 32 elements. -/
theorem drainBlock_length (fmt mode : Nat) (seed : Word) {v : List FVal} (hv : v.length = 32) :
    (drainBlock fmt mode seed v).data.length = blockRow fmt := by
  unfold drainBlock
  split
  · simp only [packBytes, length_toBytes, encodeBlock_length, hv, blockRow]
    omega
  · next plain =>
    have whole := matBits_plain (Bool.eq_false_of_not_eq_true plain)
    rw [drainRound_length, hv, blockRow]
    omega

theorem drainBlock_seed {mode : Nat} (hm : mode ≠ 4) (fmt : Nat) (seed : Word) (v : List FVal) :
    (drainBlock fmt mode seed v).seed = seed := by
  unfold drainBlock
  split
  · exact encodeBlock_seed hm ..
  · exact drainRound_seed hm ..

end Sys2Proof.Machine

namespace Sys2Proof.Machine

/-! ### Where a drain writes -/

/-- The place of a block row from BASE on (R304). -/
def rowOffset (fmt : Nat) (d : Desc) (p : Nat × Nat) : Nat := p.1 * d.rp * 16 + p.2 * blockRow fmt

/-- The place of a block’s side word from BASE on (R304). -/
def sideOffset (d : Desc) (p : Nat × Nat) : Nat := d.tp * 256 + 8 * p.1 + 2 * p.2

/-- Offsets from BASE are taken by addition. -/
theorem Desc.key_eq (d : Desc) (core o : Nat) : d.key core o = d.key core 0 + o := by
  unfold Desc.key
  split <;> simp [scratchKey, weightKey, Nat.add_assoc]

/-- The blocks that a drain writes are those of the quarters that its mask names. -/
theorem mem_drainBlocks {mask i b : Nat} :
    (i, b) ∈ drainBlocks mask ↔ i < 128 ∧ b < 4 ∧ inMask mask (128 * i + 32 * b) = true := by
  have quarter : b < 4 → 2 * ((128 * i + 32 * b) / 128 / 64) + (128 * i + 32 * b) % 128 / 64 = 2 * (i / 64) + b / 2 := by omega
  simp only [drainBlocks, upto_eq_range', List.mem_flatMap, List.mem_filter, List.mem_range, List.mem_range'_1, List.mem_map,
    Prod.mk.injEq, decide_eq_true_eq]
  constructor
  · rintro ⟨q, ⟨hq, set⟩, j, hj, c, hc, rfl, rfl⟩
    refine ⟨by omega, by omega, ?_⟩
    rw [inMask, quarter (by omega), (by omega : 2 * (j / 64) + c / 2 = q)]
    simpa using set
  · rintro ⟨hi, hb, set⟩
    rw [inMask, quarter hb] at set
    exact ⟨2 * (i / 64) + b / 2, ⟨by omega, by simpa using set⟩, i, by omega, b, by omega, rfl, rfl⟩

/-- An element lies in the block of its row and column, which is named with it. -/
theorem inMask_block (mask k : Nat) : inMask mask (128 * (k / 128) + 32 * (k % 128 / 32)) = inMask mask k := by
  have quarter : 2 * ((128 * (k / 128) + 32 * (k % 128 / 32)) / 128 / 64) + (128 * (k / 128) + 32 * (k % 128 / 32)) % 128 / 64 =
      2 * (k / 128 / 64) + k % 128 / 64 := by omega
  simp only [inMask, quarter]

section

variable {fmt : Nat} {d : Desc} {p q : Nat × Nat}

/-- Rows of enough pitch do not overlap, nor do the blocks of a row. -/
theorem rowOffset_apart (room : 4 * blockRow fmt ≤ d.rp * 16) (hp : p.2 < 4) (hq : q.2 < 4) (ne : p ≠ q) :
    rowOffset fmt d p + blockRow fmt ≤ rowOffset fmt d q ∨ rowOffset fmt d q + blockRow fmt ≤ rowOffset fmt d p := by
  have step : ∀ i j, i < j → i * d.rp * 16 + 4 * blockRow fmt ≤ j * d.rp * 16 := fun i j h => by
    have := Nat.mul_le_mul_right (d.rp * 16) (Nat.succ_le_of_lt h)
    rw [Nat.succ_mul] at this
    simp only [Nat.mul_assoc]
    omega
  have inRow : ∀ b c, b < c → b * blockRow fmt + blockRow fmt ≤ c * blockRow fmt := fun b c h => by
    have := Nat.mul_le_mul_right (blockRow fmt) (Nat.succ_le_of_lt h)
    rwa [Nat.succ_mul] at this
  have last := inRow _ _ hp
  have last' := inRow _ _ hq
  unfold rowOffset
  rcases lt_trichotomy p.1 q.1 with h | h | h
  · have := step _ _ h
    omega
  · rw [h]
    rcases Nat.lt_or_gt_of_ne fun e : p.2 = q.2 => ne (Prod.ext h e) with h | h
    · have := inRow _ _ h
      omega
    · have := inRow _ _ h
      omega
  · have := step _ _ h
    omega

/-- The side words stand behind the rows. -/
theorem rowOffset_sideOffset (room : 127 * d.rp * 16 + 4 * blockRow fmt ≤ d.tp * 256) (hp : p.1 < 128) (hb : p.2 < 4) :
    rowOffset fmt d p + blockRow fmt ≤ sideOffset d q := by
  have row : p.1 * d.rp * 16 ≤ 127 * d.rp * 16 := by gcongr; omega
  have block : (p.2 + 1) * blockRow fmt ≤ 4 * blockRow fmt := by gcongr; omega
  rw [Nat.succ_mul] at block
  unfold rowOffset sideOffset
  omega

theorem sideOffset_apart (hp : p.2 < 4) (hq : q.2 < 4) (ne : p ≠ q) :
    sideOffset d p + 2 ≤ sideOffset d q ∨ sideOffset d q + 2 ≤ sideOffset d p := by
  have : p.1 ≠ q.1 ∨ p.2 ≠ q.2 := by
    by_contra same
    exact ne (Prod.ext (by omega) (by omega))
  unfold sideOffset
  omega

end

/-! ### What a drain writes -/

/-- The values of the elements of a block. -/
def blockElems (elems : Tbl Acc) (p : Nat × Nat) : List FVal :=
  (upto (128 * p.1 + 32 * p.2) 32).map fun k => (elems.get k (.fin 0)).value

theorem blockElems_length (elems : Tbl Acc) (p : Nat × Nat) : (blockElems elems p).length = 32 := by
  simp [blockElems, upto_eq_range']

/-- Blocks with what draining them gives, in order, each with the seed that the one before it leaves. -/
def drainRuns (fmt mode : Nat) (elems : Tbl Acc) : Word → List (Nat × Nat) → List ((Nat × Nat) × Drained)
  | _, [] => []
  | seed, p :: rest =>
    let r := drainBlock fmt mode seed (blockElems elems p)
    (p, r) :: drainRuns fmt mode elems r.seed rest

/-- The strings of bytes that a drained block is written as. -/
def blockWrites (core fmt : Nat) (d : Desc) (q : (Nat × Nat) × Drained) : List (Nat × List Byte) :=
  (d.key core (rowOffset fmt d q.1), q.2.data) ::
    if scaled fmt then [(d.key core (sideOffset d q.1), toBytes q.2.side 2)] else []

theorem State.applyPitch_pitch (s : State) (key : Nat) (data : List Byte) :
    (s.applyPitch key data).store.pitch = s.store.pitch.writeBytes key data := by simp [State.applyPitch, State.writePitch]

@[simp] theorem State.applyPitch_acc (s : State) (key : Nat) (data : List Byte) : (s.applyPitch key data).acc = s.acc := by
  simp [State.applyPitch, State.writePitch]

/-- A drain writes the blocks in order, collects their flags and leaves the accumulators. -/
theorem drainAll_spec (s : State) (core fmt mode : Nat) (d : Desc) (elems : Tbl Acc) (seed : Word) (fl : Flags)
    (l : List (Nat × Nat)) :
    let r := s.drainAll core fmt mode d elems seed fl l
    r.1.store.pitch = s.store.pitch.writeAll ((drainRuns fmt mode elems seed l).flatMap (blockWrites core fmt d)) ∧
      r.2 = (drainRuns fmt mode elems seed l).foldl (fun f q => f ||| q.2.flags) fl ∧ r.1.acc = s.acc := by
  induction l generalizing s seed fl with
  | nil => exact ⟨rfl, rfl, rfl⟩
  | cons p l ih =>
    obtain ⟨i, b⟩ := p
    let r := drainBlock fmt mode seed (blockElems elems (i, b))
    obtain ⟨pitch, flags, acc⟩ := ih
      (let t := s.applyPitch (d.key core (i * d.rp * 16 + b * blockRow fmt)) r.data
       if scaled fmt then t.applyPitch (d.key core (d.tp * 256 + 8 * i + 2 * b)) (toBytes r.side 2) else t)
      r.seed (fl ||| r.flags)
    refine ⟨pitch.trans ?_, flags, acc.trans ?_⟩
    · rw [drainRuns]
      dsimp only
      rw [List.flatMap_cons, Memory.writeAll, Memory.writeAll, List.foldl_append]
      congr 1
      by_cases sc : scaled fmt = true
      · simp [sc, blockWrites, State.applyPitch_pitch, rowOffset, sideOffset, r]
      · simp [sc, blockWrites, State.applyPitch_pitch, rowOffset, r]
    · split <;> simp

/-- Whatever the mode, the blocks are those of the list, and each gives a full row. -/
theorem drainRuns_mem {fmt mode : Nat} {elems : Tbl Acc} {seed : Word} {l : List (Nat × Nat)} {q : (Nat × Nat) × Drained}
    (h : q ∈ drainRuns fmt mode elems seed l) : q.1 ∈ l ∧ q.2.data.length = blockRow fmt := by
  induction l generalizing seed with
  | nil => cases h
  | cons p l ih =>
    rcases List.mem_cons.mp h with rfl | h
    · exact ⟨List.mem_cons_self, drainBlock_length fmt mode seed (blockElems_length elems p)⟩
    · exact ⟨List.mem_cons_of_mem _ (ih h).1, (ih h).2⟩

/-- Outside the stochastic mode every block is drained with the same seed. -/
theorem drainRuns_eq_map {mode : Nat} (hm : mode ≠ 4) (fmt : Nat) (elems : Tbl Acc) (seed : Word) (l : List (Nat × Nat)) :
    drainRuns fmt mode elems seed l = l.map fun p => (p, drainBlock fmt mode seed (blockElems elems p)) := by
  induction l with
  | nil => rfl
  | cons p l ih => rw [drainRuns, drainBlock_seed hm, ih, List.map_cons]

/-- A bit of flags that have been collected. -/
theorem getLsbD_foldl_or {α : Type} (g : α → Flags) (l : List α) (fl : Flags) (n : Nat) :
    (l.foldl (fun f q => f ||| g q) fl).getLsbD n = true ↔ fl.getLsbD n = true ∨ ∃ q ∈ l, (g q).getLsbD n = true := by
  induction l generalizing fl with
  | nil => simp
  | cons q l ih => rw [List.foldl_cons, ih]; simp [or_assoc]

end Sys2Proof.Machine

namespace Sys2Proof.Machine

/-! ### What stands in the pitch after a drain -/

/-- Half a row of a named quarter is among the ranges of the tile. -/
theorem rowRange_mem {fmt mask i h : Nat} {d : Desc} (hi : i < 128) (hh : h < 2) (named : inMask mask (128 * i + 64 * h) = true) :
    (i * d.rp * 16 + 2 * h * blockRow fmt, 2 * blockRow fmt) ∈ tileRanges fmt mask d := by
  refine List.mem_flatMap.mpr ⟨i, List.mem_range.mpr hi, List.mem_flatMap.mpr ⟨h, List.mem_range.mpr hh, ?_⟩⟩
  rw [if_neg (by simp [named])]
  by_cases sc : scaled fmt = true
  · simp [sc]
  · have whole := matBits_plain (Bool.eq_false_of_not_eq_true sc)
    obtain ⟨w, e⟩ := Nat.dvd_of_mod_eq_zero whole
    have place : 2 * h * blockRow fmt = 64 * h * (matBits fmt / 8) := by
      rw [blockRow, e, Nat.mul_div_cancel_left w (by norm_num)]
      ring
    have size : 2 * blockRow fmt = 8 * matBits fmt := by unfold blockRow; omega
    rw [if_neg sc, place, size]
    exact List.mem_singleton.mpr rfl

/-- The side words of half a row of a named quarter are, where the format has them. -/
theorem sideRange_mem {fmt mask i h : Nat} {d : Desc} (hi : i < 128) (hh : h < 2) (named : inMask mask (128 * i + 64 * h) = true)
    (sc : scaled fmt = true) : (d.tp * 256 + 8 * i + 4 * h, 4) ∈ tileRanges fmt mask d := by
  refine List.mem_flatMap.mpr ⟨i, List.mem_range.mpr hi, List.mem_flatMap.mpr ⟨h, List.mem_range.mpr hh, ?_⟩⟩
  simp [named, sc]

/-- The half of a row that holds a block is named with it. -/
theorem inMask_half {mask i b : Nat} (hb : b < 4) : inMask mask (128 * i + 64 * (b / 2)) = inMask mask (128 * i + 32 * b) := by
  have quarter : 2 * ((128 * i + 64 * (b / 2)) / 128 / 64) + (128 * i + 64 * (b / 2)) % 128 / 64 =
      2 * ((128 * i + 32 * b) / 128 / 64) + (128 * i + 32 * b) % 128 / 64 := by omega
  simp only [inMask, quarter]

/-- The strings of bytes that a drain of the quarters of a mask writes. -/
def drainWrites (core fmt mode : Nat) (d : Desc) (elems : Tbl Acc) (seed : Word) (mask : Nat) : List (Nat × List Byte) :=
  (drainRuns fmt mode elems seed (drainBlocks mask)).flatMap (blockWrites core fmt d)

/-- A string of bytes is the row of a block, or its side word. -/
theorem mem_blockWrites {core fmt : Nat} {d : Desc} {q : (Nat × Nat) × Drained} {w : Nat × List Byte} :
    w ∈ blockWrites core fmt d q ↔ w = (d.key core (rowOffset fmt d q.1), q.2.data) ∨
      scaled fmt = true ∧ w = (d.key core (sideOffset d q.1), toBytes q.2.side 2) := by
  by_cases sc : scaled fmt = true <;> simp [blockWrites, sc]

section

variable {core fmt mode mask : Nat} {d : Desc} {elems : Tbl Acc} {seed : Word} {m : Memory}

/-- A drain writes inside the ranges of its tile. -/
theorem drainWrites_inside {a : Nat}
    (outside : ∀ r ∈ tileRanges fmt mask d, a < d.key core r.1 ∨ d.key core r.1 + r.2 ≤ a) :
    ∀ w ∈ drainWrites core fmt mode d elems seed mask, Misses w a := by
  intro w hw
  obtain ⟨⟨⟨i, b⟩, r⟩, run, mem⟩ := List.mem_flatMap.mp hw
  obtain ⟨block, full⟩ := drainRuns_mem run
  obtain ⟨hi, hb, named⟩ := mem_drainBlocks.mp block
  rw [← inMask_half hb] at named
  have half : b / 2 < 2 := by omega
  rcases mem_blockWrites.mp mem with rfl | ⟨sc, rfl⟩
  · have beyond := outside _ (rowRange_mem hi half named)
    have start : 2 * (b / 2) * blockRow fmt ≤ b * blockRow fmt := Nat.mul_le_mul_right _ (by omega)
    have stop : b * blockRow fmt + blockRow fmt ≤ 2 * (b / 2) * blockRow fmt + 2 * blockRow fmt := by
      rw [← Nat.succ_mul, ← Nat.add_mul]
      exact Nat.mul_le_mul_right _ (by omega)
    rw [d.key_eq] at beyond
    unfold Misses
    dsimp only at full ⊢
    rw [d.key_eq, full, rowOffset]
    dsimp only
    omega
  · have beyond := outside _ (sideRange_mem hi half named sc)
    rw [d.key_eq] at beyond
    unfold Misses
    dsimp only
    rw [d.key_eq, length_toBytes, sideOffset]
    dsimp only
    omega

section

variable (hm : mode ≠ 4)

include hm

/-- The strings of a drain, outside the stochastic mode. -/
theorem mem_drainWrites {w : Nat × List Byte} : w ∈ drainWrites core fmt mode d elems seed mask ↔
    ∃ p ∈ drainBlocks mask, w ∈ blockWrites core fmt d (p, drainBlock fmt mode seed (blockElems elems p)) := by
  simp [drainWrites, drainRuns_eq_map hm, List.mem_flatMap]

variable (wf : m.wf = true) (rows : 4 * blockRow fmt ≤ d.rp * 16)
  (sides : scaled fmt = true → 127 * d.rp * 16 + 4 * blockRow fmt ≤ d.tp * 256) {p : Nat × Nat} (hp : p ∈ drainBlocks mask)

include wf rows sides hp

/-- The row of a block is read back. -/
theorem read_drained_row {t : Nat} (ht : t < blockRow fmt) :
    (m.writeAll (drainWrites core fmt mode d elems seed mask)).read (d.key core (rowOffset fmt d p) + t) =
      (drainBlock fmt mode seed (blockElems elems p)).data.getD t 0 := by
  obtain ⟨hi, hb, -⟩ := mem_drainBlocks.mp hp
  have full : ∀ q, (drainBlock fmt mode seed (blockElems elems q)).data.length = blockRow fmt :=
    fun q => drainBlock_length fmt mode seed (blockElems_length elems q)
  refine Memory.read_writeAll_of_mem wf ((mem_drainWrites hm).mpr ⟨p, hp, mem_blockWrites.mpr (.inl rfl)⟩) (fun v hv => ?_)
    (by rwa [full])
  obtain ⟨q, hq, mem⟩ := (mem_drainWrites hm).mp hv
  obtain ⟨hi', hb', -⟩ := mem_drainBlocks.mp hq
  simp only [full, Misses]
  rcases mem_blockWrites.mp mem with rfl | ⟨sc, rfl⟩
  · by_cases e : q = p
    · exact .inl (by rw [e])
    · have apart := rowOffset_apart rows hb' hb e
      refine .inr fun t ht => ?_
      dsimp only
      rw [full, d.key_eq core (rowOffset fmt d q), d.key_eq core (rowOffset fmt d p)]
      omega
  · have behind : rowOffset fmt d p + blockRow fmt ≤ sideOffset d q := rowOffset_sideOffset (sides sc) hi hb
    refine .inr fun t ht => ?_
    dsimp only
    rw [d.key_eq core (sideOffset d q), d.key_eq core (rowOffset fmt d p)]
    omega

omit rows in
/-- The side word of a block is read back. -/
theorem read_drained_side (sc : scaled fmt = true) {t : Nat} (ht : t < 2) :
    (m.writeAll (drainWrites core fmt mode d elems seed mask)).read (d.key core (sideOffset d p) + t) =
      (toBytes (drainBlock fmt mode seed (blockElems elems p)).side 2).getD t 0 := by
  obtain ⟨hi, hb, -⟩ := mem_drainBlocks.mp hp
  refine Memory.read_writeAll_of_mem wf ((mem_drainWrites hm).mpr ⟨p, hp, mem_blockWrites.mpr (.inr ⟨sc, rfl⟩)⟩) (fun v hv => ?_)
    (by rwa [length_toBytes])
  obtain ⟨q, hq, mem⟩ := (mem_drainWrites hm).mp hv
  obtain ⟨hi', hb', -⟩ := mem_drainBlocks.mp hq
  simp only [length_toBytes, Misses]
  rcases mem_blockWrites.mp mem with rfl | ⟨-, rfl⟩
  · have behind : rowOffset fmt d q + blockRow fmt ≤ sideOffset d p := rowOffset_sideOffset (sides sc) hi' hb'
    refine .inr fun t ht => ?_
    dsimp only
    rw [drainBlock_length fmt mode seed (blockElems_length elems q), d.key_eq core (rowOffset fmt d q),
      d.key_eq core (sideOffset d p)]
    omega
  · by_cases e : q = p
    · exact .inl (by rw [e])
    · have apart := sideOffset_apart (d := d) hb' hb e
      refine .inr fun t ht => ?_
      dsimp only
      rw [length_toBytes, d.key_eq core (sideOffset d q), d.key_eq core (sideOffset d p)]
      omega

end

end

end Sys2Proof.Machine

/-! ## Matrix commands (R296, R302 to R307) -/

namespace Sys2Proof.Machine

open Safety (rising)

/-! ### Contexts -/

theorem State.context_congr {s t : State} (h : t.acc = s.acc) (core ctx : Nat) : t.context core ctx = s.context core ctx := by
  simp [State.context, h]

@[simp] theorem State.context_modContext (s : State) (core ctx : Nat) (g : AccContext → AccContext) :
    (s.modContext core ctx g).context core ctx = g (s.context core ctx) := by
  simp [State.context, State.modContext]

/-- A command that has ended leaves its queue; its context is otherwise as it was. -/
theorem State.endCommand_context (s : State) (core ctx id : Nat) : (s.endCommand core ctx id).context core ctx =
    { s.context core ctx with queue := (s.context core ctx).queue.filter fun i => decide (i ≠ id) } := by
  rw [← s.context_modContext core ctx fun c => { c with queue := c.queue.filter fun i => decide (i ≠ id) }]
  exact State.context_congr (by simp [State.endCommand]) core ctx

/-- Where no fibre counts a command, its end lands nothing. -/
theorem State.endCommand_landings {s : State} {id : Nat} (h : ∀ p ∈ s.fibres, ∀ q ∈ p.2.counted, q.op ≠ id) (core ctx : Nat) :
    (s.endCommand core ctx id).landings = s.landings := by
  have none : s.fibres.select (fun _ f => f.counted.any fun c => decide (c.op = id)) = [] := by
    refine List.filter_eq_nil_iff.mpr fun p hp some => ?_
    obtain ⟨q, hq, e⟩ := List.any_eq_true.mp some
    exact h p hp q hq (of_decide_eq_true e)
  rw [State.endCommand]
  dsimp only [State.modContext]
  rw [none]
  exact (Safety.same_recheck core).landings

/-- The elements outside the quarters of a mask, once those inside have been cleared. -/
theorem get_select_unmasked (t : Tbl Acc) (mask k : Nat) : (t.select fun k _ => !inMask mask k).get k (.fin 0) =
    if inMask mask k then .fin 0 else t.get k (.fin 0) := by
  rw [Tbl.get, Tbl.find_selectKeys]
  by_cases m : inMask mask k = true <;> simp [m, Tbl.get]

/-! ### Commands -/

/-- F4X elements alone take half a byte. -/
theorem matBits_eq_four {fmt : Nat} : matBits fmt = 4 ↔ fmt = 8 := by
  by_cases four : fmt = 8
  · simp [matBits, four]
  · rw [matBits, if_neg four]
    split
    · simp [four]
    · split <;> simp [four]

/-- A tile’s element as R305 reads it. -/
theorem State.tileElem_value (s : State) (core fmt : Nat) (d : Desc) (k : Nat) : (s.tileElem core fmt d k).1 =
    let place := k / 128 * d.rp * 16 + k % 128 * matBits fmt / 8
    let side := s.tileRead core d (d.tp * 256 + 8 * (k / 128) + 2 * (k % 128 / 32)) 2
    if scaled fmt then
      blockValue fmt (if fmt = 8 then s.tileRead core d place 1 / 16 ^ (k % 2) % 16 else s.tileRead core d place 1) (side % 256)
        (if fmt = 8 then side / 256 else 0)
    else decodePlain (floatFmt fmt) (s.tileRead core d place (matBits fmt / 8)) false := by
  by_cases sc : scaled fmt = true
  · have parity : k % 128 % 2 = k % 2 := by omega
    simp only [State.tileElem, sc, if_true, matBits_eq_four, parity, pow_mul]
    rfl
  · obtain ⟨w, e⟩ := Nat.dvd_of_mod_eq_zero (matBits_plain (Bool.eq_false_of_not_eq_true sc))
    have place : k % 128 * (matBits fmt / 8) = k % 128 * matBits fmt / 8 :=
      (Nat.mul_div_assoc _ ⟨w, e⟩).symm
    simp [State.tileElem, sc, place]

/-- Its block is invalid where an F8E5 scale is (R99). -/
theorem State.tileElem_invalid (s : State) (core fmt : Nat) (d : Desc) (k : Nat) : (s.tileElem core fmt d k).2 = true ↔
    fmt = 10 ∧ s.tileRead core d (d.tp * 256 + 8 * (k / 128) + 2 * (k % 128 / 32)) 2 % 256 ≤ 6 := by
  by_cases sc : scaled fmt = true
  · simp [State.tileElem, sc, blockInvalid]
  · have other : fmt ≠ 10 := by
      rintro rfl
      exact sc rfl
    simp [State.tileElem, sc, other]

section

variable {s : State} {core ctx : Nat} (order : rising (s.context core ctx).elems)
  (keys : ∀ p ∈ (s.context core ctx).elems, p.1 < 16384)

include order keys

/-- An MMA adds the sums of the products of its rows (R302). -/
theorem runMma_adds (fmt mask : Nat) (a b dd : DWord) (ra rb : List (Nat × List Word × List Word)) :
    let tiles := bits dd.toNat 15 0 / 32
    let rowsA := s.operandRows core fmt tiles (bits dd.toNat 43 32) (.ofWord a) ra
    let rowsB := s.operandRows core fmt tiles (bits dd.toNat 55 44) (.ofWord b) rb
    let row := fun (rows : List (List FVal × Bool)) (n : Nat) => ((rows.map fun q => q.1.map (accOf 136))[n]?).getD []
    let sum := fun (k : Nat) => rowSum (row rowsA (k / 128)) (row rowsB (k % 128))
    Adds (s.context core ctx) ((s.runMma core ctx fmt mask a b dd ra rb).context core ctx) mask (fun k => (sum k).1)
      (fun k => (sum k).2.2 = true) (fun k => (sum k).2.1 = true) (∃ r ∈ rowsA ++ rowsB, r.2 = true) := by
  intro tiles rowsA rowsB row sum
  rw [State.runMma, State.context_modContext, ← List.any_eq_true]
  exact addAll_adds order keys mask sum _

/-- MACC adds the elements of its tile, or takes them away (R305). -/
theorem runMacc_adds (fmt mask : Nat) (subtract : Bool) (src : DWord) :
    let value := fun k => accOf 272 (s.tileElem core fmt (.ofWord src) k).1
    Adds (s.context core ctx) ((s.runMacc core ctx fmt mask subtract src).context core ctx) mask
      (fun k => if subtract then (value k).negate else value k) (fun k => ∃ n, value k = .beyond n)
      (fun k => (s.tileElem core fmt (.ofWord src) k).2 = true) False := by
  intro value
  rw [State.runMacc, State.context_modContext]
  refine ⟨(addAll_adds order keys mask _ _).elem, (addAll_adds order keys mask _ _).overflow.trans ?_,
    (addAll_adds order keys mask _ _).invalid.trans ?_, (addAll_adds order keys mask _ _).others, addAll_poison ..⟩
  · refine or_congr Iff.rfl (exists_congr fun k => and_congr_right fun _ => and_congr_right fun _ => or_congr ?_ Iff.rfl)
    dsimp only [value]
    cases accOf 272 (s.tileElem core fmt (.ofWord src) k).1 <;> simp
  · rw [any_masked]
    simp

end

end Sys2Proof.Machine

namespace Sys2Proof.Machine

/-! ### MDRAIN (R304) -/

section

variable (s : State) (core ctx fmt mask mode seed : Nat) (clear : Bool) (dst : DWord)

/-- A drain leaves the elements, or clears those that it has written, and raises its flags. -/
theorem runDrain_context : (s.runDrain core ctx fmt mask mode seed clear dst).context core ctx =
    { s.context core ctx with
      sticky := (s.context core ctx).sticky |||
        ((drainRuns fmt mode (s.context core ctx).elems (BitVec.ofNat 32 seed) (drainBlocks mask)).foldl
          (fun (f : Flags) q => f ||| q.2.flags) 0).setWidth 7,
      elems := if clear then (s.context core ctx).elems.select fun k _ => !inMask mask k else (s.context core ctx).elems } := by
  obtain ⟨-, flags, acc⟩ := drainAll_spec s core fmt mode (.ofWord dst) (s.context core ctx).elems (BitVec.ofNat 32 seed) 0
    (drainBlocks mask)
  rw [State.runDrain, State.context_modContext, State.context_congr acc, flags]

/-- It writes its blocks into the pitch. -/
theorem runDrain_pitch : (s.runDrain core ctx fmt mask mode seed clear dst).store.pitch =
    s.store.pitch.writeAll
      (drainWrites core fmt mode (.ofWord dst) (s.context core ctx).elems (BitVec.ofNat 32 seed) mask) := by
  rw [State.runDrain, State.modContext_store]
  exact (drainAll_spec ..).1

end

/-- A bit that a drain adds to the sticky bits. -/
theorem getLsbD_drainSticky (st : BitVec 7) (fl : Flags) {n : Nat} (h : n < 7) :
    (st ||| fl.setWidth 7).getLsbD n = true ↔ st.getLsbD n = true ∨ fl.getLsbD n = true := by
  simp [h]

section

variable {fmt mode mask : Nat} {elems : Tbl Acc} {seed : Word}

/-- Element `j` of a block. -/
theorem blockElems_getElem (p : Nat × Nat) {j : Nat} (hj : j < (blockElems elems p).length) :
    (blockElems elems p)[j] = (elems.get (128 * p.1 + 32 * p.2 + j) (.fin 0)).value := by
  simp [blockElems, upto_eq_range']

/-- The elements of the blocks of a mask are those that it names. -/
theorem exists_block_elem (P : FVal → Prop) : (∃ p ∈ drainBlocks mask, ∃ x ∈ blockElems elems p, P x) ↔
    ∃ k, k < 16384 ∧ inMask mask k = true ∧ P (elems.get k (.fin 0)).value := by
  constructor
  · rintro ⟨⟨i, b⟩, hp, x, hx, px⟩
    obtain ⟨hi, hb, named⟩ := mem_drainBlocks.mp hp
    obtain ⟨k, hk, rfl⟩ := List.mem_map.mp hx
    obtain ⟨low, high⟩ := Safety.mem_upto _ _ _ hk
    refine ⟨k, by omega, ?_, px⟩
    rw [← inMask_block, (by omega : k / 128 = i), (by omega : k % 128 / 32 = b)]
    exact named
  · rintro ⟨k, hk, named, pk⟩
    refine ⟨(k / 128, k % 128 / 32), mem_drainBlocks.mpr ⟨by omega, by omega, by rwa [inMask_block]⟩, _, ?_, pk⟩
    refine List.mem_map.mpr ⟨k, ?_, rfl⟩
    rw [upto_eq_range', List.mem_range'_1]
    dsimp only
    omega

/-- What a drain collects are the flags of its blocks. -/
theorem collectedFlags (hm : mode ≠ 4) (n : Nat) :
    ((drainRuns fmt mode elems seed (drainBlocks mask)).foldl (fun (f : Flags) q => f ||| q.2.flags) 0).getLsbD n = true ↔
      ∃ p ∈ drainBlocks mask, (drainBlock fmt mode seed (blockElems elems p)).flags.getLsbD n = true := by
  rw [getLsbD_foldl_or, drainRuns_eq_map hm]
  simp

/-- The flags of a drain of a format without block scales are those of its elements. -/
theorem drainedFlags_plain (hm : mode ≠ 4) (plain : scaled fmt = false) (n : Nat) :
    (∃ p ∈ drainBlocks mask, (drainBlock fmt mode seed (blockElems elems p)).flags.getLsbD n = true) ↔
      ∃ k, k < 16384 ∧ inMask mask k = true ∧
        (roundDraw fmt mode false seed 0 (elems.get k (.fin 0)).value).flags.getLsbD n = true := by
  rw [← exists_block_elem fun x => (roundDraw fmt mode false seed 0 x).flags.getLsbD n = true]
  simp only [drainBlock, plain, Bool.false_eq_true, if_false, drainRound_flags hm]

/-- Those of a format with block scales are those of its blocks. -/
theorem drainedFlags_scaled (sc : scaled fmt = true) (n : Nat) :
    (∃ p ∈ drainBlocks mask, (drainBlock fmt mode seed (blockElems elems p)).flags.getLsbD n = true) ↔
      ∃ i b, i < 128 ∧ b < 4 ∧ inMask mask (128 * i + 32 * b) = true ∧
        (encodeBlock fmt mode seed (blockElems elems (i, b))).flags.getLsbD n = true := by
  simp only [Prod.exists, mem_drainBlocks, drainBlock, sc, if_true, and_assoc]

/-- A row of a format without block scales has the bytes of its 32 elements. -/
theorem blockRow_plain (plain : scaled fmt = false) : blockRow fmt = 32 * (matBits fmt / 8) := by
  have whole := matBits_plain plain
  unfold blockRow
  omega

/-- An element lies in the row of its block. -/
theorem elem_place (plain : scaled fmt = false) (d : Desc) (k : Nat) : k / 128 * d.rp * 16 + k % 128 * (matBits fmt / 8) =
    rowOffset fmt d (k / 128, k % 128 / 32) + k % 32 * (matBits fmt / 8) := by
  have column : k % 128 * (matBits fmt / 8) = k % 128 / 32 * (32 * (matBits fmt / 8)) + k % 32 * (matBits fmt / 8) := by
    rw [← Nat.mul_assoc, ← Nat.add_mul]
    congr 1
    omega
  rw [rowOffset, blockRow_plain plain, column, Nat.add_assoc]

theorem blockElems_of_elem {k : Nat} (inBlock : k % 32 < (blockElems elems (k / 128, k % 128 / 32)).length) :
    (blockElems elems (k / 128, k % 128 / 32))[k % 32] = (elems.get k (.fin 0)).value := by
  rw [blockElems_getElem]
  dsimp only
  rw [(by omega : 128 * (k / 128) + 32 * (k % 128 / 32) + k % 32 = k)]

/-- The rows of a tile of sound shape have room for four blocks (R304). -/
theorem rows_of_shape {d : Desc} (shape : tileShapeBad fmt d = false) : 4 * blockRow fmt ≤ d.rp * 16 := by
  simp only [tileShapeBad, Bool.or_eq_false_iff, decide_eq_false_iff_not, not_or, not_lt] at shape
  exact shape.1.2

section

variable {core : Nat} {d : Desc} {m : Memory} (hm : mode ≠ 4) (wf : m.wf = true) (shape : tileShapeBad fmt d = false)

include hm wf shape

/-- An element of a format without block scales stands in its place, rounded. -/
theorem readBytes_drained_elem (plain : scaled fmt = false) {k : Nat} (hk : k < 16384) (named : inMask mask k = true) :
    let bytes := toBytes (roundDraw fmt mode false seed 0 (elems.get k (.fin 0)).value).code (matBits fmt / 8)
    (m.writeAll (drainWrites core fmt mode d elems seed mask)).readBytes
      (d.key core (k / 128 * d.rp * 16 + k % 128 * (matBits fmt / 8))) bytes.length = bytes := by
  intro bytes
  have hp : (k / 128, k % 128 / 32) ∈ drainBlocks mask := mem_drainBlocks.mpr ⟨by omega, by omega, by rwa [inMask_block]⟩
  have inBlock : k % 32 < (blockElems elems (k / 128, k % 128 / 32)).length := by
    rw [blockElems_length]
    exact Nat.mod_lt _ (by norm_num)
  refine Memory.readBytes_eq _ _ bytes fun t ht => ?_
  rw [length_toBytes] at ht
  have fits : k % 32 * (matBits fmt / 8) + t < blockRow fmt := by
    have := Nat.mul_le_mul_right (matBits fmt / 8) (Nat.succ_le_of_lt (Nat.mod_lt k (by norm_num : 32 > 0)))
    rw [Nat.succ_mul] at this
    rw [blockRow_plain plain]
    omega
  rw [elem_place plain, d.key_eq, Nat.add_assoc, Nat.add_assoc, ← Nat.add_assoc (d.key core 0), ← d.key_eq,
    read_drained_row hm wf (rows_of_shape shape) (by simp [plain]) hp fits]
  simp only [drainBlock, plain, Bool.false_eq_true, if_false]
  rw [drainRound_data hm fmt seed _ inBlock ht, blockElems_of_elem inBlock]

/-- A block of a format with block scales stands in its place, packed, with its side word. -/
theorem readBytes_drained_block (sc : scaled fmt = true) (behind : 127 * d.rp * 16 + 4 * blockRow fmt ≤ d.tp * 256) {i b : Nat}
    (hi : i < 128) (hb : b < 4) (named : inMask mask (128 * i + 32 * b) = true) :
    let after := m.writeAll (drainWrites core fmt mode d elems seed mask)
    let block := encodeBlock fmt mode seed (blockElems elems (i, b))
    let row := packBytes (matBits fmt) block.codes
    let side := toBytes (block.scale + 256 * block.extra) 2
    after.readBytes (d.key core (i * d.rp * 16 + b * blockRow fmt)) row.length = row ∧
      after.readBytes (d.key core (d.tp * 256 + 8 * i + 2 * b)) side.length = side := by
  intro after block row side
  have hp : (i, b) ∈ drainBlocks mask := mem_drainBlocks.mpr ⟨hi, hb, named⟩
  have drained : drainBlock fmt mode seed (blockElems elems (i, b)) =
      { data := row, side := block.scale + 256 * block.extra, seed := block.seed, flags := block.flags } := by
    rw [drainBlock, if_pos sc]
  have full : row.length = blockRow fmt := by
    rw [← drainBlock_length fmt mode seed (blockElems_length elems (i, b)), drained]
  constructor
  · refine Memory.readBytes_eq _ _ row fun t ht => ?_
    rw [full] at ht
    exact (read_drained_row hm wf (rows_of_shape shape) (fun _ => behind) hp ht).trans (by rw [drained])
  · refine Memory.readBytes_eq _ _ side fun t ht => ?_
    rw [length_toBytes] at ht
    exact (read_drained_side hm wf (fun _ => behind) hp sc ht).trans (by rw [drained])

end

end

/-! ### MSTAT (R307) -/

/-- MSTAT clears the sticky bits where it is told to, and leaves the rest of its context. -/
theorem runStat_context (s : State) (key core ctx : Nat) (clear busy : Bool) (targets : List Loc) :
    (s.runStat key core ctx clear busy targets).context core ctx =
      if clear then { s.context core ctx with sticky := 0 } else s.context core ctx := by
  cases clear
  · exact State.context_congr (s.land_acc _ _) core ctx
  · simp only [State.runStat, if_true, State.context_modContext, State.context_congr (s.land_acc _ _)]

theorem State.land_find (s : State) (key : Nat) (writes : List (Loc × Word)) :
    (s.land key writes).landings.find s.nextId = some { fibre := key, writes := writes } := by simp [State.land]

/-- Its report is on its way. -/
theorem runStat_landing (s : State) (key core ctx : Nat) (clear busy : Bool) (l : Loc) :
    let c := s.context core ctx
    let v := c.sticky.toNat + (if c.poison then 128 else 0) + if busy then 256 else 0
    (s.runStat key core ctx clear busy [l]).landings.find s.nextId =
        some { fibre := key, writes := [(l, BitVec.ofNat 32 v)] } ∧
      (s.runStat key core ctx clear busy [l]).fibres = s.fibres := by
  cases clear
  · exact ⟨s.land_find key _, rfl⟩
  · exact ⟨s.land_find key _, rfl⟩

end Sys2Proof.Machine

namespace Sys2Proof.Machine

open Safety (rising storageOk)

/-! ### The end of a command -/

/-- The state in which the oldest command of a context has executed and left its queue. -/
def State.commanded (s : State) (core ctx id : Nat) (o : EngineOp) (cmd : MtxCommand) : State :=
  ((s.runCommand core ctx o cmd).commandDone core ctx o cmd).endCommand core ctx id

theorem exec_command {s : State} {core ctx id : Nat} {rest : List Nat} {o : EngineOp} {cmd : MtxCommand}
    (head : (s.context core ctx).queue = id :: rest) (found : s.engine.find id = some o) (job : o.job = .mtx ctx cmd) :
    exec (.mtxCommandComplete core ctx) s = .next (s.commanded core ctx id o cmd) := by
  change execMtxCommandComplete core ctx s = _
  simp only [execMtxCommandComplete, head, found, job, State.commanded]

section

variable (s : State) (core ctx id : Nat) (o : EngineOp) (cmd : MtxCommand)

theorem runMma_queue (fmt mask : Nat) (a b d : DWord) (ra rb : List (Nat × List Word × List Word)) :
    ((s.runMma core ctx fmt mask a b d ra rb).context core ctx).queue = (s.context core ctx).queue := by
  rw [State.runMma, State.context_modContext, addAll_queue]

theorem runMacc_queue (fmt mask : Nat) (subtract : Bool) (src : DWord) :
    ((s.runMacc core ctx fmt mask subtract src).context core ctx).queue = (s.context core ctx).queue := by
  rw [State.runMacc, State.context_modContext, addAll_queue]

/-- MZERO clears the elements of the named quarters, and the poison where it names all (R303). -/
theorem runMzero_context (mask : Nat) : (s.runMzero core ctx mask).context core ctx =
    { s.context core ctx with
      elems := (s.context core ctx).elems.select fun k _ => !inMask mask k,
      poison := (s.context core ctx).poison && decide (mask ≠ 15) } := by
  rw [State.runMzero, State.context_modContext]

section

variable {o : EngineOp} (units : o.units = [])

include units

/-- An MMA whose operands no unit of the pitch has been read for sees the pitch as it is (R309). -/
theorem runCommand_mma (fmt mask : Nat) (a b d : DWord) (ra rb : List (Nat × List Word × List Word)) :
    (s.runCommand core ctx o (.mma fmt mask a b d ra rb)).context core ctx =
      (s.runMma core ctx fmt mask a b d ra rb).context core ctx := by
  rw [State.runCommand, units]
  exact State.context_congr (by rfl) core ctx

theorem runCommand_acc (fmt mask : Nat) (subtract : Bool) (src : DWord) :
    (s.runCommand core ctx o (.acc fmt mask subtract src)).context core ctx =
      (s.runMacc core ctx fmt mask subtract src).context core ctx := by
  rw [State.runCommand, units]
  exact State.context_congr (by rfl) core ctx

theorem runCommand_drain (fmt mask mode seed : Nat) (clear : Bool) (dst : DWord) :
    s.runCommand core ctx o (.drain fmt mask mode seed clear dst) = s.runDrain core ctx fmt mask mode seed clear dst := by
  rw [State.runCommand, units]
  rfl

/-- No command changes the queue of its context before it ends. -/
theorem runCommand_queue :
    ((s.runCommand core ctx o cmd).context core ctx).queue = (s.context core ctx).queue := by
  cases cmd with
  | mma => rw [runCommand_mma s core ctx units, runMma_queue]
  | zero => rw [State.runCommand, runMzero_context]
  | drain => rw [runCommand_drain s core ctx units, runDrain_context]
  | acc => rw [runCommand_acc s core ctx units, runMacc_queue]
  | stat clear =>
    rw [State.runCommand, runStat_context]
    cases clear <;> rfl

end

/-- The context of a command that has ended is as the command leaves it, but for the queue, of which it was the head. -/
theorem commanded_context {rest : List Nat} (units : o.units = []) (head : (s.context core ctx).queue = id :: rest)
    (once : id ∉ rest) :
    (s.commanded core ctx id o cmd).context core ctx =
      { (s.runCommand core ctx o cmd).context core ctx with queue := rest } := by
  have left : (id :: rest).filter (fun i => decide (i ≠ id)) = rest := by
    rw [List.filter_cons, if_neg (by simp), List.filter_eq_self]
    exact fun i hi => decide_eq_true fun e => once (e ▸ hi)
  rw [State.commanded, State.endCommand_context, State.context_congr (State.commandDone_acc ..), runCommand_queue _ _ _ _ units,
    head, left]

theorem commanded_store : (s.commanded core ctx id o cmd).store = (s.runCommand core ctx o cmd).store := by
  rw [State.commanded, State.endCommand_store, State.commandDone_store]

end

end Sys2Proof.Machine

/-! ## Settling O48 -/

namespace Sys2Proof

open Machine Safety

/-- Settles O48: the command at the head of the queue runs on its context and on the pitch, by the laws of its kind, and leaves
the queue. -/
theorem matrixCommandsExecute : Obligations.MatrixCommandsExecute := by
  intro s core ctx id rest o cmd c head once _ order keys found job units
  refine ⟨_, exec_command head found job, ?_⟩
  rw [commanded_context s core ctx id o cmd units head once]
  intro c' old new adds
  refine ⟨rfl, ?_, ?_, ?_, ?_, ?_⟩
  · rintro mask rfl
    have run := runMzero_context s core ctx mask
    refine ⟨fun k _ => ?_, ?_, ?_⟩
    · exact (congrArg (fun r => r.elems.get k (.fin 0)) run).trans (get_select_unmasked c.elems mask k)
    · exact (congrArg AccContext.poison run :)
    · exact (congrArg AccContext.sticky run :)
  · rintro fmt mask a b d ra rb rfl tiles of rowsA rowsB row sum
    have run := (runMma_adds order keys fmt mask a b d ra rb).withQueue rest
    rw [← runCommand_mma s core ctx units] at run
    exact ⟨run.elem, run.overflow, run.invalid, run.others, run.poison⟩
  · rintro fmt mask subtract src rfl d w read side elem value
    have same : ∀ k, value k = accOf 272 (s.tileElem core fmt d k).1 := fun k =>
      congrArg (accOf 272) (s.tileElem_value core fmt d k).symm
    have run := ((runMacc_adds order keys fmt mask subtract src).congr
      (term' := fun k => if subtract then (value k).negate else value k) (high' := fun k => ∃ n, value k = .beyond n)
      (fun k => by simp only [same, d]) (fun k => by simp only [same, d])
      fun k => (s.tileElem_invalid core fmt d k).symm).withQueue rest
    rw [← runCommand_acc s core ctx units] at run
    exact ⟨run.elem, run.overflow, run.invalid, run.others, run.poison⟩
  · rintro fmt mask mode seed clear dst rfl d w value rounded block written raised
    have run := runDrain_context s core ctx fmt mask mode seed clear dst
    rw [← runCommand_drain s core ctx units] at run
    have pitch : (s.commanded core ctx id o (.drain fmt mask mode seed clear dst)).store.pitch = s.store.pitch.writeAll
        (drainWrites core fmt mode d c.elems (BitVec.ofNat 32 seed) mask) := by
      rw [commanded_store, runCommand_drain s core ctx units, runDrain_pitch]
    have sound : storageOk s = true → s.store.pitch.wf = true := fun h => (Bool.and_eq_true _ _ ▸ h).2
    have sticky : ∀ n, n < 7 → (c'.sticky.getLsbD n = true ↔ c.sticky.getLsbD n = true ∨ _) := fun n hn =>
      (Bool.eq_iff_iff.mp (congrArg (fun r => r.sticky.getLsbD n) run)).trans (getLsbD_drainSticky _ _ hn)
    refine ⟨fun k _ => ?_, (congrArg AccContext.poison run :), fun a outside ok => ?_, fun hm => ⟨fun n hn => ?_, ?_⟩,
      fun hm ok shape _ => ⟨fun plain k hk named => ?_, fun sc behind i b hi hb named => ?_⟩⟩
    · refine (congrArg (fun r => r.elems.get k (.fin 0)) run).trans ?_
      cases clear
      · simp [old, c]
      · simpa using get_select_unmasked c.elems mask k
    · rw [pitch]
      exact Memory.read_writeAll_missed (sound ok) (drainWrites_inside outside)
    · refine (sticky n (by omega)).trans (or_congr Iff.rfl ((collectedFlags (by omega) n).trans ?_))
      dsimp only [raised]
      split
      · next sc => exact drainedFlags_scaled sc n
      · next plain => exact drainedFlags_plain (by omega) (Bool.eq_false_of_not_eq_true plain) n
    · exact Bool.eq_iff_iff.mpr ((sticky 6 (by omega)).trans (by simp [BitVec.getLsbD_of_ge]))
    · dsimp only [written]
      rw [pitch]
      exact readBytes_drained_elem (by omega) (sound ok) shape plain hk named
    · dsimp only [written]
      rw [pitch]
      exact readBytes_drained_block (by omega) (sound ok) shape sc behind hi hb named
  · rintro clear busy l rfl uncounted v
    obtain ⟨landed, fibres⟩ := runStat_landing s o.fibre core ctx clear busy l
    have run := runStat_context s o.fibre core ctx clear busy [l]
    have kept : (s.commanded core ctx id o (.stat clear busy [l])).landings =
        (s.runStat o.fibre core ctx clear busy [l]).landings := State.endCommand_landings (by
          intro p hp
          exact uncounted p (fibres ▸ hp)) core ctx
    refine ⟨⟨s.nextId, kept ▸ landed⟩, ?_, ?_, ?_⟩
    · refine (congrArg AccContext.sticky run).trans ?_
      cases clear <;> rfl
    · refine (congrArg AccContext.elems run).trans ?_
      cases clear <;> rfl
    · refine (congrArg AccContext.poison run).trans ?_
      cases clear <;> rfl

end Sys2Proof
